-- ==== Sys2Proof/Word.lean ====
section
/-! DEFINITION. The word types of the manual (R1, R157, R275): bytes, 32-bit instruction words, and the
field types of instruction words. -/

namespace Sys2Proof

/-- A byte; memory is an array of them, little-endian (R1). -/
abbrev Byte := BitVec 8

/-- An instruction word (R157) or one lane's 32-bit register (R49). -/
abbrev Word32 := BitVec 32

/-- A 64-bit access register, address or scribe register (R49, R275). -/
abbrev Word64 := BitVec 64

/-- The eight-bit operand code of R53. -/
abbrev Code := BitVec 8

/-- The number of an access register in an FM or FX field (R158). -/
abbrev AReg := BitVec 6

/-- The number of a scribe register, generator or loop counter in a scribe word (R288). -/
abbrev KReg := BitVec 4

/-- One value for each of the four lanes of a slice (R8). -/
structure Quad (α : Type) where
  l0 : α
  l1 : α
  l2 : α
  l3 : α
deriving DecidableEq, Repr

end Sys2Proof
end

