-- ==== Sys2Proof/Syntax.lean ====
section
/-! DEFINITION. The syntax: one constructor of `Instr` for each row of spec/opcode_table.json. The rows with a
word are the lane instructions (R170) and the scribe instructions (R288); the other rows are the events that
the device, the host and the fabric perform, with the data that names what happens and where. -/

namespace Sys2Proof

/-- The memory scopes (R15, R159): codes 6 and 7 are no scope. -/
inductive Scope where
  | team | core | cluster | die | dev | sys
deriving DecidableEq, Repr

/-- The orders of a memory instruction (R159). -/
inductive Order where
  | rlx | acq | rel | ar
deriving DecidableEq, Repr

/-- The access widths of FM (R159): 8, 16, 32, 64 and 128 bits. -/
inductive Width where
  | w8 | w16 | w32 | w64 | w128
deriving DecidableEq, Repr

/-- The copy sizes of a lane ACP (R229): 4, 8 and 16 bytes. -/
inductive CopySize where
  | s4 | s8 | s16
deriving DecidableEq, Repr

/-- SEL of SCSTART (R277, R278): either queue, scribe 0, scribe 1. -/
inductive ScribeSel where
  | any | s0 | s1
deriving DecidableEq, Repr

/-- The conditions of KCMP (R289). -/
inductive KCond where
  | eq | ne | ltS | leS | ltU | leU
deriving DecidableEq, Repr

/-- The operations of REDUCE (R297). -/
inductive ReduceOp where
  | addf | addbf | addi | maxf | minf
deriving DecidableEq, Repr

/-- A 64-byte flit as it arrives or leaves (R385): its header fields and the 48 payload bytes. -/
structure Flit where
  typ : BitVec 4
  tc : BitVec 2
  width : BitVec 2
  snode : BitVec 12
  dnode : BitVec 12
  seq : BitVec 16
  ack : BitVec 16
  fidx : BitVec 4
  nflit : BitVec 4
  ord : BitVec 2
  op : BitVec 6
  addr : BitVec 46
  clear : Bool
  payload : List Byte
deriving DecidableEq, Repr

/-- What the destination of a remote request answered (R385, R393): Completion, Read data, or Failure. -/
inductive RemoteReply where
  | completion
  | readData (bytes : List Byte)
  | failure
deriving DecidableEq, Repr

/-- What a write to the service window names (R402, R403, R404, R407, R408): bytes of a firmware slot's image from an offset, a
marker copy, or a register. -/
inductive WindowWrite where
  | slot (b : Bool) (offset : Nat) (bytes : List (BitVec 8))
  | marker (copy : Bool) (val : BitVec 128)
  | reg (offset : Nat) (val : BitVec 64)
deriving DecidableEq, Repr

/-- The write that a power loss interrupts (R407). -/
inductive Torn where
  | slot (b : Bool)
  | marker (copy : Bool)
deriving DecidableEq, Repr

/-- Where stored data comes to hold an uncorrectable error (R272, R334). -/
inductive ErrorPlace where
  | mem (unit : Nat)
  | vreg (k reg : Nat) (lanes : BitVec 4)
  | areg (k reg : Nat) (lanes : BitVec 4)
  | tile (anvil tile : Nat)
  | weight (anvil block : Nat)
  | table (anvil slot : Nat)
deriving DecidableEq, Repr

/-- The rows of spec/opcode_table.json. Slices are named by their key 32 × (16 × core + place) + slice, teams
by 16 × core + place; other identifiers are the model's own serial numbers. -/
inductive Instr where
  /-- IADD (R183). -/
  | iadd (d a b : Code)
  /-- ISUB (R183). -/
  | isub (d a b : Code)
  /-- IMIN_S (R183). -/
  | iminS (d a b : Code)
  /-- IMAX_S (R183). -/
  | imaxS (d a b : Code)
  /-- IMUL (R183). -/
  | imul (d a b : Code)
  /-- IMULH_S (R183). -/
  | imulhS (d a b : Code)
  /-- IMULH_U (R183). -/
  | imulhU (d a b : Code)
  /-- IMAD (R183). -/
  | imad (d a b : Code)
  /-- IMIN_U (R183). -/
  | iminU (d a b : Code)
  /-- IMAX_U (R183). -/
  | imaxU (d a b : Code)
  /-- IABSD_U (R183). -/
  | iabsdU (d a b : Code)
  /-- IAVG_U (R183). -/
  | iavgU (d a b : Code)
  /-- AND (R183). -/
  | band (d a b : Code)
  /-- OR (R183). -/
  | bor (d a b : Code)
  /-- XOR (R183). -/
  | bxor (d a b : Code)
  /-- ANDN (R183). -/
  | bandn (d a b : Code)
  /-- SHL (R184). -/
  | shl (d a b : Code)
  /-- SHR_U (R184). -/
  | shrU (d a b : Code)
  /-- SHR_S (R184). -/
  | shrS (d a b : Code)
  /-- SHRR_S (R184). -/
  | shrrS (d a b : Code)
  /-- ROTL (R184). -/
  | rotl (d a b : Code)
  /-- BFE_U (R185). -/
  | bfeU (d a b : Code)
  /-- BFE_S (R185). -/
  | bfeS (d a b : Code)
  /-- BFI (R185). -/
  | bfi (d a b : Code)
  /-- PRMB (R186). -/
  | prmb (d a b : Code)
  /-- MULW_U (R187). -/
  | mulwU (d a b : Code)
  /-- MULW_S (R187). -/
  | mulwS (d a b : Code)
  /-- IADD64 (R187). -/
  | iadd64 (d a b : Code)
  /-- MOV (R188). -/
  | mov (d a : Code)
  /-- NOT (R188). -/
  | bnot (d a : Code)
  /-- NEG (R188). -/
  | ineg (d a : Code)
  /-- ABS (R188). -/
  | iabs (d a : Code)
  /-- POPC (R188). -/
  | popc (d a : Code)
  /-- CLZ (R188). -/
  | clz (d a : Code)
  /-- CTZ (R188). -/
  | ctz (d a : Code)
  /-- BREV (R188). -/
  | brev (d a : Code)
  /-- SEXT8 (R188). -/
  | sext8 (d a : Code)
  /-- SEXT16 (R188). -/
  | sext16 (d a : Code)
  /-- ZEXT8 (R188). -/
  | zext8 (d a : Code)
  /-- ZEXT16 (R188). -/
  | zext16 (d a : Code)
  /-- BSWAP (R188). -/
  | bswap (d a : Code)
  /-- ICMP_EQ (R189). -/
  | icmpEq (p a b : Code)
  /-- ICMP_NE (R189). -/
  | icmpNe (p a b : Code)
  /-- ICMP_LT_S (R189). -/
  | icmpLtS (p a b : Code)
  /-- ICMP_LE_S (R189). -/
  | icmpLeS (p a b : Code)
  /-- ICMP_LT_U (R189). -/
  | icmpLtU (p a b : Code)
  /-- ICMP_LE_U (R189). -/
  | icmpLeU (p a b : Code)
  /-- TEST (R189). -/
  | test (p a b : Code)
  /-- TESTZ (R189). -/
  | testz (p a b : Code)
  /-- SEL (R190). -/
  | sel (n : BitVec 2) (d a b : Code)
  /-- DOT2_SAT (R191). -/
  | dot2Sat (d a b : Code)
  /-- DOT2_WRAP (R191). -/
  | dot2Wrap (d a b : Code)
  /-- ADD2_SAT (R191). -/
  | add2Sat (d a b : Code)
  /-- SUB2_SAT (R191). -/
  | sub2Sat (d a b : Code)
  /-- MUL2_LO (R191). -/
  | mul2Lo (d a b : Code)
  /-- MAX2_S (R191). -/
  | max2S (d a b : Code)
  /-- MIN2_S (R191). -/
  | min2S (d a b : Code)
  /-- PACK2 (R191). -/
  | pack2 (d a b : Code)
  /-- DOT4_S_SAT (R192). -/
  | dot4SSat (d a b : Code)
  /-- DOT4_U_SAT (R192). -/
  | dot4USat (d a b : Code)
  /-- ADD4_U_SAT (R192). -/
  | add4USat (d a b : Code)
  /-- SUB4_U_SAT (R192). -/
  | sub4USat (d a b : Code)
  /-- SHFL (R194). -/
  | shfl (d a b : Code)
  /-- SLIDEH_DN (R195). -/
  | slidehDn (d a b : Code)
  /-- SLIDEH_UP (R195). -/
  | slidehUp (d a b : Code)
  /-- SLIDEW_DN (R194). -/
  | slidewDn (d a b : Code)
  /-- BALLOT (R196). -/
  | ballot (d a : Code)
  /-- REDADD (R196). -/
  | redadd (d a : Code)
  /-- REDMIN_S (R196). -/
  | redminS (d a : Code)
  /-- REDMAX_S (R196). -/
  | redmaxS (d a : Code)
  /-- FADD (R203). -/
  | fadd (d a b : Code)
  /-- FSUB (R203). -/
  | fsub (d a b : Code)
  /-- FMUL (R203). -/
  | fmul (d a b : Code)
  /-- FFMA (R203). -/
  | ffma (d a b : Code)
  /-- FMIN (R204). -/
  | fmin (d a b : Code)
  /-- FMAX (R204). -/
  | fmax (d a b : Code)
  /-- FMINN (R204). -/
  | fminn (d a b : Code)
  /-- FMAXN (R204). -/
  | fmaxn (d a b : Code)
  /-- FCMP_EQ (R205). -/
  | fcmpEq (p a b : Code)
  /-- FCMP_LT (R205). -/
  | fcmpLt (p a b : Code)
  /-- FCMP_LE (R205). -/
  | fcmpLe (p a b : Code)
  /-- FCMP_UNORD (R205). -/
  | fcmpUnord (p a b : Code)
  /-- DADD (R206). -/
  | dadd (d a b : Code)
  /-- DSUB (R206). -/
  | dsub (d a b : Code)
  /-- DMUL (R206). -/
  | dmul (d a b : Code)
  /-- DFMA (R206). -/
  | dfma (d a b : Code)
  /-- BADD2 (R207). -/
  | badd2 (d a b : Code)
  /-- BMUL2 (R207). -/
  | bmul2 (d a b : Code)
  /-- BFMA2 (R207). -/
  | bfma2 (d a b : Code)
  /-- BMAX2 (R207). -/
  | bmax2 (d a b : Code)
  /-- HADD2 (R207). -/
  | hadd2 (d a b : Code)
  /-- HMUL2 (R207). -/
  | hmul2 (d a b : Code)
  /-- HFMA2 (R207). -/
  | hfma2 (d a b : Code)
  /-- HMAX2 (R207). -/
  | hmax2 (d a b : Code)
  /-- FDOT2_BF (R208). -/
  | fdot2Bf (d a b : Code)
  /-- FDOT2_H (R208). -/
  | fdot2H (d a b : Code)
  /-- FDOT4_E4 (R208). -/
  | fdot4E4 (d a b : Code)
  /-- FDOT4_E5 (R208). -/
  | fdot4E5 (d a b : Code)
  /-- FRCP (R210). -/
  | frcp (d a : Code)
  /-- FRSQ (R210). -/
  | frsq (d a : Code)
  /-- FSQRT (R210). -/
  | fsqrt (d a : Code)
  /-- FEXP2 (R210). -/
  | fexp2 (d a : Code)
  /-- FLOG2 (R210). -/
  | flog2 (d a : Code)
  /-- FSINPI (R210). -/
  | fsinpi (d a : Code)
  /-- FCOSPI (R210). -/
  | fcospi (d a : Code)
  /-- FTANH (R210). -/
  | ftanh (d a : Code)
  /-- FABS (R211). -/
  | fabs (d a : Code)
  /-- FNEG (R211). -/
  | fneg (d a : Code)
  /-- FFLOOR (R212). -/
  | ffloor (d a : Code)
  /-- FCEIL (R212). -/
  | fceil (d a : Code)
  /-- FTRUNC (R212). -/
  | ftrunc (d a : Code)
  /-- FRINT (R212). -/
  | frint (d a : Code)
  /-- FCLASS (R211). -/
  | fclass (d a : Code)
  /-- DSQRT (R210). -/
  | dsqrt (d a : Code)
  /-- DRCP (R210). -/
  | drcp (d a : Code)
  /-- F2I_S (R92). -/
  | f2iS (d a : Code)
  /-- F2I_U (R92). -/
  | f2iU (d a : Code)
  /-- I2F_S (R213). -/
  | i2fS (d a : Code)
  /-- I2F_U (R213). -/
  | i2fU (d a : Code)
  /-- F2D (R213). -/
  | f2d (d a : Code)
  /-- D2F (R213). -/
  | d2f (d a : Code)
  /-- F2BF (R90). -/
  | f2bf (d a : Code)
  /-- BF2F (R213). -/
  | bf2f (d a : Code)
  /-- F2H (R90). -/
  | f2h (d a : Code)
  /-- H2F (R213). -/
  | h2f (d a : Code)
  /-- F2E4 (R90). -/
  | f2e4 (d a : Code)
  /-- F2E5 (R90). -/
  | f2e5 (d a : Code)
  /-- E42F (R213). -/
  | e42f (d a : Code)
  /-- E52F (R213). -/
  | e52f (d a : Code)
  /-- F2E2 (R90). -/
  | f2e2 (d a : Code)
  /-- E22F (R213). -/
  | e22f (d a : Code)
  /-- I2D_S (R213). -/
  | i2dS (d a : Code)
  /-- I2D_U (R213). -/
  | i2dU (d a : Code)
  /-- PACKBF (R214). -/
  | packbf (d a b : Code)
  /-- PACKH (R214). -/
  | packh (d a b : Code)
  /-- INS8_E4 (R215). -/
  | ins8E4 (d a b : Code)
  /-- INS4_E2 (R215). -/
  | ins4E2 (d a b : Code)
  /-- FSCALE (R216). -/
  | fscale (d a b : Code)
  /-- FSIGNC (R217). -/
  | fsignc (d a b : Code)
  /-- ISAT_S16 (R191). -/
  | isatS16 (d a : Code)
  /-- MOVI (R197). -/
  | movi (d : Code) (i : BitVec 16)
  /-- MOVHI (R197). -/
  | movhi (d : Code) (i : BitVec 16)
  /-- ADDI (R197). -/
  | addi (d : Code) (i : BitVec 16)
  /-- MULI (R197). -/
  | muli (d : Code) (i : BitVec 16)
  /-- MFSR (R198). -/
  | mfsr (d : Code) (r : BitVec 16)
  /-- MTSR (R198). -/
  | mtsr (s : Code) (r : BitVec 16)
  /-- IF (R199). -/
  | ifP (p : BitVec 3) (n : Bool)
  /-- ELSE (R199). -/
  | elseP
  /-- ENDIF (R199). -/
  | endif
  /-- LD (R223). -/
  | ld (d : Code) (b : AReg) (sc : Scope) (o : Order) (w : Width)
  /-- LD_BC (R223). -/
  | ldBc (d : Code) (b : AReg) (sc : Scope) (o : Order) (w : Width)
  /-- PREF (R223). -/
  | pref (b : AReg) (sc : Scope) (w : Width)
  /-- ST (R224). -/
  | st (d : Code) (b : AReg) (sc : Scope) (o : Order) (w : Width)
  /-- ST_NT (R224). -/
  | stNt (d : Code) (b : AReg) (sc : Scope) (o : Order) (w : Width)
  /-- AADD (R225). -/
  | aadd (d : Code) (b : AReg) (sc : Scope) (o : Order) (w : Width) (nr : Bool)
  /-- AAND (R225). -/
  | aand (d : Code) (b : AReg) (sc : Scope) (o : Order) (w : Width) (nr : Bool)
  /-- AOR (R225). -/
  | aor (d : Code) (b : AReg) (sc : Scope) (o : Order) (w : Width) (nr : Bool)
  /-- AXOR (R225). -/
  | axor (d : Code) (b : AReg) (sc : Scope) (o : Order) (w : Width) (nr : Bool)
  /-- AMIN_S (R225). -/
  | aminS (d : Code) (b : AReg) (sc : Scope) (o : Order) (w : Width) (nr : Bool)
  /-- AMAX_S (R225). -/
  | amaxS (d : Code) (b : AReg) (sc : Scope) (o : Order) (w : Width) (nr : Bool)
  /-- AMIN_U (R225). -/
  | aminU (d : Code) (b : AReg) (sc : Scope) (o : Order) (w : Width) (nr : Bool)
  /-- AMAX_U (R225). -/
  | amaxU (d : Code) (b : AReg) (sc : Scope) (o : Order) (w : Width) (nr : Bool)
  /-- AXCHG (R225). -/
  | axchg (d : Code) (b : AReg) (sc : Scope) (o : Order) (w : Width) (nr : Bool)
  /-- ACAS (R226). -/
  | acas (d : Code) (b : AReg) (sc : Scope) (o : Order) (w : Width) (nr : Bool)
  /-- AFADD_F32 (R226). -/
  | afaddF32 (d : Code) (b : AReg) (sc : Scope) (o : Order) (nr : Bool)
  /-- AFADD_BF2 (R226). -/
  | afaddBf2 (d : Code) (b : AReg) (sc : Scope) (o : Order) (nr : Bool)
  /-- ACP_G2S (R230). -/
  | acpG2s (t src dst : AReg) (z : CopySize) (arv : Bool)
  /-- ACP_S2G (R230). -/
  | acpS2g (t src dst : AReg) (z : CopySize) (arv : Bool)
  /-- ACP_S2S (R230). -/
  | acpS2s (t src dst : AReg) (z : CopySize) (arv : Bool)
  /-- LDX (R227). -/
  | ldx (d : Code) (b : AReg) (sc : Scope) (o : Order) (w : Width) (c : BitVec 2)
  /-- LDDESC (R228). -/
  | lddesc (d : Code) (b : AReg) (sc : Scope) (o : Order)
  /-- STDESC (R228). -/
  | stdesc (d : Code) (b : AReg) (sc : Scope) (o : Order)
  /-- FENCE (R232). -/
  | fence (sc : Scope) (o : Order)
  /-- XFENCE (R233). -/
  | xfence (wm rm : BitVec 6)
  /-- WAITADDR (R234). -/
  | waitaddr (d : Code) (b : AReg) (sc : Scope) (o : Order) (w : Width)
  /-- BRA_ANY (R236). -/
  | braAny (p : BitVec 3) (n : Bool) (o : BitVec 20)
  /-- BRA_ALL (R236). -/
  | braAll (p : BitVec 3) (n : Bool) (o : BitVec 20)
  /-- CALL (R237). -/
  | call (o : BitVec 20)
  /-- JMP (R236). -/
  | jmp (o : BitVec 20)
  /-- RET (R237). -/
  | ret
  /-- BRX (R238). -/
  | brx (a : Code)
  /-- MERGE (R30). -/
  | merge (i : BitVec 16)
  /-- YIELD (R240). -/
  | yield
  /-- BAR (R241). -/
  | bar (s : BitVec 5)
  /-- QBAR (R241). -/
  | qbar (s : BitVec 5)
  /-- ARRIVE (R244). -/
  | arrive (a c : Code) (sc : Scope)
  /-- WAITCNT (R245). -/
  | waitcnt (l s c t : BitVec 6)
  /-- SLEEPUNTIL (R246). -/
  | sleepuntil (c : AReg)
  /-- SLEEPUNTIL_BAR (R246). -/
  | sleepuntilBar (c b : AReg)
  /-- REGION (R247). -/
  | region
  /-- TRAP (R248). -/
  | trapOp (c : BitVec 16)
  /-- EXIT (R249). -/
  | exit
  /-- MXLOOP (R255). -/
  | mxloop (c : AReg)
  /-- MXLDB (R268). -/
  | mxldb (w s c : AReg)
  /-- MXST (R269). -/
  | mxst (t : BitVec 3) (d : AReg)
  /-- MXLDT (R269). -/
  | mxldt (t : BitVec 3) (s : AReg)
  /-- SCSTART (R278). -/
  | scstart (h p a : AReg) (sel : ScribeSel) (res : Bool)
  /-- SCPOLL (R282). -/
  | scpoll (d h : AReg)
  /-- RFLUSH (R287). -/
  | rflush (r : AReg)
  /-- SCCANCEL (R283). -/
  | sccancel (h : AReg)
  /-- ERET (R330). -/
  | eret (s : AReg)
  /-- RDSL (R329). -/
  | rdsl (d s : AReg)
  /-- WRSL (R329). -/
  | wrsl (s r : AReg)
  /-- FOLDCTL (R344). -/
  | foldctl (d r : AReg)
  /-- HINT_IMM (R164). -/
  | hintImm (i : BitVec 24)
  /-- HINT_GUARD (R165). -/
  | hintGuard (p : BitVec 3) (n : Bool) (l : BitVec 4)
  /-- HINT_MOD (R166). -/
  | hintMod (r : BitVec 3) (s la lb : Bool)
  /-- HINT_SCHED (R167). -/
  | hintSched (s : BitVec 24)
  /-- KMOVI (R289). -/
  | kmovi (d : KReg) (i : BitVec 14)
  /-- KMOVHI (R289). -/
  | kmovhi (d : KReg) (i : BitVec 14)
  /-- KADD (R289). -/
  | kadd (d a b : KReg)
  /-- KSUB (R289). -/
  | ksub (d a b : KReg)
  /-- KMUL (R289). -/
  | kmul (d a b : KReg)
  /-- KSHL (R289). -/
  | kshl (d a b : KReg)
  /-- KSHR (R289). -/
  | kshr (d a b : KReg)
  /-- KAND (R289). -/
  | kand (d a b : KReg)
  /-- KOR (R289). -/
  | kor (d a b : KReg)
  /-- KADDI (R289). -/
  | kaddi (d a : KReg) (i : BitVec 14)
  /-- KCMP (R289). -/
  | kcmp (d a b : KReg) (c : KCond)
  /-- KLD (R290). -/
  | kld (d a : KReg) (e : BitVec 14)
  /-- KST (R290). -/
  | kst (a b : KReg) (e : BitVec 14)
  /-- BR (R291). -/
  | kbr (o : BitVec 26)
  /-- BRC (R291). -/
  | kbrc (d : KReg) (o : BitVec 22)
  /-- LOOP (R292). -/
  | kloop (n a : KReg) (i : BitVec 14)
  /-- ENDLOOP (R292). -/
  | kendloop (n : KReg)
  /-- GSET (R293). -/
  | gset (n a : KReg)
  /-- GSTEP (R293). -/
  | gstep (d n : KReg) (x : BitVec 3)
  /-- GADDR (R293). -/
  | gaddr (d n : KReg)
  /-- LINE (R295). -/
  | line (d a : KReg) (n : BitVec 14)
  /-- GATHER (R295). -/
  | gather (d a g : KReg) (n : BitVec 14)
  /-- SCATTER (R295). -/
  | scatter (g a b : KReg) (n : BitVec 14)
  /-- REDUCE (R297). -/
  | reduce (d a : KReg) (op : ReduceOp) (n : BitVec 11)
  /-- CONVERT (R298). -/
  | convert (gd gs : KReg) (c : BitVec 8)
  /-- SCRIBE_ARRIVE (R300). -/
  | scribeArrive (a b : KReg)
  /-- WAITB (R300). -/
  | waitb (a b : KReg)
  /-- SFENCE (R300). -/
  | sfence (wm rm : BitVec 6)
  /-- SIGNAL (R300). -/
  | signal (a b : KReg) (sc : Scope)
  /-- SCRIBE_REGION (R301). -/
  | scribeRegion
  /-- END (R301). -/
  | scribeEnd
  /-- SCRIBE_PROGRAM_END (R301). -/
  | scribeProgramEnd (n ctx : Nat)
  /-- SCRIBE_PROGRAM_START (R281). -/
  | scribeProgramStart (n : Nat)
  /-- LINE_OPERATION (R296). -/
  | lineOperation (n ctx : Nat)
  /-- SCRIBE_LONG (R301). -/
  | scribeLong
  /-- WAITB_WAKE (R300). -/
  | waitbWake (n ctx : Nat)
  /-- ANVIL_GRANT (R251). -/
  | anvilGrant (n : Nat)
  /-- ANVIL_PASS_COMMIT (R272). -/
  | anvilPassCommit (n : Nat)
  /-- ANVIL_REQUEST_COMPLETE (R270). -/
  | anvilRequestComplete (n : Nat)
  /-- LOAD_FILL (R111). -/
  | loadFill (id : Nat)
  /-- STORE_PERFORMED (R134). -/
  | storePerformed (id : Nat)
  /-- ACP_COMPLETE (R231). -/
  | acpComplete (id : Nat)
  /-- WAITADDR_WAKE (R234). -/
  | waitaddrWake (k : Nat)
  /-- SLEEPUNTIL_WAKE (R246). -/
  | sleepuntilWake (k : Nat)
  /-- TRAP_INVOCATION (R323). -/
  | trapInvocation (core : Nat)
  /-- STREAM_DEADLOCK (R27). -/
  | streamDeadlock (k : Nat)
  /-- BAR_MISMATCH (R242). -/
  | barMismatch (t : Nat)
  /-- WATCHDOG (R332). -/
  | watchdog (t : Nat)
  /-- PAGE_WALK (R358). -/
  | pageWalk (id : Nat)
  /-- PAGE_REQUEST (R361). -/
  | pageRequest (id : Nat)
  /-- PAGE_REQUEST_TIMEOUT (R363). -/
  | pageRequestTimeout (id : Nat)
  /-- REGISTER_REFILL (R42). -/
  | registerRefill (k : Nat) (acc : Bool) (reg : Nat)
  /-- SCRATCH_PAGE_RETURN (R106). -/
  | scratchPageReturn (t page : Nat)
  /-- REGISTER_SWAP_OUT (R48). -/
  | registerSwapOut (k : Nat)
  /-- REGISTER_SWAP_IN (R48). -/
  | registerSwapIn (k : Nat)
  /-- REGISTER_AGEING (R40). -/
  | registerAgeing (k : Nat) (acc : Bool)
  /-- UNIT_REMAP (R39). -/
  | unitRemap (t : Nat)
  /-- RESIDENCY_EXPANSION (R47). -/
  | residencyExpansion (core : Nat)
  /-- FOLD_REQUEST (R345). -/
  | foldRequest (core : Nat) (req : BitVec 64)
  /-- TEAM_PLACEMENT (R19). -/
  | teamPlacement (l : Nat)
  /-- QUANTUM_EXPIRY (R347). -/
  | quantumExpiry (c cluster : Nat)
  /-- FORCED_EVICTION (R349). -/
  | forcedEviction (q : Nat)
  /-- QUIRE_SAVE (R350). -/
  | quireSave (q : Nat)
  /-- QUIRE_RESUME (R353). -/
  | quireResume (q : Nat)
  /-- KILL_AND_RESET (R354). -/
  | killAndReset (l : Nat)
  /-- NOP (R377). -/
  | nopPacket (p : Nat)
  /-- LAUNCH (R377). -/
  | launchPacket (p : Nat)
  /-- WAIT (R377). -/
  | waitPacket (p : Nat)
  /-- WAIT_SATISFIED (R377). -/
  | waitSatisfied (p : Nat)
  /-- WRITE (R377). -/
  | writePacket (p : Nat)
  /-- CONTEXT_RECORD_CONFIG (R338). -/
  | contextRecordConfig (p : Nat)
  /-- VDEV_RECORD_CONFIG (R367). -/
  | vdevRecordConfig (p : Nat)
  /-- RING_RECORD_CONFIG (R372). -/
  | ringRecordConfig (p : Nat)
  /-- PARTITION_RECORD_CONFIG (R365). -/
  | partitionRecordConfig (p : Nat)
  /-- DESTINATION_ENTRY_CONFIG (R387). -/
  | destinationEntryConfig (p : Nat)
  /-- FABRIC_RECORD_CONFIG (R384). -/
  | fabricRecordConfig (p : Nat)
  /-- MSIX_ENTRIES_CONFIG (R381). -/
  | msixEntriesConfig (p : Nat)
  /-- PAGE_RESPONSE (R363). -/
  | pageResponsePacket (p : Nat)
  /-- INVALIDATE (R360). -/
  | invalidatePacket (p : Nat)
  /-- INVALIDATION_COMPLETE (R360). -/
  | invalidationComplete (p : Nat)
  /-- INVALID_PACKET (R379). -/
  | invalidPacket (p : Nat)
  /-- RING_PACKET_READ (R374). -/
  | ringPacketRead (v ring : Nat)
  /-- PACKET_COMPLETION (R378). -/
  | packetCompletion (p : Nat)
  /-- COALESCING_TIMEOUT (R382). -/
  | coalescingTimeout (v vec : Nat)
  /-- DOORBELL_TAIL (R373). -/
  | doorbellTail (v ring : Nat) (val : BitVec 32)
  /-- PRQCONS (R362). -/
  | prqcons (v : Nat) (val : BitVec 32)
  /-- EVCONS (R384). -/
  | evcons (val : BitVec 32)
  /-- ADMIN_RING_RECORD (R402). -/
  | adminRingRecord (rec : BitVec 512)
  /-- REGISTER_WRITE (R3). -/
  | registerWrite (w : WindowWrite)
  /-- TOKEN_REFILL (R368). -/
  | tokenRefill
  /-- FLIT_RECEIVE (R389). -/
  | flitReceive (port : Nat) (f : Flit)
  /-- ACK_RECEIVE (R388). -/
  | ackReceive (node tc : Nat) (ack : BitVec 16)
  /-- REMOTE_RESPONSE (R392). -/
  | remoteResponse (id : Nat) (r : RemoteReply)
  /-- LINK_DOWN (R390). -/
  | linkDown (port : Nat)
  /-- ACK_TIMEOUT (R390). -/
  | ackTimeout (part node tc : Nat)
  /-- ROUTE_WAIT_TIMEOUT (R391). -/
  | routeWaitTimeout (part node tc : Nat)
  /-- POWER_ON (R403). -/
  | powerOn (plan : List (Nat × BitVec 3))
  /-- COLD_START (R403). -/
  | coldStart (plan : List (Nat × BitVec 3))
  /-- WARM_START (R403). -/
  | warmStart (plan : List (Nat × BitVec 3))
  /-- UNIT_READY (R400). -/
  | unitReady (bit : Nat)
  /-- RETRAIN (R408). -/
  | retrain (val : BitVec 32)
  /-- RETRAINING_START (R370). -/
  | retrainingStart (stack : Nat)
  /-- RETRAINING_END (R408). -/
  | retrainingEnd (stack : Nat)
  /-- MARGIN_RESOLVE (R409). -/
  | marginResolve (plan : List (Nat × BitVec 3))
  /-- FETCH_RANGE (R157). -/
  | fetchRange
  /-- ILLEGAL_OP (R177). -/
  | illegalOp
  /-- ILLEGAL (R288). -/
  | scribeIllegal
  /-- UNCORRECTABLE_ERROR (R334). -/
  | uncorrectableError (e : ErrorPlace)
  /-- POWER_LOSS (R407). -/
  | powerLoss (torn : Option Torn)
  /-- LINK_UP (R391). -/
  | linkUp (port : Nat)
  /-- POWER_LIMIT (R16). -/
  | powerLimit (clusters : List Nat)
  /-- DRAIN_BOUND_EXPIRY (R350). -/
  | drainBoundExpiry (q : Nat)
deriving DecidableEq, Repr

end Sys2Proof
end

