-- ==== Sys2Proof/WellFormed.lean ====
section
/-! DEFINITION. Well-formed instructions: the field values that an encoding admits beyond the type of the field.
A word whose instruction is not well-formed is rejected by the decoder (R159, R177, R288 to R301). -/

namespace Sys2Proof

/-- LD, LD.BC, LDX, LDDESC and WAITADDR accept rlx and acq (R159). -/
def Order.forRead : Order → Bool
  | .rlx | .acq => true
  | _ => false

/-- ST, ST.NT and STDESC accept rlx and rel (R159). -/
def Order.forWrite : Order → Bool
  | .rlx | .rel => true
  | _ => false

/-- The integer atomics accept 32 and 64 bits (R225). -/
def Width.forAtomic : Width → Bool
  | .w32 | .w64 => true
  | _ => false

/-- WAITADDR accepts 8 to 64 bits (R159, R234). -/
def Width.forWait : Width → Bool
  | .w128 => false
  | _ => true

/-- SIGNAL names the scopes cluster to sys (R300). -/
def Scope.forSignal : Scope → Bool
  | .team | .core => false
  | _ => true

/-- The field values the manual admits for each instruction; an event is judged by no encoding. -/
def wellFormed (i : Instr) : Bool :=
  match i with
  | .ld _ _ _ o _ | .ldBc _ _ _ o _ | .ldx _ _ _ o _ _ | .lddesc _ _ _ o => o.forRead
  | .waitaddr _ _ _ o w => o.forRead && w.forWait
  | .st _ _ _ o _ | .stNt _ _ _ o _ | .stdesc _ _ _ o => o.forWrite
  | .aadd _ _ _ _ w _ | .aand _ _ _ _ w _ | .aor _ _ _ _ w _ | .axor _ _ _ _ w _
  | .aminS _ _ _ _ w _ | .amaxS _ _ _ _ w _ | .aminU _ _ _ _ w _ | .amaxU _ _ _ _ w _
  | .axchg _ _ _ _ w _ | .acas _ _ _ _ w _ => w.forAtomic
  | .kloop n _ i => decide (n.toNat < 4) && decide (i ≠ 0)
  | .kendloop n => decide (n.toNat < 4)
  | .gset n _ => decide (n.toNat < 4)
  | .gstep _ n _ => decide (n.toNat < 4)
  | .gaddr _ n => decide (n.toNat < 4)
  | .line _ _ n => decide (n ≠ 0)
  | .gather _ _ g n => decide (g.toNat < 4) && decide (n ≠ 0)
  | .scatter g _ _ n => decide (g.toNat < 4) && decide (n ≠ 0)
  | .reduce _ _ _ n => decide (n ≠ 0)
  | .convert gd gs _ => decide (gd.toNat < 4) && decide (gs.toNat < 4)
  | .signal _ _ sc => sc.forSignal
  | _ => true

end Sys2Proof
end

