-- ==== Sys2Proof/Decode.lean ====
section
/-! DEFINITION. The decoders and the encoder. The lane decoder reads the words of both streams and of the trap
context (R157 to R174), the scribe decoder those of scribe programs (R288 to R301). Each is total and rejects a
word by a named reason. The two share the 32-bit space, so the agent that fetches a word decides which reads it. -/

namespace Sys2Proof

/-- The codes of R15, R159; a reserved code is none. -/
def Scope.ofBits (x : BitVec 3) : Option Scope :=
  match x.toNat with
  | 0 => some .team
  | 1 => some .core
  | 2 => some .cluster
  | 3 => some .die
  | 4 => some .dev
  | 5 => some .sys
  | _ => none

/-- The code of each value (R15, R159). -/
def Scope.bits : Scope → BitVec 3
  | .team => 0
  | .core => 1
  | .cluster => 2
  | .die => 3
  | .dev => 4
  | .sys => 5

/-- The codes of R159; a reserved code is none. -/
def Order.ofBits (x : BitVec 2) : Option Order :=
  match x.toNat with
  | 0 => some .rlx
  | 1 => some .acq
  | 2 => some .rel
  | 3 => some .ar
  | _ => none

/-- The code of each value (R159). -/
def Order.bits : Order → BitVec 2
  | .rlx => 0
  | .acq => 1
  | .rel => 2
  | .ar => 3

/-- The codes of R159; a reserved code is none. -/
def Width.ofBits (x : BitVec 3) : Option Width :=
  match x.toNat with
  | 0 => some .w8
  | 1 => some .w16
  | 2 => some .w32
  | 3 => some .w64
  | 4 => some .w128
  | _ => none

/-- The code of each value (R159). -/
def Width.bits : Width → BitVec 3
  | .w8 => 0
  | .w16 => 1
  | .w32 => 2
  | .w64 => 3
  | .w128 => 4

/-- The codes of R229; a reserved code is none. -/
def CopySize.ofBits (x : BitVec 2) : Option CopySize :=
  match x.toNat with
  | 0 => some .s4
  | 1 => some .s8
  | 2 => some .s16
  | _ => none

/-- The code of each value (R229). -/
def CopySize.bits : CopySize → BitVec 2
  | .s4 => 0
  | .s8 => 1
  | .s16 => 2

/-- The codes of R277; a reserved code is none. -/
def ScribeSel.ofBits (x : BitVec 2) : Option ScribeSel :=
  match x.toNat with
  | 0 => some .any
  | 1 => some .s0
  | 2 => some .s1
  | _ => none

/-- The code of each value (R277). -/
def ScribeSel.bits : ScribeSel → BitVec 2
  | .any => 0
  | .s0 => 1
  | .s1 => 2

/-- The codes of R289; a reserved code is none. -/
def KCond.ofBits (x : BitVec 3) : Option KCond :=
  match x.toNat with
  | 0 => some .eq
  | 1 => some .ne
  | 2 => some .ltS
  | 3 => some .leS
  | 4 => some .ltU
  | 5 => some .leU
  | _ => none

/-- The code of each value (R289). -/
def KCond.bits : KCond → BitVec 3
  | .eq => 0
  | .ne => 1
  | .ltS => 2
  | .leS => 3
  | .ltU => 4
  | .leU => 5

/-- The codes of R297; a reserved code is none. -/
def ReduceOp.ofBits (x : BitVec 3) : Option ReduceOp :=
  match x.toNat with
  | 0 => some .addf
  | 1 => some .addbf
  | 2 => some .addi
  | 3 => some .maxf
  | 4 => some .minf
  | _ => none

/-- The code of each value (R297). -/
def ReduceOp.bits : ReduceOp → BitVec 3
  | .addf => 0
  | .addbf => 1
  | .addi => 2
  | .maxf => 3
  | .minf => 4

/-- The functions of R172: a code not listed is ILLEGAL_OP. -/
def decodeIunary (code : Nat) (iw : Word32) : Option Instr :=
  match code with
  | 0x0 => some (.mov (iw.extractLsb' 16 8) (iw.extractLsb' 8 8))
  | 0x1 => some (.bnot (iw.extractLsb' 16 8) (iw.extractLsb' 8 8))
  | 0x2 => some (.ineg (iw.extractLsb' 16 8) (iw.extractLsb' 8 8))
  | 0x3 => some (.iabs (iw.extractLsb' 16 8) (iw.extractLsb' 8 8))
  | 0x4 => some (.popc (iw.extractLsb' 16 8) (iw.extractLsb' 8 8))
  | 0x5 => some (.clz (iw.extractLsb' 16 8) (iw.extractLsb' 8 8))
  | 0x6 => some (.ctz (iw.extractLsb' 16 8) (iw.extractLsb' 8 8))
  | 0x7 => some (.brev (iw.extractLsb' 16 8) (iw.extractLsb' 8 8))
  | 0x8 => some (.sext8 (iw.extractLsb' 16 8) (iw.extractLsb' 8 8))
  | 0x9 => some (.sext16 (iw.extractLsb' 16 8) (iw.extractLsb' 8 8))
  | 0xa => some (.zext8 (iw.extractLsb' 16 8) (iw.extractLsb' 8 8))
  | 0xb => some (.zext16 (iw.extractLsb' 16 8) (iw.extractLsb' 8 8))
  | 0xc => some (.bswap (iw.extractLsb' 16 8) (iw.extractLsb' 8 8))
  | _ => none

/-- The functions of R173: a code not listed is ILLEGAL_OP. -/
def decodeFunary (code : Nat) (iw : Word32) : Option Instr :=
  match code with
  | 0x0 => some (.frcp (iw.extractLsb' 16 8) (iw.extractLsb' 8 8))
  | 0x1 => some (.frsq (iw.extractLsb' 16 8) (iw.extractLsb' 8 8))
  | 0x2 => some (.fsqrt (iw.extractLsb' 16 8) (iw.extractLsb' 8 8))
  | 0x3 => some (.fexp2 (iw.extractLsb' 16 8) (iw.extractLsb' 8 8))
  | 0x4 => some (.flog2 (iw.extractLsb' 16 8) (iw.extractLsb' 8 8))
  | 0x5 => some (.fsinpi (iw.extractLsb' 16 8) (iw.extractLsb' 8 8))
  | 0x6 => some (.fcospi (iw.extractLsb' 16 8) (iw.extractLsb' 8 8))
  | 0x7 => some (.ftanh (iw.extractLsb' 16 8) (iw.extractLsb' 8 8))
  | 0x8 => some (.fabs (iw.extractLsb' 16 8) (iw.extractLsb' 8 8))
  | 0x9 => some (.fneg (iw.extractLsb' 16 8) (iw.extractLsb' 8 8))
  | 0xa => some (.ffloor (iw.extractLsb' 16 8) (iw.extractLsb' 8 8))
  | 0xb => some (.fceil (iw.extractLsb' 16 8) (iw.extractLsb' 8 8))
  | 0xc => some (.ftrunc (iw.extractLsb' 16 8) (iw.extractLsb' 8 8))
  | 0xd => some (.frint (iw.extractLsb' 16 8) (iw.extractLsb' 8 8))
  | 0xe => some (.fclass (iw.extractLsb' 16 8) (iw.extractLsb' 8 8))
  | 0x10 => some (.dsqrt (iw.extractLsb' 16 8) (iw.extractLsb' 8 8))
  | 0x11 => some (.drcp (iw.extractLsb' 16 8) (iw.extractLsb' 8 8))
  | _ => none

/-- The functions of R174: a code not listed is ILLEGAL_OP. -/
def decodeCvt (code : Nat) (iw : Word32) : Option Instr :=
  match code with
  | 0x0 => some (.f2iS (iw.extractLsb' 16 8) (iw.extractLsb' 8 8))
  | 0x1 => some (.f2iU (iw.extractLsb' 16 8) (iw.extractLsb' 8 8))
  | 0x2 => some (.i2fS (iw.extractLsb' 16 8) (iw.extractLsb' 8 8))
  | 0x3 => some (.i2fU (iw.extractLsb' 16 8) (iw.extractLsb' 8 8))
  | 0x4 => some (.f2d (iw.extractLsb' 16 8) (iw.extractLsb' 8 8))
  | 0x5 => some (.d2f (iw.extractLsb' 16 8) (iw.extractLsb' 8 8))
  | 0x6 => some (.f2bf (iw.extractLsb' 16 8) (iw.extractLsb' 8 8))
  | 0x7 => some (.bf2f (iw.extractLsb' 16 8) (iw.extractLsb' 8 8))
  | 0x8 => some (.f2h (iw.extractLsb' 16 8) (iw.extractLsb' 8 8))
  | 0x9 => some (.h2f (iw.extractLsb' 16 8) (iw.extractLsb' 8 8))
  | 0xa => some (.f2e4 (iw.extractLsb' 16 8) (iw.extractLsb' 8 8))
  | 0xb => some (.f2e5 (iw.extractLsb' 16 8) (iw.extractLsb' 8 8))
  | 0xc => some (.e42f (iw.extractLsb' 16 8) (iw.extractLsb' 8 8))
  | 0xd => some (.e52f (iw.extractLsb' 16 8) (iw.extractLsb' 8 8))
  | 0xe => some (.f2e2 (iw.extractLsb' 16 8) (iw.extractLsb' 8 8))
  | 0xf => some (.e22f (iw.extractLsb' 16 8) (iw.extractLsb' 8 8))
  | 0x10 => some (.i2dS (iw.extractLsb' 16 8) (iw.extractLsb' 8 8))
  | 0x11 => some (.i2dU (iw.extractLsb' 16 8) (iw.extractLsb' 8 8))
  | _ => none

/-- The instruction that a lane word's fields name (R158, R170), before the field values of R159 are judged. -/
def decodeLaneRaw (iw : Word32) : Option Instr :=
  match (iw.extractLsb' 24 8).toNat with
  | 0x0 => some (.iadd (iw.extractLsb' 16 8) (iw.extractLsb' 8 8) (iw.extractLsb' 0 8))
  | 0x1 => some (.isub (iw.extractLsb' 16 8) (iw.extractLsb' 8 8) (iw.extractLsb' 0 8))
  | 0x2 => some (.iminS (iw.extractLsb' 16 8) (iw.extractLsb' 8 8) (iw.extractLsb' 0 8))
  | 0x3 => some (.imaxS (iw.extractLsb' 16 8) (iw.extractLsb' 8 8) (iw.extractLsb' 0 8))
  | 0x4 => some (.imul (iw.extractLsb' 16 8) (iw.extractLsb' 8 8) (iw.extractLsb' 0 8))
  | 0x5 => some (.imulhS (iw.extractLsb' 16 8) (iw.extractLsb' 8 8) (iw.extractLsb' 0 8))
  | 0x6 => some (.imulhU (iw.extractLsb' 16 8) (iw.extractLsb' 8 8) (iw.extractLsb' 0 8))
  | 0x7 => some (.imad (iw.extractLsb' 16 8) (iw.extractLsb' 8 8) (iw.extractLsb' 0 8))
  | 0x8 => some (.iminU (iw.extractLsb' 16 8) (iw.extractLsb' 8 8) (iw.extractLsb' 0 8))
  | 0x9 => some (.imaxU (iw.extractLsb' 16 8) (iw.extractLsb' 8 8) (iw.extractLsb' 0 8))
  | 0xa => some (.iabsdU (iw.extractLsb' 16 8) (iw.extractLsb' 8 8) (iw.extractLsb' 0 8))
  | 0xb => some (.iavgU (iw.extractLsb' 16 8) (iw.extractLsb' 8 8) (iw.extractLsb' 0 8))
  | 0xc => some (.band (iw.extractLsb' 16 8) (iw.extractLsb' 8 8) (iw.extractLsb' 0 8))
  | 0xd => some (.bor (iw.extractLsb' 16 8) (iw.extractLsb' 8 8) (iw.extractLsb' 0 8))
  | 0xe => some (.bxor (iw.extractLsb' 16 8) (iw.extractLsb' 8 8) (iw.extractLsb' 0 8))
  | 0xf => some (.bandn (iw.extractLsb' 16 8) (iw.extractLsb' 8 8) (iw.extractLsb' 0 8))
  | 0x10 => some (.shl (iw.extractLsb' 16 8) (iw.extractLsb' 8 8) (iw.extractLsb' 0 8))
  | 0x11 => some (.shrU (iw.extractLsb' 16 8) (iw.extractLsb' 8 8) (iw.extractLsb' 0 8))
  | 0x12 => some (.shrS (iw.extractLsb' 16 8) (iw.extractLsb' 8 8) (iw.extractLsb' 0 8))
  | 0x13 => some (.shrrS (iw.extractLsb' 16 8) (iw.extractLsb' 8 8) (iw.extractLsb' 0 8))
  | 0x14 => some (.rotl (iw.extractLsb' 16 8) (iw.extractLsb' 8 8) (iw.extractLsb' 0 8))
  | 0x15 => some (.bfeU (iw.extractLsb' 16 8) (iw.extractLsb' 8 8) (iw.extractLsb' 0 8))
  | 0x16 => some (.bfeS (iw.extractLsb' 16 8) (iw.extractLsb' 8 8) (iw.extractLsb' 0 8))
  | 0x17 => some (.bfi (iw.extractLsb' 16 8) (iw.extractLsb' 8 8) (iw.extractLsb' 0 8))
  | 0x18 => some (.prmb (iw.extractLsb' 16 8) (iw.extractLsb' 8 8) (iw.extractLsb' 0 8))
  | 0x19 => some (.mulwU (iw.extractLsb' 16 8) (iw.extractLsb' 8 8) (iw.extractLsb' 0 8))
  | 0x1a => some (.mulwS (iw.extractLsb' 16 8) (iw.extractLsb' 8 8) (iw.extractLsb' 0 8))
  | 0x1b => some (.iadd64 (iw.extractLsb' 16 8) (iw.extractLsb' 8 8) (iw.extractLsb' 0 8))
  | 0x1c => decodeIunary (iw.extractLsb' 0 8).toNat iw
  | 0x20 => some (.icmpEq (iw.extractLsb' 16 8) (iw.extractLsb' 8 8) (iw.extractLsb' 0 8))
  | 0x21 => some (.icmpNe (iw.extractLsb' 16 8) (iw.extractLsb' 8 8) (iw.extractLsb' 0 8))
  | 0x22 => some (.icmpLtS (iw.extractLsb' 16 8) (iw.extractLsb' 8 8) (iw.extractLsb' 0 8))
  | 0x23 => some (.icmpLeS (iw.extractLsb' 16 8) (iw.extractLsb' 8 8) (iw.extractLsb' 0 8))
  | 0x24 => some (.icmpLtU (iw.extractLsb' 16 8) (iw.extractLsb' 8 8) (iw.extractLsb' 0 8))
  | 0x25 => some (.icmpLeU (iw.extractLsb' 16 8) (iw.extractLsb' 8 8) (iw.extractLsb' 0 8))
  | 0x26 => some (.test (iw.extractLsb' 16 8) (iw.extractLsb' 8 8) (iw.extractLsb' 0 8))
  | 0x27 => some (.testz (iw.extractLsb' 16 8) (iw.extractLsb' 8 8) (iw.extractLsb' 0 8))
  | 0x28 => some (.sel (iw.extractLsb' 24 2) (iw.extractLsb' 16 8) (iw.extractLsb' 8 8) (iw.extractLsb' 0 8))
  | 0x29 => some (.sel (iw.extractLsb' 24 2) (iw.extractLsb' 16 8) (iw.extractLsb' 8 8) (iw.extractLsb' 0 8))
  | 0x2a => some (.sel (iw.extractLsb' 24 2) (iw.extractLsb' 16 8) (iw.extractLsb' 8 8) (iw.extractLsb' 0 8))
  | 0x2b => some (.sel (iw.extractLsb' 24 2) (iw.extractLsb' 16 8) (iw.extractLsb' 8 8) (iw.extractLsb' 0 8))
  | 0x2c => some (.dot2Sat (iw.extractLsb' 16 8) (iw.extractLsb' 8 8) (iw.extractLsb' 0 8))
  | 0x2d => some (.dot2Wrap (iw.extractLsb' 16 8) (iw.extractLsb' 8 8) (iw.extractLsb' 0 8))
  | 0x2e => some (.add2Sat (iw.extractLsb' 16 8) (iw.extractLsb' 8 8) (iw.extractLsb' 0 8))
  | 0x2f => some (.sub2Sat (iw.extractLsb' 16 8) (iw.extractLsb' 8 8) (iw.extractLsb' 0 8))
  | 0x30 => some (.mul2Lo (iw.extractLsb' 16 8) (iw.extractLsb' 8 8) (iw.extractLsb' 0 8))
  | 0x31 => some (.max2S (iw.extractLsb' 16 8) (iw.extractLsb' 8 8) (iw.extractLsb' 0 8))
  | 0x32 => some (.min2S (iw.extractLsb' 16 8) (iw.extractLsb' 8 8) (iw.extractLsb' 0 8))
  | 0x33 => some (.pack2 (iw.extractLsb' 16 8) (iw.extractLsb' 8 8) (iw.extractLsb' 0 8))
  | 0x34 => some (.dot4SSat (iw.extractLsb' 16 8) (iw.extractLsb' 8 8) (iw.extractLsb' 0 8))
  | 0x35 => some (.dot4USat (iw.extractLsb' 16 8) (iw.extractLsb' 8 8) (iw.extractLsb' 0 8))
  | 0x36 => some (.add4USat (iw.extractLsb' 16 8) (iw.extractLsb' 8 8) (iw.extractLsb' 0 8))
  | 0x37 => some (.sub4USat (iw.extractLsb' 16 8) (iw.extractLsb' 8 8) (iw.extractLsb' 0 8))
  | 0x38 => some (.shfl (iw.extractLsb' 16 8) (iw.extractLsb' 8 8) (iw.extractLsb' 0 8))
  | 0x39 => some (.slidehDn (iw.extractLsb' 16 8) (iw.extractLsb' 8 8) (iw.extractLsb' 0 8))
  | 0x3a => some (.slidehUp (iw.extractLsb' 16 8) (iw.extractLsb' 8 8) (iw.extractLsb' 0 8))
  | 0x3b => some (.slidewDn (iw.extractLsb' 16 8) (iw.extractLsb' 8 8) (iw.extractLsb' 0 8))
  | 0x3c => some (.ballot (iw.extractLsb' 16 8) (iw.extractLsb' 8 8))
  | 0x3d => some (.redadd (iw.extractLsb' 16 8) (iw.extractLsb' 8 8))
  | 0x3e => some (.redminS (iw.extractLsb' 16 8) (iw.extractLsb' 8 8))
  | 0x3f => some (.redmaxS (iw.extractLsb' 16 8) (iw.extractLsb' 8 8))
  | 0x40 => some (.fadd (iw.extractLsb' 16 8) (iw.extractLsb' 8 8) (iw.extractLsb' 0 8))
  | 0x41 => some (.fsub (iw.extractLsb' 16 8) (iw.extractLsb' 8 8) (iw.extractLsb' 0 8))
  | 0x42 => some (.fmul (iw.extractLsb' 16 8) (iw.extractLsb' 8 8) (iw.extractLsb' 0 8))
  | 0x43 => some (.ffma (iw.extractLsb' 16 8) (iw.extractLsb' 8 8) (iw.extractLsb' 0 8))
  | 0x44 => some (.fmin (iw.extractLsb' 16 8) (iw.extractLsb' 8 8) (iw.extractLsb' 0 8))
  | 0x45 => some (.fmax (iw.extractLsb' 16 8) (iw.extractLsb' 8 8) (iw.extractLsb' 0 8))
  | 0x46 => some (.fminn (iw.extractLsb' 16 8) (iw.extractLsb' 8 8) (iw.extractLsb' 0 8))
  | 0x47 => some (.fmaxn (iw.extractLsb' 16 8) (iw.extractLsb' 8 8) (iw.extractLsb' 0 8))
  | 0x48 => some (.fcmpEq (iw.extractLsb' 16 8) (iw.extractLsb' 8 8) (iw.extractLsb' 0 8))
  | 0x49 => some (.fcmpLt (iw.extractLsb' 16 8) (iw.extractLsb' 8 8) (iw.extractLsb' 0 8))
  | 0x4a => some (.fcmpLe (iw.extractLsb' 16 8) (iw.extractLsb' 8 8) (iw.extractLsb' 0 8))
  | 0x4b => some (.fcmpUnord (iw.extractLsb' 16 8) (iw.extractLsb' 8 8) (iw.extractLsb' 0 8))
  | 0x4c => some (.dadd (iw.extractLsb' 16 8) (iw.extractLsb' 8 8) (iw.extractLsb' 0 8))
  | 0x4d => some (.dsub (iw.extractLsb' 16 8) (iw.extractLsb' 8 8) (iw.extractLsb' 0 8))
  | 0x4e => some (.dmul (iw.extractLsb' 16 8) (iw.extractLsb' 8 8) (iw.extractLsb' 0 8))
  | 0x4f => some (.dfma (iw.extractLsb' 16 8) (iw.extractLsb' 8 8) (iw.extractLsb' 0 8))
  | 0x50 => some (.badd2 (iw.extractLsb' 16 8) (iw.extractLsb' 8 8) (iw.extractLsb' 0 8))
  | 0x51 => some (.bmul2 (iw.extractLsb' 16 8) (iw.extractLsb' 8 8) (iw.extractLsb' 0 8))
  | 0x52 => some (.bfma2 (iw.extractLsb' 16 8) (iw.extractLsb' 8 8) (iw.extractLsb' 0 8))
  | 0x53 => some (.bmax2 (iw.extractLsb' 16 8) (iw.extractLsb' 8 8) (iw.extractLsb' 0 8))
  | 0x54 => some (.hadd2 (iw.extractLsb' 16 8) (iw.extractLsb' 8 8) (iw.extractLsb' 0 8))
  | 0x55 => some (.hmul2 (iw.extractLsb' 16 8) (iw.extractLsb' 8 8) (iw.extractLsb' 0 8))
  | 0x56 => some (.hfma2 (iw.extractLsb' 16 8) (iw.extractLsb' 8 8) (iw.extractLsb' 0 8))
  | 0x57 => some (.hmax2 (iw.extractLsb' 16 8) (iw.extractLsb' 8 8) (iw.extractLsb' 0 8))
  | 0x58 => some (.fdot2Bf (iw.extractLsb' 16 8) (iw.extractLsb' 8 8) (iw.extractLsb' 0 8))
  | 0x59 => some (.fdot2H (iw.extractLsb' 16 8) (iw.extractLsb' 8 8) (iw.extractLsb' 0 8))
  | 0x5a => some (.fdot4E4 (iw.extractLsb' 16 8) (iw.extractLsb' 8 8) (iw.extractLsb' 0 8))
  | 0x5b => some (.fdot4E5 (iw.extractLsb' 16 8) (iw.extractLsb' 8 8) (iw.extractLsb' 0 8))
  | 0x5c => decodeFunary (iw.extractLsb' 0 8).toNat iw
  | 0x60 => decodeCvt (iw.extractLsb' 0 8).toNat iw
  | 0x64 => some (.packbf (iw.extractLsb' 16 8) (iw.extractLsb' 8 8) (iw.extractLsb' 0 8))
  | 0x65 => some (.packh (iw.extractLsb' 16 8) (iw.extractLsb' 8 8) (iw.extractLsb' 0 8))
  | 0x66 => some (.ins8E4 (iw.extractLsb' 16 8) (iw.extractLsb' 8 8) (iw.extractLsb' 0 8))
  | 0x67 => some (.ins4E2 (iw.extractLsb' 16 8) (iw.extractLsb' 8 8) (iw.extractLsb' 0 8))
  | 0x68 => some (.fscale (iw.extractLsb' 16 8) (iw.extractLsb' 8 8) (iw.extractLsb' 0 8))
  | 0x69 => some (.fsignc (iw.extractLsb' 16 8) (iw.extractLsb' 8 8) (iw.extractLsb' 0 8))
  | 0x6a => some (.isatS16 (iw.extractLsb' 16 8) (iw.extractLsb' 8 8))
  | 0x70 => some (.movi (iw.extractLsb' 16 8) (iw.extractLsb' 0 16))
  | 0x71 => some (.movhi (iw.extractLsb' 16 8) (iw.extractLsb' 0 16))
  | 0x72 => some (.addi (iw.extractLsb' 16 8) (iw.extractLsb' 0 16))
  | 0x73 => some (.muli (iw.extractLsb' 16 8) (iw.extractLsb' 0 16))
  | 0x74 => some (.mfsr (iw.extractLsb' 16 8) (iw.extractLsb' 0 16))
  | 0x75 => some (.mtsr (iw.extractLsb' 16 8) (iw.extractLsb' 0 16))
  | 0x78 => if (iw.extractLsb' 0 20 == 0) then some (.ifP (iw.extractLsb' 21 3) (iw.getLsbD 20)) else none
  | 0x79 => if (iw.extractLsb' 0 24 == 0) then some .elseP else none
  | 0x7a => if (iw.extractLsb' 0 24 == 0) then some .endif else none
  | 0xc0 => if (iw.extractLsb' 0 2 == 0) then (Scope.ofBits (iw.extractLsb' 7 3)).bind fun sc => (Order.ofBits (iw.extractLsb' 5 2)).bind fun o => (Width.ofBits (iw.extractLsb' 2 3)).bind fun w => some (.ld (iw.extractLsb' 16 8) (iw.extractLsb' 10 6) sc o w) else none
  | 0xc1 => if (iw.extractLsb' 0 2 == 0) then (Scope.ofBits (iw.extractLsb' 7 3)).bind fun sc => (Order.ofBits (iw.extractLsb' 5 2)).bind fun o => (Width.ofBits (iw.extractLsb' 2 3)).bind fun w => some (.ldBc (iw.extractLsb' 16 8) (iw.extractLsb' 10 6) sc o w) else none
  | 0xc2 => if (iw.extractLsb' 0 2 == 0) && (iw.extractLsb' 5 2 == 0) then (Scope.ofBits (iw.extractLsb' 7 3)).bind fun sc => (Width.ofBits (iw.extractLsb' 2 3)).bind fun w => some (.pref (iw.extractLsb' 10 6) sc w) else none
  | 0xc4 => if (iw.extractLsb' 0 2 == 0) then (Scope.ofBits (iw.extractLsb' 7 3)).bind fun sc => (Order.ofBits (iw.extractLsb' 5 2)).bind fun o => (Width.ofBits (iw.extractLsb' 2 3)).bind fun w => some (.st (iw.extractLsb' 16 8) (iw.extractLsb' 10 6) sc o w) else none
  | 0xc5 => if (iw.extractLsb' 0 2 == 0) then (Scope.ofBits (iw.extractLsb' 7 3)).bind fun sc => (Order.ofBits (iw.extractLsb' 5 2)).bind fun o => (Width.ofBits (iw.extractLsb' 2 3)).bind fun w => some (.stNt (iw.extractLsb' 16 8) (iw.extractLsb' 10 6) sc o w) else none
  | 0xc8 => if (iw.extractLsb' 1 1 == 0) then (Scope.ofBits (iw.extractLsb' 7 3)).bind fun sc => (Order.ofBits (iw.extractLsb' 5 2)).bind fun o => (Width.ofBits (iw.extractLsb' 2 3)).bind fun w => some (.aadd (iw.extractLsb' 16 8) (iw.extractLsb' 10 6) sc o w (iw.getLsbD 0)) else none
  | 0xc9 => if (iw.extractLsb' 1 1 == 0) then (Scope.ofBits (iw.extractLsb' 7 3)).bind fun sc => (Order.ofBits (iw.extractLsb' 5 2)).bind fun o => (Width.ofBits (iw.extractLsb' 2 3)).bind fun w => some (.aand (iw.extractLsb' 16 8) (iw.extractLsb' 10 6) sc o w (iw.getLsbD 0)) else none
  | 0xca => if (iw.extractLsb' 1 1 == 0) then (Scope.ofBits (iw.extractLsb' 7 3)).bind fun sc => (Order.ofBits (iw.extractLsb' 5 2)).bind fun o => (Width.ofBits (iw.extractLsb' 2 3)).bind fun w => some (.aor (iw.extractLsb' 16 8) (iw.extractLsb' 10 6) sc o w (iw.getLsbD 0)) else none
  | 0xcb => if (iw.extractLsb' 1 1 == 0) then (Scope.ofBits (iw.extractLsb' 7 3)).bind fun sc => (Order.ofBits (iw.extractLsb' 5 2)).bind fun o => (Width.ofBits (iw.extractLsb' 2 3)).bind fun w => some (.axor (iw.extractLsb' 16 8) (iw.extractLsb' 10 6) sc o w (iw.getLsbD 0)) else none
  | 0xcc => if (iw.extractLsb' 1 1 == 0) then (Scope.ofBits (iw.extractLsb' 7 3)).bind fun sc => (Order.ofBits (iw.extractLsb' 5 2)).bind fun o => (Width.ofBits (iw.extractLsb' 2 3)).bind fun w => some (.aminS (iw.extractLsb' 16 8) (iw.extractLsb' 10 6) sc o w (iw.getLsbD 0)) else none
  | 0xcd => if (iw.extractLsb' 1 1 == 0) then (Scope.ofBits (iw.extractLsb' 7 3)).bind fun sc => (Order.ofBits (iw.extractLsb' 5 2)).bind fun o => (Width.ofBits (iw.extractLsb' 2 3)).bind fun w => some (.amaxS (iw.extractLsb' 16 8) (iw.extractLsb' 10 6) sc o w (iw.getLsbD 0)) else none
  | 0xce => if (iw.extractLsb' 1 1 == 0) then (Scope.ofBits (iw.extractLsb' 7 3)).bind fun sc => (Order.ofBits (iw.extractLsb' 5 2)).bind fun o => (Width.ofBits (iw.extractLsb' 2 3)).bind fun w => some (.aminU (iw.extractLsb' 16 8) (iw.extractLsb' 10 6) sc o w (iw.getLsbD 0)) else none
  | 0xcf => if (iw.extractLsb' 1 1 == 0) then (Scope.ofBits (iw.extractLsb' 7 3)).bind fun sc => (Order.ofBits (iw.extractLsb' 5 2)).bind fun o => (Width.ofBits (iw.extractLsb' 2 3)).bind fun w => some (.amaxU (iw.extractLsb' 16 8) (iw.extractLsb' 10 6) sc o w (iw.getLsbD 0)) else none
  | 0xd0 => if (iw.extractLsb' 1 1 == 0) then (Scope.ofBits (iw.extractLsb' 7 3)).bind fun sc => (Order.ofBits (iw.extractLsb' 5 2)).bind fun o => (Width.ofBits (iw.extractLsb' 2 3)).bind fun w => some (.axchg (iw.extractLsb' 16 8) (iw.extractLsb' 10 6) sc o w (iw.getLsbD 0)) else none
  | 0xd1 => if (iw.extractLsb' 1 1 == 0) then (Scope.ofBits (iw.extractLsb' 7 3)).bind fun sc => (Order.ofBits (iw.extractLsb' 5 2)).bind fun o => (Width.ofBits (iw.extractLsb' 2 3)).bind fun w => some (.acas (iw.extractLsb' 16 8) (iw.extractLsb' 10 6) sc o w (iw.getLsbD 0)) else none
  | 0xd2 => if (iw.extractLsb' 1 4 == 4) then (Scope.ofBits (iw.extractLsb' 7 3)).bind fun sc => (Order.ofBits (iw.extractLsb' 5 2)).bind fun o => some (.afaddF32 (iw.extractLsb' 16 8) (iw.extractLsb' 10 6) sc o (iw.getLsbD 0)) else none
  | 0xd3 => if (iw.extractLsb' 1 4 == 4) then (Scope.ofBits (iw.extractLsb' 7 3)).bind fun sc => (Order.ofBits (iw.extractLsb' 5 2)).bind fun o => some (.afaddBf2 (iw.extractLsb' 16 8) (iw.extractLsb' 10 6) sc o (iw.getLsbD 0)) else none
  | 0xd4 => if (iw.extractLsb' 0 3 == 0) then (CopySize.ofBits (iw.extractLsb' 4 2)).bind fun z => some (.acpG2s (iw.extractLsb' 18 6) (iw.extractLsb' 12 6) (iw.extractLsb' 6 6) z (iw.getLsbD 3)) else none
  | 0xd5 => if (iw.extractLsb' 0 3 == 0) then (CopySize.ofBits (iw.extractLsb' 4 2)).bind fun z => some (.acpS2g (iw.extractLsb' 18 6) (iw.extractLsb' 12 6) (iw.extractLsb' 6 6) z (iw.getLsbD 3)) else none
  | 0xd6 => if (iw.extractLsb' 0 3 == 0) then (CopySize.ofBits (iw.extractLsb' 4 2)).bind fun z => some (.acpS2s (iw.extractLsb' 18 6) (iw.extractLsb' 12 6) (iw.extractLsb' 6 6) z (iw.getLsbD 3)) else none
  | 0xd8 => (Scope.ofBits (iw.extractLsb' 7 3)).bind fun sc => (Order.ofBits (iw.extractLsb' 5 2)).bind fun o => (Width.ofBits (iw.extractLsb' 2 3)).bind fun w => some (.ldx (iw.extractLsb' 16 8) (iw.extractLsb' 10 6) sc o w (iw.extractLsb' 0 2))
  | 0xd9 => if (iw.extractLsb' 0 5 == 4) then (Scope.ofBits (iw.extractLsb' 7 3)).bind fun sc => (Order.ofBits (iw.extractLsb' 5 2)).bind fun o => some (.lddesc (iw.extractLsb' 16 8) (iw.extractLsb' 10 6) sc o) else none
  | 0xda => if (iw.extractLsb' 0 5 == 4) then (Scope.ofBits (iw.extractLsb' 7 3)).bind fun sc => (Order.ofBits (iw.extractLsb' 5 2)).bind fun o => some (.stdesc (iw.extractLsb' 16 8) (iw.extractLsb' 10 6) sc o) else none
  | 0xdc => if (iw.extractLsb' 0 19 == 0) then (Scope.ofBits (iw.extractLsb' 21 3)).bind fun sc => (Order.ofBits (iw.extractLsb' 19 2)).bind fun o => some (.fence sc o) else none
  | 0xdd => if (iw.extractLsb' 0 12 == 0) then some (.xfence (iw.extractLsb' 18 6) (iw.extractLsb' 12 6)) else none
  | 0xde => if (iw.extractLsb' 0 2 == 0) then (Scope.ofBits (iw.extractLsb' 7 3)).bind fun sc => (Order.ofBits (iw.extractLsb' 5 2)).bind fun o => (Width.ofBits (iw.extractLsb' 2 3)).bind fun w => some (.waitaddr (iw.extractLsb' 16 8) (iw.extractLsb' 10 6) sc o w) else none
  | 0xe0 => some (.braAny (iw.extractLsb' 21 3) (iw.getLsbD 20) (iw.extractLsb' 0 20))
  | 0xe1 => some (.braAll (iw.extractLsb' 21 3) (iw.getLsbD 20) (iw.extractLsb' 0 20))
  | 0xe2 => if (iw.extractLsb' 20 4 == 0) then some (.call (iw.extractLsb' 0 20)) else none
  | 0xe3 => if (iw.extractLsb' 20 4 == 0) then some (.jmp (iw.extractLsb' 0 20)) else none
  | 0xe4 => if (iw.extractLsb' 0 24 == 0) then some .ret else none
  | 0xe5 => if (iw.extractLsb' 0 8 == 0) && (iw.extractLsb' 16 8 == 0) then some (.brx (iw.extractLsb' 8 8)) else none
  | 0xe6 => if (iw.extractLsb' 16 8 == 0) then some (.merge (iw.extractLsb' 0 16)) else none
  | 0xe7 => if (iw.extractLsb' 0 24 == 0) then some .yield else none
  | 0xe8 => if (iw.extractLsb' 5 19 == 0) then some (.bar (iw.extractLsb' 0 5)) else none
  | 0xe9 => if (iw.extractLsb' 5 19 == 0) then some (.qbar (iw.extractLsb' 0 5)) else none
  | 0xea => if (iw.extractLsb' 0 5 == 0) then (Scope.ofBits (iw.extractLsb' 5 3)).bind fun sc => some (.arrive (iw.extractLsb' 16 8) (iw.extractLsb' 8 8) sc) else none
  | 0xeb => some (.waitcnt (iw.extractLsb' 18 6) (iw.extractLsb' 12 6) (iw.extractLsb' 6 6) (iw.extractLsb' 0 6))
  | 0xEC => if iw.getLsbD 11 then (if iw.extractLsb' 0 11 == 0 then some (.sleepuntilBar (iw.extractLsb' 18 6) (iw.extractLsb' 12 6)) else none)
      else (if iw.extractLsb' 0 18 == 0 then some (.sleepuntil (iw.extractLsb' 18 6)) else none)
  | 0xed => if (iw.extractLsb' 0 24 == 0) then some .region else none
  | 0xee => if (iw.extractLsb' 16 8 == 0) then some (.trapOp (iw.extractLsb' 0 16)) else none
  | 0xef => if (iw.extractLsb' 0 24 == 0) then some .exit else none
  | 0xf0 => if (iw.extractLsb' 0 18 == 0) then some (.mxloop (iw.extractLsb' 18 6)) else none
  | 0xf1 => if (iw.extractLsb' 0 6 == 0) then some (.mxldb (iw.extractLsb' 18 6) (iw.extractLsb' 12 6) (iw.extractLsb' 6 6)) else none
  | 0xf2 => if (iw.extractLsb' 0 12 == 0) && (iw.extractLsb' 18 3 == 0) then some (.mxst (iw.extractLsb' 21 3) (iw.extractLsb' 12 6)) else none
  | 0xf3 => if (iw.extractLsb' 0 12 == 0) && (iw.extractLsb' 18 3 == 0) then some (.mxldt (iw.extractLsb' 21 3) (iw.extractLsb' 12 6)) else none
  | 0xf4 => if (iw.extractLsb' 0 3 == 0) then (ScribeSel.ofBits (iw.extractLsb' 4 2)).bind fun sel => some (.scstart (iw.extractLsb' 18 6) (iw.extractLsb' 12 6) (iw.extractLsb' 6 6) sel (iw.getLsbD 3)) else none
  | 0xf5 => if (iw.extractLsb' 0 12 == 0) then some (.scpoll (iw.extractLsb' 18 6) (iw.extractLsb' 12 6)) else none
  | 0xf6 => if (iw.extractLsb' 0 12 == 0) && (iw.extractLsb' 18 6 == 0) then some (.rflush (iw.extractLsb' 12 6)) else none
  | 0xf7 => if (iw.extractLsb' 0 12 == 0) && (iw.extractLsb' 18 6 == 0) then some (.sccancel (iw.extractLsb' 12 6)) else none
  | 0xf8 => if (iw.extractLsb' 0 18 == 0) then some (.eret (iw.extractLsb' 18 6)) else none
  | 0xf9 => if (iw.extractLsb' 0 12 == 0) then some (.rdsl (iw.extractLsb' 18 6) (iw.extractLsb' 12 6)) else none
  | 0xfa => if (iw.extractLsb' 0 12 == 0) then some (.wrsl (iw.extractLsb' 18 6) (iw.extractLsb' 12 6)) else none
  | 0xfb => if (iw.extractLsb' 0 12 == 0) then some (.foldctl (iw.extractLsb' 18 6) (iw.extractLsb' 12 6)) else none
  | 0xfc => some (.hintImm (iw.extractLsb' 0 24))
  | 0xfd => if (iw.extractLsb' 0 16 == 0) then some (.hintGuard (iw.extractLsb' 21 3) (iw.getLsbD 20) (iw.extractLsb' 16 4)) else none
  | 0xfe => if (iw.extractLsb' 0 18 == 0) then some (.hintMod (iw.extractLsb' 21 3) (iw.getLsbD 20) (iw.getLsbD 19) (iw.getLsbD 18)) else none
  | 0xff => some (.hintSched (iw.extractLsb' 0 24))
  | _ => none

/-- The instruction that a scribe word's fields name (R288), before the field values are judged. -/
def decodeScribeRaw (iw : Word32) : Option Instr :=
  match (iw.extractLsb' 26 6).toNat with
  | 0x1 => if (iw.extractLsb' 14 8 == 0) then some (.kmovi (iw.extractLsb' 22 4) (iw.extractLsb' 0 14)) else none
  | 0x2 => if (iw.extractLsb' 14 8 == 0) then some (.kmovhi (iw.extractLsb' 22 4) (iw.extractLsb' 0 14)) else none
  | 0x3 => if (iw.extractLsb' 0 14 == 0) then some (.kadd (iw.extractLsb' 22 4) (iw.extractLsb' 18 4) (iw.extractLsb' 14 4)) else none
  | 0x4 => if (iw.extractLsb' 0 14 == 0) then some (.ksub (iw.extractLsb' 22 4) (iw.extractLsb' 18 4) (iw.extractLsb' 14 4)) else none
  | 0x5 => if (iw.extractLsb' 0 14 == 0) then some (.kmul (iw.extractLsb' 22 4) (iw.extractLsb' 18 4) (iw.extractLsb' 14 4)) else none
  | 0x6 => if (iw.extractLsb' 0 14 == 0) then some (.kshl (iw.extractLsb' 22 4) (iw.extractLsb' 18 4) (iw.extractLsb' 14 4)) else none
  | 0x7 => if (iw.extractLsb' 0 14 == 0) then some (.kshr (iw.extractLsb' 22 4) (iw.extractLsb' 18 4) (iw.extractLsb' 14 4)) else none
  | 0x8 => if (iw.extractLsb' 0 14 == 0) then some (.kand (iw.extractLsb' 22 4) (iw.extractLsb' 18 4) (iw.extractLsb' 14 4)) else none
  | 0x9 => if (iw.extractLsb' 0 14 == 0) then some (.kor (iw.extractLsb' 22 4) (iw.extractLsb' 18 4) (iw.extractLsb' 14 4)) else none
  | 0xa => if (iw.extractLsb' 14 4 == 0) then some (.kaddi (iw.extractLsb' 22 4) (iw.extractLsb' 18 4) (iw.extractLsb' 0 14)) else none
  | 0xb => if (iw.extractLsb' 3 11 == 0) then (KCond.ofBits (iw.extractLsb' 0 3)).bind fun c => some (.kcmp (iw.extractLsb' 22 4) (iw.extractLsb' 18 4) (iw.extractLsb' 14 4) c) else none
  | 0xc => if (iw.extractLsb' 14 4 == 0) then some (.kld (iw.extractLsb' 22 4) (iw.extractLsb' 18 4) (iw.extractLsb' 0 14)) else none
  | 0xd => if (iw.extractLsb' 22 4 == 0) then some (.kst (iw.extractLsb' 18 4) (iw.extractLsb' 14 4) (iw.extractLsb' 0 14)) else none
  | 0x10 => some (.kbr (iw.extractLsb' 0 26))
  | 0x11 => some (.kbrc (iw.extractLsb' 22 4) (iw.extractLsb' 0 22))
  | 0x12 => if (iw.extractLsb' 14 4 == 0) then some (.kloop (iw.extractLsb' 22 4) (iw.extractLsb' 18 4) (iw.extractLsb' 0 14)) else none
  | 0x13 => if (iw.extractLsb' 0 22 == 0) then some (.kendloop (iw.extractLsb' 22 4)) else none
  | 0x18 => if (iw.extractLsb' 0 18 == 0) then some (.gset (iw.extractLsb' 22 4) (iw.extractLsb' 18 4)) else none
  | 0x19 => if (iw.extractLsb' 3 15 == 0) then some (.gstep (iw.extractLsb' 22 4) (iw.extractLsb' 18 4) (iw.extractLsb' 0 3)) else none
  | 0x1a => if (iw.extractLsb' 0 18 == 0) then some (.gaddr (iw.extractLsb' 22 4) (iw.extractLsb' 18 4)) else none
  | 0x20 => if (iw.extractLsb' 14 4 == 0) then some (.line (iw.extractLsb' 22 4) (iw.extractLsb' 18 4) (iw.extractLsb' 0 14)) else none
  | 0x21 => some (.gather (iw.extractLsb' 22 4) (iw.extractLsb' 18 4) (iw.extractLsb' 14 4) (iw.extractLsb' 0 14))
  | 0x22 => some (.scatter (iw.extractLsb' 22 4) (iw.extractLsb' 18 4) (iw.extractLsb' 14 4) (iw.extractLsb' 0 14))
  | 0x23 => if (iw.extractLsb' 14 4 == 0) then (ReduceOp.ofBits (iw.extractLsb' 11 3)).bind fun op => some (.reduce (iw.extractLsb' 22 4) (iw.extractLsb' 18 4) op (iw.extractLsb' 0 11)) else none
  | 0x24 => if (iw.extractLsb' 8 10 == 0) then some (.convert (iw.extractLsb' 22 4) (iw.extractLsb' 18 4) (iw.extractLsb' 0 8)) else none
  | 0x28 => if (iw.extractLsb' 0 14 == 0) && (iw.extractLsb' 22 4 == 0) then some (.scribeArrive (iw.extractLsb' 18 4) (iw.extractLsb' 14 4)) else none
  | 0x29 => if (iw.extractLsb' 0 14 == 0) && (iw.extractLsb' 22 4 == 0) then some (.waitb (iw.extractLsb' 18 4) (iw.extractLsb' 14 4)) else none
  | 0x2a => if (iw.extractLsb' 12 14 == 0) then some (.sfence (iw.extractLsb' 6 6) (iw.extractLsb' 0 6)) else none
  | 0x2b => if (iw.extractLsb' 3 11 == 0) && (iw.extractLsb' 22 4 == 0) then (Scope.ofBits (iw.extractLsb' 0 3)).bind fun sc => some (.signal (iw.extractLsb' 18 4) (iw.extractLsb' 14 4) sc) else none
  | 0x30 => if (iw.extractLsb' 0 26 == 0) then some .scribeRegion else none
  | 0x31 => if (iw.extractLsb' 0 26 == 0) then some .scribeEnd else none
  | _ => none

/-- Why a word is rejected. -/
inductive Reject where
  /-- A reserved major, minor, function code, FM field value or non-zero reserved bit (R177): ILLEGAL_OP. -/
  | illegalOp
  /-- The unused b field of a compute instruction is not 0xAE (R162): ILLEGAL_OPERAND in the compute stream. -/
  | unusedCompute
  /-- The unused data field of PREF is not 0xAE (R162, R218): ILLEGAL_OPERAND in the access stream. -/
  | unusedAccess
  /-- A scribe word with a reserved opcode or a field that must be 0 (R288): ILLEGAL. -/
  | scribeIllegal
deriving DecidableEq, Repr

/-- The word holds 0xAE in the operand field its instruction does not use (R162). -/
def unusedField (i : Instr) (w : Word32) : Option Reject :=
  match i with
  | .ballot _ _ | .redadd _ _ | .redminS _ _ | .redmaxS _ _ | .isatS16 _ _ =>
    if w.extractLsb' 0 8 == 0xAE then none else some .unusedCompute
  | .pref _ _ _ => if w.extractLsb' 16 8 == 0xAE then none else some .unusedAccess
  | _ => none

/-- Decode a word that a slice or the trap context fetched (R177). ILLEGAL_OP comes before the operand fields (R176). -/
def decodeLane (w : Word32) : Except Reject Instr :=
  match decodeLaneRaw w with
  | none => .error .illegalOp
  | some i =>
    if wellFormed i then
      match unusedField i w with
      | none => .ok i
      | some r => .error r
    else .error .illegalOp

/-- Decode a word that a scribe fetched (R288). -/
def decodeScribe (w : Word32) : Except Reject Instr :=
  match decodeScribeRaw w with
  | none => .error .scribeIllegal
  | some i => if wellFormed i then .ok i else .error .scribeIllegal

/-- The word at the start of a byte string, little-endian (R1), and the rest. -/
def takeWord : List Byte → Option (Word32 × List Byte)
  | b0 :: b1 :: b2 :: b3 :: rest => some (b3 ++ b2 ++ b1 ++ b0, rest)
  | _ => none

/-- The lane instruction at the start of a byte string, and the bytes after it. -/
def decodeLaneBytes (bs : List Byte) : Except Reject (Instr × List Byte) :=
  match takeWord bs with
  | none => .error .illegalOp
  | some (w, rest) => (decodeLane w).map fun i => (i, rest)

/-- The scribe instruction at the start of a byte string, and the bytes after it. -/
def decodeScribeBytes (bs : List Byte) : Except Reject (Instr × List Byte) :=
  match takeWord bs with
  | none => .error .scribeIllegal
  | some (w, rest) => (decodeScribe w).map fun i => (i, rest)

/-- The bytes of a word as memory holds them, lowest address first (R1). -/
def wordBytes (w : Word32) : List Byte :=
  [w.extractLsb' 0 8, w.extractLsb' 8 8, w.extractLsb' 16 8, w.extractLsb' 24 8]

/-- The instruction read from a table word: as a lane word, and where no lane instruction has it, as a scribe word.
A row without a word (nbits 0) has no instruction. -/
def decodeTableWord (nbits w : Nat) : Option Instr :=
  if nbits = 0 then none else
  match decodeLaneBytes (wordBytes (BitVec.ofNat 32 w)) with
  | .ok (i, _) => some i
  | .error _ =>
    match decodeScribeBytes (wordBytes (BitVec.ofNat 32 w)) with
    | .ok (i, _) => some i
    | .error _ => none

/-- The word of an instruction, from the encoding tables of R158, R170 to R174 and R288; an event has none. -/
def encode : Instr → Option Word32
  | .iadd d a b => some (0#8 ++ d ++ a ++ b)
  | .isub d a b => some (1#8 ++ d ++ a ++ b)
  | .iminS d a b => some (2#8 ++ d ++ a ++ b)
  | .imaxS d a b => some (3#8 ++ d ++ a ++ b)
  | .imul d a b => some (4#8 ++ d ++ a ++ b)
  | .imulhS d a b => some (5#8 ++ d ++ a ++ b)
  | .imulhU d a b => some (6#8 ++ d ++ a ++ b)
  | .imad d a b => some (7#8 ++ d ++ a ++ b)
  | .iminU d a b => some (8#8 ++ d ++ a ++ b)
  | .imaxU d a b => some (9#8 ++ d ++ a ++ b)
  | .iabsdU d a b => some (10#8 ++ d ++ a ++ b)
  | .iavgU d a b => some (11#8 ++ d ++ a ++ b)
  | .band d a b => some (12#8 ++ d ++ a ++ b)
  | .bor d a b => some (13#8 ++ d ++ a ++ b)
  | .bxor d a b => some (14#8 ++ d ++ a ++ b)
  | .bandn d a b => some (15#8 ++ d ++ a ++ b)
  | .shl d a b => some (16#8 ++ d ++ a ++ b)
  | .shrU d a b => some (17#8 ++ d ++ a ++ b)
  | .shrS d a b => some (18#8 ++ d ++ a ++ b)
  | .shrrS d a b => some (19#8 ++ d ++ a ++ b)
  | .rotl d a b => some (20#8 ++ d ++ a ++ b)
  | .bfeU d a b => some (21#8 ++ d ++ a ++ b)
  | .bfeS d a b => some (22#8 ++ d ++ a ++ b)
  | .bfi d a b => some (23#8 ++ d ++ a ++ b)
  | .prmb d a b => some (24#8 ++ d ++ a ++ b)
  | .mulwU d a b => some (25#8 ++ d ++ a ++ b)
  | .mulwS d a b => some (26#8 ++ d ++ a ++ b)
  | .iadd64 d a b => some (27#8 ++ d ++ a ++ b)
  | .mov d a => some (28#8 ++ d ++ a ++ 0#8)
  | .bnot d a => some (28#8 ++ d ++ a ++ 1#8)
  | .ineg d a => some (28#8 ++ d ++ a ++ 2#8)
  | .iabs d a => some (28#8 ++ d ++ a ++ 3#8)
  | .popc d a => some (28#8 ++ d ++ a ++ 4#8)
  | .clz d a => some (28#8 ++ d ++ a ++ 5#8)
  | .ctz d a => some (28#8 ++ d ++ a ++ 6#8)
  | .brev d a => some (28#8 ++ d ++ a ++ 7#8)
  | .sext8 d a => some (28#8 ++ d ++ a ++ 8#8)
  | .sext16 d a => some (28#8 ++ d ++ a ++ 9#8)
  | .zext8 d a => some (28#8 ++ d ++ a ++ 10#8)
  | .zext16 d a => some (28#8 ++ d ++ a ++ 11#8)
  | .bswap d a => some (28#8 ++ d ++ a ++ 12#8)
  | .icmpEq p a b => some (32#8 ++ p ++ a ++ b)
  | .icmpNe p a b => some (33#8 ++ p ++ a ++ b)
  | .icmpLtS p a b => some (34#8 ++ p ++ a ++ b)
  | .icmpLeS p a b => some (35#8 ++ p ++ a ++ b)
  | .icmpLtU p a b => some (36#8 ++ p ++ a ++ b)
  | .icmpLeU p a b => some (37#8 ++ p ++ a ++ b)
  | .test p a b => some (38#8 ++ p ++ a ++ b)
  | .testz p a b => some (39#8 ++ p ++ a ++ b)
  | .sel n d a b => some (10#6 ++ n ++ d ++ a ++ b)
  | .dot2Sat d a b => some (44#8 ++ d ++ a ++ b)
  | .dot2Wrap d a b => some (45#8 ++ d ++ a ++ b)
  | .add2Sat d a b => some (46#8 ++ d ++ a ++ b)
  | .sub2Sat d a b => some (47#8 ++ d ++ a ++ b)
  | .mul2Lo d a b => some (48#8 ++ d ++ a ++ b)
  | .max2S d a b => some (49#8 ++ d ++ a ++ b)
  | .min2S d a b => some (50#8 ++ d ++ a ++ b)
  | .pack2 d a b => some (51#8 ++ d ++ a ++ b)
  | .dot4SSat d a b => some (52#8 ++ d ++ a ++ b)
  | .dot4USat d a b => some (53#8 ++ d ++ a ++ b)
  | .add4USat d a b => some (54#8 ++ d ++ a ++ b)
  | .sub4USat d a b => some (55#8 ++ d ++ a ++ b)
  | .shfl d a b => some (56#8 ++ d ++ a ++ b)
  | .slidehDn d a b => some (57#8 ++ d ++ a ++ b)
  | .slidehUp d a b => some (58#8 ++ d ++ a ++ b)
  | .slidewDn d a b => some (59#8 ++ d ++ a ++ b)
  | .ballot d a => some (60#8 ++ d ++ a ++ 174#8)
  | .redadd d a => some (61#8 ++ d ++ a ++ 174#8)
  | .redminS d a => some (62#8 ++ d ++ a ++ 174#8)
  | .redmaxS d a => some (63#8 ++ d ++ a ++ 174#8)
  | .fadd d a b => some (64#8 ++ d ++ a ++ b)
  | .fsub d a b => some (65#8 ++ d ++ a ++ b)
  | .fmul d a b => some (66#8 ++ d ++ a ++ b)
  | .ffma d a b => some (67#8 ++ d ++ a ++ b)
  | .fmin d a b => some (68#8 ++ d ++ a ++ b)
  | .fmax d a b => some (69#8 ++ d ++ a ++ b)
  | .fminn d a b => some (70#8 ++ d ++ a ++ b)
  | .fmaxn d a b => some (71#8 ++ d ++ a ++ b)
  | .fcmpEq p a b => some (72#8 ++ p ++ a ++ b)
  | .fcmpLt p a b => some (73#8 ++ p ++ a ++ b)
  | .fcmpLe p a b => some (74#8 ++ p ++ a ++ b)
  | .fcmpUnord p a b => some (75#8 ++ p ++ a ++ b)
  | .dadd d a b => some (76#8 ++ d ++ a ++ b)
  | .dsub d a b => some (77#8 ++ d ++ a ++ b)
  | .dmul d a b => some (78#8 ++ d ++ a ++ b)
  | .dfma d a b => some (79#8 ++ d ++ a ++ b)
  | .badd2 d a b => some (80#8 ++ d ++ a ++ b)
  | .bmul2 d a b => some (81#8 ++ d ++ a ++ b)
  | .bfma2 d a b => some (82#8 ++ d ++ a ++ b)
  | .bmax2 d a b => some (83#8 ++ d ++ a ++ b)
  | .hadd2 d a b => some (84#8 ++ d ++ a ++ b)
  | .hmul2 d a b => some (85#8 ++ d ++ a ++ b)
  | .hfma2 d a b => some (86#8 ++ d ++ a ++ b)
  | .hmax2 d a b => some (87#8 ++ d ++ a ++ b)
  | .fdot2Bf d a b => some (88#8 ++ d ++ a ++ b)
  | .fdot2H d a b => some (89#8 ++ d ++ a ++ b)
  | .fdot4E4 d a b => some (90#8 ++ d ++ a ++ b)
  | .fdot4E5 d a b => some (91#8 ++ d ++ a ++ b)
  | .frcp d a => some (92#8 ++ d ++ a ++ 0#8)
  | .frsq d a => some (92#8 ++ d ++ a ++ 1#8)
  | .fsqrt d a => some (92#8 ++ d ++ a ++ 2#8)
  | .fexp2 d a => some (92#8 ++ d ++ a ++ 3#8)
  | .flog2 d a => some (92#8 ++ d ++ a ++ 4#8)
  | .fsinpi d a => some (92#8 ++ d ++ a ++ 5#8)
  | .fcospi d a => some (92#8 ++ d ++ a ++ 6#8)
  | .ftanh d a => some (92#8 ++ d ++ a ++ 7#8)
  | .fabs d a => some (92#8 ++ d ++ a ++ 8#8)
  | .fneg d a => some (92#8 ++ d ++ a ++ 9#8)
  | .ffloor d a => some (92#8 ++ d ++ a ++ 10#8)
  | .fceil d a => some (92#8 ++ d ++ a ++ 11#8)
  | .ftrunc d a => some (92#8 ++ d ++ a ++ 12#8)
  | .frint d a => some (92#8 ++ d ++ a ++ 13#8)
  | .fclass d a => some (92#8 ++ d ++ a ++ 14#8)
  | .dsqrt d a => some (92#8 ++ d ++ a ++ 16#8)
  | .drcp d a => some (92#8 ++ d ++ a ++ 17#8)
  | .f2iS d a => some (96#8 ++ d ++ a ++ 0#8)
  | .f2iU d a => some (96#8 ++ d ++ a ++ 1#8)
  | .i2fS d a => some (96#8 ++ d ++ a ++ 2#8)
  | .i2fU d a => some (96#8 ++ d ++ a ++ 3#8)
  | .f2d d a => some (96#8 ++ d ++ a ++ 4#8)
  | .d2f d a => some (96#8 ++ d ++ a ++ 5#8)
  | .f2bf d a => some (96#8 ++ d ++ a ++ 6#8)
  | .bf2f d a => some (96#8 ++ d ++ a ++ 7#8)
  | .f2h d a => some (96#8 ++ d ++ a ++ 8#8)
  | .h2f d a => some (96#8 ++ d ++ a ++ 9#8)
  | .f2e4 d a => some (96#8 ++ d ++ a ++ 10#8)
  | .f2e5 d a => some (96#8 ++ d ++ a ++ 11#8)
  | .e42f d a => some (96#8 ++ d ++ a ++ 12#8)
  | .e52f d a => some (96#8 ++ d ++ a ++ 13#8)
  | .f2e2 d a => some (96#8 ++ d ++ a ++ 14#8)
  | .e22f d a => some (96#8 ++ d ++ a ++ 15#8)
  | .i2dS d a => some (96#8 ++ d ++ a ++ 16#8)
  | .i2dU d a => some (96#8 ++ d ++ a ++ 17#8)
  | .packbf d a b => some (100#8 ++ d ++ a ++ b)
  | .packh d a b => some (101#8 ++ d ++ a ++ b)
  | .ins8E4 d a b => some (102#8 ++ d ++ a ++ b)
  | .ins4E2 d a b => some (103#8 ++ d ++ a ++ b)
  | .fscale d a b => some (104#8 ++ d ++ a ++ b)
  | .fsignc d a b => some (105#8 ++ d ++ a ++ b)
  | .isatS16 d a => some (106#8 ++ d ++ a ++ 174#8)
  | .movi d i => some (112#8 ++ d ++ i)
  | .movhi d i => some (113#8 ++ d ++ i)
  | .addi d i => some (114#8 ++ d ++ i)
  | .muli d i => some (115#8 ++ d ++ i)
  | .mfsr d r => some (116#8 ++ d ++ r)
  | .mtsr s r => some (117#8 ++ s ++ r)
  | .ifP p n => some (120#8 ++ p ++ BitVec.ofBool n ++ 0#20)
  | .elseP => some (2030043136#32)
  | .endif => some (2046820352#32)
  | .ld d b sc o w => some (192#8 ++ d ++ b ++ sc.bits ++ o.bits ++ w.bits ++ 0#2)
  | .ldBc d b sc o w => some (193#8 ++ d ++ b ++ sc.bits ++ o.bits ++ w.bits ++ 0#2)
  | .pref b sc w => some (49838#16 ++ b ++ sc.bits ++ 0#2 ++ w.bits ++ 0#2)
  | .st d b sc o w => some (196#8 ++ d ++ b ++ sc.bits ++ o.bits ++ w.bits ++ 0#2)
  | .stNt d b sc o w => some (197#8 ++ d ++ b ++ sc.bits ++ o.bits ++ w.bits ++ 0#2)
  | .aadd d b sc o w nr => some (200#8 ++ d ++ b ++ sc.bits ++ o.bits ++ w.bits ++ 0#1 ++ BitVec.ofBool nr)
  | .aand d b sc o w nr => some (201#8 ++ d ++ b ++ sc.bits ++ o.bits ++ w.bits ++ 0#1 ++ BitVec.ofBool nr)
  | .aor d b sc o w nr => some (202#8 ++ d ++ b ++ sc.bits ++ o.bits ++ w.bits ++ 0#1 ++ BitVec.ofBool nr)
  | .axor d b sc o w nr => some (203#8 ++ d ++ b ++ sc.bits ++ o.bits ++ w.bits ++ 0#1 ++ BitVec.ofBool nr)
  | .aminS d b sc o w nr => some (204#8 ++ d ++ b ++ sc.bits ++ o.bits ++ w.bits ++ 0#1 ++ BitVec.ofBool nr)
  | .amaxS d b sc o w nr => some (205#8 ++ d ++ b ++ sc.bits ++ o.bits ++ w.bits ++ 0#1 ++ BitVec.ofBool nr)
  | .aminU d b sc o w nr => some (206#8 ++ d ++ b ++ sc.bits ++ o.bits ++ w.bits ++ 0#1 ++ BitVec.ofBool nr)
  | .amaxU d b sc o w nr => some (207#8 ++ d ++ b ++ sc.bits ++ o.bits ++ w.bits ++ 0#1 ++ BitVec.ofBool nr)
  | .axchg d b sc o w nr => some (208#8 ++ d ++ b ++ sc.bits ++ o.bits ++ w.bits ++ 0#1 ++ BitVec.ofBool nr)
  | .acas d b sc o w nr => some (209#8 ++ d ++ b ++ sc.bits ++ o.bits ++ w.bits ++ 0#1 ++ BitVec.ofBool nr)
  | .afaddF32 d b sc o nr => some (210#8 ++ d ++ b ++ sc.bits ++ o.bits ++ 4#4 ++ BitVec.ofBool nr)
  | .afaddBf2 d b sc o nr => some (211#8 ++ d ++ b ++ sc.bits ++ o.bits ++ 4#4 ++ BitVec.ofBool nr)
  | .acpG2s t src dst z arv => some (212#8 ++ t ++ src ++ dst ++ z.bits ++ BitVec.ofBool arv ++ 0#3)
  | .acpS2g t src dst z arv => some (213#8 ++ t ++ src ++ dst ++ z.bits ++ BitVec.ofBool arv ++ 0#3)
  | .acpS2s t src dst z arv => some (214#8 ++ t ++ src ++ dst ++ z.bits ++ BitVec.ofBool arv ++ 0#3)
  | .ldx d b sc o w c => some (216#8 ++ d ++ b ++ sc.bits ++ o.bits ++ w.bits ++ c)
  | .lddesc d b sc o => some (217#8 ++ d ++ b ++ sc.bits ++ o.bits ++ 4#5)
  | .stdesc d b sc o => some (218#8 ++ d ++ b ++ sc.bits ++ o.bits ++ 4#5)
  | .fence sc o => some (220#8 ++ sc.bits ++ o.bits ++ 0#19)
  | .xfence wm rm => some (221#8 ++ wm ++ rm ++ 0#12)
  | .waitaddr d b sc o w => some (222#8 ++ d ++ b ++ sc.bits ++ o.bits ++ w.bits ++ 0#2)
  | .braAny p n o => some (224#8 ++ p ++ BitVec.ofBool n ++ o)
  | .braAll p n o => some (225#8 ++ p ++ BitVec.ofBool n ++ o)
  | .call o => some (3616#12 ++ o)
  | .jmp o => some (3632#12 ++ o)
  | .ret => some (3825205248#32)
  | .brx a => some (58624#16 ++ a ++ 0#8)
  | .merge i => some (58880#16 ++ i)
  | .yield => some (3875536896#32)
  | .bar s => some (121634816#27 ++ s)
  | .qbar s => some (122159104#27 ++ s)
  | .arrive a c sc => some (234#8 ++ a ++ c ++ sc.bits ++ 0#5)
  | .waitcnt l s c t => some (235#8 ++ l ++ s ++ c ++ t)
  | .sleepuntil c => some (236#8 ++ c ++ 0#18)
  | .sleepuntilBar c b => some (236#8 ++ c ++ b ++ 2048#12)
  | .region => some (3976200192#32)
  | .trapOp c => some (60928#16 ++ c)
  | .exit => some (4009754624#32)
  | .mxloop c => some (240#8 ++ c ++ 0#18)
  | .mxldb w s c => some (241#8 ++ w ++ s ++ c ++ 0#6)
  | .mxst t d => some (242#8 ++ t ++ 0#3 ++ d ++ 0#12)
  | .mxldt t s => some (243#8 ++ t ++ 0#3 ++ s ++ 0#12)
  | .scstart h p a sel res => some (244#8 ++ h ++ p ++ a ++ sel.bits ++ BitVec.ofBool res ++ 0#3)
  | .scpoll d h => some (245#8 ++ d ++ h ++ 0#12)
  | .rflush r => some (15744#14 ++ r ++ 0#12)
  | .sccancel h => some (15808#14 ++ h ++ 0#12)
  | .eret s => some (248#8 ++ s ++ 0#18)
  | .rdsl d s => some (249#8 ++ d ++ s ++ 0#12)
  | .wrsl s r => some (250#8 ++ s ++ r ++ 0#12)
  | .foldctl d r => some (251#8 ++ d ++ r ++ 0#12)
  | .hintImm i => some (252#8 ++ i)
  | .hintGuard p n l => some (253#8 ++ p ++ BitVec.ofBool n ++ l ++ 0#16)
  | .hintMod r s la lb => some (254#8 ++ r ++ BitVec.ofBool s ++ BitVec.ofBool la ++ BitVec.ofBool lb ++ 0#18)
  | .hintSched s => some (255#8 ++ s)
  | .kmovi d i => some (1#6 ++ d ++ 0#8 ++ i)
  | .kmovhi d i => some (2#6 ++ d ++ 0#8 ++ i)
  | .kadd d a b => some (3#6 ++ d ++ a ++ b ++ 0#14)
  | .ksub d a b => some (4#6 ++ d ++ a ++ b ++ 0#14)
  | .kmul d a b => some (5#6 ++ d ++ a ++ b ++ 0#14)
  | .kshl d a b => some (6#6 ++ d ++ a ++ b ++ 0#14)
  | .kshr d a b => some (7#6 ++ d ++ a ++ b ++ 0#14)
  | .kand d a b => some (8#6 ++ d ++ a ++ b ++ 0#14)
  | .kor d a b => some (9#6 ++ d ++ a ++ b ++ 0#14)
  | .kaddi d a i => some (10#6 ++ d ++ a ++ 0#4 ++ i)
  | .kcmp d a b c => some (11#6 ++ d ++ a ++ b ++ 0#11 ++ c.bits)
  | .kld d a e => some (12#6 ++ d ++ a ++ 0#4 ++ e)
  | .kst a b e => some (208#10 ++ a ++ b ++ e)
  | .kbr o => some (16#6 ++ o)
  | .kbrc d o => some (17#6 ++ d ++ o)
  | .kloop n a i => some (18#6 ++ n ++ a ++ 0#4 ++ i)
  | .kendloop n => some (19#6 ++ n ++ 0#22)
  | .gset n a => some (24#6 ++ n ++ a ++ 0#18)
  | .gstep d n x => some (25#6 ++ d ++ n ++ 0#15 ++ x)
  | .gaddr d n => some (26#6 ++ d ++ n ++ 0#18)
  | .line d a n => some (32#6 ++ d ++ a ++ 0#4 ++ n)
  | .gather d a g n => some (33#6 ++ d ++ a ++ g ++ n)
  | .scatter g a b n => some (34#6 ++ g ++ a ++ b ++ n)
  | .reduce d a op n => some (35#6 ++ d ++ a ++ 0#4 ++ op.bits ++ n)
  | .convert gd gs c => some (36#6 ++ gd ++ gs ++ 0#10 ++ c)
  | .scribeArrive a b => some (640#10 ++ a ++ b ++ 0#14)
  | .waitb a b => some (656#10 ++ a ++ b ++ 0#14)
  | .sfence wm rm => some (688128#20 ++ wm ++ rm)
  | .signal a b sc => some (688#10 ++ a ++ b ++ 0#11 ++ sc.bits)
  | .scribeRegion => some (3221225472#32)
  | .scribeEnd => some (3288334336#32)
  | .scribeProgramEnd _ _ => none
  | .scribeProgramStart _ => none
  | .lineOperation _ _ => none
  | .scribeLong => none
  | .waitbWake _ _ => none
  | .anvilGrant _ => none
  | .anvilPassCommit _ => none
  | .anvilRequestComplete _ => none
  | .loadFill _ => none
  | .storePerformed _ => none
  | .acpComplete _ => none
  | .waitaddrWake _ => none
  | .sleepuntilWake _ => none
  | .trapInvocation _ => none
  | .streamDeadlock _ => none
  | .barMismatch _ => none
  | .watchdog _ => none
  | .pageWalk _ => none
  | .pageRequest _ => none
  | .pageRequestTimeout _ => none
  | .registerRefill _ _ _ => none
  | .scratchPageReturn _ _ => none
  | .registerSwapOut _ => none
  | .registerSwapIn _ => none
  | .registerAgeing _ _ => none
  | .unitRemap _ => none
  | .residencyExpansion _ => none
  | .foldRequest _ _ => none
  | .teamPlacement _ => none
  | .quantumExpiry _ _ => none
  | .forcedEviction _ => none
  | .quireSave _ => none
  | .quireResume _ => none
  | .killAndReset _ => none
  | .nopPacket _ => none
  | .launchPacket _ => none
  | .waitPacket _ => none
  | .waitSatisfied _ => none
  | .writePacket _ => none
  | .contextRecordConfig _ => none
  | .vdevRecordConfig _ => none
  | .ringRecordConfig _ => none
  | .partitionRecordConfig _ => none
  | .destinationEntryConfig _ => none
  | .fabricRecordConfig _ => none
  | .msixEntriesConfig _ => none
  | .pageResponsePacket _ => none
  | .invalidatePacket _ => none
  | .invalidationComplete _ => none
  | .invalidPacket _ => none
  | .ringPacketRead _ _ => none
  | .packetCompletion _ => none
  | .coalescingTimeout _ _ => none
  | .doorbellTail _ _ _ => none
  | .prqcons _ _ => none
  | .evcons _ => none
  | .adminRingRecord _ => none
  | .registerWrite _ => none
  | .tokenRefill => none
  | .flitReceive _ _ => none
  | .ackReceive _ _ _ => none
  | .remoteResponse _ _ => none
  | .linkDown _ => none
  | .ackTimeout _ _ _ => none
  | .routeWaitTimeout _ _ _ => none
  | .powerOn _ => none
  | .coldStart _ => none
  | .warmStart _ => none
  | .unitReady _ => none
  | .retrain _ => none
  | .retrainingStart _ => none
  | .retrainingEnd _ => none
  | .marginResolve _ => none
  | .fetchRange => none
  | .illegalOp => none
  | .scribeIllegal => none
  | .uncorrectableError _ => none
  | .powerLoss _ => none
  | .linkUp _ => none
  | .powerLimit _ => none
  | .drainBoundExpiry _ => none

/-- The instruction is one of a scribe program (R288). -/
def isScribe (i : Instr) : Bool :=
  match i with
  | .kmovi _ _ => true
  | .kmovhi _ _ => true
  | .kadd _ _ _ => true
  | .ksub _ _ _ => true
  | .kmul _ _ _ => true
  | .kshl _ _ _ => true
  | .kshr _ _ _ => true
  | .kand _ _ _ => true
  | .kor _ _ _ => true
  | .kaddi _ _ _ => true
  | .kcmp _ _ _ _ => true
  | .kld _ _ _ => true
  | .kst _ _ _ => true
  | .kbr _ => true
  | .kbrc _ _ => true
  | .kloop _ _ _ => true
  | .kendloop _ => true
  | .gset _ _ => true
  | .gstep _ _ _ => true
  | .gaddr _ _ => true
  | .line _ _ _ => true
  | .gather _ _ _ _ => true
  | .scatter _ _ _ _ => true
  | .reduce _ _ _ _ => true
  | .convert _ _ _ => true
  | .scribeArrive _ _ => true
  | .waitb _ _ => true
  | .sfence _ _ => true
  | .signal _ _ _ => true
  | .scribeRegion => true
  | .scribeEnd => true
  | _ => false

end Sys2Proof
end

