-- ==== Sys2Proof/Config.lean ====
section
/-! DEFINITION. What the manual fixes once for the whole module: counts of units (R6, R7, R8), address regions
(R102, R355) and limits. No value here is chosen by the model. -/

namespace Sys2Proof.Config

/-- Clusters of the package (R7). -/
def clusters : Nat := 96

/-- Scribes of the package, two for each cluster (R7). -/
def scribes : Nat := 192

/-- Cores of a cluster (R7). -/
def coresPerCluster : Nat := 24

/-- Register-file entries of a core (R8, R9). -/
def regEntries : Nat := 65536

/-- Bytes of a core's scratchpad (R8). -/
def scratchBytes : Nat := 524288

/-- Barrier slots of a core (R8). -/
def barrierSlots : Nat := 32

/-- Register-resident logical slices of a core (R8). -/
def sliceSlots : Nat := 64

/-- Team places of a core (R8). -/
def teamPlaces : Nat := 16

/-- Context places of a core (R8). -/
def ctxPlaces : Nat := 4

/-- The first address of the SRAM window (R102). -/
def sramBase : Nat := 0x00FF_0000_0000_0000

/-- Bytes of the SRAM window (R102). -/
def sramSize : Nat := 0x8000_0000

/-- The first address of the local scratch alias (R102). -/
def aliasBase : Nat := 0x00FF_0001_0000_0000

/-- The first location above HBM (R355). -/
def hbmEnd : Nat := 0x0180_0000_0000

/-- The first location of the second tier, and the first above it (R355). -/
def cxlBase : Nat := 0x1000_0000_0000

/-- The first location above the second tier (R355). -/
def cxlEnd : Nat := 0x2000_0000_0000

/-- The doorbell pages of this node (R373). -/
def doorbellBase : Nat := 0x3F10_0000_0000

/-- Virtual devices of the package: eight for each of 48 partitions (R365). -/
def vdevs : Nat := 384

/-- The key under which the model keeps the reserved virtual device of the administrative ring (R402). -/
def adminVdev : Nat := 384

/-- Cycles of CLOCK in a microsecond at the 1.4 GHz clock (R2). -/
def cyclesPerUs : Nat := 1400

/-- The PHASE and count bytes of a counted barrier (R243). -/
def barrierBytes : Nat := 16

/-- FREE VALUE (log entry 12): what a lane that does not act supplies to an exchange instruction through `v[xk]` when
its index register names no register of the window (R52, R193): the manual gives none. Arguments: the register
number, the lane, and the stream's instruction count. -/
opaque outOfWindow : Nat → Nat → Nat → Word32

/-- FREE VALUE (log entry 175): whether a GSET that finds a cached copy of its record reads a 4-byte unit that has changed since as
memory shows it (R287), each unit for itself. Arguments: the program's number, its count of instructions, the unit. -/
opaque recordNew : Nat → Nat → Nat → Bool

/-- FREE VALUE (log entry 21): the bits of a lane that RDSL reads from an LDQ entry that is reserved and not yet
filled, or that is poisoned (R328): the manual gives none. Arguments: the entry's reservation number, the lane. -/
opaque unfilledEntry : Nat → Nat → Word32

/-- FREE VALUE (log entry 25): whether the memory behind a linked CXL port fills a second-tier unit (R355), which each
installation decides. Argument: the unit's number. -/
opaque cxlBacked : Nat → Bool

/-- FREE VALUE (log entry 26): the bin that the margin plan of a start gives a cluster when a write of RESET requests
the start (R403, R409): path delays decide it. Arguments: the model's serial counter, the cluster. -/
opaque marginBin : Nat → Nat → BitVec 3

/-- FREE VALUE (log entry 167): whether the replay of a stack's saved training parameters fails after a warm start (R403).
Arguments: the model's serial counter, the stack. -/
opaque replayFails : Nat → Nat → Bool

/-- What a read under one key id finds in a block of memory whose payload was last written under another (R356): its tweak
is the number of the block. The spec gives no value, so none is known (log entry 124). -/
opaque otherKey : Nat → Nat → Nat → BitVec 512 → BitVec 512

/-- FREE VALUE (log entry 141): the latest-service CLOCK value that a deadline request carries (R369): the manual does not
say how it is chosen. Argument: the model's serial counter. -/
opaque latestService : Nat → Nat

end Sys2Proof.Config
end

