-- ==== Sys2Proof/Machine/State.lean ====
section
/-! DEFINITION. The state of the machine as plain data: every register, queue, counter, memory and record that the
manual gives the package, with the outcomes of a step. Collections indexed by a number are association lists in
one canonical form (keys strictly rising, no entry equal to the default), read and written by Machine/Assoc.lean. -/

namespace Sys2Proof.Machine

/-- Why a step stops the machine. The manual's own faults are no such stop: they are taken as traps (R322), so the
two reasons here only say that the caller named a unit that is not there. -/
inductive Fault where
  /-- Raised by a meaning whose instruction only a lane stream, the trap context or a scribe can run, when the
  state's issuer is no such unit, or holds no program. Step reaches this only when the schedule lists such an
  instruction as an event. Safe: the machine stops where no hardware unit runs. -/
  | noIssuer
  /-- Raised by step when the schedule names a stream or scribe context that holds no program. Safe: the
  machine stops where no hardware unit runs. -/
  | noAgent
deriving DecidableEq, Repr

/-- An instruction without a meaning. -/
inductive Refusal where
  /-- Raised by no arm of exec in this model; it is the name under which an arm would reject an instruction that
  has no meaning yet. Safe. -/
  | notModelled (mnemonic : String)
deriving DecidableEq, Repr

/-- An association list: keys strictly rising, no value equal to the collection's default. -/
abbrev Assoc (α : Type) := List (Nat × α)

/-- Memory: cells at physical locations of HBM and the second tier (R355) and at SRAM window addresses (R102). -/
abbrev Memory := List Host.Cell

/-- A fault that an instruction or access raises, as its trap record will hold it (R325, R326). -/
structure FaultInfo where
  code : Nat
  detail : Nat
  faddr : Word64
  lanes : BitVec 4
deriving DecidableEq, Repr

/-- Pending hint state of one stream (R163, R169). -/
structure Hint where
  immp : BitVec 24
  immv : Bool
  modrm : BitVec 3
  modsat : Bool
  lastb : Bool
  lasta : Bool
  modv : Bool
  gpred : BitVec 3
  gneg : Bool
  gleft : Nat
deriving DecidableEq, Repr

/-- The mask stack: eight entries of storage and a depth (R28, R329). -/
structure MaskStack where
  depth : Nat
  ents : Assoc (BitVec 4)
deriving DecidableEq, Repr

/-- The return stack: sixteen entries of storage and a depth (R237, R329). -/
structure RetStack where
  depth : Nat
  ents : Assoc Word64
deriving DecidableEq, Repr

/-- Where a checked address leads (R102, R107). -/
inductive Space where
  | sram | hbm | cxl
  | remote (entry : Nat)
deriving DecidableEq, Repr

/-- A checked address: its space, its location (SRAM window address, physical location, or location at the remote
node), the DUP partner entry (R394), its key id, which is 0 for a SHARED page (R356, R358), and the address itself. -/
structure Target where
  space : Space
  loc : Nat
  dup : Option Nat
  key : Nat
  va : Nat
deriving DecidableEq, Repr

/-- What a stream waits for beyond its operands (R30, R241, R234, R246). -/
inductive Wait where
  | none
  | merge (id : BitVec 16)
  | bar (slot : Nat)
  | qbar (slot : Nat)
  /-- A WAITADDR, with the codes of its operands (R234). -/
  | addr (at_ : Target) (bytes : Nat) (expect : Nat) (acq : Bool) (codes : List Nat)
  /-- A SLEEPUNTIL, with the codes of its operands (R246). -/
  | sleep (clk : Word64) (bar : Option Word64) (lane : Nat) (codes : List Nat)
  /-- A compute ARRIVE whose arrival is not yet performed (R244). -/
  | arrive
  /-- An SCCANCEL whose program, by its handle, has not ended yet (R283). -/
  | cancel (h : Nat)
  /-- A FOLDCTL whose level changes and moves have not all taken effect (R343): its destination, its request and the slices
  that it has withdrawn. -/
  | fold (d req : Nat) (freed : BitVec 8)
deriving DecidableEq, Repr

/-- What REGION recorded of a stream (R335). -/
structure RegionSave where
  mask : BitVec 4
  mstk : MaskStack
  rstk : RetStack
deriving DecidableEq, Repr

/-- One instruction stream of a slice (R24), or the stream of the trap context (R320). -/
structure Stream where
  /-- Byte offset from the image start; for the trap context a virtual address. -/
  pc : Word64
  /-- The PC of the instruction that led to `pc` (R157, R326). -/
  prev : Word64
  exited : Bool
  mask : BitVec 4
  mstk : MaskStack
  rstk : RetStack
  hint : Hint
  /-- p1 to p7 in bits 1 to 7 of each lane; bit 0 is never read (R49). -/
  preds : Quad (BitVec 8)
  wait : Wait
  /-- CLOCK at team start or at the last YIELD (R33). -/
  age : Nat
  /-- Instructions issued since team start, hints included (R40). -/
  count : Nat
  /-- Rounds of ageing done (R40). -/
  aged : Nat
  /-- The REGION special register (R66, R247). -/
  region : Word64
  regSave : RegionSave
  /-- The last issue attempt stalled on its operands (R35, R60). -/
  stall : Bool
  /-- The last such stall was on a queue condition that only the other stream can release (R27). -/
  qstall : Bool
  /-- Registers the stalled instruction needs refilled, and the registers it names (R41, R42). -/
  want : List Nat
  named : List Nat
  /-- The first access identifier after those that precede the barrier at which the stream waits (R136). -/
  mark : Nat
deriving DecidableEq, Repr

/-- Where a register's value is held (R41, R42): the register file, the scratch part or the HBM part of the spill area,
or nowhere, being dead. -/
inductive RegLoc where
  | resident | scratch | hbm | dropped
deriving DecidableEq, Repr

/-- What the hardware keeps about a v or a register beside its value (R40 to R42, R63, R334). -/
structure RegInfo where
  /-- The ageing round of the last access; the age is min 3 (rounds since then). -/
  touch : Nat
  loc : RegLoc
  /-- Lanes whose value is dead (R63). -/
  dead : BitVec 4
  /-- Lanes whose stored value holds an uncorrectable error (R325, R334). -/
  bad : BitVec 4
deriving DecidableEq, Repr

/-- The state of an LDQ entry (R25, R56, R62). -/
inductive LdState where
  | reserved
  | filled (val : Quad Word32)
  | poisoned (f : FaultInfo)
deriving DecidableEq, Repr

/-- An LDQ entry with its tag (R56); `seq` numbers the reservations of the slice. -/
structure LdEntry where
  seq : Nat
  apc : Word64
  st : LdState
deriving DecidableEq, Repr

/-- An SDQ or CQ entry, with the FPMODE in force at its push and the number of the write that made it (R56, R70). -/
structure QEntry where
  val : Quad Word32
  mode : Word32
  write : Nat
deriving DecidableEq, Repr

/-- The checkpoint of the access stream with the fault it holds (R61, R62). -/
structure Checkpoint where
  str : Stream
  ar : Assoc (Quad Word64)
  arInfo : Assoc RegInfo
  fpmodeA : Word32
  modeSeen : Nat
  /-- The first LDQ reservation number of the failed access and of everything younger. -/
  ldqMark : Nat
  /-- The first flight identifier of the failed access and of everything younger. -/
  flightMark : Nat
  /-- Entries younger instructions popped, oldest first (R61). -/
  sdq : List QEntry
  cq : List QEntry
  fault : FaultInfo
deriving DecidableEq, Repr

/-- A translation park: the page that missed, whether for a write, whether its request was refused, and the page request
that it waits on (R112, R361, R363). -/
structure Park where
  page : Nat
  write : Bool
  refused : Bool
  req : Option Nat
deriving DecidableEq, Repr

/-- A cached leaf (R359): virtual device, page address, page size as a power of two, entry. -/
structure TlbLeaf where
  vdev : Nat
  va : Nat
  bits : Nat
  pte : Word64
deriving DecidableEq, Repr

/-- Where a slice stopped, as its record shows it: the PC and the pending hints of either stream (R322, R325). -/
structure StopPoint where
  cpc : Word64
  apc : Word64
  chint : Word64
  ahint : Word64
deriving DecidableEq, Repr

/-- What taking a notice saved (R46), with the call depth at entry (R237). -/
structure NoticeSave where
  depth : Nat
  mask : BitVec 4
  mstk : MaskStack
  hint : Hint
deriving DecidableEq, Repr

/-- One slice (R49, R23). -/
structure Slice where
  c : Stream
  a : Stream
  v : Assoc (Quad Word32)
  vInfo : Assoc RegInfo
  ar : Assoc (Quad Word64)
  arInfo : Assoc RegInfo
  s : Assoc Word32
  /-- Diverged marks of s0 to s31 (R31). -/
  sdiv : Word32
  x : Assoc (Quad Word32)
  fpmode : Word32
  /-- FPMODE as the access stream sees it (R70). -/
  fpmodeA : Word32
  /-- Writes of FPMODE so far, and the number of the last one that the access stream sees (R70). -/
  modeWrites : Nat
  modeSeen : Nat
  fpflags : Quad Word32
  satflag : Quad Word32
  high : Word32
  noticepc : Word32
  nret : Word32
  slip : Word32
  pend : Bool
  notice : Option NoticeSave
  ldq : List LdEntry
  /-- The number of the next LDQ reservation. -/
  ldqNext : Nat
  sdq : List QEntry
  cq : List QEntry
  nld : Nat
  nst : Nat
  ncp : Nat
  ntl : Nat
  /-- Accesses with at least this identifier follow the last releasing FENCE (R122, R232). -/
  relMark : Nat
  /-- a registers pending a lane copy's status words, with the lanes (R230). -/
  statPend : List (Nat × BitVec 4)
  check : Option Checkpoint
  park : Option Park
  /-- The leaves through which the translated parts of the access stream's parked access go, until it completes (R112). -/
  parts : List TlbLeaf
  held : Bool
  /-- CODE of the anvil error pending mark (R271). -/
  anvErr : Option Nat
  /-- CODE of the scribe error pending mark (R306). -/
  scbErr : Option Nat
  strikes : Nat
  rolled : Bool
  /-- The slice drains its accesses before a region rollback (R335). -/
  rollback : Bool
  /-- The lowest slice of the unit it issues with (R29, R352). -/
  unit : Nat
  /-- The register context is swapped out (R48); the CLOCK since which the slice has been stalled. -/
  swapped : Bool
  since : Nat
  /-- A change of level that has not reached this slice's instruction boundary: whether what it removes goes to the HBM part of
  the spill area alone, and the level that the slice has until then (R37, R344). -/
  levelDue : Option (Bool × Nat)
  /-- The access stream as it stood before the WAITADDR at which it waits, with the entries that this has popped (R61, R220,
  R234). -/
  watch : Option Checkpoint
  /-- Where the slice stopped when it became held (R325). -/
  stop : StopPoint
  /-- Uncorrectable errors consumed while the slice is held, oldest first, each with the stream that consumed it, which act
  once the slice goes on (R334). -/
  errPend : List (Bool × FaultInfo)
deriving DecidableEq, Repr

/-- Whether a team runs, is stopped by a soft or forced eviction, or is saved (R348 to R353). -/
inductive TeamPhase where
  | running | stopped | saved
deriving DecidableEq, Repr

/-- One resident or evicted team (R18, R19, R21, R43, R45, R332). -/
structure Team where
  launch : Nat
  ctx : Nat
  /-- The core that holds the team, or held it before its save (R353). -/
  home : Nat
  s : Nat
  v : Nat
  a : Nat
  base : Nat
  size : Nat
  bars : Nat
  tx : Word32
  ty : Word32
  tz : Word32
  quire : Nat
  qsize : Nat
  qrank : Nat
  level : Nat
  epoch : BitVec 8
  pin : Word32
  wd : Nat
  /-- CLOCK at which the watchdog counter last rose (R36). -/
  wdClock : Nat
  /-- Mapped units, by lowest slice, with the instructions each has issued since it was mapped (R39). -/
  mapped : List (Nat × Nat)
  rr : Nat
  moved : List Nat
  /-- Placement order (R344). -/
  order : Nat
  phase : TeamPhase
  checked : Bool
  /-- Offset of the save area in the context's save pool (R340). -/
  save : Nat
  /-- Scratch bytes of pages moved out or saved, by offset in the allotment (R43, R349; log entry 20). -/
  spill : Assoc Byte
  /-- 4-byte units of those pages that hold an uncorrectable error, by offset div 4 (R334). -/
  spillBad : Assoc Bool
  /-- Counters of the saved team have changed, and its header has not taken them yet (R350). -/
  headerDue : Bool
deriving DecidableEq, Repr

/-- What an eviction has done with a quire (R347 to R353). -/
inductive QuirePhase where
  | running
  | soft (t : Nat)
  | forced (t : Nat)
  | saved
deriving DecidableEq, Repr

/-- One quire (R20, R21). -/
structure Quire where
  launch : Nat
  cluster : Nat
  size : Nat
  members : List Nat
  phase : QuirePhase
  /-- The drain bound has passed: late writes are held at the scratchpad's entry (R350). -/
  drained : Bool
  /-- The CLOCK at which its teams had all stopped for an eviction, from which the drain bound counts (R350). -/
  drainAt : Option Nat
deriving DecidableEq, Repr

/-- One launch (R18 to R20, R377). -/
structure Launch where
  ctx : Nat
  packet : Nat
  /-- Virtual address of the image, and its 64-byte header (R154). -/
  img : Word64
  hdr : BitVec 512
  gx : Nat
  gy : Nat
  gz : Nat
  /-- Linear number of the next team in grid order (R19). -/
  next : Nat
  live : Nat
  checked : Bool
  /-- The cluster of the previous quire plus 1, and the core that last received a team in each cluster, plus 1 (R340). -/
  lastCluster : Nat
  lastCore : Assoc Nat
  status : Nat
  ended : Bool
  /-- CLOCK since which the launch's current time slice on each cluster runs (R347). -/
  quantum : Assoc Nat
  /-- Blocks of the `.sram` section that another module has answered before the first quire, by address (R147). -/
  far : List (Nat × List Byte)
  /-- The bytes of the `.sram` section, read before the first team starts (R147; log entry 60). -/
  image : Option (List Byte)
deriving DecidableEq, Repr

/-- A context place of a core: the context, the copy of its record (R338), PSET (R342), pass values (R341), and
WDLIMIT as written (R321). -/
structure CtxPlace where
  ctx : Option Nat
  record : BitVec 512
  pset : BitVec 8
  /-- Slices this place received from a fold, with the place and the context they came from (R344, R345). -/
  got : List (Nat × Nat × Nat)
  passC : Word32
  passA : Word32
  /-- The context had an issue-eligible unit for the compute port, and for the access unit, in the last move (R341). -/
  eligC : Bool
  eligA : Bool
  wdlimit : Nat
deriving DecidableEq, Repr

/-- A written trap record that waits for an invocation (R323). -/
structure PendRec where
  team : Nat
  slice : Nat
  addr : Word64
  stream : Nat
  faddr : Word64
deriving DecidableEq, Repr

/-- One core (R8, R320, R323). -/
structure Core where
  places : Assoc CtxPlace
  pend : List PendRec
  invoc : Bool
  tcause : Word64
  theld : Word32
  tteam : Nat
  /-- SLICE, STREAM and FADDR of the record that opened the invocation (R325, for DOUBLE_FAULT). -/
  tslice : Nat
  tstream : Nat
  tfaddr : Word64
  /-- The CLOCK at which the compute port and the access unit are free for the next issue (R10, R39, R333). -/
  freeC : Nat
  freeA : Nat
deriving DecidableEq, Repr

/-- What an access in flight does when it performs (R134, R221). -/
inductive FlightKind where
  /-- A load: width in bytes, LDQ reservations to fill, or none for `%zero`. -/
  | load (bytes : Nat) (seqs : List Nat)
  /-- LDX reads its converted tile (R227): width, reservations, conversion bits. The element size of each lane's tile, in
  nibbles, stands in the lane's `data`. -/
  | ldx (bytes : Nat) (seqs : List Nat) (conv : Nat)
  | lddesc (seqs : List Nat)
  | store (bytes : Nat)
  | stdesc
  /-- An atomic: operation number of R225's table, width, reservations, whether it returns. -/
  | atomic (op : Nat) (bytes : Nat) (seqs : List Nat) (ret : Bool)
  /-- A lane copy: size, STAT register, arrival barrier address (R230, R231). -/
  | acp (bytes : Nat) (stat : Nat) (arv : Option Target)
  /-- An arrival on a counted barrier (R243, R244). -/
  | arrive (compute : Bool)
deriving DecidableEq, Repr

/-- One lane's part of an access in flight: target, second target of a copy, data, swap value, and whether its remote
request failed (R392). -/
structure LaneAcc where
  lane : Nat
  tgt : Target
  dst : Target
  data : Nat
  swap : Nat
  bad : Bool
deriving DecidableEq, Repr

/-- An access in flight (R61, R134, R135). -/
structure Flight where
  id : Nat
  owner : Nat
  kind : FlightKind
  lanes : List LaneAcc
  acq : Bool
  rel : Bool
  /-- The REMOTE or DUP request has been sent; its answer is awaited (R393, R394). -/
  sent : Bool
  apc : Word64
  /-- The launch that issued it (R354). -/
  launch : Nat
  /-- 4-byte units, by location div 4, that it sees with a value from before a write that races with it (R114, R115; log
  entry 134). -/
  olds : List (Nat × Nat)
deriving DecidableEq, Repr

/-- A walk in progress (R359): the core that a page request for it names, and the die whose walker holds it; and the same of
the first party that missed to write, for a request that only writes make (R361). -/
structure Walk where
  id : Nat
  vdev : Nat
  page : Nat
  write : Bool
  core : Nat
  die : Nat
  writer : Option (Nat × Nat)
deriving DecidableEq, Repr

/-- A page request (R361): REQID, reason, generation, the core that it names, the die whose walker asked, the first party that
missed to write, the location of its record while that waits for its memory, and the CLOCK at which it was written (R363). -/
structure PageReq where
  id : Nat
  vdev : Nat
  page : Nat
  write : Bool
  reason : Nat
  gen : BitVec 16
  core : Nat
  die : Nat
  writer : Option (Nat × Nat)
  place : Option Nat
  written : Option Nat
deriving DecidableEq, Repr

/-- An anvil request in the reservation table (R250, R251). -/
structure AReq where
  id : Nat
  issued : Nat
  prio : Nat
  core : Nat
  owner : Nat
  /-- The slice that issued it, or that the issuing trap context served (R273, R337). -/
  slice : Nat
  ctx : Nat
  /-- 0 MXLOOP, 1 MXLDB, 2 MXST, 3 MXLDT (R273). -/
  kind : Nat
  cb : BitVec 512
  addr : Word64
  r1 : Word64
  r2 : Word64
  tile : Nat
  fpmode : Word32
  checked : Bool
  apc : Word64
  /-- The launch that it belongs to (R354). -/
  launch : Nat
  /-- It has failed or was killed: it goes once its record is written and what it sent is answered (R126, R137, R412). -/
  ended : Bool
  /-- CODE of its failure, for its slice's pending mark (R271). -/
  code : Nat
  granted : Bool
  committed : Bool
  /-- Uncorrectable errors and checked mismatches met so far (R272). -/
  errs : Nat
  misses : Nat
  park : Option Park
  /-- The bias vector, read at grant (R263). -/
  bias : List Byte
  /-- Blocks of an MXLDB already loaded. -/
  done : Nat
  /-- The output blocks of a committed pass, not yet written: address, bytes and descriptor (R266). -/
  out : List (Nat × List Byte × BitVec 16)
  /-- Answers of remote reads, by tag, and remote requests without an answer. -/
  inbox : List (Nat × List Byte)
  remote : Nat
  /-- 4-byte units that it sees with a value from before a write that races with it (R117; log entry 134). -/
  olds : List (Nat × Nat)
deriving DecidableEq, Repr

/-- The tiles of an evicted context, saved with it (R253): the context, the tiles it may name, their words, which of
them are INVALID, and which hold an uncorrectable error. -/
structure KeptTiles where
  ctx : Nat
  mask : BitVec 8
  words : Assoc Word32
  invalid : BitVec 8
  bad : List Nat
deriving DecidableEq, Repr

/-- One anvil (R12, R253). Tile words lie at 8192 × tile + 64 × row + column. -/
structure Anvil where
  tiles : Assoc Word32
  invalid : BitVec 8
  wb : Assoc Byte
  wbDesc : Assoc (BitVec 16)
  wbBand : Assoc (BitVec 16)
  tabs : Assoc Byte
  tabOk : BitVec 8
  badTile : List Nat
  badWb : List Nat
  badTab : List Nat
  resv : List AReq
  /-- Ungranted requests of evicted teams (R274). -/
  away : List AReq
  kept : List KeptTiles
deriving DecidableEq, Repr

/-- A bound address generator (R275, R293). -/
structure Gen where
  addr : Word64
  record : BitVec 1536
  o : Assoc Word32
deriving DecidableEq, Repr

/-- The registers of a scribe context that REGION saves (R275). -/
structure ScribeRegs where
  pc : Nat
  k : Assoc Word64
  /-- Loop counters: count and start PC. -/
  l : Assoc (Nat × Nat)
  g : Assoc (Option Gen)
deriving DecidableEq, Repr

/-- A data instruction in progress (R296): the instruction, the next line operation, and the SRAM ranges that it targets
while it is under way (R307). -/
structure DataOp where
  i : Instr
  next : Nat
  total : Nat
  dst : List (Nat × Nat)
  /-- The index of the row under way, once one of its lines has read it (R295). -/
  row : Option Nat
deriving DecidableEq, Repr

/-- A scribe program, queued, running or suspended (R275 to R283). -/
structure Prog where
  seq : Nat
  vq : Nat
  owner : Nat
  core : Nat
  ctx : Nat
  launch : Nat
  /-- Offset of its header in the image. -/
  start : Nat
  args : Word64
  res : Bool
  promise : Word64
  fpmode : Word32
  regs : ScribeRegs
  ck : ScribeRegs
  /-- Instructions executed since start or REGION (R301). -/
  count : Nat
  rolled : Bool
  data : Option DataOp
  /-- WAITB in progress: barrier and phase (R300). -/
  waitb : Option (Word64 × Bool)
  ending : Bool
  /-- SCCANCEL waits for its line operations in flight (R283). -/
  cancel : Bool
  /-- CODE of its fault, once it is halted: it ends when its record is written and its writes are performed (R302, R412). -/
  failed : Option Nat
  /-- Accesses of its slice below this identifier are from before its SCSTART (R121). -/
  mark : Nat
  park : Option Park
  /-- Answers of remote reads, by tag, and remote requests without a response. -/
  inbox : List (Nat × List Byte)
  remote : Nat
  /-- 4-byte units that its instruction or line operation sees with a value from before a write that races with it (R115,
  R117; log entry 134). -/
  olds : List (Nat × Nat)
deriving DecidableEq, Repr

/-- A virtual queue of a scribe (R278 to R282, R371). -/
structure SQueue where
  items : List Prog
  next : Nat
  booked : Word64
  pass : Word32
  /-- Outcomes of ended programs, newest first: SEQ and status word (R282). -/
  past : List (Nat × Word32)
deriving DecidableEq, Repr

/-- One scribe (R275, R281). -/
structure Scribe where
  ctxs : Assoc (Option Prog)
  queues : Assoc SQueue
deriving DecidableEq, Repr

/-- A cached layout record (R287): context, address, the place it was read from, bytes. -/
structure CachedRec where
  ctx : Nat
  addr : Word64
  place : Nat
  record : BitVec 1536
deriving DecidableEq, Repr

/-- A submission ring (R372, R373). -/
structure RingSt where
  record : BitVec 512
  head : Word32
  tail : Word32
  en : Bool
deriving DecidableEq, Repr

/-- One virtual device (R367, R372, R381, R382). -/
structure VDev where
  record : BitVec 512
  gen : BitVec 16
  stale : Word32
  prqW : Word32
  prqCons : Word32
  rings : Assoc RingSt
  msix : Assoc (BitVec 128)
  msixPend : BitVec 64
  /-- Pending completions of each vector and the CLOCK of the first (R382). -/
  coal : Assoc (Nat × Nat)
  /-- Configured context records (R338). -/
  ctxs : Assoc (Option (BitVec 512))
deriving DecidableEq, Repr

/-- Where a packet stands (R374, R375, R378). -/
inductive PktPhase where
  /-- Copied from its slot; its address fields wait for translation (R379). -/
  | checking
  | read | started
  | done (status : Nat)
  /-- Its completion signal has been sent to another node and waits for the answer (R382). -/
  | signal
deriving DecidableEq, Repr

/-- A packet that the command complex has read (R374). -/
structure Packet where
  id : Nat
  vdev : Nat
  ring : Nat
  seq : Word32
  bytes : BitVec 2048
  phase : PktPhase
  /-- CADDR failed its check (R378). -/
  caddrBad : Bool
  /-- The translation miss on which it waits, and the pages whose requests were refused (R379). -/
  park : Option Park
  refused : List Nat
  /-- The image header of a LAUNCH that another module has answered (R377). -/
  far : List Byte
  /-- The location in this package of its error record, which comes before its signal (R380). -/
  record : Option Nat
deriving DecidableEq, Repr

/-- An invalidation in progress (R360): the packet, virtual device, range, and the flights it waits for. -/
structure Inval where
  packet : Nat
  vdev : Nat
  lo : Nat
  hi : Nat
  flights : List Nat
deriving DecidableEq, Repr

/-- A flit in a retry buffer (R388): the port it was sent on, and the destination-table entry and route it went over. -/
structure Sent where
  flit : Flit
  port : Nat
  entry : Nat
  route : Nat
deriving DecidableEq, Repr

/-- A stream sent to another node (R386 to R391). -/
structure TxStream where
  next : BitVec 16
  /-- The SEQ after the last flit that has ever been sent: no ack goes beyond it (R391). -/
  sent : BitVec 16
  /-- Flits without an ack, oldest first. -/
  unacked : List Sent
  /-- Flits not yet sent, with the entry each is to use. -/
  queue : List (Flit × Nat)
  /-- The destination-table entry and the route that the stream last used. -/
  entry : Nat
  route : Nat
  lastAck : Nat
  /-- CLOCK at which the stream found no usable route (R391). -/
  waiting : Option Nat
  failed : Option Nat
deriving DecidableEq, Repr

/-- An accepted request that waits for its memory (R393, R401): the port it came in by, its flits, and the latest-service
CLOCK value of a collective one (R369). -/
structure Held where
  port : Nat
  flits : List Flit
  due : Nat
deriving DecidableEq, Repr

/-- A stream received from another node (R389). -/
structure RxStream where
  e : BitVec 16
  /-- The stream is seen to have failed: it restarts at SEQ 0 once the entry of its source is written (R391). -/
  failed : Bool
  parts : List Flit
  /-- Accepted requests whose memory is not ready yet, oldest first. -/
  held : List Held
  /-- The last ack flit sent for the stream, and the port it went out on (R389). -/
  ack : Option (Flit × Nat)
deriving DecidableEq, Repr

/-- A destination-table entry and the failed marks of its routes (R387, R390). -/
structure DestEntry where
  record : BitVec 256
  failed : BitVec 3
deriving DecidableEq, Repr

/-- A unit that issues instructions. -/
inductive Issuer where
  | idle
  | compute (k : Nat)
  | access (k : Nat)
  | trap (core : Nat)
  | scribe (n ctx : Nat)
deriving DecidableEq, Repr

/-- Who waits for the answer to a remote request (R392). -/
inductive RemoteOwner where
  | flight (id lane : Nat)
  | dup (id lane : Nat)
  | waitaddr (k : Nat)
  | scribe (n ctx tag va : Nat)
  | anvil (n id tag va : Nat)
  | cc (packet : Nat)
  /-- A scribe's write of one nibble (R128, R294): the program's context, the entry it goes by, the unit's location, whether
  in clear, the address, the nibble of the unit and its value, what the unit is taken to hold, and the descriptor. -/
  | nibble (n ctx entry loc : Nat) (clear : Bool) (va pos val : Nat) (expect : Word32) (desc : BitVec 16)
  /-- A block of a launch's image, by its address (R147). -/
  | image (launch block : Nat)
  /-- A step of a record that waits (R412). -/
  | record (id : Nat)
  /-- A unit's instruction word at a virtual address (R107, R321). -/
  | code (u : Issuer) (va : Nat)
  | none
deriving DecidableEq, Repr

/-- A remote request without a response. -/
structure RemoteReq where
  id : Nat
  owner : RemoteOwner
  part : Nat
  node : Nat
  tc : Nat
  /-- The failure code of R391 once the request's stream has failed. -/
  doomed : Option Nat
  /-- The launch that it is made for, if any (R137). -/
  launch : Option Nat
deriving DecidableEq, Repr

/-- The fabric (R383 to R394). -/
structure Fabric where
  record : BitVec 512
  evW : Word32
  evCons : Word32
  evLost : Word32
  /-- Streams sent, by 4 × node + class. -/
  tx : Assoc TxStream
  /-- Streams received, by 4 × node + class. -/
  rx : Assoc RxStream
  reqs : List RemoteReq
deriving DecidableEq, Repr

/-- Bring-up (R400 to R410). -/
structure Boot where
  ready : BitVec 256
  bootstat : Word64
  retrain : Word32
  /-- Stacks whose retraining is under way (R370). -/
  training : Word32
  bins : Assoc (BitVec 8)
  /-- The images of the firmware slots A and B, and the hash of the public key that is fused into the package (R404). -/
  slotA : List Byte
  slotB : List Byte
  fuse : BitVec 256
  marker0 : BitVec 128
  marker1 : BitVec 128
  /-- Generation of the partition keys (R403). -/
  keys : Nat
  /-- Generation of each stack's saved training parameters (R403, R408). -/
  params : Assoc Nat
  /-- Marker copies that a power loss has interrupted: not valid until they are written again (R407). -/
  torn : BitVec 2
  /-- Clusters that failed bin 3 at the start (R409). -/
  failed : BitVec 96
  /-- CLOCK at which the margin plan was last solved (R409). -/
  solved : Nat
  /-- Ports whose link is down (R390, R391). -/
  down : BitVec 18
  powered : Bool
deriving DecidableEq, Repr

/-- The unit that waits until its record is written (R412): none, a scribe's context or an anvil's entry. -/
inductive RecUnit where
  | none
  | scribe (n ctx : Nat)
  | anvil (n id : Nat)
deriving DecidableEq, Repr

/-- How far a record is that has to wait (R324, R412): its area's header is still to be read, or is known (WRIDX and NENT),
or its bytes are on their way to an address and WRIDX is to be incremented after them, or that too has been asked for. -/
inductive RecStep where
  | header
  | body (w nent : Nat)
  | count (addr : Nat)
  | last (addr : Nat)
deriving DecidableEq, Repr

/-- A record that waits, for the translation of its place or for another module (R412). -/
structure RecWait where
  id : Nat
  ctx : Nat
  core : Nat
  bytes : List Byte
  /-- What it reports: a slice trap, which waits for an invocation once written, or another event. -/
  trap : Option PendRec
  unit : RecUnit
  park : Park
  step : RecStep
  /-- Requests to another module that have no answer yet. -/
  out : Nat
deriving DecidableEq, Repr

/-- An instruction word on another module: the unit that asked for it, its virtual device and address, and the word once it
has come (R107, R321). -/
structure FarWord where
  unit : Issuer
  vdev : Nat
  va : Nat
  word : Option Word32
deriving DecidableEq, Repr

/-- Save or restore traffic that waits in the deadline queues of memory controllers (R369): the quire, whether it is its
save, the controllers, and its latest-service CLOCK value. -/
structure Deadline where
  quire : Nat
  save : Bool
  ctrls : List Nat
  due : Nat
deriving DecidableEq, Repr

/-- A write to the HBM part of a core's spill area that its memory has not taken yet (R42, R43): the core, the virtual device,
the address and the number of bytes. -/
structure SpillOut where
  core : Nat
  /-- The launch whose team's save area it goes to. -/
  launch : Nat
  vdev : Nat
  va : Nat
  bytes : Nat
deriving DecidableEq, Repr

/-- What moves next: a unit that issues, or an event (log entry 1). -/
inductive Turn where
  | issue (u : Issuer)
  | event (i : Instr)
deriving DecidableEq, Repr

/-- Who reads: an access of a slice or an anvil's request, by its identifier, or a scribe's program. -/
inductive MemReader where
  | access (id : Nat)
  | program (n ctx : Nat)
  | request (id : Nat)
deriving DecidableEq, Repr

/-- One move of the schedule: the cycles that pass, what moves, and what the hardware's timing decides (log entries 1
and 129). -/
structure Move where
  dt : Nat
  turn : Turn
  /-- The soft errors that corrupt checked issues of this move (R333): slice key and the mask of lanes that mismatch,
  or for an anvil 2^22 + its number and a row. -/
  soft : List (Nat × Nat)
  /-- Units whose operands are not ready yet for a reason of timing alone, such as the latency of an earlier result
  (R35). -/
  busy : List Issuer
  /-- Slices whose instruction boundary comes after this move, so that a change of level reaches them later (R37). -/
  late : List Nat
  /-- Readers in flight, each with a 4-byte unit that it sees as it is before what this move writes there (R114, R115,
  R117). -/
  olds : List (MemReader × Nat)
  /-- Streams from other nodes, by 4 × node + class, that restart at SEQ 0 after a failure, their entries having been written at
  their sources (R391). -/
  restarts : List Nat
deriving DecidableEq, Repr

/-- The whole package. -/
structure State where
  clock : Word64
  sched : List Move
  issuer : Issuer
  soft : List (Nat × Nat)
  busy : List Issuer
  late : List Nat
  olds : List (MemReader × Nat)
  serial : Nat
  mem : Memory
  desc : Assoc (BitVec 16)
  /-- The key id under which the payload of a 64-byte block was last written, plus one; 0 for a block that nothing has
  written since the last cold start (R356; log entry 124). -/
  keyed : Assoc Nat
  /-- 4-byte units that hold an uncorrectable error, by location div 4, in rising order (R334). -/
  poison : Assoc Bool
  slices : Assoc Slice
  teams : Assoc (Option Team)
  cores : Assoc Core
  anvils : Assoc Anvil
  scribes : Assoc Scribe
  recCache : Assoc (List CachedRec)
  quires : Assoc (Option Quire)
  launches : Assoc (Option Launch)
  flights : List Flight
  tlb : List TlbLeaf
  /-- Leaves that others have replaced, while accesses that used them may be in flight (R360). -/
  tlbGone : List TlbLeaf
  /-- Pages whose requests have been refused in this move: virtual device, page, and whether only writes had missed (R363). -/
  refused : List (Nat × Nat × Bool)
  /-- Virtual devices whose accesses wait at controllers, beside those of lanes (R368; log entry 76). -/
  pressing : List (Nat × Nat)
  walks : List Walk
  pageReqs : List PageReq
  recWaits : List RecWait
  /-- The deadline queues' save and restore traffic (R369). -/
  deadlines : List Deadline
  /-- Writes of the command complex and the fabric that wait for their memory, oldest first: location and bytes (R370,
  R401). -/
  posted : List (Nat × List Byte)
  /-- Writes to the spill areas that wait for their memory, oldest first (R42, R43, R370, R401). -/
  spills : List SpillOut
  /-- Instruction words that units have asked other modules for, newest first (R107, R321). -/
  farCode : List FarWord
  partitions : Assoc (BitVec 512)
  vdevs : Assoc VDev
  dests : Assoc DestEntry
  packets : List Packet
  invals : List Inval
  fabric : Fabric
  boot : Boot
  /-- Token buckets, by 64 × virtual device + controller, as tokens spent below BURST (R368). -/
  tokens : Assoc Nat
  /-- Refills of the buckets that have taken place (R368). -/
  refills : Nat
  /-- Clusters whose teams are throttled (R16, R35). -/
  throttled : List Nat
deriving DecidableEq, Repr

/-- No pending hint (R23). -/
def Hint.none : Hint := ⟨0, false, 0, false, false, false, false, 0, false, 0⟩

/-- A stream at offset 0 with all lanes active and nothing pending (R23). -/
def Stream.zero : Stream where
  pc := 0
  prev := 0
  exited := false
  mask := 15
  mstk := ⟨0, []⟩
  rstk := ⟨0, []⟩
  hint := Hint.none
  preds := ⟨0, 0, 0, 0⟩
  wait := .none
  age := 0
  count := 0
  aged := 0
  region := 0
  regSave := ⟨15, ⟨0, []⟩, ⟨0, []⟩⟩
  stall := false
  qstall := false
  want := []
  named := []
  mark := 0

/-- The state of a slice at team start, but for its PCs (R23). -/
def Slice.zero : Slice where
  c := Stream.zero
  a := Stream.zero
  v := []
  vInfo := []
  ar := []
  arInfo := []
  s := []
  sdiv := 0
  x := []
  fpmode := 0
  fpmodeA := 0
  modeWrites := 0
  modeSeen := 0
  fpflags := ⟨0, 0, 0, 0⟩
  satflag := ⟨0, 0, 0, 0⟩
  high := 0
  noticepc := 0
  nret := 0
  slip := 32
  pend := false
  notice := none
  ldq := []
  ldqNext := 0
  sdq := []
  cq := []
  nld := 0
  nst := 0
  ncp := 0
  ntl := 0
  relMark := 0
  statPend := []
  check := none
  park := none
  parts := []
  held := false
  anvErr := none
  scbErr := none
  strikes := 0
  rolled := false
  rollback := false
  unit := 0
  swapped := false
  since := 0
  levelDue := none
  watch := none
  stop := ⟨0, 0, 0, 0⟩
  errPend := []

/-- A register never accessed: age 0, resident, not dead (R40). -/
def RegInfo.zero : RegInfo := ⟨0, .resident, 0, 0⟩

/-- A context place that no context holds; PSET is 0xFF when one becomes resident (R342). -/
def CtxPlace.zero : CtxPlace := ⟨none, 0, 0xFF, [], 0, 0, false, false, 0⟩

/-- A core with nothing resident and no invocation (R321). -/
def Core.zero : Core := ⟨[], [], false, 0, 0, 0, 0, 0, 0, 0, 0⟩

/-- An anvil at a cold start (R253): tiles VALID and zero, weight buffer zero, every slot invalid. -/
def Anvil.zero : Anvil := ⟨[], 0, [], [], [], [], 0, [], [], [], [], [], []⟩

/-- An empty virtual queue (R280). -/
def SQueue.zero : SQueue := ⟨[], 0, 0, 0, []⟩

/-- A scribe that runs nothing. -/
def Scribe.zero : Scribe := ⟨[], []⟩

/-- A ring at its reset values (R372). -/
def RingSt.zero : RingSt := ⟨0, 0, 0, false⟩

/-- A virtual device at its reset values (R367). -/
def VDev.zero : VDev := ⟨0, 0, 0, 0, 0, [], [], 0, [], []⟩

/-- A destination entry at its reset value (R387). -/
def DestEntry.zero : DestEntry := ⟨0, 0⟩

/-- A stream before its first flit (R389, R391). -/
def TxStream.zero : TxStream := ⟨0, 0, [], [], 0, 0, 0, none, none⟩

/-- A received stream before its first flit. -/
def RxStream.zero : RxStream := ⟨0, false, [], [], none⟩

/-- The fabric at its reset values (R384). -/
def Fabric.zero : Fabric := ⟨0, 0, 0, 0, [], [], []⟩

/-- Bring-up state before anything is ready (R400, R406, R408, R410; log entry 6 for slots, markers and keys). -/
def Boot.zero : Boot := ⟨0, 0, 0, 0, [], [], [], 0, 0, 0, 0, [], 0, 0, 0, 0, true⟩

/-- The package right after reset: memory and descriptors cleared, every record at its Reset value, nothing
running and nothing ready (R3, R253, R400, R403). -/
def State.reset : State where
  clock := 0
  sched := []
  issuer := .idle
  soft := []
  busy := []
  late := []
  olds := []
  serial := 0
  mem := []
  desc := []
  keyed := []
  poison := []
  slices := []
  teams := []
  cores := []
  anvils := []
  scribes := []
  recCache := []
  quires := []
  launches := []
  flights := []
  tlb := []
  tlbGone := []
  refused := []
  pressing := []
  walks := []
  pageReqs := []
  recWaits := []
  deadlines := []
  posted := []
  spills := []
  farCode := []
  partitions := []
  vdevs := []
  dests := []
  packets := []
  invals := []
  fabric := Fabric.zero
  boot := Boot.zero
  tokens := []
  refills := 0
  throttled := []

end Sys2Proof.Machine
end

