-- ==== Sys2Proof/Machine/Assoc.lean ====
section
/-! DEFINITION. Association lists in canonical form, memory as bytes (R1), values for the four lanes, and the
bit-field, sign and byte-order helpers that the meanings use. -/

namespace Sys2Proof.Machine

/-- The value under a key, or the collection's default. -/
def aget {α : Type} (d : α) : Assoc α → Nat → α
  | [], _ => d
  | (j, y) :: m, k => if j = k then y else aget d m k

/-- The list without a key. -/
def aerase {α : Type} : Assoc α → Nat → Assoc α
  | [], _ => []
  | (j, y) :: m, k => if j = k then aerase m k else (j, y) :: aerase m k

/-- Insert a pair before the first larger key. -/
def ainsert {α : Type} : Assoc α → Nat → α → Assoc α
  | [], k, x => [(k, x)]
  | (j, y) :: m, k, x => if k < j then (k, x) :: (j, y) :: m else (j, y) :: ainsert m k x

/-- Write the value under a key; writing the default removes the entry. -/
def aput {α : Type} [DecidableEq α] (d : α) (m : Assoc α) (k : Nat) (x : α) : Assoc α :=
  if x = d then aerase m k else ainsert (aerase m k) k x

/-- The canonical form: keys strictly rising, no entry equal to the default. -/
def awf {α : Type} [DecidableEq α] (d : α) : Assoc α → Bool
  | [] => true
  | (k, x) :: m => decide (x ≠ d) && m.all (fun p => decide (k < p.1)) && awf d m

/-- Memory is in canonical form. An unlisted byte reads 0 (R80, R403). -/
def Memory.wf (m : Memory) : Bool := awf (0 : Byte) m

/-- One byte of memory. -/
def readByte (m : Memory) (a : Nat) : Byte := aget 0 m a

/-- Write one byte of memory. -/
def writeByte (m : Memory) (a : Nat) (b : Byte) : Memory := aput 0 m a b

/-- The n bytes from an address as a number, little-endian (R1). -/
def readBytes (m : Memory) (a : Nat) : Nat → Nat
  | 0 => 0
  | n + 1 => (readByte m a).toNat + 256 * readBytes m (a + 1) n

/-- Write the low n bytes of a number from an address up, little-endian (R1). -/
def writeBytes (m : Memory) (a : Nat) : Nat → Nat → Memory
  | 0, _ => m
  | n + 1, x => writeBytes (writeByte m a (BitVec.ofNat 8 x)) (a + 1) n (x / 256)

/-- The n bytes from an address, lowest first. -/
def readList (m : Memory) (a : Nat) : Nat → List Byte
  | 0 => []
  | n + 1 => readByte m a :: readList m (a + 1) n

/-- Write a list of bytes from an address up. -/
def writeList (m : Memory) (a : Nat) : List Byte → Memory
  | [] => m
  | b :: bs => writeList (writeByte m a b) (a + 1) bs

/-- A list of bytes as a number, little-endian. -/
def bytesVal : List Byte → Nat
  | [] => 0
  | b :: bs => b.toNat + 256 * bytesVal bs

/-- The low n bytes of a number, lowest first. -/
def valBytes : Nat → Nat → List Byte
  | 0, _ => []
  | n + 1, x => BitVec.ofNat 8 x :: valBytes n (x / 256)

/-- Bits [lo+len-1:lo] of a number. -/
def bits (x lo len : Nat) : Nat := (x >>> lo) % 2 ^ len

/-- Bit i of a number. -/
def bitAt (x i : Nat) : Bool := bits x i 1 == 1

/-- A field of a record. -/
def fld {n : Nat} (r : BitVec n) (lo len : Nat) : Nat := (r.extractLsb' lo len).toNat

/-- Replace a field of a record. -/
def setFld {n : Nat} (r : BitVec n) (lo len x : Nat) : BitVec n :=
  (r &&& ~~~(BitVec.ofNat n ((2 ^ len - 1) <<< lo))) ||| BitVec.ofNat n ((x % 2 ^ len) <<< lo)

/-- The low w bits of a number as a two's-complement integer (R71). -/
def sval (w x : Nat) : Int :=
  let y := x % 2 ^ w
  if 2 * y < 2 ^ w then (y : Int) else (y : Int) - (2 ^ w : Nat)

/-- An integer modulo 2^w (R72). -/
def wrap (w : Nat) (x : Int) : Nat := (x % ((2 ^ w : Nat) : Int)).toNat

/-- Sign-extend the low v bits to w bits. -/
def sext (v w x : Nat) : Nat := wrap w (sval v x)

/-- Serial-number order on w-bit numbers: b is ahead of a by at most half the range. -/
def serialLt (w a b : Nat) : Bool :=
  let d := (b + 2 ^ w - a % 2 ^ w) % 2 ^ w
  decide (0 < d) && decide (d < 2 ^ (w - 1))

/-- The four lane numbers. -/
def laneNums : List Nat := [0, 1, 2, 3]

/-- One lane's value. -/
def qget {α : Type} (q : Quad α) (l : Nat) : α :=
  match l with
  | 0 => q.l0
  | 1 => q.l1
  | 2 => q.l2
  | _ => q.l3

/-- A value for each lane from a function of the lane number. -/
def qof {α : Type} (f : Nat → α) : Quad α := ⟨f 0, f 1, f 2, f 3⟩

/-- The new values in the lanes of a mask, the old ones elsewhere (R28). -/
def qmerge {α : Type} (mask : BitVec 4) (new old : Quad α) : Quad α :=
  qof fun l => if mask.getLsbD l then qget new l else qget old l

/-- The same value in every lane. -/
def qfill {α : Type} (x : α) : Quad α := ⟨x, x, x, x⟩

/-- The lowest lane of a mask. -/
def lowestLane (mask : BitVec 4) : Option Nat := laneNums.find? fun l => mask.getLsbD l

/-- The lanes of a mask, rising. -/
def maskLanes (mask : BitVec 4) : List Nat := laneNums.filter fun l => mask.getLsbD l

/-- The mask of the lanes that satisfy a test. -/
def maskOf (f : Nat → Bool) : BitVec 4 :=
  BitVec.ofBool (f 3) ++ BitVec.ofBool (f 2) ++ BitVec.ofBool (f 1) ++ BitVec.ofBool (f 0)

/-- The minimum of a list by a strict order on a key, the first among equals. -/
def leastBy {α : Type} (lt : α → α → Bool) : List α → Option α
  | [] => none
  | x :: xs =>
    match leastBy lt xs with
    | none => some x
    | some y => if lt y x then some y else some x

end Sys2Proof.Machine
end

