-- ==== Sys2Proof/Machine/Flags.lean ====
section
/-! DEFINITION. Number formats, rounding and the arithmetic flags (R71 to R97): saturation, the floating-point
formats, the one rounding procedure of R86 with the flags of R88, exact sums and products, and the functions of R209. -/

namespace Sys2Proof.Machine

/-- The clamp of R72 into a signed w-bit range, and whether it clamped. -/
def satS (w : Nat) (x : Int) : Int × Bool :=
  if x > ((2 ^ (w - 1) : Nat) : Int) - 1 then (((2 ^ (w - 1) : Nat) : Int) - 1, true)
  else if x < -((2 ^ (w - 1) : Nat) : Int) then (-((2 ^ (w - 1) : Nat) : Int), true)
  else (x, false)

/-- The clamp of R72 into an unsigned w-bit range, and whether it clamped. -/
def satU (w : Nat) (x : Int) : Int × Bool :=
  if x > ((2 ^ w : Nat) : Int) - 1 then (((2 ^ w : Nat) : Int) - 1, true)
  else if x < 0 then (0, true)
  else (x, false)

/-- The rounding arithmetic right shift of R73. -/
def shrRound (a : Int) (n : Nat) : Int :=
  if n = 0 then a else (a + ((2 ^ (n - 1) : Nat) : Int)) / ((2 ^ n : Nat) : Int)

/-- The floating-point formats of R74. -/
inductive Fmt where
  | f64 | f32 | f16 | bf16 | e4m3 | e5m2 | e2m1
deriving DecidableEq, Repr

/-- The rounding modes of R85. -/
inductive RMode where
  | rn | rz | ru | rd | rna
deriving DecidableEq, Repr

/-- The width of a format (R74). -/
def fmtWidth : Fmt → Nat
  | .f64 => 64 | .f32 => 32 | .f16 => 16 | .bf16 => 16 | .e4m3 => 8 | .e5m2 => 8 | .e2m1 => 4

/-- The fraction bits of a format (R74). -/
def fmtFrac : Fmt → Nat
  | .f64 => 52 | .f32 => 23 | .f16 => 10 | .bf16 => 7 | .e4m3 => 3 | .e5m2 => 2 | .e2m1 => 1

/-- The exponent bits of a format (R74). -/
def fmtExp : Fmt → Nat
  | .f64 => 11 | .f32 => 8 | .f16 => 5 | .bf16 => 8 | .e4m3 => 4 | .e5m2 => 5 | .e2m1 => 2

/-- The bias of a format (R74). -/
def fmtBias : Fmt → Nat
  | .f64 => 1023 | .f32 => 127 | .f16 => 15 | .bf16 => 127 | .e4m3 => 7 | .e5m2 => 15 | .e2m1 => 1

/-- The pattern of the largest finite value (R75). -/
def fmtMax : Fmt → Nat
  | .f64 => 0x7FEFFFFFFFFFFFFF | .f32 => 0x7F7FFFFF | .f16 => 0x7BFF | .bf16 => 0x7F7F
  | .e4m3 => 0x7E | .e5m2 => 0x7B | .e2m1 => 0x7

/-- The canonical NaN of a format (R75); E2M1 has none, and gives +0 (R86). -/
def fmtNan : Fmt → Nat
  | .f64 => 0x7FF8000000000000 | .f32 => 0x7FC00000 | .f16 => 0x7E00 | .bf16 => 0x7FC0
  | .e4m3 => 0x7F | .e5m2 => 0x7E | .e2m1 => 0

/-- Formats that have infinities (R74). -/
def fmtHasInf : Fmt → Bool
  | .e4m3 => false
  | .e2m1 => false
  | _ => true

/-- Formats that FTZ flushes (R86, R89). -/
def fmtFlush : Fmt → Bool
  | .f32 => true
  | .f16 => true
  | .bf16 => true
  | _ => false

/-- The sign bit of a format, as a pattern. -/
def signBit (f : Fmt) (neg : Bool) : Nat := if neg then 2 ^ (fmtWidth f - 1) else 0

/-- An exact value: a NaN, an infinity, or ±q × 2^e; with `sticky`, a value strictly between q and q + 1 units. -/
inductive XVal where
  | nan
  | inf (neg : Bool)
  | num (neg : Bool) (q : Nat) (e : Int) (sticky : Bool)
deriving DecidableEq, Repr

/-- The flag bits of FPFLAGS (R88). -/
def flagNV : Nat := 1
def flagDZ : Nat := 2
def flagOF : Nat := 4
def flagUF : Nat := 8
def flagNX : Nat := 16

/-- The value of a pattern (R74), with subnormals read as zeros where `ftz` flushes the format (R89). -/
def decodeF (f : Fmt) (ftz : Bool) (x : Nat) : XVal :=
  let neg := bitAt x (fmtWidth f - 1)
  let ef := bits x (fmtFrac f) (fmtExp f)
  let fr := bits x 0 (fmtFrac f)
  let top := ef == 2 ^ fmtExp f - 1
  if fmtHasInf f && top then (if fr = 0 then .inf neg else .nan)
  else if f = .e4m3 && top && fr == 7 then .nan
  else if ef = 0 then
    .num neg (if ftz && fmtFlush f then 0 else fr) (1 - (fmtBias f : Int) - fmtFrac f) false
  else .num neg (2 ^ fmtFrac f + fr) ((ef : Int) - fmtBias f - fmtFrac f) false

/-- Bits needed to write a number. -/
def bitLen (n : Nat) : Nat := if n = 0 then 0 else Nat.log2 n + 1

/-- RoundInt of R86 on q ÷ 2^k, where `sticky` adds a part below q's units. -/
def roundShift (mode : RMode) (neg : Bool) (q k : Nat) (sticky : Bool) : Nat × Bool :=
  let fl := q / 2 ^ k
  let rem := q % 2 ^ k
  let inexact := rem != 0 || sticky
  let twice := 2 * rem
  let above := decide (twice > 2 ^ k) || (twice == 2 ^ k && sticky)
  let tie := twice == 2 ^ k && !sticky && k != 0
  let up : Bool := match mode with
    | .rn => (above && k != 0) || (tie && fl % 2 == 1)
    | .rna => (above && k != 0) || tie
    | .rz => false
    | .ru => inexact && !neg
    | .rd => inexact && neg
  (if up then fl + 1 else fl, inexact)

/-- The pattern of a NaN result, with its flag (R86). -/
def nanOf (f : Fmt) : Nat × Nat := if f = .e2m1 then (0, flagNV) else (fmtNan f, 0)

/-- An infinity of a format (only for formats that have one). -/
def infBits (f : Fmt) (neg : Bool) : Nat := signBit f neg + (2 ^ fmtExp f - 1) * 2 ^ fmtFrac f

/-- Overflow of R86. -/
def overflowF (f : Fmt) (neg : Bool) (mode : RMode) (sat : Bool) : Nat × Nat :=
  let inward := mode == .rz || (mode == .ru && neg) || (mode == .rd && !neg)
  if sat || inward || f == .e2m1 then (signBit f neg + fmtMax f, flagOF ||| flagNX)
  else if f = .e4m3 then (fmtNan f, flagOF ||| flagNX)
  else (infBits f neg, flagOF ||| flagNX)

/-- InfOf of R86. -/
def infOf (f : Fmt) (neg sat : Bool) : Nat × Nat :=
  if fmtHasInf f && !sat then (infBits f neg, 0)
  else if sat || f == .e2m1 then (signBit f neg + fmtMax f, 0)
  else (fmtNan f, flagNV)

/-- RoundFmt of R86: the pattern and the flags it sets. -/
def roundFmt (f : Fmt) (mode : RMode) (sat ftz : Bool) : XVal → Nat × Nat
  | .nan => nanOf f
  | .inf neg => infOf f neg sat
  | .num neg q e sticky =>
    if q = 0 then (signBit f neg, 0) else
    let emin : Int := 1 - (fmtBias f : Int)
    let top : Int := e + bitLen q - 1
    let ex := max top emin
    let k : Int := ex - fmtFrac f - e
    let r := if k ≤ 0 then (q * 2 ^ (-k).toNat, sticky)
      else roundShift mode neg q (min k.toNat (bitLen q + 2)) sticky
    let code := (ex - emin).toNat * 2 ^ fmtFrac f + r.1
    if code > fmtMax f then overflowF f neg mode sat
    else
      let fl := (if r.2 then flagNX else 0) ||| (if r.2 && decide (top < emin) then flagUF else 0)
      if ftz && fmtFlush f && decide (0 < r.1) && decide (r.1 < 2 ^ fmtFrac f) then
        (signBit f neg, fl ||| flagUF ||| flagNX)
      else (signBit f neg + code, fl)

/-- An integer as an exact value. -/
def xInt (x : Int) : XVal := .num (decide (x < 0)) x.natAbs 0 false

/-- Whether a value is a NaN. -/
def xIsNan : XVal → Bool
  | .nan => true
  | _ => false

/-- The value with its sign changed; a NaN stays a NaN. -/
def xNeg : XVal → XVal
  | .nan => .nan
  | .inf n => .inf !n
  | .num n q e s => .num (!n) q e s

/-- The exact product, and whether it is 0 × ∞ (R88). -/
def xMul : XVal → XVal → XVal × Bool
  | .nan, _ => (.nan, false)
  | _, .nan => (.nan, false)
  | .inf a, .inf b => (.inf (a != b), false)
  | .inf a, .num b q _ _ => if q = 0 then (.nan, true) else (.inf (a != b), false)
  | .num b q _ _, .inf a => if q = 0 then (.nan, true) else (.inf (a != b), false)
  | .num a p e _, .num b q f _ => (.num (a != b) (p * q) (e + f) false, false)

/-- The least exponent among exact values. -/
def xMinExp : List XVal → Option Int
  | [] => none
  | .num _ _ e _ :: xs =>
    match xMinExp xs with
    | none => some e
    | some f => some (min e f)
  | _ :: xs => xMinExp xs

/-- The sum of the finite values in units of 2^m. -/
def xSumAt (m : Int) : List XVal → Int
  | [] => 0
  | .num n q e _ :: xs =>
    (if n then -((q * 2 ^ (e - m).toNat : Nat) : Int) else ((q * 2 ^ (e - m).toNat : Nat) : Int)) + xSumAt m xs
  | _ :: xs => xSumAt m xs

/-- A zero of the given sign. -/
def xIsZero (neg : Bool) : XVal → Bool
  | .num n q _ _ => n == neg && q == 0
  | _ => false

/-- An infinity of the given sign. -/
def xIsInf (neg : Bool) : XVal → Bool
  | .inf n => n == neg
  | _ => false

/-- The exact sum of values with the zero signs of R86, and whether it meets +∞ and −∞ (R95; log entry 7). -/
def xSum (mode : RMode) (xs : List XVal) : XVal × Bool :=
  let pos := xs.any (xIsInf false)
  let neg := xs.any (xIsInf true)
  if pos && neg then (.nan, true)
  else if xs.any xIsNan then (.nan, false)
  else if pos then (.inf false, false)
  else if neg then (.inf true, false)
  else
    let m := (xMinExp xs).getD 0
    let s := xSumAt m xs
    if s = 0 then
      let sign := if xs.all (xIsZero false) then false
        else if xs.all (xIsZero true) then true
        else mode == .rd
      (.num sign 0 0 false, false)
    else (.num (decide (s < 0)) s.natAbs m false, false)

/-- The exact sum of products and addends, with the NV flag of R88 and R95. -/
def xDot (mode : RMode) (ps : List (XVal × XVal)) (ds : List XVal) : XVal × Nat :=
  let ms := ps.map fun p => xMul p.1 p.2
  let s := xSum mode (ms.map (·.1) ++ ds)
  (s.1, if s.2 || ms.any (·.2) then flagNV else 0)

/-- Round a value with flags collected before the rounding. -/
def roundWith (f : Fmt) (mode : RMode) (sat ftz : Bool) (x : XVal × Nat) : Nat × Nat :=
  let r := roundFmt f mode sat ftz x.1
  (r.1, r.2 ||| x.2)

/-- Scale an exact value by a power of two. -/
def xScale (k : Int) : XVal → XVal
  | .num n q e s => .num n q (e + k) s
  | x => x

/-- The integer square root, from bit i down. -/
def isqrtFrom (n : Nat) : Nat → Nat → Nat
  | 0, r => if (r + 1) * (r + 1) ≤ n then r + 1 else r
  | i + 1, r =>
    let t := r + 2 ^ (i + 1)
    isqrtFrom n i (if t * t ≤ n then t else r)

/-- The integer square root. -/
def isqrt (n : Nat) : Nat := isqrtFrom n (bitLen n / 2 + 1) 0

/-- 1 ÷ (m × 2^e) for m > 0, to more than 128 bits. -/
def xRcp (neg : Bool) (m : Nat) (e : Int) : XVal :=
  let k := bitLen m + 130
  .num neg (2 ^ k / m) (-e - k) (2 ^ k % m != 0)

/-- √(m × 2^e) for m > 0, to more than 128 bits. -/
def xSqrt (m : Nat) (e : Int) : XVal :=
  let odd := e % 2 != 0
  let m' := (if odd then 2 * m else m) * 2 ^ 260
  let s := isqrt m'
  .num false s ((if odd then e - 1 else e) / 2 - 130) (s * s != m')

/-- 1 ÷ √(m × 2^e) for m > 0, to more than 128 bits. -/
def xRsqrt (m : Nat) (e : Int) : XVal :=
  let odd := e % 2 != 0
  let m' := if odd then 2 * m else m
  let k := bitLen m + 130
  let s := isqrt (2 ^ (2 * k) / m')
  .num false s (-((if odd then e - 1 else e) / 2) - k) (s * s * m' != 2 ^ (2 * k))

/-- Σ over i from `i` of the terms t, t·z/(i·…) of an exponential series: each term is the last × y ÷ i, in units
of 2^-w; a negative y alternates the signs. -/
def expTerms (w : Nat) (y : Int) : Nat → Nat → Int → Int
  | 0, _, _ => 0
  | n + 1, i, t => t + expTerms w y n (i + 1) (t * y / ((2 ^ w * i : Nat) : Int))

/-- e^y in units of 2^-w, for |y| ≤ 1 in those units. -/
def fixExp (w : Nat) (y : Int) : Int := expTerms w y (w / 4 + 40) 1 ((2 ^ w : Nat) : Int)

/-- Σ z^(2j+1) × (±1)^j ÷ (2j+1): the series of artanh (sign +) or arctan (sign −) of 1 ÷ d, times the numerator:
t is the current power and zz the square of z, both in units of 2^-w. -/
def atanTerms (w : Nat) (alt : Bool) (zz : Int) : Nat → Nat → Int → Int
  | 0, _, _ => 0
  | n + 1, j, t =>
    let t' := t * zz / ((2 ^ w : Nat) : Int)
    t / ((2 * j + 1 : Nat) : Int) + atanTerms w alt zz n (j + 1) (if alt then -t' else t')

/-- artanh (alt = false) or arctan (alt = true) of z, in units of 2^-w, |z| ≤ 1/3. -/
def fixAtan (w : Nat) (alt : Bool) (z : Int) : Int :=
  atanTerms w alt (z * z / ((2 ^ w : Nat) : Int)) (w / 3 + 20) 0 z

/-- ln 2 in units of 2^-w. -/
def fixLn2 (w : Nat) : Int := 2 * fixAtan w false (((2 ^ w / 3 : Nat)) : Int)

/-- π in units of 2^-w, by Machin's formula. -/
def fixPi (w : Nat) : Int :=
  16 * fixAtan w true ((2 ^ w / 5 : Nat) : Int) - 4 * fixAtan w true ((2 ^ w / 239 : Nat) : Int)

/-- Terms of the sine series from term i: each is the last × −y² ÷ (i (i + 1)). -/
def sinTerms (w : Nat) (yy : Int) : Nat → Nat → Int → Int
  | 0, _, _ => 0
  | n + 1, i, t => t + sinTerms w yy n (i + 2) (-(t * yy / ((2 ^ w * (i * (i + 1)) : Nat) : Int)))

/-- m × 2^e in units of 2^-w, rounded down. -/
def fixOf (w m : Nat) (e : Int) : Nat :=
  let k := e + w
  if k ≥ 0 then m * 2 ^ k.toNat else m / 2 ^ (-k).toNat

/-- Square a value n times, in units of 2^-w. -/
def sqTimes (w : Nat) : Nat → Int → Int
  | 0, x => x
  | n + 1, x => sqTimes w n (x * x / ((2 ^ w : Nat) : Int))

/-- Sixty-six leading bits of a value that is no dyadic rational, from approximations f w with
|f w − value × 2^w| < 2^40, tried at growing precision until they settle. -/
def settle (f : Nat → Nat) : List Nat → XVal
  | [] => .num false (f 1088) (-1088) true
  | w :: ws =>
    let v := f w
    let lo := v - 2 ^ 40
    let hi := v + 2 ^ 40
    let t := bitLen lo - 66
    if bitLen lo > 66 && lo >>> t == hi >>> t then .num false (lo >>> t) ((t : Int) - w) true
    else settle f ws

/-- The precisions that `settle` tries. -/
def precisions : List Nat := [192, 320, 576, 1088]

/-- 2^(m × 2^e) or 2^−(m × 2^e), for a value that is no integer (R209). -/
def xExp2 (neg : Bool) (m : Nat) (e : Int) : XVal :=
  let k := (-e).toNat
  let whole : Int := if neg then -((m >>> k : Nat) : Int) - 1 else ((m >>> k : Nat) : Int)
  let part := m % 2 ^ k
  let frac := if neg then 2 ^ k - part else part
  xScale (max (min whole 5000) (-5000))
    (settle (fun w => (fixExp w (fixLn2 w * (fixOf w frac e : Int) / ((2 ^ w : Nat) : Int))).toNat) precisions)

/-- log₂ of m × 2^e, for a value that is no power of two (R209). -/
def xLog2 (m : Nat) (e : Int) : XVal :=
  let n := bitLen m - 1
  let whole : Int := e + n
  let f : Nat → Int := fun w =>
    let one := ((2 ^ w : Nat) : Int)
    let x := (fixOf w m (-(n : Int)) : Int)
    let z := (x - one) * one / (x + one)
    whole * one + 2 * fixAtan w false z * one / fixLn2 w
  let r := settle (fun w => (f w).natAbs) precisions
  if whole < 0 then xNeg r else r

/-- sin(π t) for 0 < t < 1/2, t = a ÷ 2^k (R209). -/
def xSinPi (a k : Nat) : XVal :=
  settle (fun w =>
    let y := fixPi w * (fixOf w a (-(k : Int)) : Int) / ((2 ^ w : Nat) : Int)
    (sinTerms w (y * y / ((2 ^ w : Nat) : Int)) (w / 4 + 40) 2 y).toNat) precisions

/-- tanh of m × 2^e, for a positive value (R209); beyond 64 it lies within 2^-66 below 1. -/
def xTanh (m : Nat) (e : Int) : XVal :=
  if e + bitLen m > 6 then .num false (2 ^ 66 - 1) (-66) true
  else settle (fun w =>
    let one := ((2 ^ w : Nat) : Int)
    let u := sqTimes w 7 (fixExp w (-((fixOf w m (e - 6) : Nat) : Int)))
    ((one - u) * one / (one + u)).toNat) precisions

/-- A value rounded to an integer in a mode, and whether it changed (R92, R212). -/
def xToInt (mode : RMode) (neg : Bool) (q : Nat) (e : Int) : Nat × Bool :=
  if e ≥ 0 then (q * 2 ^ e.toNat, false)
  else roundShift mode neg q (min (-e).toNat (bitLen q + 2)) false

/-- The functions of FUNARY that round (R209). -/
inductive UnaryFn where
  | rcp | rsq | sqrt | exp2 | log2 | sinpi | cospi | tanh | rint
deriving DecidableEq, Repr

/-- sin(π x) for |x| = q ÷ 2^k: half turns, then the quarter in which it lies (R209, R210). -/
def sinPiVal (neg : Bool) (q k : Nat) : XVal :=
  let r := q % 2 ^ (k + 1)
  let s := neg != decide (r ≥ 2 ^ k)
  let a := r % 2 ^ k
  let half := 2 ^ k / 2
  if a = 0 then .num neg 0 0 false
  else if 2 * a = 2 ^ k then .num s 1 0 false
  else
    let b := if a > half then 2 ^ k - a else a
    match xSinPi b k with
    | .num _ p e st => .num s p e st
    | x => x

/-- cos(π x) for |x| = q ÷ 2^k (R209, R210). -/
def cosPiVal (q k : Nat) : XVal :=
  let r := q % 2 ^ (k + 1)
  let a := if r > 2 ^ k then 2 ^ (k + 1) - r else r
  if a = 0 then .num false 1 0 false
  else if a = 2 ^ k then .num true 1 0 false
  else if 2 * a = 2 ^ k then .num false 0 0 false
  else
    let s := decide (2 * a > 2 ^ k)
    let b := if s then 2 * a - 2 ^ k else 2 ^ k - 2 * a
    match xSinPi b (k + 1) with
    | .num _ p e st => .num s p e st
    | x => x

/-- The exact result of a FUNARY function that rounds, with the NV and DZ flags (R209, R210). -/
def unaryFn (fn : UnaryFn) (mode : RMode) : XVal → XVal × Nat
  | .nan => (.nan, 0)
  | .inf neg =>
    match fn with
    | .rcp => (.num neg 0 0 false, 0)
    | .rsq => if neg then (.nan, flagNV) else (.num false 0 0 false, 0)
    | .sqrt => if neg then (.nan, flagNV) else (.inf false, 0)
    | .exp2 => if neg then (.num false 0 0 false, 0) else (.inf false, 0)
    | .log2 => if neg then (.nan, flagNV) else (.inf false, 0)
    | .sinpi => (.nan, 0)
    | .cospi => (.nan, 0)
    | .tanh => (.num neg 1 0 false, 0)
    | .rint => (.inf neg, 0)
  | .num neg q e _ =>
    if q = 0 then
      match fn with
      | .rcp => (.inf neg, flagDZ)
      | .rsq => (.inf neg, flagDZ)
      | .sqrt => (.num neg 0 0 false, 0)
      | .exp2 => (.num false 1 0 false, 0)
      | .log2 => (.inf true, flagDZ)
      | .sinpi => (.num neg 0 0 false, 0)
      | .cospi => (.num false 1 0 false, 0)
      | .tanh => (.num neg 0 0 false, 0)
      | .rint => (.num neg 0 0 false, 0)
    else
      let k := (-e).toNat
      let qi := if e ≥ 0 then q * 2 ^ e.toNat else q
      match fn with
      | .rcp => (xRcp neg q e, 0)
      | .rsq => if neg then (.nan, flagNV) else (xRsqrt q e, 0)
      | .sqrt => if neg then (.nan, flagNV) else (xSqrt q e, 0)
      | .exp2 =>
        if qi % 2 ^ k = 0 then
          (.num false 1 (if neg then -((min (qi >>> k) 5000 : Nat) : Int) else ((min (qi >>> k) 5000 : Nat) : Int)) false, 0)
        else (xExp2 neg q e, 0)
      | .log2 =>
        if neg then (.nan, flagNV)
        else if q = 2 ^ (bitLen q - 1) then (xInt (e + ((bitLen q - 1 : Nat) : Int)), 0)
        else (xLog2 q e, 0)
      | .sinpi => (sinPiVal neg qi k, 0)
      | .cospi => (cosPiVal qi k, 0)
      | .tanh => ((match xTanh q e with
        | .num _ p f st => .num neg p f st
        | x => x), 0)
      | .rint => (let r := xToInt mode neg q e
        (.num neg r.1 0 false, if r.2 then flagNX else 0))

/-- The key that orders patterns of one format with −0 below +0 (R204). -/
def orderKey (f : Fmt) (x : Nat) : Int :=
  let mag := bits x 0 (fmtWidth f - 1)
  if bitAt x (fmtWidth f - 1) then -(mag : Int) - 1 else mag

/-- The key that orders patterns of one format with −0 equal to +0 (R205). -/
def valueKey (f : Fmt) (x : Nat) : Int :=
  let mag := bits x 0 (fmtWidth f - 1)
  if bitAt x (fmtWidth f - 1) then -(mag : Int) else mag

/-- The pattern as an operation reads it: under FTZ a subnormal is the zero of its sign (R89). -/
def flushIn (f : Fmt) (ftz : Bool) (x : Nat) : Nat :=
  if ftz && fmtFlush f && bits x (fmtFrac f) (fmtExp f) == 0 then signBit f (bitAt x (fmtWidth f - 1)) else x

/-- A float-to-integer conversion of R92: the result in w bits, and the flags. -/
def floatToInt (signed : Bool) (w : Nat) (mode : RMode) : XVal → Nat × Nat
  | .nan => (0, flagNV)
  | .inf neg =>
    (if signed then (if neg then 2 ^ (w - 1) else 2 ^ (w - 1) - 1) else (if neg then 0 else 2 ^ w - 1), flagNV)
  | .num neg q e _ =>
    let e' := min e 200
    let r := xToInt mode neg q e'
    let x : Int := if neg then -(r.1 : Int) else r.1
    let c := if signed then satS w x else satU w x
    (wrap w c.1, if c.2 then flagNV else if r.2 then flagNX else 0)

/-- The class mask of R211. -/
def fclassOf (x : Nat) : Nat :=
  let neg := bitAt x 31
  let ef := bits x 23 8
  let fr := bits x 0 23
  if ef = 255 then (if fr = 0 then (if neg then 1 else 128) else 256)
  else if ef = 0 then
    (if fr = 0 then (if neg then 8 else 16) else (if neg then 4 else 32))
  else (if neg then 2 else 64)

/-- The value of an E3M5 block scale (R77). -/
def e3m5 (x : Nat) : XVal :=
  let e := bits x 5 3
  let m := bits x 0 5
  if e = 0 then .num false m (-7) false else .num false (32 + m) ((e : Int) - 8) false

end Sys2Proof.Machine
end

