-- ==== Sys2Proof/Machine/Translate.lean ====
section
/-! DEFINITION. Addresses and translation (R101 to R113, R355 to R361): the regions of the virtual space, the page
tables and their walk, the cached leaves, the checks of one lane's address in the order of R411, and the bytes,
descriptors and stored errors of memory. -/

namespace Sys2Proof.Machine

/-- Fault codes of R326. -/
def codeILLEGAL_OP : Nat := 0x01
def codePRIVILEGED : Nat := 0x02
def codeILLEGAL_IN_STREAM : Nat := 0x03
def codeILLEGAL_OPERAND : Nat := 0x04
def codeIDX_RANGE : Nat := 0x05
def codeUNIFORM_DIVERGED : Nat := 0x06
def codeFETCH_RANGE : Nat := 0x07
def codeMASK_OVERFLOW : Nat := 0x08
def codeMASK_UNDERFLOW : Nat := 0x09
def codeCALL_OVERFLOW : Nat := 0x0A
def codeRET_UNDERFLOW : Nat := 0x0B
def codeSTREAM_DEADLOCK : Nat := 0x0C
def codePIN_LIMIT : Nat := 0x0D
def codeBAR_RANGE : Nat := 0x0E
def codeBAR_MISMATCH : Nat := 0x0F
def codeTRAP : Nat := 0x10
def codePROMISE_MISSED : Nat := 0x11
def codeWATCHDOG : Nat := 0x12
def codeNONCANONICAL : Nat := 0x20
def codeMISALIGNED : Nat := 0x21
def codeSRAM_RANGE : Nat := 0x22
def codeSRAM_ACCESS : Nat := 0x23
def codeAPERTURE : Nat := 0x24
def codeTILE_ILLFORMED : Nat := 0x25
def codePAGE_FAULT : Nat := 0x26
def codeDESC_RESERVED : Nat := 0x27
def codeACP_SPACE : Nat := 0x28
def codeBARRIER_SPACE : Nat := 0x29
def codeANVIL_SPACE : Nat := 0x2A
def codeUNCORRECTABLE : Nat := 0x2B
def codeANVIL_ERROR : Nat := 0x30
def codeSCRIBE_PROG : Nat := 0x31
def codeSCRIBE_HANDLE : Nat := 0x32
def codeSCRIBE_ERROR : Nat := 0x33
def codeCHECK_MISMATCH : Nat := 0x40
def codeROLLBACK_REPEAT : Nat := 0x41
def codeDOUBLE_FAULT : Nat := 0x42
def codeANVIL_CHECK : Nat := 0x43

/-- A fault with no address, detail or lanes. -/
def plainFault (code : Nat) : FaultInfo := ⟨code, 0, 0, 0⟩

/-- The partition of a virtual device. -/
def partOf (vdev : Nat) : Nat := vdev / 8

/-- The virtual device of a context. -/
def vdevOf (ctx : Nat) : Nat := ctx / 16

/-- The record of a partition (R365). -/
def partRec (s : State) (p : Nat) : BitVec 512 := aget 0 s.partitions p

/-- The state of a virtual device. -/
def vdevSt (s : State) (v : Nat) : VDev := aget VDev.zero s.vdevs v

/-- Whether a virtual device belongs to a valid partition (R365). -/
def vdevValid (s : State) (v : Nat) : Bool :=
  fld (partRec s (partOf v)) 0 1 == 1 && decide (v % 8 < fld (partRec s (partOf v)) 8 4) && decide (v < Config.vdevs)

/-- The die, cluster of the die and core of the cluster of a device-wide core (R7). -/
def dieOf (core : Nat) : Nat := core / 288
def clusterOf (core : Nat) : Nat := core / 24

/-- The window address of byte `off` of a core's scratchpad (R104). -/
def sramAddr (core off : Nat) : Nat :=
  Config.sramBase + (core / 288) * 2 ^ 28 + (core / 24 % 12) * 2 ^ 24 + (core % 24) * 2 ^ 19 + off

/-- The regions of the 56-bit space (R102). -/
inductive Region where
  | paged
  | sram (core off : Nat)
  | unused
deriving DecidableEq, Repr

/-- The region of an address below 2^56, seen from a core; a scribe or anvil has no alias of its own and uses the
core of the slice that started it (log entry 8). -/
def regionOf (core a : Nat) : Region :=
  if a < Config.sramBase then .paged
  else if a < Config.sramBase + Config.sramSize then
    let o := a - Config.sramBase
    let cl := bits o 24 4
    let co := bits o 19 5
    if cl < 12 && co < 24 then .sram (288 * bits o 28 3 + 24 * cl + co) (bits o 0 19) else .unused
  else if Config.aliasBase ≤ a && a < Config.aliasBase + Config.scratchBytes then .sram core (a - Config.aliasBase)
  else .unused

/-- The key of a team. -/
def teamKey (core place : Nat) : Nat := 16 * core + place

/-- The team at a key. -/
def teamAt (s : State) (t : Nat) : Option Team := aget none s.teams t

/-- The places of a core. -/
def placeNums : List Nat := [0, 1, 2, 3, 4, 5, 6, 7, 8, 9, 10, 11, 12, 13, 14, 15]

/-- Whether a team of a context holds byte `off` in its allotment. -/
def holdsByte (ctx off : Nat) (t : Team) : Bool :=
  t.ctx = ctx && decide (t.base ≤ off) && decide (off < t.base + t.size)

/-- The team of a context whose allotment holds byte `off` of a core's scratchpad: a resident one, or one saved from
that core, whose range it keeps among the teams of its context (R105, R340, R350). -/
def sramOwner (s : State) (ctx core off : Nat) : Option (Nat × Team) :=
  match placeNums.findSome? fun p =>
      match teamAt s (teamKey core p) with
      | some t => if holdsByte ctx off t then some (teamKey core p, t) else none
      | none => none
  with
  | some x => some x
  | none => s.teams.findSome? fun p =>
      match p.2 with
      | some t => if t.phase == .saved && t.home == core && holdsByte ctx off t then some (p.1, t) else none
      | none => none

/-- Whether a partition owns the unit of a bit of its record: an invalid one owns nothing (R365). -/
def ownsUnit (s : State) (p bit : Nat) : Bool := bitAt (partRec s p).toNat 0 && bitAt (partRec s p).toNat bit

/-- Whether a page-table entry is malformed at its level (R358). -/
def pteMalformed (s : State) (p level : Nat) (e : Nat) : Bool :=
  let leaf := bitAt e 1
  let kind := bits e 5 2
  let dup := bitAt e 7
  let dest := bits e 8 8
  let loc := bits e 16 30 * 2 ^ 16
  let pageBits := if level = 2 then 30 else if level = 3 then 21 else 16
  let tableBits := if level = 3 then 8 else 12
  let needsDest := leaf && (kind == 2 || dup)
  bits e 46 18 != 0
    || (leaf && decide (level < 2)) || (!leaf && level == 4)
    || kind == 3
    || (dup && (!leaf || kind != 0))
    || (leaf && !needsDest && dest != 0)
    || (needsDest && !bitAt (aget DestEntry.zero s.dests (256 * p + dest)).record.toNat 12)
    || (!leaf && (bits e 8 38 * 2 ^ 8) % 2 ^ tableBits != 0)
    || (leaf && loc % 2 ^ pageBits != 0)
    || (leaf && kind == 0 && !(decide (loc < Config.hbmEnd) && ownsUnit s p (160 + loc / 2 ^ 35)))
    || (leaf && kind == 1 &&
        !(decide (Config.cxlBase ≤ loc) && decide (loc < Config.cxlEnd)
          && ownsUnit s p (256 + (loc - Config.cxlBase) / 2 ^ 36)
          && !(bitAt s.boot.ready.toNat (138 + (loc - Config.cxlBase) / 2 ^ 41)
            && !Config.cxlBacked ((loc - Config.cxlBase) / 2 ^ 36))))

/-- Whether a location has a descriptor (R80). -/
def hasDesc (loc : Nat) : Bool := decide (loc < Config.sramBase)

/-! Key ids (R103, R356): payload is encrypted under the key id of the access that writes it. -/

/-- The key id of a virtual device's partition. -/
def partKey (vdev : Nat) : Nat := partOf vdev + 1

/-- The blocks of memory that n bytes touch; SRAM is not encrypted. -/
def keyBlocks (loc n : Nat) : List Nat :=
  if hasDesc loc && n != 0 then List.range' (loc / 64) ((loc + n - 1) / 64 + 1 - loc / 64) else []

/-- Whether a block reads under a key id as it was written. -/
def plainUnder (s : State) (key b : Nat) : Bool :=
  let w := aget 0 s.keyed b
  w == 0 || w == key + 1

/-- Memory as a key id shows it at n bytes: a block that was written under another one holds an unknown value. -/
def underKey (s : State) (key loc n : Nat) : Memory :=
  (keyBlocks loc n).foldl (fun m b =>
    if plainUnder s key b then m
    else writeBytes m (64 * b) 64
      (Config.otherKey (aget 0 s.keyed b - 1) key b (BitVec.ofNat 512 (readBytes s.mem (64 * b) 64))).toNat) s.mem

/-- The key ids of blocks after n bytes have been written under one. -/
def takeKey (s : State) (key loc n : Nat) : Assoc Nat := (keyBlocks loc n).foldl (fun m b => aput 0 m b (key + 1)) s.keyed

/-- How a walk ends: at a leaf that maps 2^bits bytes, or without one, for a REASON of R361. -/
inductive WalkEnd where
  | leaf (bits : Nat) (pte : Nat)
  | none (reason : Nat)
deriving DecidableEq, Repr

/-- The levels of a walk: lowest address bit, index width, level (R357). -/
def walkLevels : List (Nat × Nat × Nat) := [(48, 8, 0), (39, 9, 1), (30, 9, 2), (21, 9, 3), (16, 5, 4)]

/-- A walk from a table (R357, R358). -/
def walkFrom (s : State) (p va : Nat) : Nat → List (Nat × Nat × Nat) → WalkEnd
  | _, [] => .none 2
  | table, (lo, n, level) :: rest =>
    let loc := table + 8 * bits va lo n
    let e := readBytes (underKey s (p + 1) loc 8) loc 8
    if !bitAt e 0 then .none 0
    else if pteMalformed s p level e then .none 2
    else if bitAt e 1 then .leaf lo e
    else walkFrom s p va (bits e 8 38 * 2 ^ 8) rest

/-- A walk from the virtual device's PTROOT (R357, R367). -/
def walkAddr (s : State) (vdev va : Nat) : WalkEnd :=
  walkFrom s (partOf vdev) va (fld (vdevSt s vdev).record 0 46) walkLevels

/-- The cached leaf that covers an address (R359). -/
def tlbFind (s : State) (vdev a : Nat) : Option TlbLeaf :=
  s.tlb.find? fun l => l.vdev = vdev && l.va = a / 2 ^ l.bits

/-- Where a leaf leads for an address (R103, R355, R358). -/
def leafTarget (l : TlbLeaf) (a : Nat) : Target :=
  let e := l.pte.toNat
  let loc := bits e 16 30 * 2 ^ 16 + a % 2 ^ l.bits
  let kind := bits e 5 2
  { space := if kind = 0 then .hbm else if kind = 1 then .cxl else .remote (bits e 8 8)
    loc := loc
    dup := if bitAt e 7 then some (bits e 8 8) else none
    key := if bitAt e 4 then 0 else partKey l.vdev
    va := a }

/-- Whether a target is on another module. -/
def isRemote (t : Target) : Bool :=
  match t.space with
  | .remote _ => true
  | _ => false

/-- Whether the data behind a target is not encrypted: its page is SHARED (R356, R358). -/
def isClear (t : Target) : Bool := t.key == 0

/-- Which spaces an access may name (R230, R231, R260). -/
inductive SpaceRule where
  | any
  /-- Only paged memory, else the code. -/
  | paged (code : Nat)
  /-- Only SRAM, else the code. -/
  | sram (code : Nat)
deriving DecidableEq, Repr

/-- What an access asks of its address. -/
structure AccSpec where
  ctx : Nat
  core : Nat
  bytes : Nat
  align : Nat
  write : Bool
  /-- It must name a converting page (R108). -/
  conv : Bool
  space : SpaceRule
deriving DecidableEq, Repr

/-- The outcome of checking one address (R411): a target, a failure code, a translation miss, or a wait for a
moved scratch page or an evicted allotment (R106, R350). -/
inductive Chk where
  | ok (t : Target)
  | bad (code : Nat)
  | miss (page : Nat)
  | stall
deriving DecidableEq, Repr

/-- Whether an SRAM range must wait: a page of it is moved out, or its team is stopped and saved (R106, R350). -/
def sramWaits (t : Team) (off bytes : Nat) : Bool :=
  t.moved.any (fun p => decide (off < t.base + 4096 * (p + 1)) && decide (t.base + 4096 * p < off + bytes))
    || t.phase == .saved

/-- Whether writes to a stopped team's allotment are held at the scratchpad's entry: its quire's drain bound has passed (R350). -/
def heldAtEntry (s : State) (t : Team) : Bool :=
  t.phase == .stopped && (aget none s.quires t.quire).any fun x => x.drained

/-- The team of a context that holds the bytes of a range from an offset to the end of its page. -/
def pieceOwner (s : State) (ctx core stop o : Nat) : Option (Nat × Team) :=
  match sramOwner s ctx core o with
  | some x => if min stop ((o / 4096 + 1) * 4096) ≤ x.2.base + x.2.size then some (o, x.2) else none
  | none => none

/-- The teams of a context that hold the bytes of an SRAM range, page by page, each with the part of it that begins there; none
where a byte lies in no allotment of the context (R105). -/
def rangeOwners (s : State) (ctx core off n : Nat) : Option (List (Nat × Team)) :=
  (off :: ((List.range (n / 4096 + 1)).map fun i => (off / 4096 + 1 + i) * 4096).filter fun o => decide (o < off + n)).mapM
    (pieceOwner s ctx core (off + n))

/-- Check one address in the order of R411, with the pages whose requests were refused. -/
def checkAddr (s : State) (q : AccSpec) (refused : Nat → Bool) (a : Nat) : Chk :=
  if 2 ^ 56 ≤ a then .bad codeNONCANONICAL
  else if a % q.align ≠ 0 then .bad codeMISALIGNED
  else match regionOf q.core a with
  | .unused => .bad codeSRAM_RANGE
  | .sram core off =>
    match q.space with
    | .paged c => .bad c
    | _ =>
      if q.conv then .bad codeAPERTURE
      else match rangeOwners s q.ctx core off q.bytes with
      | none => .bad codeSRAM_ACCESS
      | some ts =>
        if ts.any fun x => sramWaits x.2 off q.bytes || (q.write && heldAtEntry s x.2) then .stall
        else .ok ⟨.sram, sramAddr core off, none, 0, a⟩
  | .paged =>
    match q.space with
    | .sram c => .bad c
    | _ =>
      match tlbFind s (vdevOf q.ctx) a with
      | none => if refused (a / 2 ^ 16) then .bad codePAGE_FAULT else .miss (a / 2 ^ 16)
      | some l =>
        let e := l.pte.toNat
        if bitAt e 3 != q.conv || (bitAt e 3 && bits e 5 2 != 0) then .bad codeAPERTURE
        else if q.write && !bitAt e 2 then
          (if refused (a / 2 ^ 16) then .bad codePAGE_FAULT else .miss (a / 2 ^ 16))
        else .ok (leafTarget l a)

/-- Whether the memory behind a target may be used (R401): its stack or CXL port is ready and not retraining, and
the keys are there for a page under a partition key. -/
def targetReady (s : State) (t : Target) : Bool :=
  let r := s.boot.ready.toNat
  match t.space with
  | .sram => true
  | .hbm => bitAt r (t.loc / 2 ^ 36) && !bitAt s.boot.training.toNat (t.loc / 2 ^ 36) && (isClear t || bitAt r 147)
  | .cxl => bitAt r (138 + (t.loc - Config.cxlBase) / 2 ^ 41) && (isClear t || bitAt r 147)
  | .remote _ => true

/-- Locations of the entries that a walk reads, as far as it goes. -/
def walkLocs (s : State) (p va : Nat) : Nat → List (Nat × Nat × Nat) → List Nat
  | _, [] => []
  | table, (lo, n, level) :: rest =>
    let loc := table + 8 * bits va lo n
    let e := readBytes (underKey s (p + 1) loc 8) loc 8
    if !bitAt e 0 || pteMalformed s p level e || bitAt e 1 then [loc]
    else loc :: walkLocs s p va (bits e 8 38 * 2 ^ 8) rest

/-- Whether the memory that holds the entries of a walk may be read, at the partition's key (R358, R370, R401). -/
def walkReady (s : State) (vdev va : Nat) : Bool :=
  (walkLocs s (partOf vdev) va (fld (vdevSt s vdev).record 0 46) walkLevels).all fun loc =>
    targetReady s ⟨if loc < Config.hbmEnd then .hbm else .cxl, loc, none, partKey vdev, va⟩

/-- Take a fresh serial number. -/
def fresh (s : State) : Nat × State := (s.serial, { s with serial := s.serial + 1 })

/-- The die whose walker a device-wide scribe or anvil uses (R7, R359), and that of the command complex, D0 (R6). -/
def scribeDie (n : Nat) : Nat := n / 24
def anvilDie (n : Nat) : Nat := n / 72
def complexDie : Nat := 0

/-- Register a walk for misses, with the core that a page request for it names, the die whose walker it takes, and the first
party that missed to write; concurrent misses to one page of one virtual device share it (R359, R361). -/
def joinWalk (s : State) (vdev page : Nat) (writer : Option (Nat × Nat)) (core die : Nat) : State :=
  if s.walks.any (fun w => w.vdev = vdev && w.page = page) then
    { s with walks := s.walks.map fun w =>
        if w.vdev = vdev && w.page = page then
          { w with write := w.write || writer.isSome, writer := w.writer.or writer } else w }
  else { s with serial := s.serial + 1, walks := s.walks ++ [⟨s.serial, vdev, page, writer.isSome, core, die, writer⟩] }

/-- Register a walk for one party's miss. -/
def addWalk (s : State) (vdev page : Nat) (write : Bool) (core die : Nat) : State :=
  joinWalk s vdev page (if write then some (core, die) else none) core die

/-- Ask for a page that an access without a park misses, unless a request for it is out (R359, R361). -/
def seekPage (s : State) (vdev page : Nat) (write : Bool) (core die : Nat) : State :=
  if s.pageReqs.any fun r => r.vdev = vdev && r.page = page && (write || r.reason != 1) then s
  else addWalk s vdev page write core die

/-- Whether the request for a page that a read, or a write, misses has been refused in this move (R363). -/
def pageRefused (s : State) (vdev page : Nat) (write : Bool) : Bool :=
  s.refused.any fun r => r.1 == vdev && r.2.1 == page && (write || !r.2.2)

/-- The descriptor of the block that holds a location; SRAM has none (R80, R83). -/
def descAt (s : State) (loc : Nat) : BitVec 16 := if hasDesc loc then aget 0 s.desc (loc / 64) else 0

/-- Write one descriptor. -/
def setDesc (s : State) (loc : Nat) (d : BitVec 16) : State :=
  if hasDesc loc then { s with desc := aput 0 s.desc (loc / 64) d } else s

/-- Set the descriptors of n blocks from a block number. -/
def setDescs (m : Assoc (BitVec 16)) (b : Nat) (d : BitVec 16) : Nat → Assoc (BitVec 16)
  | 0 => m
  | n + 1 => setDescs (aput 0 m b d) (b + 1) d n

/-- Stored errors without those of the 4-byte units that a write covers whole (R334; log entry 9). -/
def clearPoison (m : Assoc Bool) (loc bytes : Nat) : Assoc Bool :=
  m.filter fun u => !(decide (loc ≤ 4 * u.1) && decide (4 * u.1 + 4 ≤ loc + bytes))

/-- Whether a read of n bytes meets a stored error. -/
def poisoned (s : State) (loc bytes : Nat) : Bool :=
  s.poison.any fun u => decide (loc < 4 * u.1 + 4) && decide (4 * u.1 < loc + bytes)

/-- Memory as an access through a target sees its n bytes (R356). -/
def seen (s : State) (t : Target) (n : Nat) : Memory := underKey s t.key t.loc n

/-- The value of n bytes that an access reads through a target. -/
def seenVal (s : State) (t : Target) (n : Nat) : Nat := readBytes (seen s t n) t.loc n

/-- What a reader sees that takes the values of some 4-byte units from before a write (R114, R115). -/
def withOlds (olds : List (Nat × Nat)) (s : State) : State :=
  { s with mem := olds.foldl (fun m u => writeBytes m (4 * u.1) 4 u.2) s.mem }

/-- Write bytes at a location under a key id, and the descriptor of every block they touch (R83, R356): a block is encrypted
whole, so the rest of a block that was written under another key id is what this one shows of it. -/
def storeDesc (s : State) (key loc : Nat) (bs : List Byte) (d : BitVec 16) : State :=
  { s with
    mem := writeList (underKey s key loc bs.length) loc bs
    keyed := takeKey s key loc bs.length
    desc := if hasDesc loc && !bs.isEmpty then
        setDescs s.desc (loc / 64) d ((loc + bs.length - 1) / 64 + 1 - loc / 64) else s.desc
    poison := clearPoison s.poison loc bs.length }

/-- A plain write: descriptors become 0x0000 (R83). -/
def store (s : State) (key loc : Nat) (bs : List Byte) : State := storeDesc s key loc bs 0

/-- A plain write through a target. -/
def storeTo (s : State) (t : Target) (bs : List Byte) : State := store s t.key t.loc bs

end Sys2Proof.Machine
end

