-- ==== Sys2Proof/Machine/Ops.lean ====
section
/-! DEFINITION. Shared operations over the state: reading and writing units of state by their keys, pending hints
(R163 to R169), error records (R324, R325, R412), taking a precise fault (R322), machine checks (R337), the rewind
of R62, the rollback of R335, opening an invocation (R323) and returning from it (R330), and the units of a
stroke (R29, R39). -/

namespace Sys2Proof.Machine

/-- The first key of the trap contexts' streams; a core's trap context has this plus its core number. -/
def trapBase : Nat := 2 ^ 21

/-- The first key of the owners of accesses that an ended invocation has left in flight. -/
def orphanBase : Nat := trapBase + 8192

/-- The slice at a key. -/
def sliceAt (s : State) (k : Nat) : Slice := aget Slice.zero s.slices k

/-- Write a slice. -/
def putSlice (s : State) (k : Nat) (sl : Slice) : State := { s with slices := aput Slice.zero s.slices k sl }

/-- The core with a device-wide number. -/
def coreAt (s : State) (c : Nat) : Core := aget Core.zero s.cores c

/-- Write a core. -/
def putCore (s : State) (c : Nat) (x : Core) : State := { s with cores := aput Core.zero s.cores c x }

/-- Write a team place. -/
def putTeam (s : State) (t : Nat) (x : Option Team) : State := { s with teams := aput none s.teams t x }

/-- The anvil of a core's quad, by its device-wide number (R7). -/
def anvilOf (core : Nat) : Nat := 6 * (core / 24) + core % 6 / 2 + 3 * (core % 24 / 12)

/-- An anvil. -/
def anvilAt (s : State) (n : Nat) : Anvil := aget Anvil.zero s.anvils n

/-- Write an anvil. -/
def putAnvil (s : State) (n : Nat) (x : Anvil) : State := { s with anvils := aput Anvil.zero s.anvils n x }

/-- The launch with an identifier. -/
def launchAt (s : State) (l : Nat) : Option Launch := aget none s.launches l

/-- Write a launch. -/
def putLaunch (s : State) (l : Nat) (x : Option Launch) : State := { s with launches := aput none s.launches l x }

/-- The quire with an identifier. -/
def quireAt (s : State) (q : Nat) : Option Quire := aget none s.quires q

/-- Write a quire. -/
def putQuire (s : State) (q : Nat) (x : Option Quire) : State := { s with quires := aput none s.quires q x }

/-- Write a virtual device. -/
def putVdev (s : State) (v : Nat) (x : VDev) : State := { s with vdevs := aput VDev.zero s.vdevs v x }

/-- The core of a slice key or of a trap context's key. -/
def coreOfKey (k : Nat) : Nat := if trapBase ≤ k then (k - trapBase) % 8192 else k / 512

/-- A stream of a slice. -/
def streamOf (acc : Bool) (sl : Slice) : Stream := if acc then sl.a else sl.c

/-- Replace a stream of a slice. -/
def setStream (acc : Bool) (sl : Slice) (x : Stream) : Slice := if acc then { sl with a := x } else { sl with c := x }

/-- The slice numbers of a team. -/
def sliceNums (t : Team) : List Nat := List.range t.s

/-! Hints. -/

/-- The pending hint state as the handler reads it (R169). -/
def hintBits (h : Hint) : Word64 :=
  BitVec.ofNat 64 (h.immp.toNat + h.immv.toNat * 2 ^ 24 + h.modrm.toNat * 2 ^ 25 + h.modsat.toNat * 2 ^ 28
    + h.lastb.toNat * 2 ^ 29 + h.lasta.toNat * 2 ^ 30 + h.modv.toNat * 2 ^ 31 + h.gpred.toNat * 2 ^ 32
    + h.gneg.toNat * 2 ^ 35 + (h.gleft % 32) * 2 ^ 36)

/-- The pending hint state that the handler writes (R169). -/
def hintOf (x : Word64) : Hint :=
  let n := x.toNat
  { immp := BitVec.ofNat 24 (bits n 0 24)
    immv := bitAt n 24
    modrm := BitVec.ofNat 3 (bits n 25 3)
    modsat := bitAt n 28
    lastb := bitAt n 29
    lasta := bitAt n 30
    modv := bitAt n 31
    gpred := BitVec.ofNat 3 (bits n 32 3)
    gneg := bitAt n 35
    gleft := bits n 36 5 }

/-- The hint state after an instruction that completes: IMM and MOD are consumed and the GUARD run advances
by one (R163; log entry 10). -/
def consumeHint (h : Hint) : Hint :=
  let g := h.gleft - 1
  { Hint.none with
    gpred := if g = 0 then 0 else h.gpred
    gneg := if g = 0 then false else h.gneg
    gleft := g }

/-- A predicate of a lane; p0 reads true (R49). -/
def predOf (st : Stream) (p l : Nat) : Bool := p == 0 || (qget st.preds l).getLsbD p

/-- The lanes that act: active, and true under a GUARD run (R28, R165). -/
def actLanes (st : Stream) : BitVec 4 :=
  if st.hint.gleft = 0 then st.mask
  else st.mask &&& maskOf fun l => predOf st st.hint.gpred.toNat l != st.hint.gneg

/-- The stream after an instruction that completes and goes on to a PC (R163, R157). -/
def retireTo (st : Stream) (pc : Word64) : Stream :=
  { st with pc := pc, prev := st.pc, hint := consumeHint st.hint, count := st.count + 1, stall := false, want := [],
            named := [] }

/-- The stream after an instruction that completes. -/
def retire (st : Stream) : Stream := retireTo st (st.pc + 4)

/-! Contexts of a core. -/

/-- The context place that a context holds on a core. -/
def ctxPlaceOf (s : State) (core ctx : Nat) : Option (Nat × CtxPlace) :=
  (coreAt s core).places.find? fun p => p.2.ctx = some ctx

/-- The context record that governs a context on a core: the resident copy, or else the configured one (R338). -/
def ctxRecord (s : State) (core ctx : Nat) : BitVec 512 :=
  match ctxPlaceOf s core ctx with
  | some p => p.2.record
  | none => (aget none (vdevSt s (vdevOf ctx)).ctxs (ctx % 16)).getD 0

/-- TVEC of a context record (R338). -/
def recTvec (r : BitVec 512) : Nat := fld r 0 64

/-- ERRREC of a context record (R338). -/
def recErrrec (r : BitVec 512) : Nat := fld r 64 64

/-! Token buckets. -/

/-- The memory controller of a location: one for each half-stack unit, then one for each CXL port (R355, R368). -/
def controllerOf (loc : Nat) : Nat :=
  if loc < Config.hbmEnd then loc / 2 ^ 35 else 48 + (loc - Config.cxlBase) / 2 ^ 41

/-- RATE and BURST of a virtual device (R367): a BURST of 0 is read as 1. -/
def vdevRate (s : State) (v : Nat) : Nat := fld (vdevSt s v).record 96 32
def vdevBurst (s : State) (v : Nat) : Nat := max 1 (fld (vdevSt s v).record 128 32)

/-- Spend one token of a virtual device at the controller of a location (R368); a RATE of 0 has no limit. -/
def spendToken (v : Nat) (s : State) (loc : Nat) : State :=
  if vdevRate s v = 0 then s
  else
    let k := 64 * v + controllerOf loc
    { s with tokens := aput 0 s.tokens k (min (vdevBurst s v) (aget 0 s.tokens k + 1)) }

/-- Spend a token for each 64-byte block of this package's paged memory that targets name (R111, R368). -/
def spendFor (s : State) (ctx : Nat) (ts : List Target) : State :=
  if vdevRate s (vdevOf ctx) = 0 then s
  else
  let locs := ((ts.filter fun t => t.space = .hbm || t.space = .cxl).map fun t => t.loc / 64 * 64).eraseDups
  locs.foldl (spendToken (vdevOf ctx)) s

/-- Spend a token for each atomic on this package's paged memory (R368). -/
def spendEach (s : State) (ctx : Nat) (ts : List Target) : State :=
  ((ts.filter fun t => t.space = .hbm || t.space = .cxl).map (·.loc)).foldl (spendToken (vdevOf ctx)) s

/-- Whether a virtual device holds a token at a controller (R368). -/
def hasToken (s : State) (v c : Nat) : Bool :=
  vdevRate s v == 0 || decide (aget 0 s.tokens (64 * v + c) < vdevBurst s v)

/-! The deadline class. -/

/-- What a received collective request of a stream leads to and by when it is due (R369): it is due as early as any that waits
behind it in its stream (log entry 166). -/
def heldDues : List Held → List (Nat × Nat)
  | [] => []
  | h :: rest =>
    let behind := heldDues rest
    let due := match behind with
      | [] => h.due
      | b :: _ => min h.due b.2
    (((h.flits.head?.map fun f => f.addr.toNat).getD Config.cxlEnd), due) :: behind

/-- The latest-service CLOCK values of a class-2 stream's accepted requests that lead to a controller. -/
def heldAt (c : Nat) (x : Nat × RxStream) : List Nat :=
  if x.1 % 4 ≠ 2 then []
  else (heldDues x.2.held).filterMap fun h => if decide (h.1 < Config.cxlEnd) && controllerOf h.1 == c then some h.2 else none

/-- The latest-service CLOCK values of the deadline requests that wait at a controller (R369). -/
def deadlineDues (s : State) (c : Nat) : List Nat :=
  (s.deadlines.filter fun d => d.ctrls.contains c).map (·.due) ++ s.fabric.rx.flatMap (heldAt c)

/-- Whether a deadline request is the first that a controller serves: none that waits there is due earlier (R369). -/
def earliestAt (s : State) (due c : Nat) : Bool := (deadlineDues s c).all fun d => decide (due ≤ d)

/-- The controller that serves a target, if memory of this package lies behind it (R368). -/
def targetCtrl (t : Target) : Option Nat := if t.space = .hbm || t.space = .cxl then some (controllerOf t.loc) else none

/-- Whether the controller behind a target serves a virtual device whatever else waits there: nothing of the deadline class
does, and the device holds a token (R368, R369). -/
def servedFree (s : State) (v : Nat) (t : Target) : Bool :=
  (targetCtrl t).all fun c => (deadlineDues s c).isEmpty && hasToken s v c

/-- The blocks that n bytes from a target touch. -/
def blocksOf (t : Target) (n : Nat) : List Target :=
  (List.range ((t.loc % 64 + n + 63) / 64)).map fun i =>
    { t with loc := t.loc / 64 * 64 + 64 * i, va := if i = 0 then t.va else t.va / 64 * 64 + 64 * i }

/-! Error records. -/

/-- Where a byte of an error-record area lies: a location of this package, a page that misses or whose memory is not ready,
another module, or nowhere (R412). -/
inductive RecLoc where
  | at (t : Target)
  | wait (page : Nat)
  | far (t : Target)
  | discard
deriving DecidableEq, Repr

/-- Locate a byte of an error-record area: it must lie on a writable plain page (R412). -/
def recLoc (s : State) (vdev : Nat) (refused : Nat → Bool) (a : Nat) : RecLoc :=
  if Config.sramBase ≤ a then .discard
  else match tlbFind s vdev a with
  | none => if refused (a / 2 ^ 16) then .discard else .wait (a / 2 ^ 16)
  | some l =>
    if bitAt l.pte.toNat 3 then .discard
    else if !bitAt l.pte.toNat 2 then (if refused (a / 2 ^ 16) then .discard else .wait (a / 2 ^ 16))
    else match (leafTarget l a).space with
    | .remote _ => .far (leafTarget l a)
    | _ => if targetReady s (leafTarget l a) then .at (leafTarget l a) else .wait (a / 2 ^ 16)

/-- What became of a record. -/
inductive RecOut where
  | written (s : State) (addr : Nat)
  | waiting (page : Nat)
  | far
  | discarded
deriving DecidableEq, Repr

/-- Whether NENT names no entries (R324). -/
def nentBad (n : Nat) : Bool := n == 0 || n &&& (n - 1) != 0

/-- NENT of the area whose first bytes lie at a target (R324). -/
def areaNent (s : State) (h : Target) : Nat := readBytes (seen s h 8) (h.loc + 4) 2

/-- The address of record w of an area (R324). -/
def recordAddr (base w nent : Nat) : Nat := base + 512 * (1 + w % nent)

/-- Whether a record of a context is being written in steps: the others of its area wait for it (log entry 137). -/
def recordBusy (s : State) (ctx id : Nat) : Bool :=
  s.recWaits.any fun w => w.ctx = ctx && w.id != id && (w.step != .header || w.out != 0)

/-- Where a byte of an area lies for a record that is written in one event: a duplicated page, whose second copy is to be
acknowledged, and a controller that may not serve it yet, are left to the steps of a record that waits, as another module is
(R138, R368, R394). -/
def soloLoc (s : State) (v : Nat) : RecLoc → RecLoc
  | .at t => if t.dup.isSome || !servedFree s v t then .far t else .at t
  | x => x

/-- Write a record at its place and increment WRIDX (R324, R412), where both lie in this package alone. -/
def tryRecord (s : State) (ctx core : Nat) (refused : Nat → Bool) (bytes : List Byte) : RecOut :=
  let base := recErrrec (ctxRecord s core ctx)
  if recordBusy s ctx s.serial then .far
  else match soloLoc s (vdevOf ctx) (recLoc s (vdevOf ctx) refused base) with
  | .discard => .discarded
  | .wait p => .waiting p
  | .far _ => .far
  | .at h =>
    let nent := areaNent s h
    let w := seenVal s h 4
    if nentBad nent then .discarded
    else
      let a := recordAddr base w nent
      match soloLoc s (vdevOf ctx) (recLoc s (vdevOf ctx) refused a) with
      | .discard => .discarded
      | .wait p => .waiting p
      | .far _ => .far
      | .at r =>
        let s := spendFor s ctx (h :: blocksOf r bytes.length)
        .written (storeTo (storeTo s r bytes) h (valBytes 4 (w + 1))) a

/-- The 64-byte layout of slice-trap and machine-check records (R325). -/
def trapRecord (kind code core place slice stream all : Nat) (cpc apc time faddr detail lanes : Nat)
    (chint ahint : Nat) : List Byte :=
  valBytes 64 (kind + code * 2 ^ 16 + core * 2 ^ 32 + place * 2 ^ 44 + slice * 2 ^ 48 + stream * 2 ^ 53 + all * 2 ^ 54
    + (cpc % 2 ^ 32) * 2 ^ 64 + (apc % 2 ^ 32) * 2 ^ 96 + time * 2 ^ 128 + faddr * 2 ^ 192 + (detail % 2 ^ 32) * 2 ^ 256
    + lanes * 2 ^ 288 + chint * 2 ^ 320 + ahint * 2 ^ 384)

/-- Where a slice stands now, as a record shows it (R325). -/
def stopPoint (sl : Slice) : StopPoint := ⟨sl.c.pc, sl.a.pc, hintBits sl.c.hint, hintBits sl.a.hint⟩

/-- A slice becomes held where it stands (R322, R337); one that is held keeps the place where it stopped. -/
def holdAt (sl : Slice) : Slice := if sl.held then sl else { sl with held := true, stop := stopPoint sl }

/-- The record of a slice where it stopped, or stops now (R325). -/
def sliceRecord (s : State) (kind k : Nat) (stream all : Nat) (f : FaultInfo) : List Byte :=
  let p := (holdAt (sliceAt s k)).stop
  trapRecord kind f.code (k / 512) (k / 32 % 16) (k % 32) stream all p.cpc.toNat p.apc.toNat s.clock.toNat
    f.faddr.toNat f.detail f.lanes.toNat p.chint.toNat p.ahint.toNat

/-- Replace the owner of a scribe program. -/
def ownProg (k k' : Nat) (p : Prog) : Prog := if p.owner = k then { p with owner := k' } else p

/-- Replace the owner of an anvil request, and the slice that it names. -/
def ownReq (k k' : Nat) (r : AReq) : AReq :=
  { r with owner := if r.owner = k then k' else r.owner, slice := if r.slice = k then k' else r.slice }

/-- Everything that a slice key has in flight passes to another key: accesses, anvil requests and scribe programs. -/
def reown (s : State) (k k' : Nat) : State := { s with
  flights := s.flights.map fun f => if f.owner = k then { f with owner := k' } else f
  anvils := s.anvils.map fun v => (v.1, { v.2 with
    resv := v.2.resv.map (ownReq k k'), away := v.2.away.map (ownReq k k') })
  scribes := s.scribes.map fun b => (b.1, { b.2 with
    ctxs := b.2.ctxs.map fun c => (c.1, c.2.map (ownProg k k'))
    queues := b.2.queues.map fun q => (q.1, { q.2 with items := q.2.items.map (ownProg k k') }) })
  fabric := { s.fabric with reqs := s.fabric.reqs.map fun r =>
    if r.owner = RemoteOwner.waitaddr k then { r with owner := RemoteOwner.waitaddr k' } else r } }

/-- End the open invocation of a core. What it left in flight completes on its own. -/
def closeInvocation (s : State) (core : Nat) : State :=
  let s := reown s (trapBase + core) (orphanBase + core)
  putSlice (putCore s core { coreAt s core with invoc := false, theld := 0 }) (trapBase + core) Slice.zero

/-- The core that a page request of a record names, and the die whose walker it takes (R361, R412): the records of scribes
and anvils are writes of those units. -/
def recordWalk (core : Nat) : RecUnit → Nat × Nat
  | .none => (core, dieOf core)
  | .scribe n _ => (0xFFF, scribeDie n)
  | .anvil n _ => (0xFFF, anvilDie n)

/-- Record a wait of a record, for the translation of its place, with its walk, or for another module (R412). -/
def waitRecord (s : State) (ctx core : Nat) (bytes : List Byte) (trap : Option PendRec) (unit : RecUnit)
    (page : Option Nat) : State :=
  let s1 := { s with
    serial := s.serial + 1
    recWaits := s.recWaits ++ [⟨s.serial, ctx, core, bytes, trap, unit, ⟨page.getD 0, true, page.isNone, none⟩, .header, 0⟩] }
  match page with
  | some p => addWalk s1 (vdevOf ctx) p true (recordWalk core unit).1 (recordWalk core unit).2
  | none => s1

/-- Hold every slice of a team. -/
def holdTeam (s : State) (t : Nat) (team : Team) : State :=
  (sliceNums team).foldl (fun s j => putSlice s (32 * t + j) (holdAt (sliceAt s (32 * t + j)))) s

/-- What a machine check does but for its record (R337): every slice of the team is held, an open invocation of the team
ends, and the launch is marked for the last step of the ladder (R354, KILL_AND_RESET). -/
def checkStop (s : State) (t : Nat) : State :=
  match teamAt s t with
  | none => s
  | some team =>
    let core := t / 16
    let s := holdTeam s t team
    let c := coreAt s core
    let s := if c.invoc && c.tteam == t % 16 then closeInvocation s core else s
    let c := coreAt s core
    let s := putCore s core { c with pend := c.pend.filter fun p => p.team != t }
    match launchAt s team.launch with
    | some l => putLaunch s team.launch (some { l with status := 3 })
    | none => s

/-- A machine check (R337), with its record of KIND 4. -/
def machineCheck (s : State) (k : Nat) (acc : Bool) (f : FaultInfo) : State :=
  let t := k / 32
  match teamAt s t with
  | none => s
  | some team =>
    let core := t / 16
    let bytes := sliceRecord s 4 k acc.toNat 1 f
    let s := checkStop s t
    match tryRecord s team.ctx core (fun _ => false) bytes with
    | .written s' _ => s'
    | .waiting p => waitRecord s team.ctx core bytes none .none (some p)
    | .far => waitRecord s team.ctx core bytes none .none none
    | .discarded => s

/-- A slice-trap record that has been written opens an invocation in its turn, unless its team is bound already or its
slice has been resumed meanwhile (R323). -/
def recordDone (s : State) (core : Nat) (addr : Nat) : Option PendRec → State
  | none => s
  | some p =>
    let c := coreAt s core
    if (c.invoc && teamKey core c.tteam == p.team) || !(sliceAt s (32 * p.team + p.slice)).held then s
    else putCore s core { c with pend := c.pend ++ [{ p with addr := BitVec.ofNat 64 addr }] }

/-- A slice trap whose record is discarded becomes a machine check, whose own record is discarded in the same way (R412);
other events go on without their record. -/
def recordLost (s : State) : Option PendRec → State
  | none => s
  | some p => checkStop s p.team

/-- Write a record of a unit, or leave it to wait, or lose it (R412). -/
def submitRecord (s : State) (ctx core : Nat) (bytes : List Byte) (trap : Option PendRec) (unit : RecUnit) : State :=
  match tryRecord s ctx core (fun _ => false) bytes with
  | .written s' a => recordDone s' core a trap
  | .waiting p => waitRecord s ctx core bytes trap unit (some p)
  | .far => waitRecord s ctx core bytes trap unit none
  | .discarded => recordLost s trap

/-- Whether a unit still waits until its record is written. -/
def recordWaits (s : State) (unit : RecUnit) : Bool := s.recWaits.any fun w => w.unit = unit

/-! Units. -/

/-- The slices of a team that belong to a unit. -/
def unitSlices (s : State) (t : Nat) (team : Team) (u : Nat) : List Nat :=
  (sliceNums team).filter fun j => (sliceAt s (32 * t + j)).unit = u

/-- Put slices into a unit. -/
def setUnits (s : State) (t u : Nat) (js : List Nat) : State :=
  js.foldl (fun s j => putSlice s (32 * t + j) { sliceAt s (32 * t + j) with unit := u }) s

/-- Replace a mapped unit by others, each with its issue count (R39). -/
def remap (team : Team) (u : Nat) (us : List Nat) : Team :=
  { team with mapped := team.mapped.flatMap fun m => if m.1 = u then us.map (fun x => (x, m.2)) else [m] }

/-- A slice leaves its unit and is a unit of its own (R32). -/
def leaveUnit (s : State) (k : Nat) : State :=
  let t := k / 32
  match teamAt s t with
  | none => s
  | some team =>
    let u := (sliceAt s k).unit
    let rest := (unitSlices s t team u).filter fun j => j != k % 32
    let ids := (rest.take 1)
    let s := match ids with
      | [] => s
      | m :: _ => setUnits s t m rest
    let s := putSlice s k { sliceAt s k with unit := k % 32 }
    if rest.isEmpty && u == k % 32 then s else putTeam s t (some (remap team u ids))

/-- A slice whose compute stream has ended is a unit of its own (R39). DESIGN CHOICE: one that was mapped stays so, and its
access instructions count from there (log entry 168). -/
def exitUnit (s : State) (k : Nat) : State :=
  let t := k / 32
  let u := (sliceAt s k).unit
  let was := (teamAt s t).any fun team => team.mapped.any fun m => m.1 = u
  let s := leaveUnit s k
  match teamAt s t with
  | some team =>
    if was then putTeam s t (some { team with mapped := (team.mapped.filter fun m => m.1 != k % 32) ++ [(k % 32, 0)] }) else s
  | none => s

/-- The lowest slice of a list whose stream stands at the same PC as slice j. -/
def groupOf (s : State) (t : Nat) (js : List Nat) (j : Nat) : Nat :=
  (js.find? fun i => (sliceAt s (32 * t + i)).c.pc = (sliceAt s (32 * t + j)).c.pc).getD j

/-- A unit whose slices stand at different PCs parts into sub-strokes (R29). -/
def partUnit (s : State) (t u : Nat) (js : List Nat) : State :=
  match teamAt s t with
  | none => s
  | some team =>
    let groups := js.map fun j => (j, groupOf s t js j)
    let reps := js.filter fun j => groupOf s t js j = j
    if reps = [u] then s
    else
      let s := groups.foldl (fun s g => putSlice s (32 * t + g.1) { sliceAt s (32 * t + g.1) with unit := g.2 }) s
      putTeam s t (some (remap team u reps))

/-- Count one compute instruction of a mapped unit (R39). -/
def countUnit (s : State) (t u : Nat) : State :=
  match teamAt s t with
  | none => s
  | some team =>
    if team.mapped.any (fun m => m.1 = u) then
      putTeam s t (some { team with mapped := team.mapped.map fun m => if m.1 = u then (m.1, m.2 + 1) else m })
    else s

/-! Faults. -/

/-- A fault of the trap context is a double fault (R331): a machine check of the bound team. -/
def doubleFault (s : State) (core : Nat) : State :=
  let c := coreAt s core
  let pc := (sliceAt s (trapBase + core)).a.pc
  machineCheck s (32 * teamKey core c.tteam + c.tslice) (c.tstream == 1)
    ⟨codeDOUBLE_FAULT, pc.toNat % 2 ^ 32, c.tfaddr, 0⟩

/-- A held slice cannot wait at a MERGE: it executes it again (R30). Its other waits go on (log entry 14). -/
def stopWait : Wait → Wait
  | .merge _ => .none
  | w => w

/-- Take a precise fault (R322): the slice leaves its unit and is held, and its record is written, which then
waits for an invocation. In the trap context every fault is a double fault (R331). -/
def takeFault (s : State) (k : Nat) (acc : Bool) (f : FaultInfo) : State :=
  if trapBase ≤ k then doubleFault s (k - trapBase)
  else
    let t := k / 32
    let core := t / 16
    match teamAt s t with
    | none => s
    | some team =>
      let s := leaveUnit s k
      let sl := sliceAt s k
      let s := putSlice s k { holdAt sl with
        park := if acc then none else sl.park
        parts := if acc then [] else sl.parts
        watch := if acc then none else sl.watch
        c := { sl.c with wait := if acc then stopWait sl.c.wait else .none }
        a := { sl.a with wait := if acc then .none else sl.a.wait } }
      let c := coreAt s core
      let s := if c.invoc && c.tteam == t % 16 then
          putCore s core { c with theld := c.theld ||| BitVec.ofNat 32 (2 ^ (k % 32)) } else s
      submitRecord s team.ctx core (sliceRecord s 1 k acc.toNat 0 f)
        (some ⟨t, k % 32, 0, acc.toNat, f.faddr⟩) .none

/-- A stream that is not known to stall. -/
def unstalled (st : Stream) : Stream := { st with stall := false, qstall := false, want := [], named := [] }

/-- A WAITADDR that is discarded, or leaves its instruction, takes no answer to a read that it has sent (R139, R140). -/
def forgetWait (s : State) (k : Nat) : State :=
  { s with fabric := { s.fabric with reqs := s.fabric.reqs.map fun r =>
    if r.owner = RemoteOwner.waitaddr k then { r with owner := .none } else r } }

/-- Whether an access in flight is the compute stream's arrival (R244). -/
def computeArrive (f : Flight) : Bool := f.kind == .arrive true

/-- Rewind the access stream of a slice to its checkpoint (R61, R62): younger loads are dropped with their
entries, popped entries return to their queues, and LD falls by the dropped loads. What the compute stream has in flight
goes on. DESIGN CHOICE: what a younger MTSR has written stays written (log entry 146). -/
def rewind (s : State) (k : Nat) : State :=
  let sl := sliceAt s k
  match sl.check with
  | none => s
  | some c =>
    let young : Flight → Bool := fun f => f.owner = k && decide (c.flightMark ≤ f.id) && !computeArrive f
    let drop := s.flights.filter young
    let s := forgetWait { s with flights := s.flights.filter fun f => !young f } k
    putSlice s k { sl with
      a := c.str
      ar := c.ar
      arInfo := c.arInfo
      fpmodeA := c.fpmodeA
      modeSeen := c.modeSeen
      ldq := sl.ldq.filter fun e => decide (e.seq < c.ldqMark)
      sdq := c.sdq ++ sl.sdq
      cq := c.cq ++ sl.cq
      nld := sl.nld - drop.length
      check := none
      watch := none
      park := none
      parts := [] }

/-- Bring a slice back to its regions once its loads, stores and atomics are performed, a compute ARRIVE among them
(R335). -/
def finishRollback (s : State) (k : Nat) : State :=
  let sl := sliceAt s k
  if sl.rollback && sl.nld == 0 && sl.nst == 0 && !(s.flights.any fun f => f.owner = k && computeArrive f) then
    let back : Stream → Stream := fun st => { st with
      pc := st.region + 4
      exited := false
      mask := st.regSave.mask
      mstk := st.regSave.mstk
      rstk := st.regSave.rstk
      hint := Hint.none
      wait := .none
      stall := false
      want := []
      named := [] }
    leaveUnit (putSlice (forgetWait s k) k { sl with
      c := back sl.c, a := back sl.a, ldq := [], sdq := [], cq := [], check := none, watch := none, park := none,
      parts := [], rollback := false }) k
  else s

/-- Start a rollback (R334, R335). -/
def startRollback (s : State) (k : Nat) (strikes : Nat) : State :=
  finishRollback (putSlice s k { sliceAt s k with rollback := true, rolled := true, strikes := strikes }) k

/-- An uncorrectable error that a slice consumes (R334). In the trap context it is a double fault. A slice that is held acts
on it when it goes on (log entry 135). -/
def consumeError (s : State) (k : Nat) (acc : Bool) (f : FaultInfo) : State :=
  let sl := sliceAt s k
  if orphanBase ≤ k then s
  else if trapBase ≤ k then doubleFault s (k - trapBase)
  else if sl.rolled then machineCheck s k acc { f with code := codeROLLBACK_REPEAT }
  else if sl.held then putSlice s k { sl with errPend := sl.errPend ++ [(acc, f)] }
  else if sl.c.region != 0 && sl.a.region != 0 then startRollback s k 0
  else takeFault s k acc f

/-- Raise the fault that a poisoned entry carries, at its pop (R62 event 1, R334). -/
def raisePopped (s : State) (k : Nat) (f : FaultInfo) : State :=
  if f.code = codeUNCORRECTABLE then consumeError s k false f else takeFault (rewind s k) k false f

/-- Raise the fault that the checkpoint holds, in the access stream (R62 events 2 and 3, R220). In the trap
context it is a double fault. -/
def raiseHeld (s : State) (k : Nat) : State :=
  match (sliceAt s k).check with
  | none => s
  | some c => takeFault (rewind s k) k true c.fault

/-! Invocations. -/

/-- The registers of an invocation: a0 the record's address, a1 its SLICE, every other 0 (R320, R323); the special registers
held per slice or stream are its own (DESIGN CHOICE, log entry 149). -/
def handlerSlice (tvec addr slice : Nat) : Slice :=
  { Slice.zero with
    a := { Stream.zero with pc := BitVec.ofNat 64 tvec, mask := 1 }
    ar := aput ⟨0, 0, 0, 0⟩ (aput ⟨0, 0, 0, 0⟩ [] 0 ⟨BitVec.ofNat 64 addr, 0, 0, 0⟩) 1 ⟨BitVec.ofNat 64 slice, 0, 0, 0⟩ }

/-- The held slices of a team, as THELD shows them (R321). -/
def heldMask (s : State) (t : Nat) (team : Team) : Word32 :=
  (sliceNums team).foldl (fun m j =>
    if (sliceAt s (32 * t + j)).held then m ||| BitVec.ofNat 32 (2 ^ j) else m) 0

/-- Open the invocation of the oldest pending record whose team is on the core (R323): it serves every record of the
team. With TVEC 0 it is a double fault at once (R321). -/
def openInvocation (s : State) (core : Nat) : State :=
  let c := coreAt s core
  if c.invoc then s
  else
    match c.pend.find? fun p => (teamAt s p.team).any fun t => t.phase != .saved with
    | none => s
    | some p =>
      match teamAt s p.team with
      | none => s
      | some team =>
        let tvec := recTvec (ctxRecord s core team.ctx)
        let s := putCore s core { c with
          pend := c.pend.filter fun q => q.team != p.team
          invoc := true
          tcause := p.addr
          theld := heldMask s p.team team
          tteam := p.team % 16
          tslice := p.slice
          tstream := p.stream
          tfaddr := p.faddr }
        let s := putSlice { s with farCode := s.farCode.filter fun w => w.unit != .trap core } (trapBase + core)
          (handlerSlice tvec p.addr.toNat p.slice)
        if tvec = 0 then doubleFault s core else s

/-- Resume a held slice (R330): the error-pending marks are cleared, both streams go on at their PCs, and the
invocation ends when no slice is held any more. A slice that is not held is left as it is. -/
def resumeSlice (s : State) (core j : Nat) : State :=
  let c := coreAt s core
  let k := 32 * teamKey core c.tteam + j
  let sl := sliceAt s k
  let s := if sl.held then putSlice s k { sl with held := false, anvErr := none, scbErr := none, errPend := [] } else s
  let theld := c.theld &&& ~~~(BitVec.ofNat 32 (2 ^ j))
  let s := if theld = 0 then closeInvocation s core else putCore s core { c with theld := theld }
  (if sl.held then sl.errPend else []).foldl (fun s e => consumeError s k e.1 e.2) s

end Sys2Proof.Machine
end

