-- ==== Sys2Proof/Machine/Operands.lean ====
section
/-! DEFINITION. Operand codes (R49 to R60, R179 to R181, R200): what each code may stand for in each stream and
role, register pairs, index registers, the entries that queue operands move, inline integers and `%himm` in every
operand format, the write of a result to its destination, and the residency levels with the removal of registers that
a write may cause (R38, R41, R42). -/

namespace Sys2Proof.Machine

/-! Residency levels. -/

/-- Round up to a multiple. -/
def roundUp (x m : Nat) : Nat := (x + m - 1) / m * m

/-- Physical slices held at a level (R38). -/
def levelSlices (s level : Nat) : Nat :=
  let p := min s 8
  match level with
  | 0 => p
  | 1 => (p + 1) / 2
  | 2 => (p + 3) / 4
  | _ => 1

/-- v registers resident per lane at a level (R38). -/
def levelV (v level : Nat) : Nat :=
  match level with
  | 0 => v
  | 1 => max 16 (roundUp (v / 2) 8)
  | 2 => max 16 (roundUp (v / 4) 8)
  | _ => 16

/-- a registers resident per lane at a level (R38). -/
def levelA (a level : Nat) : Nat :=
  match level with
  | 0 => a
  | 1 => max 4 (roundUp (a / 2) 4)
  | 2 => max 4 (roundUp (a / 4) 4)
  | _ => 4

/-- The teams of a core with their keys, by place, but for the saved ones. -/
def coreTeams (s : State) (core : Nat) : List (Nat × Team) :=
  placeNums.filterMap fun p =>
    match teamAt s (teamKey core p) with
    | some t => if t.phase = .saved then none else some (teamKey core p, t)
    | none => none

/-- Slices of a team that are not swapped out (R48). -/
def heldSlices (s : State) (t : Nat) (team : Team) : Nat :=
  ((sliceNums team).filter fun j => !(sliceAt s (32 * t + j)).swapped).length

/-- Free 4 KiB pages of a core's scratchpad. -/
def freePages (s : State) (core : Nat) : Nat :=
  128 - ((coreTeams s core).map fun p => p.2.size / 4096 - p.2.moved.length).sum

/-- Bytes that a register of a bank takes in the spill area: four lanes of its width (R49). -/
def spillBytes (acc : Bool) : Nat := if acc then 32 else 16

/-- Registers of a bank that the scratch part of the spill area holds (R42). -/
def inScratch (info : Assoc RegInfo) : Nat := (info.filter fun p => p.2.loc == .scratch).length

/-- Bytes of a slice's registers that the scratch part of the spill area holds (R42). -/
def sliceSpill (sl : Slice) : Nat := spillBytes false * inScratch sl.vInfo + spillBytes true * inScratch sl.arInfo

/-- Bytes of registers that the scratch part of a core holds (R42). -/
def heldSpill (s : State) (core : Nat) : Nat :=
  ((coreTeams s core).map fun p => ((sliceNums p.2).map fun j => sliceSpill (sliceAt s (32 * p.1 + j))).sum).sum

/-- Free bytes of a core's scratch part: scratch that no allotment holds, without what it holds already (R42). -/
def spillRoom (s : State) (core : Nat) : Nat := 4096 * freePages s core - heldSpill s core

/-! Codes. -/

/-- Who issues an instruction, with the counts of its launch. -/
structure Env where
  key : Nat
  acc : Bool
  trap : Bool
  /-- Allotted v and a registers (R49). -/
  v : Nat
  a : Nat
  /-- `%slice`. -/
  sliceNo : Nat
  core : Nat
  ctx : Nat
  /-- How many registers of the stream's bank may be resident, where the team is folded (R38). -/
  budget : Option Nat
  /-- Free bytes of the spill area's scratch part (R42). -/
  room : Nat
deriving DecidableEq, Repr

/-- The format of an operand (R179, R200): an integer of the stream's width, a 64-bit integer, packed integers of
w bits, or a floating-point format. -/
inductive Kind where
  | int
  | wide
  | packed (w : Nat)
  | flt (f : Fmt)
deriving DecidableEq, Repr

/-- Whether an operand takes a register pair or two queue entries in the compute stream (R50, R58). -/
def kindWide : Kind → Bool
  | .wide => true
  | .flt .f64 => true
  | _ => false

/-- Formats in which an inline integer or `%himm` is illegal (R54, R200). -/
def kindNarrow : Kind → Bool
  | .flt .e4m3 => true
  | .flt .e5m2 => true
  | .flt .e2m1 => true
  | _ => false

/-- The width of an operand in bits. -/
def kindBits (acc : Bool) (k : Kind) : Nat := if acc || kindWide k then 64 else 32

/-- A w-bit pattern in every element of a 32-bit operand. -/
def spread (w x : Nat) : Nat :=
  let y := x % 2 ^ w
  if w = 8 then y * 0x01010101 else if w = 16 then y * 0x00010001 else y

/-- An integer constant in an operand's format (R54, R55, R179, R200). -/
def constIn (acc : Bool) (k : Kind) (x : Int) : Nat :=
  match k with
  | .int => wrap (kindBits acc k) x
  | .wide => wrap 64 x
  | .packed w => spread w (wrap w x)
  | .flt f => spread (fmtWidth f) (roundFmt f .rn false false (xInt x)).1

/-- A lane or slice number in an operand's format: its bits, zero-extended, or in each packed element (R55, R179). -/
def numberIn (k : Kind) (x : Nat) : Nat :=
  match k with
  | .packed w => spread w x
  | _ => x

/-- Whether R53 makes a source code a fault, or a register above the allocated top or an odd pair does (R49, R50). -/
def srcIllegal (e : Env) (k : Kind) (c : Nat) : Bool :=
  if e.acc then
    if c < 0x40 then decide (e.a ≤ c)
    else if c < 0xA8 then true
    else if c = 0xA8 || c = 0xA9 || c = 0xAB || c = 0xAC then e.trap
    else if c = 0xAA || c = 0xAE then false
    else if c = 0xAD || 0xC0 ≤ c then kindNarrow k
    else true
  else
    if c < 0x80 then (if kindWide k then c % 2 == 1 || decide (e.v ≤ c + 1) else decide (e.v ≤ c))
    else if c < 0xA0 then kindWide k && c % 2 == 1
    else if c ≤ 0xA8 then false
    else if c = 0xA9 then true
    else if c ≤ 0xAC then false
    else if c = 0xAD then kindNarrow k
    else if c = 0xAE then false
    else if c < 0xC0 then true
    else kindNarrow k

/-- Whether R53 makes a destination code a fault, or a register does (R49, R50). -/
def dstIllegal (e : Env) (wide : Bool) (c : Nat) : Bool :=
  if e.acc then
    if c < 0x40 then decide (e.a ≤ c)
    else if c = 0xA8 then e.trap
    else c != 0xAE
  else
    if c < 0x80 then (if wide then c % 2 == 1 || decide (e.v ≤ c + 1) else decide (e.v ≤ c))
    else if c < 0xA0 then wide && c % 2 == 1
    else if c ≤ 0xA9 then false
    else c != 0xAE

/-- The index register that a code uses (R53). -/
def indexOf (acc : Bool) (c : Nat) : Option Nat :=
  if !acc && 0xA0 ≤ c && c ≤ 0xA7 then some (c % 4) else none

/-- Whether a code is `v[xk++]`. -/
def isIncr (acc : Bool) (c : Nat) : Bool := !acc && decide (0xA4 ≤ c) && decide (c ≤ 0xA7)

/-- An index register of a slice. -/
def xReg (sl : Slice) (i : Nat) : Quad Word32 := aget ⟨0, 0, 0, 0⟩ sl.x i

/-- The v register that an index register names in a lane (R52). -/
def indexed (sl : Slice) (i l : Nat) : Nat :=
  let x := (qget (xReg sl i) l).toNat
  bits x 0 8 + bits x 16 16

/-- The lanes in which an indexed operand is out of range (R52). -/
def indexBad (e : Env) (sl : Slice) (act : BitVec 4) (wide : Bool) (c : Nat) : BitVec 4 :=
  match indexOf e.acc c with
  | none => 0
  | some i =>
    act &&& maskOf fun l =>
      let x := (qget (xReg sl i) l).toNat
      let n := bits x 0 8 + bits x 16 16
      decide (bits x 8 8 ≤ bits x 16 16) || decide (e.v ≤ n)
        || (wide && (n % 2 == 1 || decide (e.v ≤ n + 1)))

/-- Whether a source is a diverged s register (R31). -/
def divergedSrc (e : Env) (sl : Slice) (wide : Bool) (c : Nat) : Bool :=
  !e.acc && decide (0x80 ≤ c) && decide (c < 0xA0)
    && (sl.sdiv.getLsbD (c - 0x80) || (wide && sl.sdiv.getLsbD (c - 0x7F)))

/-- The registers that a code names in the slice's v or a bank: direct ones, or those of the acting lanes. -/
def regsNamed (e : Env) (sl : Slice) (act : BitVec 4) (wide : Bool) (c : Nat) : List Nat :=
  let pair : Nat → List Nat := fun n => if wide && !e.acc then [n, n + 1] else [n]
  if e.acc then (if c < 0x40 then [c] else [])
  else if c < 0x80 then pair c
  else match indexOf e.acc c with
  | some i => ((maskLanes act).flatMap fun l => pair (indexed sl i l)).eraseDups
  | none => []

/-- What the hardware keeps about a register of the stream's bank. -/
def regInfo (acc : Bool) (sl : Slice) (r : Nat) : RegInfo :=
  aget RegInfo.zero (if acc then sl.arInfo else sl.vInfo) r

/-- Write what the hardware keeps about a register. -/
def putInfo (acc : Bool) (sl : Slice) (r : Nat) (x : RegInfo) : Slice :=
  if acc then { sl with arInfo := aput RegInfo.zero sl.arInfo r x }
  else { sl with vInfo := aput RegInfo.zero sl.vInfo r x }

/-! Removal of registers. -/

/-- The age of a register (R40). -/
def regAge (acc : Bool) (sl : Slice) (r : Nat) : Nat := min 3 ((streamOf acc sl).aged - (regInfo acc sl r).touch)

/-- Resident registers of a bank of n. -/
def residents (acc : Bool) (sl : Slice) (n : Nat) : List Nat :=
  (List.range n).filter fun r => (regInfo acc sl r).loc == .resident

/-- Whether register x is removed before register y (R41). DESIGN CHOICE: a register counts as dead where it is dead in all four
lanes (log entry 147). -/
def removedFirst (acc : Bool) (sl : Slice) (x y : Nat) : Bool :=
  let dx := (regInfo acc sl x).dead == 15
  let dy := (regInfo acc sl y).dead == 15
  if dx != dy then dx
  else if dx then decide (y < x)
  else decide (regAge acc sl y < regAge acc sl x) || (regAge acc sl x == regAge acc sl y && decide (y < x))

/-- Where a removed register goes (R41, R42): nowhere if it is dead, to the scratch part if that has room, else to the
HBM part. -/
def removedTo (acc : Bool) (dead : BitVec 4) (room : Nat) : RegLoc :=
  if dead = 15 then .dropped else if spillBytes acc ≤ room then .scratch else .hbm

/-- Remove registers, never one of `keep`, until at most `budget` are resident (R41). -/
def trimBank (acc : Bool) (n budget : Nat) (keep : List Nat) : Nat → Nat → Slice → Slice
  | 0, _, sl => sl
  | f + 1, room, sl =>
    if budget < (residents acc sl n).length then
      match leastBy (removedFirst acc sl) ((residents acc sl n).filter fun r => !keep.contains r) with
      | none => sl
      | some r =>
        let i := regInfo acc sl r
        let to_ := removedTo acc i.dead room
        trimBank acc n budget keep f (if to_ = .scratch then room - spillBytes acc else room)
          (putInfo acc sl r { i with loc := to_ })
    else sl

/-- Make room for registers that an instruction has made resident (R41); those that it names stay. -/
def trimNew (e : Env) (keep : List Nat) (sl : Slice) : Slice :=
  match e.budget with
  | none => sl
  | some b => let n := if e.acc then e.a else e.v
    trimBank e.acc n b keep n e.room sl

/-- A register pending the status words of a lane copy (R230). -/
def statPending (acc : Bool) (sl : Slice) (rs : List Nat) : Bool :=
  acc && sl.statPend.any fun p => rs.contains p.1

/-- Registers of a list that must be refilled before they are used (R42). -/
def spilledOf (acc : Bool) (sl : Slice) (rs : List Nat) : List Nat :=
  rs.filter fun r => (regInfo acc sl r).loc = .scratch || (regInfo acc sl r).loc = .hbm

/-- A v or a register of one lane, zero-extended. -/
def regVal (acc : Bool) (sl : Slice) (r l : Nat) : Nat :=
  if acc then (qget (aget ⟨0, 0, 0, 0⟩ sl.ar r) l).toNat else (qget (aget ⟨0, 0, 0, 0⟩ sl.v r) l).toNat

/-- Write a v or a register of one lane: the value is live again and the register resident (R63). -/
def setReg (acc : Bool) (sl : Slice) (r l x : Nat) : Slice :=
  let i := regInfo acc sl r
  let sl := putInfo acc sl r { i with dead := i.dead &&& ~~~(BitVec.ofNat 4 (2 ^ l)), loc := .resident, bad := i.bad &&& ~~~(BitVec.ofNat 4 (2 ^ l)) }
  if acc then
    let q := aget ⟨0, 0, 0, 0⟩ sl.ar r
    { sl with ar := aput ⟨0, 0, 0, 0⟩ sl.ar r (qof fun j => if j = l then BitVec.ofNat 64 x else qget q j) }
  else
    let q := aget ⟨0, 0, 0, 0⟩ sl.v r
    { sl with v := aput ⟨0, 0, 0, 0⟩ sl.v r (qof fun j => if j = l then BitVec.ofNat 32 x else qget q j) }

/-- A value or a pair of values from a bank. -/
def pairVal (wide : Bool) (f : Nat → Nat) (n : Nat) : Nat := if wide then f n + 2 ^ 32 * f (n + 1) else f n

/-- The number of queue entries that an operand moves (R58). -/
def entriesOf (e : Env) (k : Kind) : Nat := if !e.acc && kindWide k then 2 else 1

/-- The queue that a source code pops: 0 none, 1 LDQ, 2 SDQ, 3 CQ (R53). -/
def popsFrom (acc : Bool) (c : Nat) : Nat :=
  if acc then (if c = 0xA8 then 2 else if c = 0xA9 then 3 else 0) else (if c = 0xA8 then 1 else 0)

/-- What popping entries gives: the values, a stall, or a poisoned entry (R60, R62). -/
inductive Pop where
  | got (vals : List (Quad Word32)) (sl : Slice)
  /-- It waits: whether because the queue holds no entry for it (R27). -/
  | stall (empty : Bool)
  | poisoned (f : FaultInfo)
deriving DecidableEq, Repr

/-- The access stream sees the FPMODE of an entry that it pops, unless it has seen a later write (R70). -/
def seeMode (e : QEntry) (sl : Slice) : Slice :=
  if sl.modeSeen ≤ e.write then { sl with fpmodeA := e.mode, modeSeen := e.write } else sl

/-- Pop n entries of a queue in order (R57 to R60). An access-stream pop shows the stream the FPMODE at the push
(R70), and is kept for a rewind while an access is unchecked (R61). -/
def popN (q : Nat) : Nat → Slice → Pop
  | 0, sl => .got [] sl
  | n + 1, sl =>
    if q = 1 then
      match sl.ldq with
      | [] => .stall true
      | e :: rest =>
        match e.st with
        | .reserved => .stall false
        | .poisoned f => .poisoned f
        | .filled x =>
          match popN q n { sl with ldq := rest } with
          | .got xs sl' => .got (x :: xs) sl'
          | r => r
    else if q = 2 then
      match sl.sdq with
      | [] => .stall true
      | e :: rest =>
        match popN q n { seeMode e sl with
            sdq := rest
            check := sl.check.map fun c => { c with sdq := c.sdq ++ [e] } } with
        | .got xs sl' => .got (e.val :: xs) sl'
        | r => r
    else
      match sl.cq with
      | [] => .stall true
      | e :: rest =>
        match popN q n { seeMode e sl with
            cq := rest
            check := sl.check.map fun c => { c with cq := c.cq ++ [e] } } with
        | .got xs sl' => .got (e.val :: xs) sl'
        | r => r

/-- Lane l of popped entries, lowest bits first (R58). -/
def entryVal (l : Nat) : List (Quad Word32) → Nat
  | [] => 0
  | x :: xs => (qget x l).toNat + 2 ^ 32 * entryVal l xs

/-- The value of the register that an indexed operand names in a lane; a lane that does not act and whose index is
out of range supplies a free value (R52, R193; log entry 12). -/
def indexedVal (e : Env) (sl : Slice) (act : BitVec 4) (wide : Bool) (c l r : Nat) : Nat :=
  if act.getLsbD l || !(indexBad e sl 15 wide c).getLsbD l then regVal e.acc sl r l
  else (Config.outOfWindow r l (streamOf e.acc sl).count).toNat

/-- The lanes' values of a source that is no queue. -/
def plainSrc (e : Env) (sl : Slice) (act : BitVec 4) (k : Kind) (c : Nat) : Quad Nat :=
  let st := streamOf e.acc sl
  let wide := kindWide k && !e.acc
  let himm : Int := if st.hint.immv then sval 24 st.hint.immp.toNat else 0
  if c < 0x80 then qof fun l => pairVal wide (fun r => regVal e.acc sl r l) c
  else if c < 0xA0 then qfill (pairVal wide (fun r => (aget 0 sl.s r).toNat) (c - 0x80))
  else if c = 0xAA then qof fun l => numberIn k (if e.trap then 0 else l)
  else if c = 0xAB then qfill (numberIn k e.sliceNo)
  else if c = 0xAC then qof fun l => numberIn k (4 * e.sliceNo + l)
  else if c = 0xAD then qfill (constIn e.acc k himm)
  else if c = 0xAE then qfill 0
  else if 0xC0 ≤ c then qfill (constIn e.acc k (sval 6 (c % 64)))
  else match indexOf e.acc c with
  | some _ => qof fun l => pairVal wide (fun r => indexedVal e sl act wide c l r) (indexed sl (c % 4) l)
  | none => qfill 0

/-- What reading a source gives. -/
inductive Src where
  | got (q : Quad Nat) (sl : Slice)
  | stall (empty : Bool)
  | poisoned (f : FaultInfo)
deriving DecidableEq, Repr

/-- Read a source, popping its entries if it is a queue. -/
def readSrc (e : Env) (act : BitVec 4) (k : Kind) (c : Nat) (sl : Slice) : Src :=
  let q := popsFrom e.acc c
  if q = 0 then .got (plainSrc e sl act k c) sl
  else
    match popN q (entriesOf e k) sl with
    | .got xs sl' => .got (qof fun l => entryVal l xs) sl'
    | .stall b => .stall b
    | .poisoned f => .poisoned f

/-- Whether a destination's queue has room for the entries (R25, R60): SDQ 16, CQ 8, and LDQ by the slip limit. -/
def pushRoom (e : Env) (sl : Slice) (n c : Nat) : Bool :=
  if e.acc then c != 0xA8 || sl.ldq.isEmpty || decide (sl.ldq.length + n ≤ sl.slip.toNat)
  else if c = 0xA8 then decide (sl.sdq.length + n ≤ 16)
  else if c = 0xA9 then decide (sl.cq.length + n ≤ 8)
  else true

/-- The n words of 32 bits of a value, lowest first, with 0 in lanes that do not act (R57, R58). -/
def pushWords (act : BitVec 4) (val : Quad Nat) : Nat → Nat → List (Quad Word32)
  | 0, _ => []
  | n + 1, j =>
    (qof fun l => if act.getLsbD l then BitVec.ofNat 32 (bits (qget val l) (32 * j) 32) else 0)
      :: pushWords act val n (j + 1)

/-- Reserve and fill LDQ entries at once (R58). -/
def pushLdq (sl : Slice) (apc : Word64) : List (Quad Word32) → Slice
  | [] => sl
  | x :: xs =>
    pushLdq { sl with ldq := sl.ldq ++ [⟨sl.ldqNext, apc, .filled x⟩], ldqNext := sl.ldqNext + 1 } apc xs

/-- The writes to s registers that an instruction asks for: register number and value. -/
abbrev SWrites := List (Nat × Word32)

/-- Write a result to its destination in the acting lanes (R53, R57, R178). s registers are returned for the whole
issue to write (R31). -/
def writeDst (e : Env) (act : BitVec 4) (wide : Bool) (c : Nat) (val : Quad Nat) (sl : Slice) : Slice × SWrites :=
  let pair := wide && !e.acc
  let regs : Slice → (Nat → Nat) → Slice := fun sl f =>
    (maskLanes act).foldl (fun sl l =>
      let x := qget val l
      if pair then setReg e.acc (setReg e.acc sl (f l) l (x % 2 ^ 32)) (f l + 1) l (x / 2 ^ 32)
      else setReg e.acc sl (f l) l x) sl
  if c = 0xA8 || c = 0xA9 then
    let ws := pushWords act val (if pair then 2 else 1) 0
    if e.acc then (pushLdq sl (streamOf true sl).pc ws, [])
    else if c = 0xA8 then ({ sl with sdq := sl.sdq ++ ws.map fun w => ⟨w, sl.fpmode, sl.modeWrites⟩ }, [])
    else ({ sl with cq := sl.cq ++ ws.map fun w => ⟨w, sl.fpmode, sl.modeWrites⟩ }, [])
  else if c < 0x80 then (regs sl fun _ => c, [])
  else if c < 0xA0 then
    match lowestLane act with
    | none => (sl, [])
    | some l =>
      let x := qget val l
      (sl, if pair then [(c - 0x80, BitVec.ofNat 32 x), (c - 0x7F, BitVec.ofNat 32 (x / 2 ^ 32))]
        else [(c - 0x80, BitVec.ofNat 32 x)])
  else match indexOf e.acc c with
  | some i => (regs sl fun l => indexed sl i l, [])
  | none => (sl, [])

/-- Write a predicate of the stream's bank in the acting lanes; p0 is discarded (R49, R189). -/
def writePred (acc : Bool) (act : BitVec 4) (p : Nat) (f : Nat → Bool) (sl : Slice) : Slice :=
  if p = 0 then sl
  else
    let st := streamOf acc sl
    let ps := qof fun l =>
      let x := qget st.preds l
      if act.getLsbD l then (if f l then x ||| BitVec.ofNat 8 (2 ^ p) else x &&& ~~~(BitVec.ofNat 8 (2 ^ p))) else x
    setStream acc sl { st with preds := ps }

/-- Add 1 to the INDEX of an index register in the acting lanes (R52). -/
def bumpIndex (act : BitVec 4) (i : Nat) (sl : Slice) : Slice :=
  let x := xReg sl i
  { sl with x := aput ⟨0, 0, 0, 0⟩ sl.x i (qof fun l =>
      if act.getLsbD l then qget x l + 0x10000 else qget x l) }

/-- The `++` of every indexed code of an instruction (R52). -/
def bumpAll (e : Env) (act : BitVec 4) (cs : List Nat) (sl : Slice) : Slice :=
  cs.foldl (fun sl c => if isIncr e.acc c then bumpIndex act (c % 4) sl else sl) sl

/-- The registers that a code names in one lane. -/
def laneRegs (e : Env) (sl : Slice) (wide : Bool) (c l : Nat) : List Nat :=
  let pair : Nat → List Nat := fun n => if wide && !e.acc then [n, n + 1] else [n]
  if e.acc then (if c < 0x40 then [c] else [])
  else if c < 0x80 then pair c
  else match indexOf e.acc c with
  | some i => pair (indexed sl i l)
  | none => []

/-- Make a register dead in one lane: it reads 0 until it is written (R63). -/
def killReg (acc : Bool) (sl : Slice) (r l : Nat) : Slice :=
  let i := regInfo acc sl r
  let sl := setReg acc sl r l 0
  putInfo acc sl r { i with dead := i.dead ||| BitVec.ofNat 4 (2 ^ l) }

/-- Apply a last-use mark on an operand: in each acting lane its registers become dead, but for those that the
instruction writes. `before` is the slice as its operands were named (R63). -/
def lastUse (e : Env) (before : Slice) (act : BitVec 4) (wide : Bool) (c : Nat) (written : Nat → List Nat)
    (sl : Slice) : Slice :=
  (maskLanes act).foldl (fun sl l =>
    ((laneRegs e before wide c l).filter fun r => !(written l).contains r).foldl (fun sl r => killReg e.acc sl r l) sl) sl

/-- An access to a register resets its age (R40). -/
def touchRegs (acc : Bool) (rs : List Nat) (sl : Slice) : Slice :=
  rs.foldl (fun sl r =>
    let i := regInfo acc sl r
    putInfo acc sl r { i with touch := (streamOf acc sl).aged }) sl

end Sys2Proof.Machine
end

