-- ==== Sys2Proof/Machine/Lane.lean ====
section
/-! DEFINITION. How a lane instruction issues (R17, R31, R32, R163, R176, R333): for each issuing slice a verdict,
found in the order of R176, and then one commit for the whole issue. -/

namespace Sys2Proof.Machine

/-- The streams in which an instruction is legal (R170, R175). -/
inductive Streams where
  | both | compute | access | privileged
deriving DecidableEq, Repr

/-- What the issue of an instruction does in one slice. -/
inductive Verdict where
  /-- It waits; the registers it needs refilled and the registers it names. -/
  | stall (want named : List Nat)
  /-- It waits on a queue condition that only the other stream can release (R27). -/
  | qstall
  /-- A precise fault (R176). -/
  | fault (f : FaultInfo)
  /-- It pops a poisoned entry (R62). -/
  | popped (f : FaultInfo)
  /-- It reads a register that holds an uncorrectable error (R334). -/
  | error (f : FaultInfo)
  /-- It raises the fault its access stream holds (R62). -/
  | held
  /-- It completes: the slice, the s registers to write, and a PINMASK to write. -/
  | done (sl : Slice) (sw : SWrites) (pin : Option Word32)
  /-- It completes and starts an access, whose identifier the commit assigns. -/
  | start (sl : Slice) (fl : Flight)
  /-- Its access parks on a translation miss of a page (R112). -/
  | park (page : Nat) (write : Bool)
  /-- It raises TRAP with its PC past it (R248). -/
  | trap (sl : Slice) (f : FaultInfo)
  /-- Checked mode rolls the slice back (R334). -/
  | rollback (strikes : Nat)
  /-- Checked mode finds a machine check (R334). -/
  | mcheck (f : FaultInfo)
deriving DecidableEq, Repr

/-- The slices that issue a compute instruction together with a slice: its unit, without the slices that are held,
have exited, or are swapped out (R17, R29). -/
def issuing (s : State) (k : Nat) : List Nat :=
  match teamAt s (k / 32) with
  | none => []
  | some team => (unitSlices s (k / 32) team (sliceAt s k).unit).filter fun j =>
      let sl := sliceAt s (32 * (k / 32) + j)
      !sl.held && !sl.c.exited && !sl.swapped && !sl.rollback

/-- Set the stall of a stream. -/
def markStall (acc : Bool) (sl : Slice) (want named : List Nat) (queue : Bool) : Slice :=
  setStream acc sl { streamOf acc sl with stall := true, want := want, named := named, qstall := queue }

/-- Whether a verdict is a stall. -/
def isStall : Verdict → Bool
  | .stall _ _ => true
  | .qstall => true
  | _ => false

/-- The s-register writes of a verdict. -/
def verdictWrites : Verdict → SWrites
  | .done _ sw _ => sw
  | _ => []

/-- The PINMASK write of a verdict. -/
def verdictPin : Verdict → Option Word32
  | .done _ _ p => p
  | _ => none

/-- Write s registers of a slice and clear their diverged marks (R31). -/
def putS (sw : SWrites) (sl : Slice) : Slice :=
  sw.foldl (fun sl w => { sl with
    s := aput 0 sl.s w.1 w.2
    sdiv := sl.sdiv &&& ~~~(BitVec.ofNat 32 (2 ^ w.1)) }) sl

/-- The level at which a slice stands: its team's, or the one before where a change has not reached it yet (R37). -/
def sliceLevel (t : Team) (sl : Slice) : Nat :=
  match sl.levelDue with
  | some d => d.2
  | none => t.level

/-- How many registers of a bank a folded team keeps resident per lane at a level (R38); at L0 it keeps them all. -/
def budgetOf (t : Team) (level : Nat) (acc : Bool) : Option Nat :=
  if level = 0 then none else some (if acc then levelA t.a level else levelV t.v level)

/-- The room for what is removed from a slice in the scratch part of its core's spill area: none while a fold that frees pages
has not reached it (R42, R344). -/
def removalRoom (s : State) (core : Nat) (sl : Slice) : Nat :=
  if sl.levelDue.any fun d => d.1 then 0 else spillRoom s core

/-- The issuer's environment, if it is there. -/
def envOf (s : State) (k : Nat) (acc : Bool) : Option Env :=
  if trapBase ≤ k then
    let core := k - trapBase
    let c := coreAt s core
    match teamAt s (teamKey core c.tteam) with
    | some t => if acc && c.invoc then some ⟨k, true, true, 0, 64, 0, core, t.ctx, none, 0⟩ else none
    | none => none
  else match teamAt s (k / 32) with
  | some t => if k % 32 < t.s then some ⟨k, acc, false, t.v, t.a, k % 32, k / 512, t.ctx,
      budgetOf t (sliceLevel t (sliceAt s k)) acc,
      if sliceLevel t (sliceAt s k) = 0 then 0 else removalRoom s (k / 512) (sliceAt s k)⟩ else none
  | none => none

/-- The team that a slice key or a trap context's key serves. -/
def keyTeam (s : State) (k : Nat) : Option Team :=
  teamAt s (if trapBase ≤ k then teamKey (coreOfKey k) (coreAt s (coreOfKey k)).tteam else k / 32)

/-- The virtual device in whose context a key's accesses are translated. -/
def keyCtx (s : State) (k : Nat) : Nat :=
  match keyTeam s k with
  | some x => x.ctx
  | none => 0

/-- The launch that a key's accesses belong to (R354). -/
def keyLaunch (s : State) (k : Nat) : Nat :=
  match keyTeam s k with
  | some x => x.launch
  | none => 0

/-- Add an access in flight under a fresh identifier, for its issuer's launch. -/
def addFlight (s : State) (fl : Flight) : State :=
  { s with
    serial := s.serial + 1
    flights := s.flights ++ [{ fl with id := s.serial, launch := keyLaunch s fl.owner }] }

/-- Whether an access in flight is a LANE write (R118). -/
def isLaneWrite (f : Flight) : Bool :=
  match f.kind with
  | .store _ => true
  | .stdesc => true
  | .atomic _ _ _ _ => true
  | .arrive _ => true
  | _ => false

/-- Whether an access in flight is a LANE read (R118). -/
def isLaneRead (f : Flight) : Bool :=
  match f.kind with
  | .load _ _ => true
  | .lddesc _ => true
  | .atomic _ _ _ _ => true
  | _ => false

/-- Whether an access is a load of any kind. -/
def isLoad (f : Flight) : Bool :=
  match f.kind with
  | .load _ _ => true
  | .ldx _ _ _ => true
  | .lddesc _ => true
  | _ => false

/-- Whether an access in flight reads into LDQ: a load of any kind, or an atomic. -/
def isRead (f : Flight) : Bool := isLoad f || isLaneRead f

/-- Park an access on a translation miss and ask for its walk (R112, R359). -/
def parkSlice (s : State) (k page : Nat) (write : Bool) : State :=
  let s := putSlice s k { sliceAt s k with park := some ⟨page, write, false, none⟩ }
  addWalk s (vdevOf (keyCtx s k)) page write (coreOfKey k) (dieOf (coreOfKey k))

/-- Act on the verdict of a slice that does not complete. -/
def actOn (acc : Bool) (s : State) (k : Nat) : Verdict → State
  | .stall _ _ => s
  | .qstall => s
  | .fault f => takeFault s k acc f
  | .popped f => raisePopped s k f
  | .error f => consumeError s k acc f
  | .held => raiseHeld s k
  | .done _ _ _ => s
  | .start _ _ => s
  | .park page write => parkSlice s k page write
  | .trap sl f => takeFault (putSlice s k sl) k acc f
  | .rollback n => startRollback (leaveUnit s k) k n
  | .mcheck f => machineCheck s k acc f

/-- Write the slice of a verdict that completes. -/
def writeDone (s : State) (sw : SWrites) (k : Nat) : Verdict → State
  | .done sl _ _ => putSlice s k (putS sw sl)
  | .start sl fl => addFlight (putSlice s k (putS sw sl)) fl
  | _ => s

/-- Write a team's PINMASK. -/
def putPin (s : State) (t : Nat) (p : Option Word32) : State :=
  match p, teamAt s t with
  | some x, some team => putTeam s t (some { team with pin := x })
  | _, _ => s

/-- Whether a verdict completes. -/
def isDone : Verdict → Bool
  | .done _ _ _ => true
  | .start _ _ => true
  | _ => false

/-- Commit one compute issue (R31, R32, R68): if any slice must wait, the whole issue waits; otherwise the slices
that complete are written, with the s value of the lowest of them that gives one, the others leave the unit and
take their faults, and the rest part by PC. -/
def commitIssue (s : State) (t u : Nat) (vs : List (Nat × Verdict)) : State :=
  if vs.any (fun v => isStall v.2) then
    vs.foldl (fun s v => match v.2 with
      | .stall w n => putSlice s (32 * t + v.1) (markStall false (sliceAt s (32 * t + v.1)) w n false)
      | .qstall => putSlice s (32 * t + v.1) (markStall false (sliceAt s (32 * t + v.1)) [] [] true)
      | _ => s) s
  else
    let sw := ((vs.map fun v => verdictWrites v.2).find? fun w => !w.isEmpty).getD []
    let pin := vs.findSome? fun v => verdictPin v.2
    let s := countUnit s t u
    let s := vs.foldl (fun s v => writeDone s sw (32 * t + v.1) v.2) s
    let s := putPin s t pin
    let s := vs.foldl (fun s v => actOn false s (32 * t + v.1) v.2) s
    let stay := (vs.filter fun v => isDone v.2).map (·.1)
    match stay with
    | [] => s
    | j :: _ => partUnit s t (sliceAt s (32 * t + j)).unit stay

/-- Commit an access-stream or trap-context issue. -/
def commitOne (s : State) (k : Nat) (v : Verdict) : State :=
  match v with
  | .stall w n => putSlice s k (markStall true (sliceAt s k) w n false)
  | .qstall => putSlice s k (markStall true (sliceAt s k) [] [] true)
  | .done sl _ p => putPin (putSlice s k sl) (k / 32) p
  | .start sl fl => addFlight (putSlice s k sl) fl
  | v => actOn true s k v

/-- The fault that the stream rule raises (R175, R176). -/
def streamFault (r : Streams) (e : Env) : Option FaultInfo :=
  match r with
  | .both => none
  | .compute => if e.acc then some (plainFault codeILLEGAL_IN_STREAM) else none
  | .access => if e.acc then none else some (plainFault codeILLEGAL_IN_STREAM)
  | .privileged => if e.trap then none else some (plainFault codePRIVILEGED)

/-- One slice's mismatches of a checked issue (R334): the mask of lanes of each comparison that failed, in order. -/
def mismatches (s : State) (k : Nat) : List Nat := (s.soft.filter fun p => p.1 = k).map (·.2)

/-- A strike count that mismatches have raised (R334). -/
def struck (sl0 : Slice) (n : Nat) (sl : Slice) : Slice := if n = sl0.strikes then sl else { sl with strikes := n }

/-- What checked mode makes of a completing verdict, one mismatch after another (R333, R334). -/
def strike (sl0 : Slice) : List Nat → Nat → Verdict → Verdict
  | [], n, .done sl sw p => .done (struck sl0 n sl) sw p
  | [], n, .start sl fl => .start (struck sl0 n sl) fl
  | [], _, v => v
  | m :: ms, n, v =>
    if n = 0 then strike sl0 ms 1 v
    else if n = 1 && !sl0.rolled && sl0.c.region != 0 && sl0.a.region != 0 then .rollback 2
    else .mcheck ⟨codeCHECK_MISMATCH, (lowestLane (BitVec.ofNat 4 m)).getD 0, 0, BitVec.ofNat 4 m⟩

/-- A verdict under checked mode (R333). -/
def checkedVerdict (s : State) (k : Nat) (v : Verdict) : Verdict :=
  match teamAt s (k / 32) with
  | some t =>
    if t.checked && isDone v then strike (sliceAt s k) (mismatches s k) (sliceAt s k).strikes v else v
  | none => v

/-- Issue an instruction that acts on slices alone: in each issuing slice the stream rule, then the instruction's
own verdict. `compare` says whether checked mode compares its results. -/
def issueLane (s : State) (r : Streams) (compare : Bool) (f : Env → Slice → Verdict) :
    Host.Outcome State Fault Refusal :=
  match s.issuer with
  | .compute k =>
    match envOf s k false with
    | none => .fault .noIssuer
    | some _ =>
      if trapBase ≤ k then .fault .noIssuer
      else
        let t := k / 32
        let vs := (issuing s k).map fun j =>
          let kj := 32 * t + j
          (j, match envOf s kj false with
            | none => .stall [] []
            | some e =>
              match streamFault r e with
              | some ft => .fault ft
              | none =>
                let v := f e (sliceAt s kj)
                if compare then checkedVerdict s kj v else v)
        .next (commitIssue s t (sliceAt s k).unit vs)
  | .access k =>
    match envOf s k true with
    | none => .fault .noIssuer
    | some e =>
      .next (commitOne s k (match streamFault r e with
        | some ft => .fault ft
        | none => f e (sliceAt s k)))
  | .trap core =>
    match envOf s (trapBase + core) true with
    | none => .fault .noIssuer
    | some e =>
      .next (commitOne s (trapBase + core) (match streamFault r e with
        | some ft => .fault ft
        | none => f e (sliceAt s (trapBase + core))))
  | _ => .fault .noIssuer

/-- The operands of an instruction: sources in the order a, b, then an accumulating d (R59), and the destination:
whether it is 64 bits wide in the compute stream, and its code. -/
structure Operands where
  srcs : List (Kind × Nat)
  dst : Option (Bool × Nat)
deriving DecidableEq, Repr

/-- The codes of an instruction with whether each is wide. -/
def Operands.codes (o : Operands) : List (Bool × Nat) :=
  o.srcs.map (fun p => (kindWide p.1, p.2)) ++ o.dst.toList

/-- The registers that an instruction names. -/
def Operands.named (e : Env) (sl : Slice) (act : BitVec 4) (o : Operands) : List Nat :=
  (o.codes.flatMap fun p => regsNamed e sl act p.1 p.2).eraseDups

/-- Faults 4 to 6 of R176, then the stalls of an instruction's operands (R60, R42, R230); none when it may go on. -/
def checkOperands (e : Env) (sl : Slice) (act : BitVec 4) (o : Operands) (illegal : Bool) : Option Verdict :=
  if illegal || o.srcs.any (fun p => srcIllegal e p.1 p.2) || o.dst.any (fun p => dstIllegal e p.1 p.2) then
    some (.fault (plainFault codeILLEGAL_OPERAND))
  else
    let bad := o.codes.foldl (fun m p => m ||| indexBad e sl act p.1 p.2) 0
    if bad ≠ 0 then some (.fault ⟨codeIDX_RANGE, 0, 0, bad⟩)
    else if o.srcs.any (fun p => divergedSrc e sl (kindWide p.1) p.2) then
      some (.fault (plainFault codeUNIFORM_DIVERGED))
    else none

/-- The stalls of an instruction's operands (R25, R42, R60, R230). DESIGN CHOICE: a push that has no room stalls before a pop
finds a poisoned entry (log entry 171). -/
def stallOperands (e : Env) (sl : Slice) (act : BitVec 4) (o : Operands) : Option Verdict :=
  let named := o.named e sl act
  let spilled := spilledOf e.acc sl named
  if !spilled.isEmpty || statPending e.acc sl named then some (.stall spilled named)
  else if o.dst.any (fun p => !pushRoom e sl (if p.1 && !e.acc then 2 else 1) p.2) then some .qstall
  else none

/-- What reading all sources gives. -/
inductive Srcs where
  | got (vals : List (Quad Nat)) (sl : Slice)
  | stop (v : Verdict)
deriving DecidableEq, Repr

/-- Read the sources in order (R59). -/
def readSrcs (e : Env) (act : BitVec 4) : List (Kind × Nat) → Slice → Srcs
  | [], sl => .got [] sl
  | p :: ps, sl =>
    match readSrc e act p.1 p.2 sl with
    | .stall b => .stop (if b then .qstall else .stall [] [])
    | .poisoned f => .stop (.popped f)
    | .got q sl' =>
      match readSrcs e act ps sl' with
      | .got qs sl'' => .got (q :: qs) sl''
      | r => r

/-- The lowest of some lanes, as a mask. -/
def lowMask (act : BitVec 4) : BitVec 4 := maskOf fun l => lowestLane act == some l

/-- The lanes whose source registers hold an uncorrectable error (R325, R334). -/
def badLanes (e : Env) (sl : Slice) (act : BitVec 4) (o : Operands) : BitVec 4 :=
  maskOf fun l => act.getLsbD l && o.srcs.any fun p =>
    (laneRegs e sl (kindWide p.1) p.2 l).any fun r => (regInfo e.acc sl r).bad.getLsbD l

/-- Whether a source register holds an uncorrectable error (R334). -/
def badSrc (e : Env) (sl : Slice) (act : BitVec 4) (o : Operands) : Bool := badLanes e sl act o != 0

/-- The end of an instruction that completes: index increments (R52), last-use marks on operands a and b (R63), the
ages (R40), and the PC, hints and counts. `before` is the slice before the results were written. -/
def finishLane (e : Env) (before : Slice) (act : BitVec 4) (o : Operands) (a b : Option (Bool × Nat)) (sl : Slice) :
    Slice :=
  let h := (streamOf e.acc before).hint
  let written : Nat → List Nat := fun l => match o.dst with
    | some p => laneRegs e before p.1 p.2 l
    | none => []
  let sl := match a with
    | some p => if h.modv && h.lasta then lastUse e before act p.1 p.2 written sl else sl
    | none => sl
  let sl := match b with
    | some p => if h.modv && h.lastb then lastUse e before act p.1 p.2 written sl else sl
    | none => sl
  let fields := (a.toList ++ b.toList).map (·.2) ++ o.dst.toList.map (·.2)
  let sl := bumpAll e act fields sl
  let named := o.named e before act
  let sl := trimNew e named (touchRegs e.acc named sl)
  setStream e.acc sl (retire (streamOf e.acc sl))

/-- How an instruction rounds (R201). -/
inductive Rounds where
  | no | byMode | byRna
deriving DecidableEq, Repr

/-- The rounding mode of FPMODE.RM (R87). -/
def rmOf (x : Nat) : RMode :=
  match x with
  | 0 => .rn
  | 1 => .rz
  | 2 => .ru
  | _ => .rd

/-- The mode of a MOD hint's rounding field, if it names one (R166). -/
def modRm (h : Hint) : Option RMode :=
  if h.modv then
    match h.modrm.toNat with
    | 1 => some .rn
    | 2 => some .rz
    | 3 => some .ru
    | 4 => some .rd
    | 5 => some .rna
    | _ => none
  else none

/-- What an operation is computed from. -/
structure OpIn where
  a : Quad Nat
  b : Quad Nat
  d : Quad Nat
  act : BitVec 4
  acc : Bool
  /-- W of R178. -/
  w : Nat
  mode : RMode
  sat : Bool
  ftz : Bool
  /-- The stream's predicates, by number and lane. -/
  pred : Nat → Nat → Bool

/-- One lane's result: the value, the FPFLAGS it sets, and whether it clamps (R72, R88). -/
structure LaneOut where
  val : Nat
  flags : Nat
  clamp : Bool
deriving DecidableEq, Repr

/-- A result without flags. -/
def plainOut (x : Nat) : LaneOut := ⟨x, 0, false⟩

/-- The form of an arithmetic instruction: where it is legal, the formats of d, a and b, whether it reads d, whether
d names a predicate, and how it rounds. -/
structure AluForm where
  streams : Streams
  d : Kind
  a : Kind
  b : Option Kind
  readsD : Bool
  pred : Bool
  rounds : Rounds
  /-- It reads operand a from every lane, those that do not act too (R193). -/
  cross : Bool
deriving DecidableEq, Repr

/-- The operands of an arithmetic instruction. -/
def aluOperands (m : AluForm) (d a b : Nat) : Operands where
  srcs := [(m.a, a)] ++ (match m.b with
    | some k => [(k, b)]
    | none => []) ++ (if m.readsD then [(m.d, d)] else [])
  dst := if m.pred then none else some (kindWide m.d, d)

/-- The lanes whose source registers, as an arithmetic instruction reads them, hold an uncorrectable error (R193, R334). -/
def aluBad (e : Env) (m : AluForm) (sl : Slice) (act : BitVec 4) (d a b : Nat) : BitVec 4 :=
  badLanes e sl act (aluOperands m d a b) |||
    (if m.cross && act != 0 then badLanes e sl 15 ⟨[(m.a, a)], none⟩ else 0)

/-- The inputs of an operation. -/
def opIn (e : Env) (m : AluForm) (sl : Slice) (act : BitVec 4) (vals : List (Quad Nat)) : OpIn :=
  let st := streamOf e.acc sl
  let fm := sl.fpmode.toNat
  let zero : Quad Nat := qfill 0
  let rest := vals.drop 1
  { a := vals.headD zero
    b := if m.b.isSome then rest.headD zero else zero
    d := if m.readsD then (if m.b.isSome then (rest.drop 1).headD zero else rest.headD zero) else zero
    act := act
    acc := e.acc
    w := if e.acc then 64 else 32
    mode := match modRm st.hint with
      | some r => r
      | none => if m.rounds = .byRna then .rna else rmOf (bits fm 0 3)
    sat := bitAt fm 4 || (st.hint.modv && st.hint.modsat)
    ftz := bitAt fm 3
    pred := fun p l => predOf st p l }

/-- Collect the flags of the acting lanes (R72, R200). -/
def putFlags (act : BitVec 4) (out : Nat → LaneOut) (sl : Slice) : Slice :=
  let fp := qof fun l =>
    if act.getLsbD l then qget sl.fpflags l ||| BitVec.ofNat 32 (out l).flags else qget sl.fpflags l
  let sf := qof fun l =>
    if act.getLsbD l && (out l).clamp then qget sl.satflag l ||| 1 else qget sl.satflag l
  { sl with fpflags := fp, satflag := sf }

/-- One slice's issue of an arithmetic instruction (R178, R200). -/
def aluSlice (m : AluForm) (op : OpIn → Nat → LaneOut) (d a b : Nat) (e : Env) (sl : Slice) : Verdict :=
  let st := streamOf e.acc sl
  let act := actLanes st
  let o := aluOperands m d a b
  let illegal := (m.pred && decide (7 < d)) || (!e.acc && m.rounds = .byMode && modRm st.hint = some .rna)
  match checkOperands e sl act o illegal with
  | some v => v
  | none =>
    match stallOperands e sl act o with
    | some v => v
    | none =>
      if aluBad e m sl act d a b ≠ 0 then .error ⟨codeUNCORRECTABLE, 0, 0, aluBad e m sl act d a b⟩
      else match readSrcs e act o.srcs sl with
      | .stop v => v
      | .got vals sl1 =>
        let i := opIn e m sl act vals
        let out := op i
        let r := if m.pred then (writePred e.acc act d (fun l => (out l).val != 0) sl1, [])
          else writeDst e act (kindWide m.d) d (qof fun l => (out l).val) sl1
        let sl2 := if e.acc then r.1 else putFlags act out r.1
        .done (finishLane e sl act o (some (kindWide m.a, a)) (m.b.map fun k => (kindWide k, b)) sl2) r.2 none

/-- Issue an arithmetic instruction. -/
def runAlu (m : AluForm) (op : OpIn → Nat → LaneOut) (d a b : Code) (s : State) : Host.Outcome State Fault Refusal :=
  issueLane s m.streams true (aluSlice m op d.toNat a.toNat b.toNat)

end Sys2Proof.Machine
end

