-- ==== Sys2Proof/Machine/IntAlu.lean ====
section
/-! DEFINITION. Integer arithmetic, logic, shifts, bit fields, byte permutes, 64-bit forms, unary functions,
compares, selection and immediates (R183 to R190, R197). -/

namespace Sys2Proof.Machine

/-- F3 with integer operands, in both streams (R183). -/
def int3 : AluForm := ⟨.both, .int, .int, some .int, false, false, .no, false⟩

/-- As `int3`, reading d as well (R181). -/
def int3d : AluForm := { int3 with readsD := true }

/-- F2 with one integer source, in both streams (R188). -/
def int2 : AluForm := ⟨.both, .int, .int, none, false, false, .no, false⟩

/-- A compare that writes a predicate (R189). -/
def intCmp : AluForm := { int3 with pred := true }

/-- An operation on the lane's a and b as W-bit numbers. -/
def binOp (f : Nat → Nat → Nat → Nat) (i : OpIn) (l : Nat) : LaneOut :=
  plainOut (f i.w (qget i.a l) (qget i.b l) % 2 ^ i.w)

/-- An operation on the lane's a, b and d as W-bit numbers. -/
def triOp (f : Nat → Nat → Nat → Nat → Nat) (i : OpIn) (l : Nat) : LaneOut :=
  plainOut (f i.w (qget i.a l) (qget i.b l) (qget i.d l) % 2 ^ i.w)

/-- An operation on the lane's a. -/
def unOp (f : Nat → Nat → Nat) (i : OpIn) (l : Nat) : LaneOut := plainOut (f i.w (qget i.a l) % 2 ^ i.w)

/-- A compare of the lane's a and b. -/
def cmpOp (f : Nat → Nat → Nat → Bool) (i : OpIn) (l : Nat) : LaneOut :=
  plainOut (f i.w (qget i.a l) (qget i.b l)).toNat

/-- The count of a shift: five bits, or six in the access stream (R184). -/
def shiftCount (w b : Nat) : Nat := b % w

/-- The complement within W bits. -/
def notBits (w x : Nat) : Nat := 2 ^ w - 1 - x % 2 ^ w

/-- Count of 1 bits of the low n bits. -/
def popCount (x : Nat) : Nat → Nat
  | 0 => 0
  | n + 1 => popCount (x / 2) n + x % 2

/-- The low n bits in reverse order. -/
def bitRev (x : Nat) : Nat → Nat
  | 0 => 0
  | n + 1 => (x % 2) * 2 ^ n + bitRev (x / 2) n

/-- Count of 0 bits below the lowest 1 bit, at most n. -/
def trailZeros (x : Nat) : Nat → Nat
  | 0 => 0
  | n + 1 => if x % 2 = 1 then 0 else trailZeros (x / 2) n + 1

/-- The n bytes of a number in reverse order. -/
def byteRev (x : Nat) : Nat → Nat
  | 0 => 0
  | n + 1 => (x % 256) * 256 ^ n + byteRev (x / 256) n

/-- Position and length of a bit field: L is cut at bit W−1 (R185). -/
def fieldOf (w b : Nat) : Nat × Nat :=
  let pos := b % w
  (pos, min (bits b 8 (if w = 64 then 6 else 5)) (w - pos))

/-- The byte that a PRMB selector gives (R186). -/
def permByte (acc : Bool) (a t : Nat) : Nat :=
  let byte := bits a (8 * (t % (if acc then 8 else 4))) 8
  if !acc && bitAt t 2 then 0
  else if bitAt t 3 then (if bitAt byte 7 then 0xFF else 0)
  else byte

/-- PRMB over n bytes from byte j (R186). -/
def permBytes (acc : Bool) (a b j : Nat) : Nat → Nat
  | 0 => 0
  | n + 1 => permByte acc a (bits b (4 * j) 4) * 256 ^ j + permBytes acc a b (j + 1) n

/-- IADD (R183). -/
def execIadd (d a b : Code) (s : State) := runAlu int3 (binOp fun _ x y => x + y) d a b s

/-- ISUB (R183). -/
def execIsub (d a b : Code) (s : State) := runAlu int3 (binOp fun w x y => wrap w ((x : Int) - y)) d a b s

/-- IMIN.S (R183). -/
def execIminS (d a b : Code) (s : State) :=
  runAlu int3 (binOp fun w x y => if sval w x ≤ sval w y then x else y) d a b s

/-- IMAX.S (R183). -/
def execImaxS (d a b : Code) (s : State) :=
  runAlu int3 (binOp fun w x y => if sval w x ≤ sval w y then y else x) d a b s

/-- IMUL (R183). -/
def execImul (d a b : Code) (s : State) := runAlu int3 (binOp fun _ x y => x * y) d a b s

/-- IMULH.S (R183). -/
def execImulhS (d a b : Code) (s : State) :=
  runAlu int3 (binOp fun w x y => wrap w (sval w x * sval w y / ((2 ^ w : Nat) : Int))) d a b s

/-- IMULH.U (R183). -/
def execImulhU (d a b : Code) (s : State) := runAlu int3 (binOp fun w x y => x * y / 2 ^ w) d a b s

/-- IMAD (R183). -/
def execImad (d a b : Code) (s : State) := runAlu int3d (triOp fun _ x y z => x * y + z) d a b s

/-- IMIN.U (R183). -/
def execIminU (d a b : Code) (s : State) := runAlu int3 (binOp fun _ x y => min x y) d a b s

/-- IMAX.U (R183). -/
def execImaxU (d a b : Code) (s : State) := runAlu int3 (binOp fun _ x y => max x y) d a b s

/-- IABSD.U (R183). -/
def execIabsdU (d a b : Code) (s : State) := runAlu int3 (binOp fun _ x y => max x y - min x y) d a b s

/-- IAVG.U (R183). -/
def execIavgU (d a b : Code) (s : State) := runAlu int3 (binOp fun _ x y => (x + y + 1) / 2) d a b s

/-- AND (R183). -/
def execBand (d a b : Code) (s : State) := runAlu int3 (binOp fun _ x y => x &&& y) d a b s

/-- OR (R183). -/
def execBor (d a b : Code) (s : State) := runAlu int3 (binOp fun _ x y => x ||| y) d a b s

/-- XOR (R183). -/
def execBxor (d a b : Code) (s : State) := runAlu int3 (binOp fun _ x y => x ^^^ y) d a b s

/-- ANDN (R183). -/
def execBandn (d a b : Code) (s : State) := runAlu int3 (binOp fun w x y => x &&& notBits w y) d a b s

/-- SHL (R184). -/
def execShl (d a b : Code) (s : State) := runAlu int3 (binOp fun w x y => x * 2 ^ shiftCount w y) d a b s

/-- SHR.U (R184). -/
def execShrU (d a b : Code) (s : State) := runAlu int3 (binOp fun w x y => x / 2 ^ shiftCount w y) d a b s

/-- SHR.S (R184). -/
def execShrS (d a b : Code) (s : State) :=
  runAlu int3 (binOp fun w x y => wrap w (sval w x / ((2 ^ shiftCount w y : Nat) : Int))) d a b s

/-- SHRR.S (R73, R184). -/
def execShrrS (d a b : Code) (s : State) :=
  runAlu int3 (binOp fun w x y => wrap w (shrRound (sval w x) (shiftCount w y))) d a b s

/-- ROTL (R184). -/
def execRotl (d a b : Code) (s : State) :=
  runAlu int3 (binOp fun w x y => x * 2 ^ shiftCount w y + x / 2 ^ (w - shiftCount w y)) d a b s

/-- BFE.U (R185). -/
def execBfeU (d a b : Code) (s : State) :=
  runAlu int3 (binOp fun w x y => bits x (fieldOf w y).1 (fieldOf w y).2) d a b s

/-- BFE.S (R185). -/
def execBfeS (d a b : Code) (s : State) :=
  runAlu int3 (binOp fun w x y =>
    if (fieldOf w y).2 = 0 then 0 else sext (fieldOf w y).2 w (bits x (fieldOf w y).1 (fieldOf w y).2)) d a b s

/-- BFI (R185). -/
def execBfi (d a b : Code) (s : State) :=
  runAlu int3d (triOp fun w x y z =>
    let f := fieldOf w y
    z - bits z f.1 f.2 * 2 ^ f.1 + x % 2 ^ f.2 * 2 ^ f.1) d a b s

/-- PRMB (R186). -/
def execPrmb (d a b : Code) (s : State) :=
  runAlu int3 (fun i l => plainOut (permBytes i.acc (qget i.a l) (qget i.b l) 0 (i.w / 8))) d a b s

/-- The form of the 32-bit products with a 64-bit result (R187). -/
def mulwForm : AluForm := { int3 with d := .wide }

/-- MULW.U (R187). -/
def execMulwU (d a b : Code) (s : State) :=
  runAlu mulwForm (fun i l => plainOut (qget i.a l % 2 ^ 32 * (qget i.b l % 2 ^ 32))) d a b s

/-- MULW.S (R187). -/
def execMulwS (d a b : Code) (s : State) :=
  runAlu mulwForm (fun i l => plainOut (wrap 64 (sval 32 (qget i.a l) * sval 32 (qget i.b l)))) d a b s

/-- IADD64 (R187). -/
def execIadd64 (d a b : Code) (s : State) :=
  runAlu { int3 with d := .wide, a := .wide, b := some .wide }
    (fun i l => plainOut ((qget i.a l + qget i.b l) % 2 ^ 64)) d a b s

/-- MOV (R188). -/
def execMov (d a : Code) (s : State) := runAlu int2 (unOp fun _ x => x) d a 0 s

/-- NOT (R188). -/
def execBnot (d a : Code) (s : State) := runAlu int2 (unOp fun w x => notBits w x) d a 0 s

/-- NEG (R188). -/
def execIneg (d a : Code) (s : State) := runAlu int2 (unOp fun w x => wrap w (-(x : Int))) d a 0 s

/-- ABS (R188). -/
def execIabs (d a : Code) (s : State) := runAlu int2 (unOp fun w x => (sval w x).natAbs) d a 0 s

/-- POPC (R188). -/
def execPopc (d a : Code) (s : State) := runAlu int2 (unOp fun w x => popCount x w) d a 0 s

/-- CLZ (R188). -/
def execClz (d a : Code) (s : State) := runAlu int2 (unOp fun w x => w - bitLen x) d a 0 s

/-- CTZ (R188). -/
def execCtz (d a : Code) (s : State) := runAlu int2 (unOp fun w x => trailZeros x w) d a 0 s

/-- BREV (R188). -/
def execBrev (d a : Code) (s : State) := runAlu int2 (unOp fun w x => bitRev x w) d a 0 s

/-- SEXT8 (R188). -/
def execSext8 (d a : Code) (s : State) := runAlu int2 (unOp fun w x => sext 8 w x) d a 0 s

/-- SEXT16 (R188). -/
def execSext16 (d a : Code) (s : State) := runAlu int2 (unOp fun w x => sext 16 w x) d a 0 s

/-- ZEXT8 (R188). -/
def execZext8 (d a : Code) (s : State) := runAlu int2 (unOp fun _ x => x % 2 ^ 8) d a 0 s

/-- ZEXT16 (R188). -/
def execZext16 (d a : Code) (s : State) := runAlu int2 (unOp fun _ x => x % 2 ^ 16) d a 0 s

/-- BSWAP (R188). -/
def execBswap (d a : Code) (s : State) := runAlu int2 (unOp fun w x => byteRev x (w / 8)) d a 0 s

/-- ICMP.EQ (R189). -/
def execIcmpEq (p a b : Code) (s : State) := runAlu intCmp (cmpOp fun _ x y => x == y) p a b s

/-- ICMP.NE (R189). -/
def execIcmpNe (p a b : Code) (s : State) := runAlu intCmp (cmpOp fun _ x y => x != y) p a b s

/-- ICMP.LT.S (R189). -/
def execIcmpLtS (p a b : Code) (s : State) := runAlu intCmp (cmpOp fun w x y => decide (sval w x < sval w y)) p a b s

/-- ICMP.LE.S (R189). -/
def execIcmpLeS (p a b : Code) (s : State) := runAlu intCmp (cmpOp fun w x y => decide (sval w x ≤ sval w y)) p a b s

/-- ICMP.LT.U (R189). -/
def execIcmpLtU (p a b : Code) (s : State) := runAlu intCmp (cmpOp fun _ x y => decide (x < y)) p a b s

/-- ICMP.LE.U (R189). -/
def execIcmpLeU (p a b : Code) (s : State) := runAlu intCmp (cmpOp fun _ x y => decide (x ≤ y)) p a b s

/-- TEST (R189). -/
def execTest (p a b : Code) (s : State) := runAlu intCmp (cmpOp fun _ x y => x &&& y != 0) p a b s

/-- TESTZ (R189). -/
def execTestz (p a b : Code) (s : State) := runAlu intCmp (cmpOp fun _ x y => x &&& y == 0) p a b s

/-- SEL on p1 to p4 (R190). -/
def execSel (n : BitVec 2) (d a b : Code) (s : State) :=
  runAlu { int3 with streams := .compute }
    (fun i l => plainOut (if i.pred (n.toNat + 1) l then qget i.a l else qget i.b l)) d a b s

/-- The 40-bit value k of an FI instruction, sign-extended, when no IMM hint is pending (R161). -/
def fiValue (h : Hint) (imm : BitVec 16) : Int :=
  if h.immv then sval 40 (h.immp.toNat * 2 ^ 16 + imm.toNat) else sval 16 imm.toNat

/-- One slice's issue of an FI arithmetic instruction (R161, R197): f takes the width, the value k of R161 and d. -/
def fiSlice (readsD : Bool) (f : Nat → Int → Nat → Nat) (imm : BitVec 16) (d : Nat) (e : Env) (sl : Slice) : Verdict :=
  let k := fiValue (streamOf e.acc sl).hint imm
  let act := actLanes (streamOf e.acc sl)
  let o : Operands := ⟨if readsD then [(.int, d)] else [], some (false, d)⟩
  match checkOperands e sl act o false with
  | some v => v
  | none =>
    match stallOperands e sl act o with
    | some v => v
    | none =>
      if badSrc e sl act o then .error ⟨codeUNCORRECTABLE, 0, 0, badLanes e sl act o⟩
      else match readSrcs e act o.srcs sl with
      | .stop v => v
      | .got vals sl1 =>
        let w := if e.acc then 64 else 32
        let r := writeDst e act false d (qof fun l => f w k (qget (vals.headD (qfill 0)) l) % 2 ^ w) sl1
        .done (finishLane e sl act o none none r.1) r.2 none

/-- MOVI (R197). -/
def execMovi (d : Code) (i : BitVec 16) (s : State) :=
  issueLane s .both true (fiSlice false (fun w k _ => wrap w k) i d.toNat)

/-- MOVHI (R197): k zero-extended to 40 bits above the low 16 bits of d. -/
def execMovhi (d : Code) (i : BitVec 16) (s : State) :=
  issueLane s .both true (fiSlice true (fun _ k x => wrap 40 k * 2 ^ 16 + x % 2 ^ 16) i d.toNat)

/-- ADDI (R197). -/
def execAddi (d : Code) (i : BitVec 16) (s : State) :=
  issueLane s .both true (fiSlice true (fun w k x => wrap w (x + k)) i d.toNat)

/-- MULI (R197). -/
def execMuli (d : Code) (i : BitVec 16) (s : State) :=
  issueLane s .both true (fiSlice true (fun w k x => wrap w (x * k)) i d.toNat)

end Sys2Proof.Machine
end

