-- ==== Sys2Proof/Machine/Packed.lean ====
section
/-! DEFINITION. Packed 16-bit and 8-bit integers, and the exchange instructions within a slice (R191 to R196). -/

namespace Sys2Proof.Machine

/-- F3 on packed elements of w bits, compute stream only (R191, R192). -/
def packForm (w : Nat) (readsD : Bool) : AluForm :=
  ⟨.compute, .int, .packed w, some (.packed w), readsD, false, .no, false⟩

/-- Element i of w bits, signed. -/
def elemS (w x i : Nat) : Int := sval w (bits x (w * i) w)

/-- Element i of w bits, unsigned. -/
def elemU (w x i : Nat) : Nat := bits x (w * i) w

/-- Put the results of n elements of w bits together, with the OR of their clamps and flags. -/
def packOuts (w : Nat) (f : Nat → LaneOut) : Nat → Nat → LaneOut
  | 0, _ => ⟨0, 0, false⟩
  | n + 1, i =>
    let x := f i
    let r := packOuts w f n (i + 1)
    ⟨x.val % 2 ^ w * 2 ^ (w * i) + r.val, x.flags ||| r.flags, x.clamp || r.clamp⟩

/-- A clamped result in w bits. -/
def clampOut (w : Nat) (r : Int × Bool) : LaneOut := ⟨wrap w r.1, 0, r.2⟩

/-- Σ over n elements of a product (R191, R192). -/
def dotSum (f : Nat → Int) : Nat → Int
  | 0 => 0
  | n + 1 => dotSum f n + f n

/-- DOT2.SAT (R191). -/
def execDot2Sat (d a b : Code) (s : State) :=
  runAlu (packForm 16 true) (fun i l => clampOut 32 (satS 32
    (sval 32 (qget i.d l) + dotSum (fun j => elemS 16 (qget i.a l) j * elemS 16 (qget i.b l) j) 2))) d a b s

/-- DOT2.WRAP (R191). -/
def execDot2Wrap (d a b : Code) (s : State) :=
  runAlu (packForm 16 true) (fun i l => plainOut (wrap 32
    (qget i.d l + dotSum (fun j => elemS 16 (qget i.a l) j * elemS 16 (qget i.b l) j) 2))) d a b s

/-- ADD2.SAT (R191). -/
def execAdd2Sat (d a b : Code) (s : State) :=
  runAlu (packForm 16 false) (fun i l => packOuts 16 (fun j => clampOut 16 (satS 16
    (elemS 16 (qget i.a l) j + elemS 16 (qget i.b l) j))) 2 0) d a b s

/-- SUB2.SAT (R191). -/
def execSub2Sat (d a b : Code) (s : State) :=
  runAlu (packForm 16 false) (fun i l => packOuts 16 (fun j => clampOut 16 (satS 16
    (elemS 16 (qget i.a l) j - elemS 16 (qget i.b l) j))) 2 0) d a b s

/-- MUL2.LO (R191). -/
def execMul2Lo (d a b : Code) (s : State) :=
  runAlu (packForm 16 false) (fun i l => packOuts 16 (fun j => plainOut
    (elemU 16 (qget i.a l) j * elemU 16 (qget i.b l) j)) 2 0) d a b s

/-- MAX2.S (R191). -/
def execMax2S (d a b : Code) (s : State) :=
  runAlu (packForm 16 false) (fun i l => packOuts 16 (fun j => plainOut
    (wrap 16 (max (elemS 16 (qget i.a l) j) (elemS 16 (qget i.b l) j)))) 2 0) d a b s

/-- MIN2.S (R191). -/
def execMin2S (d a b : Code) (s : State) :=
  runAlu (packForm 16 false) (fun i l => packOuts 16 (fun j => plainOut
    (wrap 16 (min (elemS 16 (qget i.a l) j) (elemS 16 (qget i.b l) j)))) 2 0) d a b s

/-- PACK2 (R191). -/
def execPack2 (d a b : Code) (s : State) :=
  runAlu { int3 with streams := .compute }
    (fun i l => plainOut (qget i.a l % 2 ^ 16 + qget i.b l % 2 ^ 16 * 2 ^ 16)) d a b s

/-- ISAT.S16 (R191). -/
def execIsatS16 (d a : Code) (s : State) :=
  runAlu { int2 with streams := .compute } (fun i l => clampOut 32 (satS 16 (sval 32 (qget i.a l)))) d a 0 s

/-- DOT4.S.SAT (R192). -/
def execDot4SSat (d a b : Code) (s : State) :=
  runAlu (packForm 8 true) (fun i l => clampOut 32 (satS 32
    (sval 32 (qget i.d l) + dotSum (fun j => elemS 8 (qget i.a l) j * elemS 8 (qget i.b l) j) 4))) d a b s

/-- DOT4.U.SAT (R192). -/
def execDot4USat (d a b : Code) (s : State) :=
  runAlu (packForm 8 true) (fun i l => clampOut 32 (satU 32
    (qget i.d l + dotSum (fun j => (elemU 8 (qget i.a l) j * elemU 8 (qget i.b l) j : Nat)) 4))) d a b s

/-- ADD4.U.SAT (R192). -/
def execAdd4USat (d a b : Code) (s : State) :=
  runAlu (packForm 8 false) (fun i l => packOuts 8 (fun j => clampOut 8 (satU 8
    ((elemU 8 (qget i.a l) j + elemU 8 (qget i.b l) j : Nat)))) 4 0) d a b s

/-- SUB4.U.SAT (R192). -/
def execSub4USat (d a b : Code) (s : State) :=
  runAlu (packForm 8 false) (fun i l => packOuts 8 (fun j => clampOut 8 (satU 8
    ((elemU 8 (qget i.a l) j : Int) - elemU 8 (qget i.b l) j))) 4 0) d a b s

/-- F3 exchange, compute stream only: its a is read from every lane (R193). -/
def exch3 : AluForm := { int3 with streams := .compute, cross := true }

/-- F3 exchange with b unused (R196). -/
def exch2 : AluForm := { int2 with streams := .compute }

/-- SHFL (R194). -/
def execShfl (d a b : Code) (s : State) :=
  runAlu exch3 (fun i l => plainOut (qget i.a (qget i.b l % 4))) d a b s

/-- Half j of a's eight halves across the slice (R195). -/
def halfOf (q : Quad Nat) (j : Nat) : Nat := bits (qget q (j / 2)) (16 * (j % 2)) 16

/-- SLIDEH.DN (R195). -/
def execSlidehDn (d a b : Code) (s : State) :=
  runAlu exch3 (fun i l =>
    let g := fun j => if j = 7 then qget i.b 3 % 2 ^ 16 else halfOf i.a (j + 1)
    plainOut (g (2 * l) + 2 ^ 16 * g (2 * l + 1))) d a b s

/-- SLIDEH.UP (R195). -/
def execSlidehUp (d a b : Code) (s : State) :=
  runAlu exch3 (fun i l =>
    let g := fun j => if j = 0 then qget i.b 0 % 2 ^ 16 else halfOf i.a (j - 1)
    plainOut (g (2 * l) + 2 ^ 16 * g (2 * l + 1))) d a b s

/-- SLIDEW.DN (R194). -/
def execSlidewDn (d a b : Code) (s : State) :=
  runAlu exch3 (fun i l => plainOut (if l = 3 then qget i.b 3 else qget i.a (l + 1))) d a b s

/-- BALLOT (R196). -/
def execBallot (d a : Code) (s : State) :=
  runAlu exch2 (fun i _ => plainOut (i.act &&& maskOf fun l => qget i.a l != 0).toNat) d a 0 s

/-- REDADD (R196). -/
def execRedadd (d a : Code) (s : State) :=
  runAlu exch2 (fun i _ => plainOut (((maskLanes i.act).map fun l => qget i.a l).sum % 2 ^ 32)) d a 0 s

/-- The value among the acting lanes that a signed comparison prefers (R196). -/
def reduceS (le : Int → Int → Bool) (i : OpIn) : Nat :=
  (leastBy (fun x y => le (sval 32 x) (sval 32 y)) ((maskLanes i.act).map fun l => qget i.a l)).getD 0

/-- REDMIN.S (R196). -/
def execRedminS (d a : Code) (s : State) :=
  runAlu exch2 (fun i _ => plainOut (reduceS (fun x y => decide (x < y)) i)) d a 0 s

/-- REDMAX.S (R196). -/
def execRedmaxS (d a : Code) (s : State) :=
  runAlu exch2 (fun i _ => plainOut (reduceS (fun x y => decide (y < x)) i)) d a 0 s

end Sys2Proof.Machine
end

