-- ==== Sys2Proof/Machine/Float.lean ====
section
/-! DEFINITION. Floating-point arithmetic, minima and maxima, compares, packed pairs, dot products, unary functions,
conversions, packing and insertion (R200 to R217). -/

namespace Sys2Proof.Machine

/-- F3 on operands of one format, rounding by mode (R201, R203). -/
def flt3 (f : Fmt) (readsD : Bool) (r : Rounds) : AluForm :=
  ⟨.compute, .flt f, .flt f, some (.flt f), readsD, false, r, false⟩

/-- F2 from one format to another (R209, R213). -/
def flt2 (d a : Kind) (r : Rounds) : AluForm := ⟨.compute, d, a, none, false, false, r, false⟩

/-- A pattern and flags as a lane's result. -/
def fltOut (r : Nat × Nat) : LaneOut := ⟨r.1, r.2, false⟩

/-- The value of an operand's pattern (R89). -/
def inF (f : Fmt) (i : OpIn) (x : Nat) : XVal := decodeF f i.ftz x

/-- Round in the instruction's mode, without saturation (R203). -/
def outF (f : Fmt) (i : OpIn) (x : XVal × Nat) : Nat × Nat := roundWith f i.mode false i.ftz x

/-- A float operation on patterns of one format. -/
inductive FOp where
  | add | sub | mul | fma | max
deriving DecidableEq, Repr

/-- The greater of two patterns as FMAX gives it, or the lesser as FMIN (R204). -/
def fminmax (f : Fmt) (ftz great num : Bool) (x y : Nat) : Nat :=
  let x := flushIn f ftz x
  let y := flushIn f ftz y
  let nx := xIsNan (decodeF f false x)
  let ny := xIsNan (decodeF f false y)
  if nx && ny then fmtNan f
  else if nx then (if num then y else fmtNan f)
  else if ny then (if num then x else fmtNan f)
  else if decide (orderKey f x ≤ orderKey f y) == great then y else x

/-- An operation on patterns of one format (R203, R206, R207). -/
def fop (f : Fmt) (o : FOp) (i : OpIn) (a b d : Nat) : Nat × Nat :=
  match o with
  | .add => outF f i (xDot i.mode [] [inF f i a, inF f i b])
  | .sub => outF f i (xDot i.mode [] [inF f i a, xNeg (inF f i b)])
  | .mul =>
    let p := xMul (inF f i a) (inF f i b)
    outF f i (p.1, if p.2 then flagNV else 0)
  | .fma => outF f i (xDot i.mode [(inF f i a, inF f i b)] [inF f i d])
  | .max => (fminmax f i.ftz true false a b, 0)

/-- A scalar float instruction. -/
def fop3 (f : Fmt) (o : FOp) (i : OpIn) (l : Nat) : LaneOut :=
  fltOut (fop f o i (qget i.a l) (qget i.b l) (qget i.d l))

/-- A packed pair instruction: each element on its own (R207). -/
def pair3 (f : Fmt) (o : FOp) (i : OpIn) (l : Nat) : LaneOut :=
  packOuts 16 (fun j => fltOut (fop f o i (bits (qget i.a l) (16 * j) 16) (bits (qget i.b l) (16 * j) 16)
    (bits (qget i.d l) (16 * j) 16))) 2 0

/-- FADD (R203). -/
def execFadd (d a b : Code) (s : State) := runAlu (flt3 .f32 false .byMode) (fop3 .f32 .add) d a b s

/-- FSUB (R203). -/
def execFsub (d a b : Code) (s : State) := runAlu (flt3 .f32 false .byMode) (fop3 .f32 .sub) d a b s

/-- FMUL (R203). -/
def execFmul (d a b : Code) (s : State) := runAlu (flt3 .f32 false .byMode) (fop3 .f32 .mul) d a b s

/-- FFMA (R94, R203). -/
def execFfma (d a b : Code) (s : State) := runAlu (flt3 .f32 true .byMode) (fop3 .f32 .fma) d a b s

/-- A minimum or maximum of F32 (R204). -/
def minmax3 (great num : Bool) (i : OpIn) (l : Nat) : LaneOut :=
  plainOut (fminmax .f32 i.ftz great num (qget i.a l) (qget i.b l))

/-- FMIN (R204). -/
def execFmin (d a b : Code) (s : State) := runAlu (flt3 .f32 false .no) (minmax3 false false) d a b s

/-- FMAX (R204). -/
def execFmax (d a b : Code) (s : State) := runAlu (flt3 .f32 false .no) (minmax3 true false) d a b s

/-- FMINN (R204). -/
def execFminn (d a b : Code) (s : State) := runAlu (flt3 .f32 false .no) (minmax3 false true) d a b s

/-- FMAXN (R204). -/
def execFmaxn (d a b : Code) (s : State) := runAlu (flt3 .f32 false .no) (minmax3 true true) d a b s

/-- The form of FCMP (R205). -/
def fcmpForm : AluForm := { flt3 .f32 false .no with pred := true }

/-- A compare of F32 values that is false for a NaN (R205). -/
def fcmp3 (f : Int → Int → Bool) (i : OpIn) (l : Nat) : LaneOut :=
  let x := flushIn .f32 i.ftz (qget i.a l)
  let y := flushIn .f32 i.ftz (qget i.b l)
  plainOut (!xIsNan (decodeF .f32 false x) && !xIsNan (decodeF .f32 false y)
    && f (valueKey .f32 x) (valueKey .f32 y)).toNat

/-- FCMP.EQ (R205). -/
def execFcmpEq (p a b : Code) (s : State) := runAlu fcmpForm (fcmp3 fun x y => x == y) p a b s

/-- FCMP.LT (R205). -/
def execFcmpLt (p a b : Code) (s : State) := runAlu fcmpForm (fcmp3 fun x y => decide (x < y)) p a b s

/-- FCMP.LE (R205). -/
def execFcmpLe (p a b : Code) (s : State) := runAlu fcmpForm (fcmp3 fun x y => decide (x ≤ y)) p a b s

/-- FCMP.UNORD (R205). -/
def execFcmpUnord (p a b : Code) (s : State) :=
  runAlu fcmpForm (fun i l => plainOut
    (xIsNan (decodeF .f32 false (qget i.a l)) || xIsNan (decodeF .f32 false (qget i.b l))).toNat) p a b s

/-- DADD (R206). -/
def execDadd (d a b : Code) (s : State) := runAlu (flt3 .f64 false .byMode) (fop3 .f64 .add) d a b s

/-- DSUB (R206). -/
def execDsub (d a b : Code) (s : State) := runAlu (flt3 .f64 false .byMode) (fop3 .f64 .sub) d a b s

/-- DMUL (R206). -/
def execDmul (d a b : Code) (s : State) := runAlu (flt3 .f64 false .byMode) (fop3 .f64 .mul) d a b s

/-- DFMA (R206). -/
def execDfma (d a b : Code) (s : State) := runAlu (flt3 .f64 true .byMode) (fop3 .f64 .fma) d a b s

/-- BADD2 (R207). -/
def execBadd2 (d a b : Code) (s : State) := runAlu (flt3 .bf16 false .byMode) (pair3 .bf16 .add) d a b s

/-- BMUL2 (R207). -/
def execBmul2 (d a b : Code) (s : State) := runAlu (flt3 .bf16 false .byMode) (pair3 .bf16 .mul) d a b s

/-- BFMA2 (R207). -/
def execBfma2 (d a b : Code) (s : State) := runAlu (flt3 .bf16 true .byMode) (pair3 .bf16 .fma) d a b s

/-- BMAX2 (R207). -/
def execBmax2 (d a b : Code) (s : State) := runAlu (flt3 .bf16 false .no) (pair3 .bf16 .max) d a b s

/-- HADD2 (R207). -/
def execHadd2 (d a b : Code) (s : State) := runAlu (flt3 .f16 false .byMode) (pair3 .f16 .add) d a b s

/-- HMUL2 (R207). -/
def execHmul2 (d a b : Code) (s : State) := runAlu (flt3 .f16 false .byMode) (pair3 .f16 .mul) d a b s

/-- HFMA2 (R207). -/
def execHfma2 (d a b : Code) (s : State) := runAlu (flt3 .f16 true .byMode) (pair3 .f16 .fma) d a b s

/-- HMAX2 (R207). -/
def execHmax2 (d a b : Code) (s : State) := runAlu (flt3 .f16 false .no) (pair3 .f16 .max) d a b s

/-- The form of the dot products into F32 (R208). -/
def fdotForm (f : Fmt) : AluForm := ⟨.compute, .flt .f32, .flt f, some (.flt f), true, false, .byMode, false⟩

/-- A dot product of n elements (R95, R208). -/
def fdot (f : Fmt) (n : Nat) (i : OpIn) (l : Nat) : LaneOut :=
  let w := fmtWidth f
  let ps := (List.range n).map fun j =>
    (inF f i (bits (qget i.a l) (w * j) w), inF f i (bits (qget i.b l) (w * j) w))
  fltOut (outF .f32 i (xDot i.mode ps [inF .f32 i (qget i.d l)]))

/-- FDOT2.BF (R208). -/
def execFdot2Bf (d a b : Code) (s : State) := runAlu (fdotForm .bf16) (fdot .bf16 2) d a b s

/-- FDOT2.H (R208). -/
def execFdot2H (d a b : Code) (s : State) := runAlu (fdotForm .f16) (fdot .f16 2) d a b s

/-- FDOT4.E4 (R208). -/
def execFdot4E4 (d a b : Code) (s : State) := runAlu (fdotForm .e4m3) (fdot .e4m3 4) d a b s

/-- FDOT4.E5 (R208). -/
def execFdot4E5 (d a b : Code) (s : State) := runAlu (fdotForm .e5m2) (fdot .e5m2 4) d a b s

/-- A FUNARY function that rounds (R209, R210). -/
def unaryOp (f : Fmt) (fn : UnaryFn) (i : OpIn) (l : Nat) : LaneOut :=
  fltOut (outF f i (unaryFn fn i.mode (inF f i (qget i.a l))))

/-- The form of a FUNARY function. -/
def unForm (f : Fmt) (r : Rounds) : AluForm := flt2 (.flt f) (.flt f) r

/-- FRCP (R210). -/
def execFrcp (d a : Code) (s : State) := runAlu (unForm .f32 .byMode) (unaryOp .f32 .rcp) d a 0 s

/-- FRSQ (R210). -/
def execFrsq (d a : Code) (s : State) := runAlu (unForm .f32 .byMode) (unaryOp .f32 .rsq) d a 0 s

/-- FSQRT (R210). -/
def execFsqrt (d a : Code) (s : State) := runAlu (unForm .f32 .byMode) (unaryOp .f32 .sqrt) d a 0 s

/-- FEXP2 (R210). -/
def execFexp2 (d a : Code) (s : State) := runAlu (unForm .f32 .byMode) (unaryOp .f32 .exp2) d a 0 s

/-- FLOG2 (R210). -/
def execFlog2 (d a : Code) (s : State) := runAlu (unForm .f32 .byMode) (unaryOp .f32 .log2) d a 0 s

/-- FSINPI (R210). -/
def execFsinpi (d a : Code) (s : State) := runAlu (unForm .f32 .byMode) (unaryOp .f32 .sinpi) d a 0 s

/-- FCOSPI (R210). -/
def execFcospi (d a : Code) (s : State) := runAlu (unForm .f32 .byMode) (unaryOp .f32 .cospi) d a 0 s

/-- FTANH (R210). -/
def execFtanh (d a : Code) (s : State) := runAlu (unForm .f32 .byMode) (unaryOp .f32 .tanh) d a 0 s

/-- FRINT (R212). -/
def execFrint (d a : Code) (s : State) := runAlu (unForm .f32 .byMode) (unaryOp .f32 .rint) d a 0 s

/-- DSQRT (R210). -/
def execDsqrt (d a : Code) (s : State) := runAlu (unForm .f64 .byMode) (unaryOp .f64 .sqrt) d a 0 s

/-- DRCP (R210). -/
def execDrcp (d a : Code) (s : State) := runAlu (unForm .f64 .byMode) (unaryOp .f64 .rcp) d a 0 s

/-- FABS (R211). -/
def execFabs (d a : Code) (s : State) :=
  runAlu (unForm .f32 .no) (fun i l => plainOut (qget i.a l % 2 ^ 31)) d a 0 s

/-- FNEG (R211). -/
def execFneg (d a : Code) (s : State) :=
  runAlu (unForm .f32 .no) (fun i l => plainOut (qget i.a l ^^^ 2 ^ 31)) d a 0 s

/-- FCLASS (R211). -/
def execFclass (d a : Code) (s : State) :=
  runAlu (flt2 .int (.flt .f32) .no) (fun i l => plainOut (fclassOf (qget i.a l))) d a 0 s

/-- A rounding to an integer in a direction of its own, which sets no flag (R212). -/
def intOp (m : RMode) (i : OpIn) (l : Nat) : LaneOut :=
  plainOut (roundFmt .f32 .rn false i.ftz (unaryFn .rint m (inF .f32 i (qget i.a l))).1).1

/-- FFLOOR (R212). -/
def execFfloor (d a : Code) (s : State) := runAlu (unForm .f32 .no) (intOp .rd) d a 0 s

/-- FCEIL (R212). -/
def execFceil (d a : Code) (s : State) := runAlu (unForm .f32 .no) (intOp .ru) d a 0 s

/-- FTRUNC (R212). -/
def execFtrunc (d a : Code) (s : State) := runAlu (unForm .f32 .no) (intOp .rz) d a 0 s

/-- F2I.S (R92). -/
def execF2iS (d a : Code) (s : State) :=
  runAlu (flt2 .int (.flt .f32) .byMode) (fun i l => fltOut (floatToInt true 32 i.mode (inF .f32 i (qget i.a l)))) d a 0 s

/-- F2I.U (R92). -/
def execF2iU (d a : Code) (s : State) :=
  runAlu (flt2 .int (.flt .f32) .byMode) (fun i l => fltOut (floatToInt false 32 i.mode (inF .f32 i (qget i.a l)))) d a 0 s

/-- I2F.S (R213). -/
def execI2fS (d a : Code) (s : State) :=
  runAlu (flt2 (.flt .f32) .int .byMode) (fun i l => fltOut (outF .f32 i (xInt (sval 32 (qget i.a l)), 0))) d a 0 s

/-- I2F.U (R213). -/
def execI2fU (d a : Code) (s : State) :=
  runAlu (flt2 (.flt .f32) .int .byMode) (fun i l => fltOut (outF .f32 i (xInt ((qget i.a l : Nat) : Int), 0))) d a 0 s

/-- A conversion from one format to another that is no narrow conversion (R91, R213). -/
def cvtOp (src dst : Fmt) (i : OpIn) (l : Nat) : LaneOut :=
  fltOut (outF dst i (inF src i (bits (qget i.a l) 0 (fmtWidth src)), 0))

/-- A widening conversion, which is exact and sets no flag (R91); FTZ acts on its input alone. -/
def widenOp (src dst : Fmt) (i : OpIn) (l : Nat) : LaneOut :=
  plainOut (roundFmt dst .rn false false (inF src i (bits (qget i.a l) 0 (fmtWidth src)))).1

/-- A narrow conversion from F32 (R90). -/
def narrowOp (dst : Fmt) (i : OpIn) (l : Nat) : LaneOut :=
  fltOut (roundFmt dst i.mode i.sat i.ftz (inF .f32 i (qget i.a l)))

/-- F2D (R213). -/
def execF2d (d a : Code) (s : State) := runAlu (flt2 (.flt .f64) (.flt .f32) .no) (widenOp .f32 .f64) d a 0 s

/-- D2F (R213). -/
def execD2f (d a : Code) (s : State) := runAlu (flt2 (.flt .f32) (.flt .f64) .byMode) (cvtOp .f64 .f32) d a 0 s

/-- F2BF (R90). -/
def execF2bf (d a : Code) (s : State) := runAlu (flt2 .int (.flt .f32) .byMode) (narrowOp .bf16) d a 0 s

/-- BF2F (R213). -/
def execBf2f (d a : Code) (s : State) := runAlu (flt2 (.flt .f32) (.flt .bf16) .no) (widenOp .bf16 .f32) d a 0 s

/-- F2H (R90). -/
def execF2h (d a : Code) (s : State) := runAlu (flt2 .int (.flt .f32) .byMode) (narrowOp .f16) d a 0 s

/-- H2F (R213). -/
def execH2f (d a : Code) (s : State) := runAlu (flt2 (.flt .f32) (.flt .f16) .no) (widenOp .f16 .f32) d a 0 s

/-- F2E4 (R90). -/
def execF2e4 (d a : Code) (s : State) := runAlu (flt2 .int (.flt .f32) .byMode) (narrowOp .e4m3) d a 0 s

/-- F2E5 (R90). -/
def execF2e5 (d a : Code) (s : State) := runAlu (flt2 .int (.flt .f32) .byMode) (narrowOp .e5m2) d a 0 s

/-- E42F (R213). -/
def execE42f (d a : Code) (s : State) := runAlu (flt2 (.flt .f32) (.flt .e4m3) .no) (widenOp .e4m3 .f32) d a 0 s

/-- E52F (R213). -/
def execE52f (d a : Code) (s : State) := runAlu (flt2 (.flt .f32) (.flt .e5m2) .no) (widenOp .e5m2 .f32) d a 0 s

/-- F2E2 (R90). -/
def execF2e2 (d a : Code) (s : State) := runAlu (flt2 .int (.flt .f32) .byMode) (narrowOp .e2m1) d a 0 s

/-- E22F (R213). -/
def execE22f (d a : Code) (s : State) := runAlu (flt2 (.flt .f32) (.flt .e2m1) .no) (widenOp .e2m1 .f32) d a 0 s

/-- I2D.S (R213). -/
def execI2dS (d a : Code) (s : State) :=
  runAlu (flt2 (.flt .f64) .int .no) (fun i l => plainOut (roundFmt .f64 .rn false false (xInt (sval 32 (qget i.a l)))).1) d a 0 s

/-- I2D.U (R213). -/
def execI2dU (d a : Code) (s : State) :=
  runAlu (flt2 (.flt .f64) .int .no) (fun i l => plainOut (roundFmt .f64 .rn false false (xInt ((qget i.a l : Nat) : Int))).1) d a 0 s

/-- The form of PACKBF and PACKH (R214). -/
def packfForm : AluForm := ⟨.compute, .int, .flt .f32, some (.flt .f32), false, false, .byMode, false⟩

/-- PACKBF and PACKH: a lands in h0, b in h1 (R214). -/
def packfOp (f : Fmt) (i : OpIn) (l : Nat) : LaneOut :=
  packOuts 16 (fun j => fltOut (roundFmt f i.mode i.sat i.ftz (inF .f32 i (if j = 0 then qget i.a l else qget i.b l)))) 2 0

/-- PACKBF (R214). -/
def execPackbf (d a b : Code) (s : State) := runAlu packfForm (packfOp .bf16) d a b s

/-- PACKH (R214). -/
def execPackh (d a b : Code) (s : State) := runAlu packfForm (packfOp .f16) d a b s

/-- The form of INS8.E4 and INS4.E2 (R215). -/
def insForm : AluForm := ⟨.compute, .int, .flt .f32, some .int, true, false, .byRna, false⟩

/-- INS8.E4 and INS4.E2: replace element b of d (R215). -/
def insOp (f : Fmt) (n : Nat) (i : OpIn) (l : Nat) : LaneOut :=
  let w := fmtWidth f
  let j := qget i.b l % n
  let d := qget i.d l
  let r := roundFmt f i.mode i.sat i.ftz (inF .f32 i (qget i.a l))
  ⟨d - bits d (w * j) w * 2 ^ (w * j) + r.1 * 2 ^ (w * j), r.2, false⟩

/-- INS8.E4 (R215). -/
def execIns8E4 (d a b : Code) (s : State) := runAlu insForm (insOp .e4m3 4) d a b s

/-- INS4.E2 (R215). -/
def execIns4E2 (d a b : Code) (s : State) := runAlu insForm (insOp .e2m1 8) d a b s

/-- FSCALE (R216). -/
def execFscale (d a b : Code) (s : State) :=
  runAlu ⟨.compute, .flt .f32, .flt .f32, some .int, false, false, .byMode, false⟩
    (fun i l => fltOut (outF .f32 i (xScale (sval 32 (qget i.b l)) (inF .f32 i (qget i.a l)), 0))) d a b s

/-- FSIGNC (R217). -/
def execFsignc (d a b : Code) (s : State) :=
  runAlu (flt3 .f32 false .no)
    (fun i l => plainOut (qget i.a l % 2 ^ 31 + (if bitAt (qget i.b l) 31 then 2 ^ 31 else 0))) d a b s

end Sys2Proof.Machine
end

