-- ==== Sys2Proof/Machine/SpecialRegs.lean ====
section
/-! DEFINITION. The special registers of R66 and R321, MFSR and MTSR (R67, R68, R198), and what RESLVL
shows (R45). -/

namespace Sys2Proof.Machine

/-- RESLVL as a slice sees it (R45). -/
def reslvl (t : Team) (pend : Bool) : Nat :=
  t.level + levelSlices t.s t.level * 2 ^ 4 + levelV t.v t.level / 8 * 2 ^ 8 + t.epoch.toNat * 2 ^ 16
    + pend.toNat * 2 ^ 31

/-- CNTS (R65). -/
def cnts (sl : Slice) : Nat := sl.nld + sl.nst * 2 ^ 8 + sl.ncp * 2 ^ 16 + sl.ntl * 2 ^ 24

/-- A SLIP value as it is stored (R25). -/
def clampSlip (x : Nat) : Nat := if x = 0 then 1 else if 32 < x then 32 else x

/-- A WDLIMIT value as it is stored (R321). -/
def clampWd (x : Nat) : Nat := max (2 ^ 16) (min (x % 2 ^ 41) (2 ^ 40 - 1))

/-- What a stream may do with a special register (R66, R321). -/
inductive SrUse where
  | rw | ro | notInStream | unknown
deriving DecidableEq, Repr

/-- The rows of R66 for a stream, and of R321 for the trap context. -/
def srUse (acc trap : Bool) (n : Nat) : SrUse :=
  if n = 0x00 || n = 0x25 || (decide (0x30 ≤ n) && decide (n ≤ 0x36)) || n = 0x40 || n = 0x41 then .ro
  else if n = 0x01 then (if acc then .notInStream else .ro)
  else if n = 0x10 || n = 0x21 || n = 0x22 then (if acc then .ro else .rw)
  else if n = 0x11 || n = 0x12 || (decide (0x50 ≤ n) && decide (n ≤ 0x53)) then (if acc then .notInStream else .rw)
  else if n = 0x20 || n = 0x23 || n = 0x24 then .rw
  else if trap && decide (0x100 ≤ n) && decide (n ≤ 0x103) then .ro
  else if trap && n = 0x104 then .rw
  else .unknown

/-- Whether a special register is 64 bits wide (R66, R321). -/
def srWide (n : Nat) : Bool := n == 0x00 || n == 0x40 || n == 0x41 || decide (0x100 ≤ n)

/-- The team whose registers a stream sees: its own, or the bound team of the trap context (log entry 13). -/
def teamKeyOf (s : State) (e : Env) : Nat :=
  if e.trap then teamKey e.core (coreAt s e.core).tteam else e.key / 32

/-- The value of a special register in a lane (R66, R321). DESIGN CHOICE: of a register held per slice or per stream the trap
context has a copy of its own (log entry 149). -/
def readSr (s : State) (e : Env) (sl : Slice) (n l : Nat) : Nat :=
  let team := teamAt s (teamKeyOf s e)
  let c := coreAt s e.core
  let ofTeam : (Team → Nat) → Nat := fun f => match team with
    | some t => f t
    | none => 0
  let ofLaunch : (Launch → Nat) → Nat := fun f => ofTeam fun t => match launchAt s t.launch with
    | some x => f x
    | none => 0
  match n with
  | 0x00 => s.clock.toNat
  | 0x01 => sl.high.toNat
  | 0x10 => (if e.acc then sl.fpmodeA else sl.fpmode).toNat
  | 0x11 => (qget sl.fpflags l).toNat
  | 0x12 => (qget sl.satflag l).toNat
  | 0x20 => ofTeam fun t => reslvl t sl.pend
  | 0x21 => sl.noticepc.toNat
  | 0x22 => sl.nret.toNat
  | 0x23 => sl.slip.toNat
  | 0x24 => ofTeam fun t => t.pin.toNat
  | 0x25 => cnts sl
  | 0x30 => ofTeam fun t => t.tx.toNat
  | 0x31 => ofTeam fun t => t.ty.toNat
  | 0x32 => ofTeam fun t => t.tz.toNat
  | 0x33 => ofLaunch fun x => x.gx
  | 0x34 => ofLaunch fun x => x.gy
  | 0x35 => ofLaunch fun x => x.gz
  | 0x36 => ofTeam fun t => t.qsize + t.qrank * 2 ^ 8
  | 0x40 => (streamOf e.acc sl).region.toNat
  | 0x41 => recErrrec (ctxRecord s e.core e.ctx)
  | 0x50 => (qget (xReg sl 0) l).toNat
  | 0x51 => (qget (xReg sl 1) l).toNat
  | 0x52 => (qget (xReg sl 2) l).toNat
  | 0x53 => (qget (xReg sl 3) l).toNat
  | 0x100 => recTvec (ctxRecord s e.core e.ctx)
  | 0x101 => c.tcause.toNat
  | 0x102 => c.theld.toNat
  | 0x103 => c.tteam
  | 0x104 => match ctxPlaceOf s e.core e.ctx with
    | some p => p.2.wdlimit
    | none => 0
  | _ => 0

/-- The fault of a special-register number in a stream (R66, R176). -/
def srFault (e : Env) (n : Nat) : Option FaultInfo :=
  match srUse e.acc e.trap n with
  | .notInStream => some (plainFault codeILLEGAL_IN_STREAM)
  | .unknown => some (plainFault codeILLEGAL_OPERAND)
  | _ => none

/-- One slice's MFSR (R67, R198). DESIGN CHOICE: in the compute stream a 64-bit register goes to HIGH with no acting lane too
(log entry 144). -/
def mfsrSlice (s : State) (n d : Nat) (e : Env) (sl : Slice) : Verdict :=
  let act := actLanes (streamOf e.acc sl)
  let o : Operands := ⟨[], some (false, d)⟩
  match srFault e n with
  | some f => .fault f
  | none =>
    match checkOperands e sl act o false with
    | some v => v
    | none =>
      match stallOperands e sl act o with
      | some v => v
      | none =>
        let r := writeDst e act false d (qof fun l => readSr s e sl n l) sl
        let sl1 := if !e.acc && srWide n then
            { r.1 with high := BitVec.ofNat 32 (readSr s e sl n 0 / 2 ^ 32) } else r.1
        .done (finishLane e sl act o none none sl1) r.2 none

/-- MFSR (R198). -/
def execMfsr (d : Code) (r : BitVec 16) (s : State) : Host.Outcome State Fault Refusal :=
  issueLane s .both true (mfsrSlice s r.toNat d.toNat)

/-- Whether a PINMASK value is refused (R43). -/
def pinBad (t : Team) (x : Nat) : Bool :=
  decide (t.size / 4096 / 4 < popCount x 32) || decide (2 ^ (t.size / 4096) ≤ x)

/-- Write a special register of a slice from the value of its lowest active lane, or per lane (R66, R68, R198). -/
def writeSr (n : Nat) (act : BitVec 4) (vals : Quad Nat) (x : Nat) (sl : Slice) : Slice :=
  let lanes : Quad Word32 → Nat → Quad Word32 := fun q m => qof fun l =>
    if act.getLsbD l then BitVec.ofNat 32 (qget vals l % 2 ^ m) else qget q l
  let w := BitVec.ofNat 32 x
  match n with
  | 0x10 => { sl with fpmode := w &&& 0x1F, modeWrites := sl.modeWrites + 1 }
  | 0x11 => { sl with fpflags := lanes sl.fpflags 5 }
  | 0x12 => { sl with satflag := lanes sl.satflag 1 }
  | 0x20 => if bitAt x 31 then { sl with pend := false } else sl
  | 0x21 => { sl with noticepc := w &&& 0xFFFFFFFC }
  | 0x22 => { sl with nret := w }
  | 0x23 => { sl with slip := BitVec.ofNat 32 (clampSlip (x % 2 ^ 32)) }
  | 0x50 => { sl with x := aput ⟨0, 0, 0, 0⟩ sl.x 0 (lanes (xReg sl 0) 32) }
  | 0x51 => { sl with x := aput ⟨0, 0, 0, 0⟩ sl.x 1 (lanes (xReg sl 1) 32) }
  | 0x52 => { sl with x := aput ⟨0, 0, 0, 0⟩ sl.x 2 (lanes (xReg sl 2) 32) }
  | 0x53 => { sl with x := aput ⟨0, 0, 0, 0⟩ sl.x 3 (lanes (xReg sl 3) 32) }
  | _ => sl

/-- The fault of a value written to a special register (R43, R87). -/
def srValueFault (s : State) (e : Env) (n x : Nat) : Option FaultInfo :=
  if n = 0x10 && !e.acc && decide (3 < bits x 0 3) then some (plainFault codeILLEGAL_OPERAND)
  else if n = 0x24 then
    match teamAt s (teamKeyOf s e) with
    | some t => if pinBad t (x % 2 ^ 32) then some (plainFault codePIN_LIMIT) else none
    | none => none
  else none

/-- Whether a value for FPMODE is refused under R87 before the later faults of R176 are looked for: its lowest active
lane has the value, which no queue holds. -/
def modeRefused (e : Env) (sl : Slice) (act : BitVec 4) (n a : Nat) : Bool :=
  match lowestLane act with
  | none => false
  | some l => n == 0x10 && !e.acc && popsFrom e.acc a == 0 && !(indexBad e sl act false a).getLsbD l
      && decide (3 < bits (qget (plainSrc e sl act .int a) l) 0 3)

/-- One slice's MTSR (R68, R176, R198). DESIGN CHOICE: where its source is the IMM code, the register takes the pending payload
(log entry 150). -/
def mtsrSlice (s : State) (n a : Nat) (e : Env) (sl : Slice) : Verdict :=
  let act := actLanes (streamOf e.acc sl)
  let o : Operands := ⟨[(.int, a)], none⟩
  match srFault e n with
  | some f => .fault f
  | none =>
    match checkOperands e sl act o (modeRefused e sl act n a) with
    | some v => v
    | none =>
      match stallOperands e sl act o with
      | some v => v
      | none =>
        if badSrc e sl act o then .error ⟨codeUNCORRECTABLE, 0, 0, badLanes e sl act o⟩
        else match readSrcs e act o.srcs sl with
        | .stop v => v
        | .got vals sl1 =>
          let q := vals.headD (qfill 0)
          let writes := (srUse e.acc e.trap n == .rw)
          match lowestLane act with
          | none => .done (finishLane e sl act o (some (false, a)) none sl1) [] none
          | some l =>
            let x := qget q l
            match (if writes then srValueFault s e n x else none) with
            | some f => .fault f
            | none =>
              let sl2 := if writes then writeSr n act q x sl1 else sl1
              .done (finishLane e sl act o (some (false, a)) none sl2) []
                (if writes && n == 0x24 then some (BitVec.ofNat 32 x) else none)

/-- Write WDLIMIT of the bound team's context from the trap context (R198, R321). -/
def putWdlimit (s : State) (core ctx x : Nat) : State :=
  match ctxPlaceOf s core ctx with
  | none => s
  | some p =>
    let c := coreAt s core
    putCore s core { c with places := aput CtxPlace.zero c.places p.1 { p.2 with wdlimit := clampWd x } }

/-- The value that an MTSR of the trap context writes to WDLIMIT: its lane is lane 0. -/
def wdlimitValue (s : State) (core a : Nat) : Option Nat :=
  let k := trapBase + core
  let sl := sliceAt s k
  match envOf s k true with
  | none => none
  | some e =>
    if srcIllegal e .int a then none
    else if (actLanes sl.a).getLsbD 0 then some (qget (plainSrc e sl (actLanes sl.a) .int a) 0) else none

/-- The context that the trap context serves. -/
def boundCtx (s : State) (core : Nat) : Nat :=
  match teamAt s (teamKey core (coreAt s core).tteam) with
  | some t => t.ctx
  | none => 0

/-- The PINMASK that an MTSR of the trap context writes goes to the bound team (log entry 13): its value is that of the
source before the issue. -/
def trapPin (before s : State) (core a : Nat) : State :=
  putPin s (teamKey core (coreAt before core).tteam) ((wdlimitValue before core a).map (BitVec.ofNat 32))

/-- MTSR (R198). -/
def execMtsr (a : Code) (r : BitVec 16) (s : State) : Host.Outcome State Fault Refusal :=
  match s.issuer, issueLane s .both true (mtsrSlice s r.toNat a.toNat) with
  | .trap core, .next s' =>
    let ran := (sliceAt s' (trapBase + core)).a.pc == (sliceAt s (trapBase + core)).a.pc + 4
    if r = 0x104 && ran then
      match wdlimitValue s core a.toNat with
      | some x => .next (putWdlimit s' core (boundCtx s core) x)
      | none => .next s'
    else if r = 0x24 && ran then .next (trapPin s s' core a.toNat)
    else .next s'
  | _, o => o

end Sys2Proof.Machine
end

