-- ==== Sys2Proof/Machine/Teams.lean ====
section
/-! DEFINITION. Teams, quires and the waits that join their slices: the end of a slice, a team and a launch (R23,
R249), contexts leaving a core (R345), the release of BAR, QBAR and MERGE (R30, R31, R241), notices (R46) and the
retirement of a YIELD (R33, R36, R348). -/

namespace Sys2Proof.Machine

/-- Whether a team of a context is on a core. -/
def ctxOnCore (s : State) (core ctx : Nat) : Bool :=
  placeNums.any fun p => (teamAt s (teamKey core p)).any fun t => t.ctx = ctx && t.phase != .saved

/-- Slices that a leaving context received return to the PSETs they were taken from, where those contexts are still in
their places (R345). -/
def returnSlices (m : Assoc CtxPlace) (got : List (Nat × Nat × Nat)) : Assoc CtxPlace :=
  got.foldl (fun m g =>
    let p := aget CtxPlace.zero m g.2.1
    if p.ctx = some g.2.2 then aput CtxPlace.zero m g.2.1 { p with pset := p.pset ||| BitVec.ofNat 8 (2 ^ g.1) }
    else m) m

/-- The cores of a core's quad (R7). -/
def quadCores (core : Nat) : List Nat :=
  ((List.range 24).map fun i => core / 24 * 24 + i).filter fun c => anvilOf c = anvilOf core

/-- A mask's tiles become VALID with zero bits (R254, R354). -/
def zeroTiles (v : Anvil) (mask : Nat) : Anvil :=
  { v with
    tiles := v.tiles.filter fun w => !bitAt mask (w.1 / 8192)
    invalid := v.invalid &&& ~~~(BitVec.ofNat 8 mask)
    badTile := v.badTile.filter fun t => !bitAt mask t }

/-- Set the tiles of a context aside as it leaves the quad with teams still evicted (R253). -/
def keepTiles (v : Anvil) (ctx mask : Nat) : Anvil :=
  { zeroTiles v mask with
    kept := v.kept ++ [⟨ctx, BitVec.ofNat 8 mask, v.tiles.filter fun w => bitAt mask (w.1 / 8192),
      v.invalid &&& BitVec.ofNat 8 mask, v.badTile.filter fun t => bitAt mask t⟩] }

/-- What of a context's saved tiles a grant does not name stays saved. -/
def restTiles (mask : Nat) (k : KeptTiles) : KeptTiles :=
  { k with
    mask := k.mask &&& ~~~(BitVec.ofNat 8 mask)
    words := k.words.filter fun w => !bitAt mask (w.1 / 8192)
    invalid := k.invalid &&& ~~~(BitVec.ofNat 8 mask)
    bad := k.bad.filter fun t => !bitAt mask t }

/-- A grant of tiles to a context: of those that it names, the ones saved with the context come back, and the others are VALID
with zero bits (R253, R254; log entry 132). -/
def grantTiles (v : Anvil) (ctx mask : Nat) : Anvil :=
  let z := zeroTiles v mask
  let mine := v.kept.filter fun k => k.ctx = ctx
  { z with
    tiles := mine.foldl (fun m k => (k.words.filter fun w => bitAt mask (w.1 / 8192)).foldl (fun m w => aput 0 m w.1 w.2) m)
      z.tiles
    invalid := mine.foldl (fun i k => i ||| (k.invalid &&& BitVec.ofNat 8 mask)) z.invalid
    badTile := z.badTile ++ mine.flatMap fun k => k.bad.filter fun t => bitAt mask t
    kept := (v.kept.map fun k => if k.ctx = ctx then restTiles mask k else k).filter fun k => k.mask != 0 }

/-- TILES of a context record (R338). -/
def recTiles (r : BitVec 512) : Nat := fld r 240 8

/-- The tiles of a quad's anvil that a context's records name on the quad's cores (R253, R338). -/
def tilesOnQuad (s : State) (core ctx : Nat) : Nat :=
  (quadCores core).foldl (fun m c => m ||| ((ctxPlaceOf s c ctx).map fun p => recTiles p.2.record).getD 0) 0

/-- A context leaves a core when its last team there has ended or is saved (R19, R338, R345); the tiles that it is granted
on no other core of the quad are saved with its evicted teams (R253). -/
def leaveCore (s : State) (core ctx : Nat) : State :=
  if ctxOnCore s core ctx then s
  else match ctxPlaceOf s core ctx with
  | none => s
  | some p =>
    let c := coreAt s core
    let s := putCore s core { c with places := returnSlices (aput CtxPlace.zero c.places p.1 CtxPlace.zero) p.2.got }
    let n := anvilOf core
    let evicted := s.teams.any fun x => x.2.any fun y =>
      y.phase == .saved && y.ctx = ctx && anvilOf y.home = n
    let leaves := recTiles p.2.record - (recTiles p.2.record &&& tilesOnQuad s core ctx)
    if leaves = 0 || !evicted then s else putAnvil s n (keepTiles (anvilAt s n) ctx leaves)

/-- Remove the slices of a team. -/
def dropSlices (s : State) (t : Nat) (team : Team) : State :=
  (sliceNums team).foldl (fun s j => putSlice s (32 * t + j) Slice.zero) s

/-- The number of teams of a launch's grid (R18). -/
def gridSize (l : Launch) : Nat := l.gx * l.gy * l.gz

/-- A launch ends when all its teams have ended (R378). -/
def closeLaunch (s : State) (id : Nat) : State :=
  match launchAt s id with
  | none => s
  | some l =>
    if l.live = 0 && l.next = gridSize l then putLaunch s id (some { l with ended := true }) else s

/-- A quire forgets a team that has ended, and is gone with the last of them. -/
def leaveQuire (s : State) (q t : Nat) : State :=
  match quireAt s q with
  | none => s
  | some x =>
    let x := { x with members := x.members.erase t }
    putQuire s q (if x.members.isEmpty then none else some x)

/-- A team's resources are freed and its unpopped entries discarded (R23). -/
def endTeam (s : State) (t : Nat) : State :=
  match teamAt s t with
  | none => s
  | some team =>
    let s := dropSlices s t team
    let s := putTeam s t none
    let s := match launchAt s team.launch with
      | some l => putLaunch s team.launch (some { l with live := l.live - 1 })
      | none => s
    let s := leaveQuire s team.quire t
    closeLaunch (leaveCore s (t / 16) team.ctx) team.launch

/-- Whether every slice of a team has ended both streams (R23). -/
def teamOver (s : State) (t : Nat) (team : Team) : Bool :=
  (sliceNums team).all fun j =>
    let sl := sliceAt s (32 * t + j)
    sl.c.exited && sl.a.exited

/-- End a team whose slices have all ended. -/
def checkTeam (s : State) (t : Nat) : State :=
  match teamAt s t with
  | some team => if teamOver s t team then endTeam s t else s
  | none => s

/-- Take a notice where one is due at the retirement of a YIELD or MERGE (R46). -/
def takeNotice (sl : Slice) : Slice :=
  if sl.pend && sl.noticepc != 0 && sl.notice.isNone then
    { sl with
      nret := BitVec.ofNat 32 sl.c.pc.toNat
      notice := some ⟨sl.c.rstk.depth, sl.c.mask, sl.c.mstk, sl.c.hint⟩
      pend := false
      c := { sl.c with
        pc := BitVec.ofNat 64 sl.noticepc.toNat
        mask := 15
        mstk := { sl.c.mstk with depth := 0 }
        hint := Hint.none } }
  else sl

/-- The watchdog limit of a team's context (R321, R332). -/
def watchdogLimit (s : State) (t : Nat) (team : Team) : Nat :=
  match ctxPlaceOf s (t / 16) team.ctx with
  | some p => p.2.wdlimit
  | none => 2 ^ 24

/-- Whether a team's WATCHDOG trap is due: its counter reached the limit in an earlier cycle, in which no YIELD retired (R36). -/
def watchdogDue (s : State) (t : Nat) (team : Team) : Bool :=
  decide (watchdogLimit s t team < team.wd)
    || (decide (team.wd = watchdogLimit s t team) && team.wdClock != s.clock.toNat)

/-- A YIELD of a team retires: its watchdog counter is 0, unless the trap is due already, and a soft eviction stops it (R36,
R348). -/
def yieldTeam (s : State) (t : Nat) : State :=
  match teamAt s t with
  | none => s
  | some team =>
    let soft := match quireAt s team.quire with
      | some q => match q.phase with
        | .soft _ => true
        | _ => false
      | none => false
    putTeam s t (some { team with wd := if watchdogDue s t team then team.wd else 0, phase := if soft && team.phase == .running then .stopped else team.phase })

/-- Let a mapped unit give up its physical slices at the next remap (R39). -/
def spendUnit (s : State) (t u : Nat) : State :=
  match teamAt s t with
  | none => s
  | some team => putTeam s t (some { team with mapped := team.mapped.map fun m => if m.1 = u then (u, 64) else m })

/-- Let the units of slices give up their physical slices (R39). -/
def spendUnits (s : State) (t : Nat) (js : List Nat) : State :=
  js.foldl (fun s j => spendUnit s t (sliceAt s (32 * t + j)).unit) s

/-- The slot at which a stream waits at a BAR. -/
def barSlot : Wait → Option Nat
  | .bar n => some n
  | _ => none

/-- The slot at which a stream waits at a QBAR. -/
def qbarSlot : Wait → Option Nat
  | .qbar n => some n
  | _ => none

/-- Whether every participant of a team waits on a slot (R241). -/
def allWait (s : State) (t : Nat) (team : Team) (acc : Bool) (slot : Wait → Option Nat) (n : Nat) : Bool :=
  (sliceNums team).all fun j =>
    let st := streamOf acc (sliceAt s (32 * t + j))
    st.exited || slot st.wait == some n

/-- Whether the LANE accesses that precede a barrier are performed in every participant that waits at it, so that each of
them comes before what follows the barrier in any (R136). -/
def barQuiet (s : State) (t : Nat) (team : Team) (acc : Bool) (slot : Wait → Option Nat) (n : Nat) : Bool :=
  (sliceNums team).all fun j =>
    let st := streamOf acc (sliceAt s (32 * t + j))
    slot st.wait != some n || !(s.flights.any fun f =>
      f.owner = 32 * t + j && decide (f.id < st.mark) && (isLaneWrite f || isLaneRead f))

/-- Release the slices of a team that wait on a slot: each goes on past its barrier (R241). -/
def releaseWait (s : State) (t : Nat) (team : Team) (acc : Bool) (slot : Wait → Option Nat) (n : Nat) : State :=
  (sliceNums team).foldl (fun s j =>
    let k := 32 * t + j
    let sl := sliceAt s k
    let st := streamOf acc sl
    if slot st.wait == some n then putSlice s k (setStream acc sl { retire st with wait := .none }) else s) s

/-- Release a BAR whose participants all wait, with what precedes it performed (R136, R241). -/
def tryBar (s : State) (t : Nat) (acc : Bool) (n : Nat) : State :=
  match teamAt s t with
  | none => s
  | some team => if allWait s t team acc barSlot n && barQuiet s t team acc barSlot n then
      releaseWait s t team acc barSlot n else s

/-- Release a QBAR whose participants all wait, with what precedes it performed (R136, R241). -/
def tryQbar (s : State) (q : Nat) (acc : Bool) (n : Nat) : State :=
  match quireAt s q with
  | none => s
  | some x =>
    if x.members.all (fun t => match teamAt s t with
        | some team => allWait s t team acc qbarSlot n && barQuiet s t team acc qbarSlot n
        | none => true) then
      x.members.foldl (fun s t => match teamAt s t with
        | some team => releaseWait s t team acc qbarSlot n
        | none => s) s
    else s

/-- Release every slot whose participants all wait, after a participant has left (R241). -/
def tryBars (s : State) (t : Nat) (acc : Bool) : State :=
  (List.range 32).foldl (fun s n =>
    let s := tryBar s t acc n
    match teamAt s t with
    | some team => tryQbar s team.quire acc n
    | none => s) s

/-- Try the barriers at which a stream of a team's slices waits again: accesses before them may be performed by now. -/
def retryBars (s : State) (t : Nat) : State :=
  match teamAt s t with
  | none => s
  | some team =>
    ([false, true] : List Bool).foldl (fun s acc =>
      if (sliceNums team).any fun j =>
          let w := (streamOf acc (sliceAt s (32 * t + j))).wait
          (barSlot w).isSome || (qbarSlot w).isSome
      then tryBars s t acc else s) s

/-- The merge identifier at which a slice waits. -/
def mergeId : Wait → Option (BitVec 16)
  | .merge i => some i
  | _ => none

/-- The s registers that a released group holds as diverged (R31): those whose copies differ, and those already
marked in some copy (log entry 15). -/
def groupDiverged (s : State) (t : Nat) (g : List Nat) : Word32 :=
  match g with
  | [] => 0
  | j :: _ =>
    let first := sliceAt s (32 * t + j)
    (List.range 32).foldl (fun m r =>
      if g.any fun i =>
          let sl := sliceAt s (32 * t + i)
          sl.sdiv.getLsbD r || aget 0 sl.s r != aget 0 first.s r
      then m ||| BitVec.ofNat 32 (2 ^ r) else m) 0

/-- The least number of a list, or 0. -/
def minNat : List Nat → Nat
  | [] => 0
  | [x] => x
  | x :: xs => min x (minNat xs)

/-- Join a group at its MERGE: one sub-stroke, as old as the oldest of them, past the MERGE, with notices (R30, R33). -/
def joinGroup (s : State) (t : Nat) (g : List Nat) : State :=
  let div := groupDiverged s t g
  let age := minNat (g.map fun j => (sliceAt s (32 * t + j)).c.age)
  let u := minNat g
  let s := match teamAt s t with
    | some team => putTeam s t (some { team with
        mapped := team.mapped.filter fun m => !(g.map fun j => (sliceAt s (32 * t + j)).unit).contains m.1 })
    | none => s
  let s := g.foldl (fun s j =>
    let k := 32 * t + j
    let sl := sliceAt s k
    putSlice s k (takeNotice { sl with
      c := { retire sl.c with wait := .none, age := age }, sdiv := div, unit := u })) s
  partUnit s t u g

/-- The groups of waiting slices: those at the same PC with the same identifier as the first (R30). -/
def mergeGroups (s : State) (t : Nat) : List Nat → List Nat → List (List Nat)
  | [], _ => []
  | j :: js, done =>
    if done.contains j then mergeGroups s t js done
    else
      let sj := (sliceAt s (32 * t + j)).c
      let g := j :: js.filter fun i =>
        let si := (sliceAt s (32 * t + i)).c
        si.pc == sj.pc && mergeId si.wait == mergeId sj.wait
      g :: mergeGroups s t js (done ++ g)

/-- Release a stroke when every live slice of it waits at a MERGE (R30). -/
def tryMerge (s : State) (t stroke : Nat) : State :=
  match teamAt s t with
  | none => s
  | some team =>
    let live := (sliceNums team).filter fun j => j / 8 == stroke && !(sliceAt s (32 * t + j)).c.exited
    if !live.isEmpty && live.all (fun j =>
        let sl := sliceAt s (32 * t + j)
        !sl.held && (mergeId sl.c.wait).isSome) then
      (mergeGroups s t live []).foldl (fun s g => joinGroup s t g) s
    else s

/-- What follows when a stream of a slice ends: its waiters are released and the team may end (R30, R241, R249). -/
def afterExit (s : State) (k : Nat) (acc : Bool) : State :=
  let s := if acc then s else exitUnit s k
  let s := tryBars s (k / 32) acc
  let s := if acc then s else tryMerge s (k / 32) (k % 32 / 8)
  checkTeam s (k / 32)

end Sys2Proof.Machine
end

