-- ==== Sys2Proof/Machine/Control.lean ====
section
/-! DEFINITION. Hints (R164 to R167), the mask stack (R199), control transfers (R236 to R238), merging, yielding and
barriers (R239 to R244), regions, traps and exit (R247 to R249). -/

namespace Sys2Proof.Machine

/-- Continue after an issue. -/
def andThen (o : Host.Outcome State Fault Refusal) (g : State → State) : Host.Outcome State Fault Refusal :=
  match o with
  | .next s => .next (g s)
  | o => o

/-- The team and stream of an issuer that is a slice. -/
def issuerTeam : Issuer → Option (Nat × Bool)
  | .compute k => some (k / 32, false)
  | .access k => some (k / 32, true)
  | _ => none

/-- A stream after a hint: hints consume no hint and count as instructions (R40, R163). -/
def retireHint (st : Stream) (h : Hint) : Stream :=
  { st with pc := st.pc + 4, prev := st.pc, hint := h, count := st.count + 1, stall := false, want := [], named := [] }

/-- One slice's issue of a hint. -/
def hintSlice (f : Hint → Hint) (e : Env) (sl : Slice) : Verdict :=
  let st := streamOf e.acc sl
  .done (setStream e.acc sl (retireHint st (f st.hint))) [] none

/-- HINT.IMM (R164). -/
def execHintImm (i : BitVec 24) (s : State) : Host.Outcome State Fault Refusal :=
  issueLane s .both false (hintSlice fun h => { h with immp := i, immv := true })

/-- HINT.GUARD (R165): length 0 means 16. -/
def execHintGuard (p : BitVec 3) (n : Bool) (l : BitVec 4) (s : State) : Host.Outcome State Fault Refusal :=
  issueLane s .both false (hintSlice fun h =>
    { h with gpred := p, gneg := n, gleft := if l = 0 then 16 else l.toNat })

/-- HINT.MOD (R166): rounding codes 6 and 7 are illegal operands. -/
def execHintMod (r : BitVec 3) (sat la lb : Bool) (s : State) : Host.Outcome State Fault Refusal :=
  issueLane s .both false fun e sl =>
    if 5 < r.toNat then .fault (plainFault codeILLEGAL_OPERAND)
    else hintSlice (fun h => { h with modrm := r, modsat := sat, lasta := la, lastb := lb, modv := true }) e sl

/-- HINT.SCHED (R167). -/
def execHintSched (_i : BitVec 24) (s : State) : Host.Outcome State Fault Refusal :=
  issueLane s .both false (hintSlice id)

/-- Push a mask (R28). -/
def pushMask (m : MaskStack) (x : BitVec 4) : MaskStack := ⟨m.depth + 1, aput 0 m.ents m.depth x⟩

/-- The top of a mask stack. -/
def topMask (m : MaskStack) : BitVec 4 := aget 0 m.ents (m.depth - 1)

/-- IF (R199). -/
def execIfP (p : BitVec 3) (n : Bool) (s : State) : Host.Outcome State Fault Refusal :=
  issueLane s .both true fun e sl =>
    let st := streamOf e.acc sl
    if st.mstk.depth = 8 then .fault (plainFault codeMASK_OVERFLOW)
    else
      let m := st.mask &&& maskOf fun l => predOf st p.toNat l != n
      .done (setStream e.acc sl { retire st with mask := m, mstk := pushMask st.mstk st.mask }) [] none

/-- ELSE (R199). -/
def execElseP (s : State) : Host.Outcome State Fault Refusal :=
  issueLane s .both true fun e sl =>
    let st := streamOf e.acc sl
    if st.mstk.depth = 0 then .fault (plainFault codeMASK_UNDERFLOW)
    else .done (setStream e.acc sl { retire st with mask := topMask st.mstk &&& ~~~st.mask }) [] none

/-- ENDIF (R199). -/
def execEndif (s : State) : Host.Outcome State Fault Refusal :=
  issueLane s .both true fun e sl =>
    let st := streamOf e.acc sl
    if st.mstk.depth = 0 then .fault (plainFault codeMASK_UNDERFLOW)
    else .done (setStream e.acc sl { retire st with
      mask := topMask st.mstk, mstk := { st.mstk with depth := st.mstk.depth - 1 } }) [] none

/-- The target of a branch, in words from its own address (R160). -/
def branchTarget (pc : Word64) (o : BitVec 20) : Word64 := pc + BitVec.ofNat 64 (wrap 64 (4 * sval 20 o.toNat))

/-- The active lanes in which the predicate of a branch holds (R236). -/
def branchLanes (st : Stream) (p : BitVec 3) (n : Bool) : BitVec 4 :=
  st.mask &&& maskOf fun l => predOf st p.toNat l != n

/-- Go to a PC or on to the next instruction. -/
def goIf (e : Env) (sl : Slice) (taken : Bool) (target : Word64) : Verdict :=
  let st := streamOf e.acc sl
  .done (setStream e.acc sl (if taken then retireTo st target else retire st)) [] none

/-- BRA.ANY (R236). -/
def execBraAny (p : BitVec 3) (n : Bool) (o : BitVec 20) (s : State) : Host.Outcome State Fault Refusal :=
  issueLane s .both true fun e sl =>
    let st := streamOf e.acc sl
    goIf e sl (branchLanes st p n != 0) (branchTarget st.pc o)

/-- BRA.ALL (R236). -/
def execBraAll (p : BitVec 3) (n : Bool) (o : BitVec 20) (s : State) : Host.Outcome State Fault Refusal :=
  issueLane s .both true fun e sl =>
    let st := streamOf e.acc sl
    goIf e sl (st.mask != 0 && branchLanes st p n == st.mask) (branchTarget st.pc o)

/-- JMP (R236). -/
def execJmp (o : BitVec 20) (s : State) : Host.Outcome State Fault Refusal :=
  issueLane s .both true fun e sl => goIf e sl true (branchTarget (streamOf e.acc sl).pc o)

/-- CALL (R237). -/
def execCall (o : BitVec 20) (s : State) : Host.Outcome State Fault Refusal :=
  issueLane s .both true fun e sl =>
    let st := streamOf e.acc sl
    if st.rstk.depth = 16 then .fault (plainFault codeCALL_OVERFLOW)
    else .done (setStream e.acc sl { retireTo st (branchTarget st.pc o) with
      rstk := ⟨st.rstk.depth + 1, aput 0 st.rstk.ents st.rstk.depth (st.pc + 4)⟩ }) [] none

/-- RET (R46, R237). -/
def execRet (s : State) : Host.Outcome State Fault Refusal :=
  issueLane s .both true fun e sl =>
    let st := streamOf e.acc sl
    let pop : Verdict :=
      if st.rstk.depth = 0 then .fault (plainFault codeRET_UNDERFLOW)
      else .done (setStream e.acc sl { retireTo st (aget 0 st.rstk.ents (st.rstk.depth - 1)) with
        rstk := { st.rstk with depth := st.rstk.depth - 1 } }) [] none
    match sl.notice with
    | some v =>
      if !e.acc && st.rstk.depth == v.depth then
        .done { sl with
          notice := none
          c := { retireTo st (BitVec.ofNat 64 sl.nret.toNat) with mask := v.mask, mstk := v.mstk, hint := v.hint } } [] none
      else pop
    | none => pop

/-- BRX (R238). DEDUCED: a queue source of the access stream pops one entry, zero-extended, as an integer instruction's does
(R58; log entry 172). -/
def execBrx (a : Code) (s : State) : Host.Outcome State Fault Refusal :=
  issueLane s .both true fun e sl =>
    let st := streamOf e.acc sl
    let o : Operands := ⟨[(.int, a.toNat)], none⟩
    match checkOperands e sl st.mask o false with
    | some v => v
    | none =>
      match stallOperands e sl st.mask o with
      | some v => v
      | none =>
        if badSrc e sl st.mask o then .error ⟨codeUNCORRECTABLE, 0, 0, badLanes e sl st.mask o⟩
        else match readSrcs e st.mask o.srcs sl with
        | .stop v => v
        | .got vals sl1 =>
          let sl2 := finishLane e sl st.mask o (some (false, a.toNat)) none sl1
          match lowestLane st.mask with
          | none => .done sl2 [] none
          | some l =>
            .done (setStream e.acc sl2 { streamOf e.acc sl2 with
              pc := BitVec.ofNat 64 (qget (vals.headD (qfill 0)) l) }) [] none

/-- MERGE (R30, R239): in the access stream it retires with no effect. -/
def execMerge (i : BitVec 16) (s : State) : Host.Outcome State Fault Refusal :=
  andThen (issueLane s .both true fun e sl =>
    if e.acc then .done (setStream true sl (retire sl.a)) [] none
    else .done { sl with c := { sl.c with wait := .merge i, stall := false, want := [], named := [] } } [] none)
    fun s' => match s.issuer with
      | .compute k => tryMerge s' (k / 32) (k % 32 / 8)
      | _ => s'

/-- YIELD (R33, R36, R240). -/
def execYield (s : State) : Host.Outcome State Fault Refusal :=
  andThen (issueLane s .both true fun e sl =>
    let st := { retire (streamOf e.acc sl) with age := s.clock.toNat }
    .done (if e.acc then setStream true sl st else takeNotice (setStream false sl st)) [] none)
    fun s' => match s.issuer with
      | .compute k => yieldTeam (spendUnits s' (k / 32) (issuing s k)) (k / 32)
      | .access k => yieldTeam (if (sliceAt s k).c.exited then spendUnit s' (k / 32) (sliceAt s k).unit else s') (k / 32)
      | _ => s'

/-- Barrier slots of the team that a stream belongs to. -/
def barCount (s : State) (e : Env) : Nat :=
  match teamAt s (teamKeyOf s e) with
  | some t => t.bars
  | none => 0

/-- Whether an acquiring access of a slice is in flight, which later accesses wait for (R135). -/
def acqPending (s : State) (k : Nat) : Bool := s.flights.any fun f => f.owner = k && f.acq

/-- One slice's issue of BAR or QBAR: it waits (R241), once an acquiring read before it has completed (R135). The trap context is no participant and goes on (log entry 16). -/
def barSlice (s : State) (w : Wait) (n : Nat) (e : Env) (sl : Slice) : Verdict :=
  let st := streamOf e.acc sl
  if barCount s e ≤ n then .fault (plainFault codeBAR_RANGE)
  else if e.trap then .done (setStream true sl (retire st)) [] none
  else if e.acc && acqPending s e.key then .stall [] []
  else .done (setStream e.acc sl
    { st with wait := w, mark := s.serial, stall := false, want := [], named := [] }) [] none

/-- BAR (R241). -/
def execBar (n : BitVec 5) (s : State) : Host.Outcome State Fault Refusal :=
  andThen (issueLane s .both true (barSlice s (.bar n.toNat) n.toNat))
    fun s' => match issuerTeam s.issuer with
      | some p => tryBar s' p.1 p.2 n.toNat
      | none => s'

/-- QBAR (R241). -/
def execQbar (n : BitVec 5) (s : State) : Host.Outcome State Fault Refusal :=
  andThen (issueLane s .both true (barSlice s (.qbar n.toNat) n.toNat))
    fun s' => match issuerTeam s.issuer with
      | some p => match teamAt s p.1 with
        | some team => tryQbar s' team.quire p.2 n.toNat
        | none => s'
      | none => s'

/-- What a failed check of an access that fills no LDQ entry raises: the oldest failed access's fault (R220). -/
def failNow (sl : Slice) (f : FaultInfo) : Verdict := if sl.check.isSome then .held else .fault f

/-- The specification of a counted barrier's address (R231, R244). -/
def barrierSpec (e : Env) : AccSpec := ⟨e.ctx, e.core, 16, 16, true, false, .sram codeBARRIER_SPACE⟩

/-- ARRIVE in the access stream (R244). DESIGN CHOICE: its arrival raises ST with no active lane too (log entry 151). -/
def arriveAccess (s : State) (addr count lane : Nat) (sl0 : Slice) (e : Env) (sl : Slice) : Verdict :=
  match checkAddr s (barrierSpec e) (fun _ => false) addr with
  | .bad c => failNow sl0 ⟨c, 0, BitVec.ofNat 64 addr, BitVec.ofNat 4 (2 ^ lane)⟩
  | .miss p => .park p true
  | .stall => .stall [] []
  | .ok t =>
    if sl0.check.isSome then .held
    else if sl0.nst = 63 || acqPending s e.key then .stall [] []
    else .start { sl with nst := sl.nst + 1 }
      ⟨0, e.key, .arrive false, [⟨lane, t, t, count % 2 ^ 32, 0, false⟩], false, true, false, (streamOf true sl0).pc, 0, []⟩

/-- ARRIVE in the compute stream: an offset into the team's own allotment (R244). -/
def arriveCompute (s : State) (off count lane : Nat) (sl0 : Slice) (e : Env) (sl : Slice) : Verdict :=
  match teamAt s (e.key / 32) with
  | none => .stall [] []
  | some t =>
    if off % 16 ≠ 0 then .fault ⟨codeMISALIGNED, 0, BitVec.ofNat 64 (Config.aliasBase + off), BitVec.ofNat 4 (2 ^ lane)⟩
    else if t.size < off + 16 then .fault ⟨codeSRAM_ACCESS, 0, BitVec.ofNat 64 (Config.aliasBase + off), BitVec.ofNat 4 (2 ^ lane)⟩
    else if sramWaits t (t.base + off) 16 then .stall [] []
    else
      let tgt : Target := ⟨.sram, sramAddr e.core (t.base + off), none, 0, Config.aliasBase + off⟩
      .start { sl with c := { sl.c with wait := .arrive } }
        ⟨0, e.key, .arrive true, [⟨lane, tgt, tgt, count % 2 ^ 32, 0, false⟩], false, true, false, sl0.c.pc, 0, []⟩

/-- Whether ADDR of an ARRIVE is a queue of the access stream: its 64 bits then take two entries (R58, R244; log entry 29). -/
def arrivePair (acc : Bool) (a : Nat) : Bool := acc && popsFrom true a != 0

/-- The sources of an ARRIVE, in the order in which they pop (R59, R244). -/
def arriveOperands (acc : Bool) (a c : Nat) : Operands :=
  ⟨if arrivePair acc a then [(.int, a), (.int, a), (.int, c)] else [(.int, a), (.int, c)], none⟩

/-- ADDR and COUNT of an ARRIVE in one lane, from the values of its sources. -/
def arriveValues (acc : Bool) (a l : Nat) (vals : List (Quad Nat)) : Nat × Nat :=
  let v := fun i => qget ((vals.drop i).headD (qfill 0)) l
  if arrivePair acc a then (v 0 + 2 ^ 32 * v 1, v 2) else (v 0, v 1)

/-- A slice whose ARRIVE has read its operands, past it: each `++` among them takes effect (R52), and last-use marks do
nothing (log entry 18). -/
def arriveEnd (e : Env) (sl : Slice) (a c : Nat) (sl1 : Slice) : Slice :=
  let m := (streamOf e.acc sl).mask
  finishLane e sl m (arriveOperands e.acc a c) none none (bumpAll e m [a, c] sl1)

/-- One slice's ARRIVE. -/
def arriveSlice (s : State) (a c : Nat) (e : Env) (sl : Slice) : Verdict :=
  let st := streamOf e.acc sl
  let o := arriveOperands e.acc a c
  match checkOperands e sl st.mask o false with
  | some v => v
  | none =>
    match stallOperands e sl st.mask o with
    | some v => v
    | none =>
      if badSrc e sl st.mask o then .error ⟨codeUNCORRECTABLE, 0, 0, badLanes e sl st.mask o⟩
      else match readSrcs e st.mask o.srcs sl with
      | .stop v => v
      | .got vals sl1 =>
        let l := (lowestLane st.mask).getD 0
        let r := arriveValues e.acc a l vals
        let sl2 := arriveEnd e sl a c sl1
        if e.acc then arriveAccess s r.1 r.2 l sl e sl2 else arriveCompute s r.1 r.2 l sl e sl2

/-- ARRIVE (R244). Its scope is decoded and does not change what one memory shows (log entry 17). -/
def execArrive (a c : Code) (_sc : Scope) (s : State) : Host.Outcome State Fault Refusal :=
  issueLane s .both true (arriveSlice s a.toNat c.toNat)

/-- What REGION records of a stream (R335). -/
def openRegion (st : Stream) : Stream :=
  { retire st with region := st.pc, regSave := ⟨st.mask, st.mstk, st.rstk⟩ }

/-- REGION (R247, R334): in the access stream it waits until every older access is checked. It has no result that
checked mode could compare (R333), and clears the strike count. -/
def execRegion (s : State) : Host.Outcome State Fault Refusal :=
  issueLane s .both false fun e sl =>
    if e.acc && sl.check.isSome then .stall [] []
    else .done { setStream e.acc sl (openRegion (streamOf e.acc sl)) with strikes := 0, rolled := false } [] none

/-- TRAP (R248): the PC lies past it. In the trap context it is a double fault at the TRAP (R331). -/
def execTrapOp (c : BitVec 16) (s : State) : Host.Outcome State Fault Refusal :=
  issueLane s .both true fun e sl =>
    let st := streamOf e.acc sl
    let f : FaultInfo := ⟨codeTRAP, c.toNat, 0, 0⟩
    if e.trap then .fault f else .trap (setStream e.acc sl { st with pc := st.pc + 4, prev := st.pc }) f

/-- The fault of the error-pending mark that a WAITCNT or EXIT meets, the anvil's first (R271, R306). -/
def pendingFault (sl : Slice) (anvil scribe : Bool) : Option FaultInfo :=
  match (if anvil then sl.anvErr else none) with
  | some c => some ⟨codeANVIL_ERROR, c, 0, 0⟩
  | none => if scribe then sl.scbErr.map fun c => ⟨codeSCRIBE_ERROR, c, 0, 0⟩ else none

/-- A stream that ends: EXIT consumes IMM and MOD and discards a GUARD run (R168, R249). -/
def exitStream (st : Stream) : Stream := { retire st with exited := true, hint := Hint.none }

/-- EXIT (R249). -/
def execExit (s : State) : Host.Outcome State Fault Refusal :=
  andThen (issueLane s .both true fun e sl =>
    if e.acc then
      if sl.check.isSome then .held
      else if sl.nld != 0 || sl.nst != 0 || sl.ncp != 0 || sl.ntl != 0 then .stall [] []
      else match pendingFault sl true true with
      | some f => .fault f
      | none => .done (setStream true sl (exitStream sl.a)) [] none
    else .done (setStream false sl (exitStream sl.c)) [] none)
    fun s' => match s.issuer with
      | .compute k => (issuing s k).foldl (fun s' j =>
          if (sliceAt s' (32 * (k / 32) + j)).c.exited then afterExit s' (32 * (k / 32) + j) false else s') s'
      | .access k => if (sliceAt s' k).a.exited then afterExit s' k true else s'
      | _ => s'

end Sys2Proof.Machine
end

