-- ==== Sys2Proof/Machine/Access.lean ====
section
/-! DEFINITION. The issue of memory instructions (R218 to R234, R245, R246): operands and addresses of the lanes,
the checks of R411, failed loads and their checkpoint (R61, R62), and the accesses that start. -/

namespace Sys2Proof.Machine

/-- Bytes of an access width. -/
def widthBytes : Width → Nat
  | .w8 => 1 | .w16 => 2 | .w32 => 4 | .w64 => 8 | .w128 => 16

/-- LDQ entries of a load (R219), and queue entries of a datum (R58). -/
def widthEntries : Width → Nat
  | .w64 => 2
  | .w128 => 4
  | _ => 1

/-- Whether an order acquires. -/
def isAcq : Order → Bool
  | .acq => true
  | .ar => true
  | _ => false

/-- Whether an order releases. -/
def isRel : Order → Bool
  | .rel => true
  | .ar => true
  | _ => false

/-- The address of a lane: base plus the displacement of a pending IMM (R101). -/
def laneAddr (sl : Slice) (base l : Nat) : Nat :=
  let h := sl.a.hint
  wrap 64 ((regVal true sl base l : Int) + (if h.immv then sval 24 h.immp.toNat else 0))

/-- A data source of n entries (R58, R218): its lanes' values of up to 128 bits. -/
def readData (e : Env) (act : BitVec 4) (n c : Nat) (sl : Slice) : Src :=
  let q := popsFrom true c
  if q = 0 then
    let x := plainSrc e sl act .int c
    let signed := c = 0xAD || decide (0xC0 ≤ c)
    .got (qof fun l => if signed then sext 64 128 (qget x l) else qget x l) sl
  else
    match popN q n sl with
    | .got xs sl' => .got (qof fun l => entryVal l xs) sl'
    | .stall b => .stall b
    | .poisoned f => .poisoned f

/-- A checked address of one lane. -/
structure LaneChk where
  lane : Nat
  addr : Nat
  chk : Chk
deriving DecidableEq, Repr

/-- Whether a check is a failure with a code. -/
def chkBad : Chk → Option Nat
  | .bad c => some c
  | _ => none

/-- The target of a check that passed. -/
def chkTarget : Chk → Option Target
  | .ok t => some t
  | _ => none

/-- The page of a check that missed. -/
def chkMiss : Chk → Option Nat
  | .miss p => some p
  | _ => none

/-- Whether a check must wait. -/
def chkStall : Chk → Bool
  | .stall => true
  | _ => false

/-- What the checks of all lanes give together (R112, R411). -/
inductive Chks where
  | ok (ts : List (Nat × Target))
  | bad (f : FaultInfo)
  | miss (page : Nat)
  | stall
deriving DecidableEq, Repr

/-- The fault of the lowest failing lane, with every lane that failed with it (R411). -/
def lowestFault (cs : List LaneChk) : Option FaultInfo :=
  cs.findSome? fun c => (chkBad c.chk).map fun code =>
    ⟨code, 0, BitVec.ofNat 64 c.addr, maskOf fun l => cs.any fun d => d.lane == l && chkBad d.chk == some code⟩

/-- Put the checks of the lanes together: a known refusal first, then translation misses, then waits, then other
failures. DESIGN CHOICE: a refusal is raised although pages of other lanes have not been judged (log entry 148). -/
def joinChks (cs : List LaneChk) : Chks :=
  if cs.any (fun c => chkBad c.chk == some codePAGE_FAULT) then .bad ((lowestFault cs).getD (plainFault codePAGE_FAULT))
  else match cs.findSome? fun c => chkMiss c.chk with
  | some p => .miss p
  | none =>
    if cs.any (fun c => chkStall c.chk) then .stall
    else match lowestFault cs with
    | some f => .bad f
    | none => .ok (cs.filterMap fun c => (chkTarget c.chk).map fun t => (c.lane, t))

/-- The pages whose requests were refused for a slice's parked access (R112). -/
def refusedOf (sl : Slice) (page : Nat) : Bool :=
  match sl.park with
  | some p => p.refused && p.page == page
  | none => false

/-- Check the addresses of lanes. -/
def checkLanes (s : State) (q : AccSpec) (sl : Slice) (as : List (Nat × Nat)) : Chks :=
  joinChks (as.map fun p => ⟨p.1, p.2, checkAddr s q (refusedOf sl) p.2⟩)

/-- The operands of an FM instruction: a data source or destination, and the base (R158). -/
def fmOperands (src : Bool) (d base : Nat) : Operands :=
  ⟨(if src then [(.int, d)] else []) ++ [(.int, base)], none⟩

/-- Faults and stalls of an FM instruction's operands; a load's destination may only be `qout` or `%zero` (R218). -/
def fmCheck (e : Env) (sl : Slice) (act : BitVec 4) (src : Bool) (d base : Nat) (extra : Bool) : Option Verdict :=
  let o := fmOperands src d base
  let illegal := extra || (!src && !(d == 0xAE || (d == 0xA8 && !e.trap)))
  match checkOperands e sl act o illegal with
  | some v => some v
  | none =>
    match stallOperands e sl act o with
    | some v => some v
    | none => if badSrc e sl act o then some (.error ⟨codeUNCORRECTABLE, 0, 0, badLanes e sl act o⟩) else none

/-- The slice after an FM instruction that completes: hints, ages and PC. No field of it is an operand a or b, so
last-use marks do nothing (log entry 18). -/
def fmFinish (e : Env) (act : BitVec 4) (src : Bool) (d base : Nat) (sl : Slice) : Slice :=
  { finishLane e sl act (fmOperands src d base) none none sl with park := none }

/-- Reserve n entries of LDQ (R25, R56). -/
def reserve (sl : Slice) (apc : Word64) (st : LdState) : Nat → Slice
  | 0 => sl
  | n + 1 => reserve { sl with ldq := sl.ldq ++ [⟨sl.ldqNext, apc, st⟩], ldqNext := sl.ldqNext + 1 } apc st n

/-- The reservation numbers of the next n entries. -/
def seqsFrom (sl : Slice) (n : Nat) : List Nat := (List.range n).map (sl.ldqNext + ·)

/-- Save the checkpoint before the oldest failed access (R61); a younger failure keeps the older one. -/
def withCheckpoint (s : State) (f : FaultInfo) (sl : Slice) : Slice :=
  match sl.check with
  | some _ => sl
  | none => { sl with
      check := some ⟨sl.a, sl.ar, sl.arInfo, sl.fpmodeA, sl.modeSeen, sl.ldqNext, s.serial, [], [], f⟩ }

/-- Whether LDQ has room for n more entries under the slip limit (R25). -/
def ldqRoom (sl : Slice) (n : Nat) : Bool := sl.ldq.isEmpty || decide (sl.ldq.length + n ≤ sl.slip.toNat)

/-- The specification of a LANE access. -/
def laneSpec (e : Env) (bytes : Nat) (write conv : Bool) : AccSpec := ⟨e.ctx, e.core, bytes, bytes, write, conv, .any⟩

/-- The lane accesses of a load: the lanes with their targets, all with the lowest lane's when it is one read. -/
def loadAccs (ts : List (Nat × Target)) : List LaneAcc := ts.map fun p => ⟨p.1, p.2, p.2, 0, 0, false⟩

/-- The end of the issue of a load whose lanes' addresses are `as` (R219, R220, R62): `kind` makes the access from
the reservations. -/
def loadIssue (s : State) (e : Env) (sl : Slice) (act : BitVec 4) (d n : Nat) (acq : Bool) (chks : Chks)
    (kind : List Nat → FlightKind) (fin : Slice → Slice) (accs : List (Nat × Target) → List LaneAcc) : Verdict :=
  let toZero := d == 0xAE
  let m := if toZero then 0 else n
  let apc := sl.a.pc
  if !ldqRoom sl m && !toZero then .qstall
  else if act = 0 then .done (fin (reserve sl apc (.filled ⟨0, 0, 0, 0⟩) m)) [] none
  else if sl.nld = 63 || acqPending s e.key then .stall [] []
  else match chks with
  | .miss p => .park p false
  | .stall => .stall [] []
  | .bad f =>
    if toZero then failNow sl f
    else .done (reserve (fin (withCheckpoint s f sl)) apc (.poisoned f) m) [] none
  | .ok ts =>
      let sl1 := fin (reserve sl apc .reserved m)
      .start { sl1 with nld := sl1.nld + 1 } ⟨0, e.key, kind (seqsFrom sl m), accs ts, acq, false, false, apc, 0, []⟩

/-- One slice's LD (R223). -/
def ldSlice (s : State) (d base : Nat) (o : Order) (w : Width) (e : Env) (sl : Slice) : Verdict :=
  let act := actLanes sl.a
  match fmCheck e sl act false d base false with
  | some v => v
  | none =>
    let n := widthBytes w
    let chks := checkLanes s (laneSpec e n false false) sl ((maskLanes act).map fun l => (l, laneAddr sl base l))
    loadIssue s e sl act d (widthEntries w) (isAcq o) chks (.load n) (fmFinish e act false d base) loadAccs

/-- LD (R223). Its scope is checked at decoding and has no effect of its own (log entry 17). -/
def execLd (d : Code) (b : AReg) (_sc : Scope) (o : Order) (w : Width) (s : State) : Host.Outcome State Fault Refusal :=
  issueLane s .access false (ldSlice s d.toNat b.toNat o w)

/-- One slice's LD.BC: one read at the lowest lane's address, delivered to every lane (R223). -/
def ldBcSlice (s : State) (d base : Nat) (o : Order) (w : Width) (e : Env) (sl : Slice) : Verdict :=
  let act := actLanes sl.a
  match fmCheck e sl act false d base false with
  | some v => v
  | none =>
    let n := widthBytes w
    let l0 := (lowestLane act).getD 0
    let chks := checkLanes s (laneSpec e n false false) sl [(l0, laneAddr sl base l0)]
    loadIssue s e sl act d (widthEntries w) (isAcq o) chks (.load n) (fmFinish e act false d base)
      fun ts => (maskLanes act).flatMap fun l => (loadAccs ts).map fun a => { a with lane := l }

/-- LD.BC (R223). -/
def execLdBc (d : Code) (b : AReg) (_sc : Scope) (o : Order) (w : Width) (s : State) :
    Host.Outcome State Fault Refusal :=
  issueLane s .access false (ldBcSlice s d.toNat b.toNat o w)

/-- PREF (R223): no data, no event, no counter, and never a failure. -/
def execPref (b : AReg) (_sc : Scope) (_w : Width) (s : State) : Host.Outcome State Fault Refusal :=
  issueLane s .access false fun e sl =>
    let act := actLanes sl.a
    match fmCheck e sl act true 0xAE b.toNat false with
    | some v => v
    | none => .done (fmFinish e act true 0xAE b.toNat sl) [] none

/-- The end of the issue of a store, atomic or STDESC: a failed older access is raised (R61, R62), then the counters,
then the checks. DESIGN CHOICE: one whose data is not there, or that lacks LDQ room, stalls before it raises (log entry 145). `ret` says how many entries an atomic with return reserves. -/
def writeIssue (s : State) (e : Env) (sl sl1 : Slice) (act : BitVec 4) (o : Order) (ret : Option Nat) (chks : Chks)
    (kind : List Nat → FlightKind) (fin : Slice → Slice) (acc : Nat → Target → LaneAcc) : Verdict :=
  let apc := sl.a.pc
  let n := ret.getD 0
  if ret.isSome && !ldqRoom sl n then .qstall
  else if act = 0 then .done (fin (reserve sl1 apc (.filled ⟨0, 0, 0, 0⟩) n)) [] none
  else if sl.check.isSome then .held
  else if sl.nst = 63 || (ret.isSome && sl.nld == 63) || acqPending s e.key then .stall [] []
  else match chks with
  | .miss p => .park p true
  | .stall => .stall [] []
  | .bad f =>
    if ret.isSome then .done (reserve (fin (withCheckpoint s f sl1)) apc (.poisoned f) n) [] none else .fault f
  | .ok ts =>
      let sl2 := fin (reserve sl1 apc .reserved n)
      .start { sl2 with nst := sl2.nst + 1, nld := if ret.isSome then sl2.nld + 1 else sl2.nld }
        ⟨0, e.key, kind (seqsFrom sl n), ts.map fun p => acc p.1 p.2, isAcq o, isRel o, false, apc, 0, []⟩

/-- One slice's ST or ST.NT (R224). -/
def stSlice (s : State) (d base : Nat) (o : Order) (w : Width) (e : Env) (sl : Slice) : Verdict :=
  let act := actLanes sl.a
  match fmCheck e sl act true d base false with
  | some v => v
  | none =>
    match readData e act (widthEntries w) d sl with
    | .stall b => if b then .qstall else .stall [] []
    | .poisoned f => .popped f
    | .got q sl1 =>
      let n := widthBytes w
      let chks := checkLanes s (laneSpec e n true false) sl ((maskLanes act).map fun l => (l, laneAddr sl base l))
      writeIssue s e sl sl1 act o none chks (fun _ => .store n) (fmFinish e act true d base)
        fun l t => ⟨l, t, t, qget q l % 256 ^ n, 0, false⟩

/-- ST (R224). -/
def execSt (d : Code) (b : AReg) (_sc : Scope) (o : Order) (w : Width) (s : State) : Host.Outcome State Fault Refusal :=
  issueLane s .access false (stSlice s d.toNat b.toNat o w)

/-- ST.NT: the effect of ST; where the line is cached is not seen (R224). -/
def execStNt (d : Code) (b : AReg) (_sc : Scope) (o : Order) (w : Width) (s : State) :
    Host.Outcome State Fault Refusal :=
  issueLane s .access false (stSlice s d.toNat b.toNat o w)

/-- One slice's atomic (R225, R226): `op` numbers the rows of R225 from AADD, 0; ACAS, 9, pops its swap value after
the data. An atomic with return may poison its entries, so the checkpoint is taken before any pop. -/
def atomicSlice (s : State) (op d base : Nat) (o : Order) (w : Width) (nr : Bool) (e : Env) (sl : Slice) : Verdict :=
  let act := actLanes sl.a
  match fmCheck e sl act true d base (e.trap && (!nr || op == 9)) with
  | some v => v
  | none =>
    let n := widthBytes w
    let chks := checkLanes s (laneSpec e n true false) sl ((maskLanes act).map fun l => (l, laneAddr sl base l))
    let sl0 := match chks with
      | .bad f => if nr || act == 0 || sl.check.isSome then sl else withCheckpoint s f sl
      | _ => sl
    match readData e act (widthEntries w) d sl0 with
    | .stall b => if b then .qstall else .stall [] []
    | .poisoned f => .popped f
    | .got q sl1 =>
      match (if op = 9 then readData e act (widthEntries w) 0xA8 sl1 else .got (qfill 0) sl1) with
      | .stall b => if b then .qstall else .stall [] []
      | .poisoned f => .popped f
      | .got x sl2 =>
        writeIssue s e sl sl2 act o (if nr then none else some (widthEntries w)) chks
          (fun seqs => .atomic op n seqs !nr) (fmFinish e act true d base)
          fun l t => ⟨l, t, t, qget q l % 256 ^ n, qget x l % 256 ^ n, false⟩

/-- AADD (R225). -/
def execAadd (d : Code) (b : AReg) (_sc : Scope) (o : Order) (w : Width) (nr : Bool) (s : State) :
    Host.Outcome State Fault Refusal :=
  issueLane s .access false (atomicSlice s 0 d.toNat b.toNat o w nr)

/-- AAND (R225). -/
def execAand (d : Code) (b : AReg) (_sc : Scope) (o : Order) (w : Width) (nr : Bool) (s : State) :
    Host.Outcome State Fault Refusal :=
  issueLane s .access false (atomicSlice s 1 d.toNat b.toNat o w nr)

/-- AOR (R225). -/
def execAor (d : Code) (b : AReg) (_sc : Scope) (o : Order) (w : Width) (nr : Bool) (s : State) :
    Host.Outcome State Fault Refusal :=
  issueLane s .access false (atomicSlice s 2 d.toNat b.toNat o w nr)

/-- AXOR (R225). -/
def execAxor (d : Code) (b : AReg) (_sc : Scope) (o : Order) (w : Width) (nr : Bool) (s : State) :
    Host.Outcome State Fault Refusal :=
  issueLane s .access false (atomicSlice s 3 d.toNat b.toNat o w nr)

/-- AMIN.S (R225). -/
def execAminS (d : Code) (b : AReg) (_sc : Scope) (o : Order) (w : Width) (nr : Bool) (s : State) :
    Host.Outcome State Fault Refusal :=
  issueLane s .access false (atomicSlice s 4 d.toNat b.toNat o w nr)

/-- AMAX.S (R225). -/
def execAmaxS (d : Code) (b : AReg) (_sc : Scope) (o : Order) (w : Width) (nr : Bool) (s : State) :
    Host.Outcome State Fault Refusal :=
  issueLane s .access false (atomicSlice s 5 d.toNat b.toNat o w nr)

/-- AMIN.U (R225). -/
def execAminU (d : Code) (b : AReg) (_sc : Scope) (o : Order) (w : Width) (nr : Bool) (s : State) :
    Host.Outcome State Fault Refusal :=
  issueLane s .access false (atomicSlice s 6 d.toNat b.toNat o w nr)

/-- AMAX.U (R225). -/
def execAmaxU (d : Code) (b : AReg) (_sc : Scope) (o : Order) (w : Width) (nr : Bool) (s : State) :
    Host.Outcome State Fault Refusal :=
  issueLane s .access false (atomicSlice s 7 d.toNat b.toNat o w nr)

/-- AXCHG (R225). -/
def execAxchg (d : Code) (b : AReg) (_sc : Scope) (o : Order) (w : Width) (nr : Bool) (s : State) :
    Host.Outcome State Fault Refusal :=
  issueLane s .access false (atomicSlice s 8 d.toNat b.toNat o w nr)

/-- ACAS (R226). -/
def execAcas (d : Code) (b : AReg) (_sc : Scope) (o : Order) (w : Width) (nr : Bool) (s : State) :
    Host.Outcome State Fault Refusal :=
  issueLane s .access false (atomicSlice s 9 d.toNat b.toNat o w nr)

/-- AFADD.F32 (R226). -/
def execAfaddF32 (d : Code) (b : AReg) (_sc : Scope) (o : Order) (nr : Bool) (s : State) :
    Host.Outcome State Fault Refusal :=
  issueLane s .access false (atomicSlice s 10 d.toNat b.toNat o .w32 nr)

/-- AFADD.BF2 (R226). -/
def execAfaddBf2 (d : Code) (b : AReg) (_sc : Scope) (o : Order) (nr : Bool) (s : State) :
    Host.Outcome State Fault Refusal :=
  issueLane s .access false (atomicSlice s 11 d.toNat b.toNat o .w32 nr)

/-- The element size of a descriptor's format in nibbles, or 0 where it names none (R80). -/
def fmtNibbles (fmt : Nat) : Nat :=
  match fmt with
  | 0x01 => 2 | 0x02 => 2 | 0x03 => 4 | 0x04 => 4 | 0x05 => 4 | 0x06 => 8 | 0x07 => 8
  | 0x10 => 2 | 0x11 => 2 | 0x12 => 1 | 0x13 => 1
  | _ => 0

/-- Whether a format code is reserved (R80). -/
def fmtReserved (fmt : Nat) : Bool := fmt != 0 && fmtNibbles fmt == 0

/-- The element size in nibbles that an esize names, or 0 (R227, R284). -/
def esizeNibbles (x : Nat) : Nat :=
  match x with
  | 1 => 1 | 2 => 2 | 3 => 4 | 4 => 8
  | _ => 0

/-- The element size of one row of a tile, or none where the row makes the tile ill-formed (R110). -/
def rowNibbles (s : State) (loc raw : Nat) : Option Nat :=
  let d := descAt s loc
  let fmt := fld d 0 8
  if fmt = 0 then (if raw = 0 then none else some raw)
  else if fmtReserved fmt || fld d 8 8 == 0xFF || fmt == 0x13 then none
  else some (fmtNibbles fmt)

/-- The element size of a tile read through the converting aperture with codes 01 to 11, or none where the tile is
ill-formed (R110). -/
def tileNibbles (s : State) (tile raw : Nat) : Option Nat :=
  match rowNibbles s tile raw with
  | none => none
  | some e => if (List.range 64).all fun i => rowNibbles s (tile + 64 * i) raw == some e then some e else none

/-- The nibble of the stored tile that stands at a nibble of the returned tile (R109): conversion bits, element size
in nibbles, position. -/
def tileSource (conv e p : Nat) : Nat :=
  let n := p / e
  let c := 128 / e
  let ij : Nat × Nat :=
    match conv with
    | 0 => (n / c, n % c)
    | 1 => (n % 64, n / 64)
    | 2 => ((n / 256 / (c / 16)) * 16 + n % 256 / 16, (n / 256 % (c / 16)) * 16 + n % 16)
    | _ => ((n / 256 / (c / 8)) * 32 + n % 256 / 8, (n / 256 % (c / 8)) * 8 + n % 8)
  128 * ij.1 + ij.2 * e + p % e

/-- n nibbles of the returned tile from position p (R109). -/
def tileValue (m : Memory) (tile conv e : Nat) : Nat → Nat → Nat
  | 0, _ => 0
  | n + 1, p =>
    let q := tileSource conv e p
    bits (readByte m (tile + q / 2)).toNat (4 * (q % 2)) 4 + 16 * tileValue m tile conv e n (p + 1)

/-- Add the tile failures to the checks of an LDX (R110, R411): codes 01 to 11 need one element size. The descriptors are
read once the memory behind them may be used (R370, R401). -/
def ldxChk (s : State) (conv raw : Nat) (c : Chk) : Chk :=
  match c with
  | .ok t => if conv != 0 && !targetReady s t then .stall else if conv = 0 || (tileNibbles s (t.loc / 4096 * 4096) raw).isSome then c else .bad codeTILE_ILLFORMED
  | c => c

/-- The element size that an LDX names: its esize is a source of the width it reads (R218, R227; log entry 127). -/
def ldxRaw (w : Width) (act : BitVec 4) (q : Quad Nat) : Nat :=
  esizeNibbles (qget q ((lowestLane act).getD 0) % 2 ^ (8 * widthBytes w))

/-- One slice's LDX (R227). Its esize is a source of the width it reads, popped like one. -/
def ldxSlice (s : State) (d base : Nat) (o : Order) (w : Width) (conv : Nat) (e : Env) (sl : Slice) : Verdict :=
  let act := actLanes sl.a
  match fmCheck e sl act true d base e.trap with
  | some v => v
  | none =>
    match readData e act (widthEntries w) d sl with
    | .stall b => if b then .qstall else .stall [] []
    | .poisoned f => .popped f
    | .got q _ =>
      let n := widthBytes w
      let raw := ldxRaw w act q
      let spec := laneSpec e n false true
      let chks := joinChks ((maskLanes act).map fun l =>
        ⟨l, laneAddr sl base l, ldxChk s conv raw (checkAddr s spec (refusedOf sl) (laneAddr sl base l))⟩)
      let fin : Slice → Slice := fun x => match readData e act (widthEntries w) d x with
        | .got _ x1 => fmFinish e act true d base x1
        | _ => fmFinish e act true d base x
      loadIssue s e sl act 0xA8 (widthEntries w) (isAcq o) chks (fun seqs => .ldx n seqs conv) fin (fun ts =>
        (loadAccs ts).map fun a => { a with
          data := if conv = 0 then 2 else (tileNibbles s (a.tgt.loc / 4096 * 4096) raw).getD 2 })

/-- LDX (R227). -/
def execLdx (d : Code) (b : AReg) (_sc : Scope) (o : Order) (w : Width) (c : BitVec 2) (s : State) :
    Host.Outcome State Fault Refusal :=
  issueLane s .access false (ldxSlice s d.toNat b.toNat o w c.toNat)

/-- The check of a descriptor's address: none fails in the SRAM windows, where there are no descriptors (R83, R228). -/
def descCheck (s : State) (e : Env) (write : Bool) (refused : Nat → Bool) (a : Nat) : Chk :=
  match (if 2 ^ 56 ≤ a then .unused else regionOf e.core a) with
  | .sram core off => .ok ⟨.sram, sramAddr core off, none, 0, a⟩
  | _ => checkAddr s (laneSpec e 2 write false) refused a

/-- The check of one lane of an STDESC: a reserved FMT fails it where there is a descriptor to set (R83, R228). -/
def stdescCheck (s : State) (e : Env) (refused : Nat → Bool) (val a : Nat) : Chk :=
  match descCheck s e true refused a with
  | .ok t => if t.space != .sram && fmtReserved (val % 256) then .bad codeDESC_RESERVED else .ok t
  | c => c

/-- One slice's LDDESC (R228). -/
def lddescSlice (s : State) (d base : Nat) (o : Order) (e : Env) (sl : Slice) : Verdict :=
  let act := actLanes sl.a
  match fmCheck e sl act false d base false with
  | some v => v
  | none =>
    let chks := joinChks ((maskLanes act).map fun l =>
      ⟨l, laneAddr sl base l, descCheck s e false (refusedOf sl) (laneAddr sl base l)⟩)
    loadIssue s e sl act d 1 (isAcq o) chks .lddesc (fmFinish e act false d base) loadAccs

/-- LDDESC (R228). -/
def execLddesc (d : Code) (b : AReg) (_sc : Scope) (o : Order) (s : State) : Host.Outcome State Fault Refusal :=
  issueLane s .access false (lddescSlice s d.toNat b.toNat o)

/-- One slice's STDESC (R228): a reserved FMT fails its check. -/
def stdescSlice (s : State) (d base : Nat) (o : Order) (e : Env) (sl : Slice) : Verdict :=
  let act := actLanes sl.a
  match fmCheck e sl act true d base false with
  | some v => v
  | none =>
    match readData e act 1 d sl with
    | .stall b => if b then .qstall else .stall [] []
    | .poisoned f => .popped f
    | .got q sl1 =>
      let chks := joinChks ((maskLanes act).map fun l =>
        ⟨l, laneAddr sl base l, stdescCheck s e (refusedOf sl) (qget q l) (laneAddr sl base l)⟩)
      writeIssue s e sl sl1 act o none chks (fun _ => .stdesc) (fmFinish e act true d base)
        fun l t => ⟨l, t, t, qget q l % 2 ^ 16, 0, false⟩

/-- STDESC (R228). -/
def execStdesc (d : Code) (b : AReg) (_sc : Scope) (o : Order) (s : State) : Host.Outcome State Fault Refusal :=
  issueLane s .access false (stdescSlice s d.toNat b.toNat o)

/-- Bytes of a copy size (R229). -/
def copyBytes : CopySize → Nat
  | .s4 => 4 | .s8 => 8 | .s16 => 16

/-- An arrival of a count on a counted barrier (R243): the first 9 bytes, as one unit. -/
def arriveAt (s : State) (loc count : Nat) : State :=
  let x := readBytes s.mem (loc + 4) 4 + count
  if readBytes s.mem loc 4 ≤ x then
    let s := store s 0 (loc + 4) (valBytes 4 0)
    store s 0 (loc + 8) [readByte s.mem (loc + 8) ^^^ 1]
  else store s 0 (loc + 4) (valBytes 4 x)

/-- The checks of a lane copy's addresses: source before destination in each lane (R230, R411). -/
def copyChk (s : State) (e : Env) (sl : Slice) (src dst : SpaceRule) (n a b : Nat) : Chk :=
  match checkAddr s ⟨e.ctx, e.core, n, n, false, false, src⟩ (refusedOf sl) a with
  | .ok _ => checkAddr s ⟨e.ctx, e.core, n, n, true, false, dst⟩ (refusedOf sl) b
  | c => c

/-- The failing address of a copy's lane. -/
def copyAddr (s : State) (e : Env) (sl : Slice) (src : SpaceRule) (n a b : Nat) : Nat :=
  match checkAddr s ⟨e.ctx, e.core, n, n, false, false, src⟩ (refusedOf sl) a with
  | .ok _ => b
  | _ => a

/-- The checks of one lane of a copy; the barrier, where this lane has it, comes after both addresses (R231, R411;
log entry 128). -/
def copyLaneChk (s : State) (e : Env) (sl : Slice) (src dst : SpaceRule) (n a b : Nat) (bar : Option (Nat × Chk)) (l : Nat) :
    LaneChk :=
  match copyChk s e sl src dst n a b, bar with
  | .ok _, some (x, .bad c) => ⟨l, x, .bad c⟩
  | .ok _, some (_, .stall) => ⟨l, b, .stall⟩
  | c, _ => ⟨l, copyAddr s e sl src n a b, c⟩

/-- Whether the miss of a copy's lane is of its destination, a write. -/
def copyMissWrite (s : State) (e : Env) (sl : Slice) (src : SpaceRule) (n a : Nat) : Bool :=
  match checkAddr s ⟨e.ctx, e.core, n, n, false, false, src⟩ (refusedOf sl) a with
  | .ok _ => true
  | _ => false

/-- The address of a copy that passed its checks. -/
def copyTarget (s : State) (e : Env) (sl : Slice) (n : Nat) (write : Bool) (a : Nat) : Target :=
  (chkTarget (checkAddr s ⟨e.ctx, e.core, n, n, write, false, .any⟩ (refusedOf sl) a)).getD ⟨.sram, 0, none, 0, a⟩

/-- One slice's lane copy (R229 to R231). -/
def acpSlice (s : State) (src dst : SpaceRule) (t sr ds : Nat) (z : CopySize) (arv : Bool) (e : Env) (sl : Slice) :
    Verdict :=
  let act := actLanes sl.a
  let o : Operands := ⟨[(.int, t), (.int, sr), (.int, ds)], none⟩
  match checkOperands e sl act o false with
  | some v => v
  | none =>
    match stallOperands e sl act o with
    | some v => v
    | none =>
      if badSrc e sl act o then .error ⟨codeUNCORRECTABLE, 0, 0, badLanes e sl act o⟩
      else
        let n := copyBytes z
        let ls := maskLanes act
        let l0 := (lowestLane act).getD 0
        let bar := regVal true sl t l0
        let barChk := if arv then checkAddr s (barrierSpec e) (refusedOf sl) bar else .stall
        let chks := joinChks (ls.map fun l =>
          let a := regVal true sl sr l
          let b := regVal true sl ds l
          copyLaneChk s e sl src dst n a b (if arv && l == l0 then some (bar, barChk) else none) l)
        let fin := fun x : Slice => { finishLane e sl act o none none x with park := none }
        if act = 0 && !arv then .done (fin sl) [] none
        else if sl.check.isSome then .held
        else if (act != 0 && sl.ncp == 63) || acqPending s e.key then .stall [] []
        else match chks with
        | .miss p => .park p ((ls.find? fun l => chkMiss (copyChk s e sl src dst n (regVal true sl sr l)
            (regVal true sl ds l)) == some p).any fun l => copyMissWrite s e sl src n (regVal true sl sr l))
        | .stall => .stall [] []
        | .bad f => .fault f
        | .ok _ =>
          match (if arv then chkBad barChk else none) with
          | some c => .fault ⟨c, 0, BitVec.ofNat 64 bar, BitVec.ofNat 4 (2 ^ l0)⟩
          | none =>
            if arv && (chkStall barChk || (chkMiss barChk).isSome) then .stall [] []
            else if act = 0 then
              .start (fin sl) ⟨0, e.key, .acp n 64 (chkTarget barChk), [], false, true, false, sl.a.pc, 0, []⟩
            else
              let sl1 := fin sl
              .start { sl1 with ncp := sl1.ncp + 1, statPend := sl1.statPend ++ [(t, act)] }
                ⟨0, e.key, .acp n t (chkTarget barChk), ls.map fun l =>
                  ⟨l, copyTarget s e sl n false (regVal true sl sr l), copyTarget s e sl n true (regVal true sl ds l), 0, 0, false⟩,
                 false, false, false, sl.a.pc, 0, []⟩

/-- The arrival of a copy without lanes is made at issue (R231). -/
def arriveAtIssue (k : Nat) (s : State) : State :=
  match s.flights.find? fun f => f.owner = k && f.lanes.isEmpty with
  | some f =>
    let s := { s with flights := s.flights.filter fun g => g.id != f.id }
    match f.kind with
    | .acp _ _ (some t) => arriveAt s t.loc 1
    | _ => s
  | none => s

/-- The key of an access issuer. -/
def accessKey : Issuer → Nat
  | .access k => k
  | .trap core => trapBase + core
  | _ => 0

/-- ACP.G2S (R230). -/
def execAcpG2s (t src dst : AReg) (z : CopySize) (arv : Bool) (s : State) : Host.Outcome State Fault Refusal :=
  andThen (issueLane s .access false
    (acpSlice s (.paged codeACP_SPACE) (.sram codeACP_SPACE) t.toNat src.toNat dst.toNat z arv))
    (arriveAtIssue (accessKey s.issuer))

/-- ACP.S2G (R230). -/
def execAcpS2g (t src dst : AReg) (z : CopySize) (arv : Bool) (s : State) : Host.Outcome State Fault Refusal :=
  andThen (issueLane s .access false
    (acpSlice s (.sram codeACP_SPACE) (.paged codeACP_SPACE) t.toNat src.toNat dst.toNat z arv))
    (arriveAtIssue (accessKey s.issuer))

/-- ACP.S2S (R230). -/
def execAcpS2s (t src dst : AReg) (z : CopySize) (arv : Bool) (s : State) : Host.Outcome State Fault Refusal :=
  andThen (issueLane s .access false
    (acpSlice s (.sram codeACP_SPACE) (.sram codeACP_SPACE) t.toNat src.toNat dst.toNat z arv))
    (arriveAtIssue (accessKey s.issuer))

/-- Whether an access in flight is a lane copy. -/
def isCopy (f : Flight) : Bool :=
  match f.kind with
  | .acp _ _ _ => true
  | _ => false

/-- FENCE (R232). -/
def execFence (_sc : Scope) (o : Order) (s : State) : Host.Outcome State Fault Refusal :=
  issueLane s .access false fun e sl =>
    let mine := s.flights.filter fun f => f.owner = e.key
    if actLanes sl.a = 0 then .done (setStream true sl (retire sl.a)) [] none
    else if sl.check.isSome then .held
    else if (isRel o && mine.any isLaneWrite) || (isAcq o && mine.any isLaneRead) then .stall [] []
    else
      let sl1 := if isRel o then { sl with relMark := s.serial } else sl
      .done (setStream true sl1 (retire sl1.a)) [] none

/-- XFENCE (R233): earlier LANE writes and copies of the slice on the write mask's paths are performed; this memory
keeps no older copies. -/
def execXfence (wm _rm : BitVec 6) (s : State) : Host.Outcome State Fault Refusal :=
  issueLane s .access false fun e sl =>
    let mine := s.flights.filter fun f => f.owner = e.key
    if actLanes sl.a = 0 then .done (setStream true sl (retire sl.a)) [] none
    else if sl.check.isSome then .held
    else if (wm.getLsbD 0 && mine.any isLaneWrite) || (wm.getLsbD 1 && mine.any isCopy) then .stall [] []
    else .done (setStream true sl (retire sl.a)) [] none

/-- WAITCNT (R245). -/
def execWaitcnt (l st c t : BitVec 6) (s : State) : Host.Outcome State Fault Refusal :=
  issueLane s .access false fun _ sl =>
    if decide (l.toNat < 63) && sl.check.isSome then .held
    else if decide (l.toNat < sl.nld) || decide (st.toNat < sl.nst) || decide (c.toNat < sl.ncp)
        || decide (t.toNat < sl.ntl) then .stall [] []
    else match pendingFault sl (decide (t.toNat < 63)) (decide (c.toNat < 63)) with
    | some f => .fault f
    | none => .done (setStream true sl (retire sl.a)) [] none

/-- Whether an access in flight of a slice touches bytes of a location. -/
def touches (f : Flight) (loc bytes : Nat) : Bool :=
  let n := match f.kind with
    | .load n _ => n
    | .store n => n
    | .atomic _ n _ _ => n
    | .arrive _ => 16
    | .acp n _ _ => n
    | _ => 0
  f.lanes.any fun a =>
    (decide (loc < a.tgt.loc + n) && decide (a.tgt.loc < loc + bytes))
      || (decide (loc < a.dst.loc + n) && decide (a.dst.loc < loc + bytes))

/-- A slice whose access stream goes on past the instruction at which it waits, which has the operands `codes` in lanes `act`
(R235). -/
def wokenSlice (s : State) (e : Env) (act : BitVec 4) (codes : List Nat) (sl : Slice) : Slice :=
  let x := finishLane e sl act ⟨codes.map fun c => (.int, c), none⟩ none none sl
  { x with park := none, watch := none, a := { x.a with wait := .none, age := s.clock.toNat } }

/-- What a WAITADDR finds at its address (R234): go on, wait, or an uncorrectable error. -/
inductive Probe where
  | go | wait | error
deriving DecidableEq, Repr

/-- Whether a slice's own earlier LANE accesses to a word are still in flight: a write comes before a later read of it, and an
earlier read takes no newer value (R127). -/
def watchLate (s : State) (k : Nat) (t : Target) (bytes : Nat) : Bool :=
  s.flights.any fun f => f.owner = k && (isLaneWrite f || isLaneRead f) && touches f t.loc bytes

/-- Read the word that a WAITADDR watches, after the slice's own earlier accesses to it; a remote word is read by a request of
its own (log entry 19). -/
def probe (s : State) (k : Nat) (t : Target) (bytes expect : Nat) : Probe :=
  if watchLate s k t bytes || !targetReady s t then .wait
  else match t.space with
  | .remote _ => .wait
  | _ =>
    if poisoned s t.loc bytes then .error
    else if seenVal s t bytes = expect then .wait
    else .go

/-- The access stream of a slice before a WAITADDR that parks, and the entries that this has popped: the slice after its pops
is `sl1` (R61). -/
def watchPoint (s : State) (sl sl1 : Slice) : Checkpoint :=
  ⟨sl.a, sl.ar, sl.arInfo, sl.fpmodeA, sl.modeSeen, sl.ldqNext, s.serial, sl.sdq.take (sl.sdq.length - sl1.sdq.length),
    sl.cq.take (sl.cq.length - sl1.cq.length), plainFault 0⟩

/-- A slice whose parked WAITADDR is taken back: the registers and queues are as before it, so that it is executed again (R61,
R139). -/
def backOut (sl : Slice) : Slice :=
  match sl.watch with
  | none => sl
  | some c => { sl with
      a := c.str
      ar := c.ar
      arInfo := c.arInfo
      fpmodeA := c.fpmodeA
      modeSeen := c.modeSeen
      sdq := c.sdq ++ sl.sdq
      cq := c.cq ++ sl.cq
      check := sl.check.map fun k => { k with
        sdq := k.sdq.take (k.sdq.length - c.sdq.length)
        cq := k.cq.take (k.cq.length - c.cq.length) }
      watch := none }

/-- A parked WAITADDR fails: a check that fails raises the fault of the slice's oldest failed access at the checkpoint, which is
before the WAITADDR where none is older (R220); an uncorrectable error is consumed there (R334). -/
def failWatch (s : State) (k : Nat) (f : FaultInfo) : State :=
  let s := forgetWait (putSlice s k (backOut (sliceAt s k))) k
  if f.code = codeUNCORRECTABLE then consumeError s k true f else commitOne s k (failNow (sliceAt s k) f)

/-- One slice's WAITADDR (R234). -/
def waitaddrSlice (s : State) (d base : Nat) (o : Order) (w : Width) (e : Env) (sl : Slice) : Verdict :=
  let act := actLanes sl.a
  match fmCheck e sl act true d base false with
  | some v => v
  | none =>
    match readData e act (widthEntries w) d sl with
    | .stall b => if b then .qstall else .stall [] []
    | .poisoned f => .popped f
    | .got q sl1 =>
      match lowestLane act with
      | none => .done (fmFinish e act true d base sl1) [] none
      | some l =>
        let n := widthBytes w
        match checkLanes s (laneSpec e n false false) sl [(l, laneAddr sl base l)] with
        | .miss p => .park p false
        | .stall => .stall [] []
        | .bad f => failNow sl f
        | .ok ts =>
          if acqPending s e.key then .stall [] []
          else match ts.head? with
          | none => .stall [] []
          | some p =>
            let x := qget q l % 256 ^ n
            match (if servedFree s (vdevOf e.ctx) p.2 then probe s e.key p.2 n x else .wait) with
            | .go => .done (wokenSlice s e act [d, base] sl1) [] none
            | .error => .error ⟨codeUNCORRECTABLE, 0, BitVec.ofNat 64 (laneAddr sl base l), BitVec.ofNat 4 (2 ^ l)⟩
            | .wait => .done { sl1 with
                park := none
                watch := some (watchPoint s sl sl1)
                a := { sl1.a with wait := .addr p.2 n x (isAcq o) [d, base], stall := false, want := [], named := [] } } [] none

/-- Where a WAITADDR that has issued read its word at once, if it did (R368). -/
def waitaddrRead (s : State) (k b n : Nat) : Option Target :=
  let sl := sliceAt s k
  match envOf s k true, lowestLane (actLanes sl.a) with
  | some e, some l => match checkAddr s (laneSpec e n false false) (refusedOf sl) (laneAddr sl b l) with
    | .ok t => if servedFree s (vdevOf e.ctx) t then some t else none
    | _ => none
  | _, _ => none

/-- WAITADDR (R234, R235): its retirement and its park both count as a YIELD. DESIGN CHOICE: one with no acting lane, which has
no effect, counts as none (log entry 152). -/
def execWaitaddr (d : Code) (b : AReg) (_sc : Scope) (o : Order) (w : Width) (s : State) :
    Host.Outcome State Fault Refusal :=
  andThen (issueLane s .access false (waitaddrSlice s d.toNat b.toNat o w))
    fun s' => match s.issuer with
      | .access k =>
        let st := (sliceAt s' k).a
        if st.wait != .none || (st.pc == (sliceAt s k).a.pc + 4 && actLanes (sliceAt s k).a != 0) then
          yieldTeam (spendFor s' (keyCtx s k) (waitaddrRead s k b.toNat (widthBytes w)).toList) (k / 32) else s'
      | _ => s'

/-- The check of a SLEEPUNTIL barrier once CLOCK has passed (R246): PHASE read as an acquire. -/
def promiseKept (s : State) (bar : Word64) (loc : Nat) : Bool :=
  bitAt (readByte s.mem (loc + 8)).toNat 0 == bitAt bar.toNat 0

/-- One slice's SLEEPUNTIL (R246), with or without a barrier register. -/
def sleepSlice (s : State) (c : Nat) (bar : Option Nat) (e : Env) (sl : Slice) : Verdict :=
  let o : Operands := ⟨(.int, c) :: (match bar with
    | some b => [(.int, b)]
    | none => []), none⟩
  match checkOperands e sl sl.a.mask o false with
  | some v => v
  | none =>
    match stallOperands e sl sl.a.mask o with
    | some v => v
    | none =>
      if badSrc e sl sl.a.mask o then .error ⟨codeUNCORRECTABLE, 0, 0, badLanes e sl sl.a.mask o⟩
      else
        let l := (lowestLane sl.a.mask).getD 0
        let clk := regVal true sl c l
        let codes := c :: bar.toList
        let done := wokenSlice s e sl.a.mask codes sl
        let wait : Option Word64 → Slice := fun b => { sl with
          a := { sl.a with wait := .sleep (BitVec.ofNat 64 clk) b l codes, stall := false, want := [], named := [] } }
        match bar with
        | none => if s.clock.toNat < clk then .done (wait none) [] none else .done done [] none
        | some b =>
          let x := regVal true sl b l
          let addr := x - x % 2
          match checkAddr s (barrierSpec e) (fun _ => false) addr with
          | .bad code => failNow sl ⟨code, 0, BitVec.ofNat 64 addr, BitVec.ofNat 4 (2 ^ l)⟩
          | .miss _ => .stall [] []
          | .stall => .stall [] []
          | .ok t =>
            if s.clock.toNat < clk then .done (wait (some (BitVec.ofNat 64 x))) [] none
            else if acqPending s e.key || s.flights.any fun f => f.owner = e.key && touches f t.loc 16 then .stall [] []
            else if promiseKept s (BitVec.ofNat 64 x) t.loc then .done done [] none
            else .fault (plainFault codePROMISE_MISSED)

/-- The YIELD that a SLEEPUNTIL counts as, parked or retired (R235). -/
def afterSleep (s s' : State) : State :=
  match s.issuer with
  | .access k =>
    let st := (sliceAt s' k).a
    if st.wait != .none || st.pc == (sliceAt s k).a.pc + 4 then yieldTeam s' (k / 32) else s'
  | _ => s'

/-- SLEEPUNTIL (R246). -/
def execSleepuntil (c : AReg) (s : State) : Host.Outcome State Fault Refusal :=
  andThen (issueLane s .access false (sleepSlice s c.toNat none)) (afterSleep s)

/-- SLEEPUNTIL with a barrier (R246). -/
def execSleepuntilBar (c b : AReg) (s : State) : Host.Outcome State Fault Refusal :=
  andThen (issueLane s .access false (sleepSlice s c.toNat (some b.toNat))) (afterSleep s)

end Sys2Proof.Machine
end

