-- ==== Sys2Proof/Machine/Residency.lean ====
section
/-! DEFINITION. Residency (R37 to R48): the resources a team holds, register removal and refill, level changes, the
mapping of units, scratch pages that a fold moves, register swap, and the fold itself (R344). -/

namespace Sys2Proof.Machine

/-- Register-file entries that n slices hold at a level: four lanes of v registers and twice as many entries for a
registers (R9, R38). -/
def entriesAt (team : Team) (n level : Nat) : Nat := n * 4 * (levelV team.v level + 2 * levelA team.a level)

/-- Free register-file entries of a core. -/
def freeEntries (s : State) (core : Nat) : Nat :=
  Config.regEntries - ((coreTeams s core).map fun p => entriesAt p.2 (heldSlices s p.1 p.2) p.2.level).sum

/-- Bring a slice to its budgets at a level (R38, R41), with the free bytes of the spill area's scratch part. The v and a
registers that an instruction needs, `keepV` and `keepA`, stay. -/
def trimSlice (team : Team) (level room : Nat) (keepV keepA : List Nat) (sl : Slice) : Slice :=
  let x := trimBank false team.v (levelV team.v level) keepV team.v room sl
  trimBank true team.a (levelA team.a level) keepA team.a (room - (sliceSpill x - sliceSpill sl)) x

/-- Units that fit together into p slices, taken in order; the first is taken whatever its size (R39). DESIGN CHOICE: a unit
that does not fit ends the choice, so that no smaller one behind it goes first (log entry 153). -/
def fitUnits (s : State) (t : Nat) (team : Team) (p : Nat) : List (Nat × Nat) → List Nat → List (Nat × Nat)
  | ms, [] => ms
  | ms, u :: us =>
    let used := (ms.map fun m => (unitSlices s t team m.1).length).sum
    let need := (unitSlices s t team u).length
    if ms.isEmpty || decide (used + need ≤ p) then fitUnits s t team p (ms ++ [(u, 0)]) us
    else ms

/-- The number of physical slices in a set. -/
def sliceCount (x : BitVec 8) : Nat := popCount x.toNat 8

/-- The PSET of a team's context on its core (R342). -/
def psetOf (s : State) (t : Nat) (team : Team) : BitVec 8 :=
  match ctxPlaceOf s (t / 16) team.ctx with
  | some p => p.2.pset
  | none => 0xFF

/-- Physical slices that a team may map its units to: those of its level, within its context's PSET (R38, R342). -/
def physSlices (s : State) (t : Nat) (team : Team) : Nat :=
  min (levelSlices team.s team.level) (max 1 (sliceCount (psetOf s t team)))

/-- The physical slice that a mapped logical slice issues on: the slices of the mapped units take the PSET's in turn,
and a unit that issues in pieces takes them again for each piece (R39, R342; log entry 130). -/
def physicalOf (s : State) (t : Nat) (team : Team) (j : Nat) : Option Nat :=
  let mine := team.mapped.flatMap fun m => unitSlices s t team m.1
  let set := (List.range 8).filter fun i => (psetOf s t team).getLsbD i
  if mine.contains j then set[mine.idxOf j % physSlices s t team]? else none

/-- A change of level reaches a slice (R37, R41, R45): PEND is set, and registers beyond the budgets are removed, to the
HBM part alone where a fold must free pages (R42, R344). What a stalled instruction names is refilled again before it
issues. -/
def reachLevel (toHbm : Bool) (t : Nat) (s : State) (j : Nat) : State :=
  match teamAt s t with
  | none => s
  | some team =>
    let sl := sliceAt s (32 * t + j)
    let room := if toHbm then 0 else spillRoom s (t / 16)
    putSlice s (32 * t + j) (trimSlice team team.level room [] [] { sl with pend := true, levelDue := none })

/-- Change a team's level (R37, R45, R46): EPOCH rises, units beyond the new number of physical slices give theirs up,
and the change reaches every slice, but for those whose instruction boundary comes later. DESIGN CHOICE: the units mapped
earliest keep their slices, as far as they fit (log entry 154). -/
def setLevel (toHbm : Bool) (s : State) (t level : Nat) : State :=
  match teamAt s t with
  | none => s
  | some team =>
    let next := { team with level := level, epoch := team.epoch + 1 }
    let kept := fitUnits s t team (physSlices s t next) [] (team.mapped.map (·.1))
    let s := putTeam s t (some { next with mapped := team.mapped.filter fun m => kept.any fun k => k.1 = m.1 })
    (sliceNums team).foldl (fun s j =>
      if s.late.contains (32 * t + j) then
        putSlice s (32 * t + j) { sliceAt s (32 * t + j) with
          levelDue := some (toHbm || (sliceAt s (32 * t + j)).levelDue.any (·.1), sliceLevel team (sliceAt s (32 * t + j))) }
      else reachLevel toHbm t s j) s

/-- Whether a stream has something to issue but for its operands (R35): it is at no wait, and its stall flag says
whether its next instruction's operands are ready. -/
def streamReady (s : State) (k : Nat) (acc : Bool) : Bool :=
  let sl := sliceAt s k
  let st := streamOf acc sl
  !sl.held && !sl.swapped && !sl.rollback && !st.exited && st.wait == .none && !st.stall
    && (!acc || sl.park.all fun p => p.refused)
    && decide (st.count / 1024 ≤ st.aged)
    && (teamAt s (k / 32)).any fun t => t.phase == .running && !s.throttled.contains (clusterOf (k / 512))

/-- Whether a stream of a slice waits: at a barrier, at a MERGE, on memory, on a queue, on a counter, for a refill or an
invocation (R35). -/
def streamWaits (sl : Slice) (acc : Bool) : Bool :=
  let st := streamOf acc sl
  st.stall || st.wait != .none || sl.held || sl.swapped || sl.rollback || (acc && sl.park.any fun p => !p.refused)

/-- Whether a unit keeps its physical slices (R39): its compute stream has not stalled, which a wait at a barrier or a
MERGE is too, and it has not issued 64 instructions; a slice whose compute stream has exited keeps its own by its access
stream. -/
def unitKeeps (s : State) (t : Nat) (team : Team) (m : Nat × Nat) : Bool :=
  let js := unitSlices s t team m.1
  let sl := sliceAt s (32 * t + m.1)
  decide (m.2 < 64) && !js.isEmpty &&
    (if sl.c.exited then !sl.a.exited && !streamWaits sl true
     else js.all fun j => !streamWaits (sliceAt s (32 * t + j)) false)

/-- Whether a unit is able to issue in one of its streams (R39). -/
def unitAble (s : State) (t : Nat) (team : Team) (u : Nat) : Bool :=
  let js := unitSlices s t team u
  (js.any fun j => streamReady s (32 * t + j) true) ||
    (!js.isEmpty && js.all fun j => streamReady s (32 * t + j) false)

/-- The units of a team in round-robin order after the last one mapped (R39). -/
def unitOrder (s : State) (t : Nat) (team : Team) : List Nat :=
  let us := (sliceNums team).filter fun u => !(unitSlices s t team u).isEmpty
  us.filter (fun u => decide (team.rr < u)) ++ us.filter fun u => decide (u ≤ team.rr)

/-- Remap a team's units (R39): units that no longer keep their physical slices lose them, and units able to issue
take the free ones in round-robin order. -/
def remapTeam (s : State) (t : Nat) : State :=
  match teamAt s t with
  | none => s
  | some team =>
    let kept := team.mapped.filter (unitKeeps s t team)
    let wanted := (unitOrder s t team).filter fun u => !kept.any (fun m => m.1 = u) && unitAble s t team u
    let ms := fitUnits s t team (physSlices s t team) kept wanted
    let rr := match (ms.drop kept.length).getLast? with
      | some m => m.1
      | none => team.rr
    putTeam s t (some { team with mapped := ms, rr := rr })

/-- Mapped units of a team beyond its physical slices lose theirs (R39, R342): a unit may have parted into several, or
the PSET may have shrunk. DESIGN CHOICE: the units mapped earliest keep theirs, as far as they fit (log entry 154). -/
def fitMapped (s : State) (t : Nat) (team : Team) : State :=
  let kept := fitUnits s t team (physSlices s t team) [] (team.mapped.map (·.1))
  let ms := team.mapped.filter fun m => kept.any fun k => k.1 = m.1
  if ms = team.mapped then s else putTeam s t (some { team with mapped := ms })

/-- UNIT_REMAP (R39). It also takes place in settling each move: a unit that has given up its physical slices issues
no further until its turn comes again. -/
def execUnitRemap (t : Nat) (s : State) : Host.Outcome State Fault Refusal := .next (remapTeam s t)

/-- Whether a stream is due its ageing (R40): 1024 more instructions have issued than rounds were done. -/
def ageingDue (st : Stream) : Bool := decide (st.aged < st.count / 1024)

/-- REGISTER_AGEING (R40): the ages of one stream's registers rise by one. -/
def execRegisterAgeing (k : Nat) (acc : Bool) (s : State) : Host.Outcome State Fault Refusal :=
  let sl := sliceAt s k
  let st := streamOf acc sl
  .next (if ageingDue st then putSlice s k (setStream acc sl { st with aged := st.aged + 1 }) else s)

/-! The save area (R340, R42, R43; log entry 20). -/

/-- The virtual address of a team's header, at the start of its save area (R338, R340). -/
def headerVa (s : State) (team : Team) : Nat :=
  wrap 64 ((fld (ctxRecord s team.home team.ctx) 128 64 : Int) + (team.save : Int))

/-- The offset in its team's save area of a register of a slice. -/
def registerHome (team : Team) (j : Nat) (acc : Bool) (r : Nat) : Nat :=
  4096 + 16 * (j * (team.v + 2 * team.a)) + (if acc then 16 * team.v + 32 * r else 16 * r)

/-- The offset in its team's save area of a page of the allotment. -/
def pageHome (team : Team) (page : Nat) : Nat := 4096 + 16 * (team.s * (team.v + 2 * team.a)) + 4096 * page

/-- The page-wise pieces of n bytes from an address: first address and length. -/
def pageCuts (va n : Nat) : List (Nat × Nat) :=
  ((List.range (n / 65536 + 2)).map fun i =>
    let a := max va ((va / 65536 + i) * 65536)
    (a, min (va + n) ((va / 65536 + i + 1) * 65536) - a)).filter fun p => p.2 != 0

/-- The first page of n bytes from an address whose translation is not at hand, or forbids a write (R359). -/
def missOf (s : State) (write : Bool) (vdev va n : Nat) : Option Nat :=
  (pageCuts va n).findSome? fun p =>
    if (tlbFind s vdev p.1).any fun l => !write || bitAt l.pte.toNat 2 then none else some (p.1 / 2 ^ 16)

/-- Whether the memory behind n bytes from an address may be used: translated, ready and not retraining (R370, R401). -/
def vaReady (s : State) (write : Bool) (vdev va n : Nat) : Bool :=
  (missOf s write vdev va n).isNone
    && (pageCuts va n).all fun p => (tlbFind s vdev p.1).any fun l => targetReady s (leafTarget l p.1)

/-- Whether n bytes of a team's save area may be read now. -/
def homeReady (s : State) (team : Team) (off n : Nat) : Bool :=
  vaReady s false (vdevOf team.ctx) (headerVa s team + off) n

/-- Whether n bytes of a team's save area may be written now. -/
def homeOpen (s : State) (team : Team) (off n : Nat) : Bool := vaReady s true (vdevOf team.ctx) (headerVa s team + off) n

/-- REGISTER_REFILL (R41, R42): a register that the stalled instruction needs comes back with age 0; at the budget
another leaves, never one that the instruction names. From the HBM part it comes once the memory there may be used (R370,
R401). -/
def execRegisterRefill (k : Nat) (acc : Bool) (r : Nat) (s : State) : Host.Outcome State Fault Refusal :=
  let sl := sliceAt s k
  let st := streamOf acc sl
  .next (match teamAt s (k / 32) with
    | none => s
    | some team =>
      if st.want.contains r && (spilledOf acc sl [r]).contains r && decide (k < trapBase)
          && ((regInfo acc sl r).loc != .hbm || homeReady s team (registerHome team (k % 32) acc r) (spillBytes acc)) then
        let n := if acc then team.a else team.v
        let level := sliceLevel team sl
        let budget := if acc then levelA team.a level else levelV team.v level
        let sl := trimBank acc n (budget - 1) (r :: st.named) n (removalRoom s (k / 512) sl) sl
        let want := st.want.erase r
        let sl := putInfo acc sl r { regInfo acc sl r with loc := .resident, touch := st.aged }
        putSlice s k (setStream acc sl { streamOf acc sl with want := want, stall := !want.isEmpty })
      else s)

/-! Scratch pages. -/

/-- Bytes of SRAM taken out of a range, keeping those that are not zero by their offset. -/
def takeBytes (m : Memory) (loc off : Nat) : Nat → Assoc Byte → Assoc Byte
  | 0, x => x
  | n + 1, x => takeBytes m (loc + 1) (off + 1) n (aput 0 x off (readByte m loc))

/-- Put saved bytes back into a range. -/
def giveBytes (x : Assoc Byte) (loc off : Nat) : Nat → Memory → Memory
  | 0, m => m
  | n + 1, m => giveBytes x (loc + 1) (off + 1) n (writeByte m loc (aget 0 x off))

/-- The range that an anvil request writes: a tile, or the output of a pass (R43, R266, R269). -/
def reqTarget (r : AReq) : Option (Nat × Nat) :=
  if r.ended then none
  else if r.kind = 2 then some (r.addr.toNat, 32768)
  else if r.kind = 0 && fld r.cb 294 1 == 1 then
    some (fld r.cb 448 64, 4096 * (if fld r.cb 314 1 = 1 then fmtNibbles (fld r.cb 328 8) else 8))
  else none

/-- The SRAM ranges that scribe line operations under way target (R43, R307). -/
def lineTargets (s : State) : List (Nat × Nat) :=
  s.scribes.flatMap fun b => b.2.ctxs.flatMap fun c => (c.2.bind (·.data)).toList.flatMap (·.dst)

/-- Whether an unfinished copy, arrival, line operation or anvil write targets a page of a team (R43, R274, R307, R344);
anvil requests that have not been granted count when `all` is set. -/
def pageBusy (all : Bool) (s : State) (t : Nat) (team : Team) (page : Nat) : Bool :=
  let lo := sramAddr (t / 16) (team.base + 4096 * page)
  let hit : Nat → Nat → Bool := fun loc n => decide (loc < lo + 4096) && decide (lo < loc + n)
  s.flights.any (fun f => match f.kind with
    | .acp n _ b => f.lanes.any (fun a => hit a.dst.loc n) || b.any fun x => hit x.loc 16
    | .arrive _ => f.lanes.any fun a => hit a.tgt.loc 16
    | _ => false)
  || (lineTargets s).any (fun q => hit q.1 q.2)
  || s.anvils.any fun v => v.2.resv.any fun r => (all || r.granted) && (reqTarget r).any fun o =>
    match regionOf r.core o.1 with
    | .sram core off => hit (sramAddr core off) o.2
    | _ => false

/-- Whether a page of a team may be moved (R43). -/
def pageMovable (s : State) (t : Nat) (team : Team) (page : Nat) : Bool :=
  decide (0 < page) && !team.moved.contains page && !(decide (page < 32) && team.pin.getLsbD page)
    && !pageBusy true s t team page

/-- Uncorrectable errors of a page of SRAM go with its bytes (R334): its marks by offset div 4, beside those set aside
before. -/
def takeBad (bad : Assoc Bool) (lo off : Nat) (x : Assoc Bool) : Assoc Bool :=
  (bad.filter fun p => decide (lo / 4 ≤ p.1) && decide (p.1 < lo / 4 + 1024)).foldl
    (fun x p => aput false x (p.1 - lo / 4 + off / 4) p.2) x

/-- Put a page's marks back. -/
def giveBad (x : Assoc Bool) (lo off : Nat) (bad : Assoc Bool) : Assoc Bool :=
  (x.filter fun p => p.1 / 1024 == off / 4096).foldl (fun m p => aput false m (p.1 - off / 4 + lo / 4) p.2)
    (clearPoison bad lo 4096)

/-- Set the bytes and the error marks of pages of a team aside, by their offsets (R43, R349). -/
def pagesOut (s : State) (t : Nat) (team : Team) (pages : List Nat) : Team :=
  let lo := sramAddr (t / 16) team.base
  pages.foldl (fun x i => { x with
    spill := takeBytes s.mem (lo + 4096 * i) (4096 * i) 4096 x.spill
    spillBad := takeBad s.poison (lo + 4096 * i) (4096 * i) x.spillBad }) team

/-- Bring pages of a team on a core back (R106, R353): the state with their bytes and marks, and the team without. -/
def pagesIn (s : State) (core : Nat) (team : Team) (pages : List Nat) : State × Team :=
  let lo := sramAddr core team.base
  ({ s with
      mem := pages.foldl (fun m i => giveBytes team.spill (lo + 4096 * i) (4096 * i) 4096 m) s.mem
      poison := pages.foldl (fun b i => giveBad team.spillBad (lo + 4096 * i) (4096 * i) b) s.poison },
    { team with
      spill := team.spill.filter fun b => !pages.contains (b.1 / 4096)
      spillBad := team.spillBad.filter fun b => !pages.contains (b.1 / 1024) })

/-- A write of n bytes at an offset of a team's save area, which its memory will take once it may be used (R42, R43, R370,
R401). -/
def spillAt (s : State) (core : Nat) (team : Team) (off n : Nat) : State :=
  { s with spills := s.spills ++ [⟨core, team.launch, vdevOf team.ctx, headerVa s team + off, n⟩] }

/-- Move one page of a team out (R43). -/
def movePage (s : State) (t page : Nat) : State :=
  match teamAt s t with
  | none => s
  | some team => spillAt (putTeam s t (some { pagesOut s t team [page] with moved := page :: team.moved })) (t / 16) team
      (pageHome team page) 4096

/-- Clear the descriptors of n bytes from an address, page by page, as writes do (R83). -/
def clearDescs (s : State) (vdev va n : Nat) : State :=
  (pageCuts va n).foldl (fun s p =>
    match tlbFind s vdev p.1 with
    | none => s
    | some leaf =>
      let lo := (leafTarget leaf p.1).loc
      if isRemote (leafTarget leaf p.1) then s
      else { s with desc := s.desc.filter fun d => !(decide (lo < 64 * d.1 + 64) && decide (64 * d.1 < lo + p.2)) }) s

/-- One write to a spill area reaches its memory, if that may be used; else it waits, for its translation too (R83, R112, R359,
R370, R401). -/
def flushSpill (s : State) (x : SpillOut) : State :=
  if vaReady s true x.vdev x.va x.bytes then clearDescs s x.vdev x.va x.bytes else { s with spills := s.spills ++ [x] }

/-- Make the writes to the spill areas that wait, as far as their memory takes them now. -/
def flushSpills (s : State) : State := s.spills.foldl flushSpill { s with spills := [] }

/-- Registers that the scratch part of a core holds beyond its room go to the HBM part, before the scratch is given to an
allotment (R42). DESIGN CHOICE: all of them go as soon as the room falls short, and none before (log entry 155). -/
def spillOut (s : State) (core : Nat) : State :=
  if heldSpill s core ≤ 4096 * freePages s core then s
  else
    let out : Assoc RegInfo → Assoc RegInfo :=
      fun m => m.map fun p => (p.1, if p.2.loc = .scratch then { p.2 with loc := .hbm } else p.2)
    (coreTeams s core).foldl (fun s p => (sliceNums p.2).foldl (fun s j =>
      let sl := sliceAt s (32 * p.1 + j)
      putSlice s (32 * p.1 + j) { sl with vInfo := out sl.vInfo, arInfo := out sl.arInfo }) s) s

/-- The registers of a bank that a move has put into the scratch part of the spill area. -/
def freshSpills (before sl : Slice) (acc : Bool) : List Nat :=
  ((if acc then sl.arInfo else sl.vInfo).filter fun p =>
    p.2.loc == .scratch && (regInfo acc before p.1).loc != .scratch).map (·.1)

/-- The register of a slice that a move has put into the scratch part last, by the order of R41. -/
def lastSpill (before sl : Slice) : Option (Bool × Nat) :=
  match leastBy (fun x y => removedFirst true sl y x) (freshSpills before sl true) with
  | some r => some (true, r)
  | none => (leastBy (fun x y => removedFirst false sl y x) (freshSpills before sl false)).map fun r => (false, r)

/-- Slices that were removed from in one move share the room of the scratch part: what does not fit, of the last of them
first, has gone to the HBM part (R42). -/
def fitScratch (before : State) (core : Nat) : Nat → State → State
  | 0, s => s
  | n + 1, s =>
    if heldSpill s core ≤ 4096 * freePages s core then s
    else
      let ks := (coreTeams s core).flatMap fun p => (sliceNums p.2).map (32 * p.1 + ·)
      match ks.reverse.findSome? fun k => (lastSpill (sliceAt before k) (sliceAt s k)).map fun r => (k, r) with
      | none => s
      | some (k, acc, r) =>
        let sl := sliceAt s k
        fitScratch before core n (putSlice s k (putInfo acc sl r { regInfo acc sl r with loc := .hbm }))

/-- Whether a team's page overlaps scratch that another team of the core holds in place. -/
def pageTaken (s : State) (t : Nat) (team : Team) (page : Nat) : Bool :=
  let lo := team.base + 4096 * page
  (coreTeams s (t / 16)).any fun p => p.1 != t && (List.range (p.2.size / 4096)).any fun i =>
    !p.2.moved.contains i && p.2.base + 4096 * i == lo

/-- Bring one page of a team back (R106). -/
def returnPage (s : State) (t page : Nat) : State :=
  match teamAt s t with
  | none => s
  | some team =>
    if team.moved.contains page && !pageTaken s t team page && team.phase != .saved
        && homeReady s team (pageHome team page) 4096 then
      let x := pagesIn s (t / 16) team [page]
      spillOut (putTeam x.1 t (some { x.2 with moved := team.moved.erase page })) (t / 16)
    else s

/-- SCRATCH_PAGE_RETURN (R106), once the memory of the save area may be used (R370, R401). -/
def execScratchPageReturn (t page : Nat) (s : State) : Host.Outcome State Fault Refusal := .next (returnPage s t page)

/-! Register swap. -/

/-- Whether a stream waits on memory, at a barrier, at a MERGE or in SLEEPUNTIL (R48): a stall that is neither for a
refill nor on a queue waits for accesses, by their answers or by a counter of them (log entry 131). -/
def swapWait (sl : Slice) (acc : Bool) : Bool :=
  let st := streamOf acc sl
  !st.exited && (st.wait != .none || (st.stall && st.want.isEmpty && !st.qstall)
    || (acc && sl.park.any fun p => !p.refused))

/-- Whether a slice is stalled so that it may be swapped out (R48): no stream goes on, and the cause is such a wait. -/
def swapStalled (sl : Slice) : Bool :=
  let stuck : Bool → Bool := fun acc =>
    let st := streamOf acc sl
    st.exited || swapWait sl acc || (st.stall && st.qstall)
  stuck false && stuck true && (swapWait sl false || swapWait sl true)

/-- Slices of a core that are swapped out. -/
def swappedOn (s : State) (core : Nat) : Nat :=
  ((coreTeams s core).map fun p => p.2.s - heldSlices s p.1 p.2).sum

/-- Whether a slice may be swapped out (R48, R346): stalled for more than 4096 cycles, in a team without held slices. -/
def swapCandidate (s : State) (t : Nat) (team : Team) (j : Nat) : Bool :=
  let sl := sliceAt s (32 * t + j)
  !sl.swapped && swapStalled sl && decide (4096 < s.clock.toNat - sl.since) && heldMask s t team == 0

/-- Whether a slice of a core has been stalled longer than since a value of CLOCK and may be swapped out (R346). -/
def stalledLonger (s : State) (core since : Nat) : Bool :=
  (coreTeams s core).any fun p => (sliceNums p.2).any fun j =>
    swapCandidate s p.1 p.2 j && decide ((sliceAt s (32 * p.1 + j)).since < since)

/-- REGISTER_SWAP_OUT (R48, R346): the slice of a core that has been stalled longest; its registers are written to the
spill area (R83). -/
def execRegisterSwapOut (k : Nat) (s : State) : Host.Outcome State Fault Refusal :=
  let sl := sliceAt s k
  .next (match teamAt s (k / 32) with
    | none => s
    | some team =>
      if swapCandidate s (k / 32) team (k % 32) && !stalledLonger s (k / 512) sl.since
          && decide (swappedOn s (k / 512) < 64) && decide (k < trapBase) then
        spillAt (putSlice s k { sl with swapped := true }) (k / 512) team (registerHome team (k % 32) false 0)
          (16 * team.v + 32 * team.a)
      else s)

/-- Slices that are resident in the register file of a core (R8). -/
def residentSlices (s : State) (core : Nat) : Nat := ((coreTeams s core).map fun p => heldSlices s p.1 p.2).sum

/-- REGISTER_SWAP_IN (R48): once the cause of the stall is over, and the core has room for the slice (R8). -/
def execRegisterSwapIn (k : Nat) (s : State) : Host.Outcome State Fault Refusal :=
  let sl := sliceAt s k
  .next (match teamAt s (k / 32) with
    | none => s
    | some team =>
      if sl.swapped && !swapStalled sl && decide (entriesAt team 1 team.level ≤ freeEntries s (k / 512))
          && decide (residentSlices s (k / 512) < Config.sliceSlots)
          && homeReady s team (registerHome team (k % 32) false 0) (16 * team.v + 32 * team.a) then
        putSlice s k { sl with swapped := false, since := s.clock.toNat }
      else s)

/-! What waits for pages of save areas. -/

/-- A page of a save area that an access of the device itself misses: for whom, and of which launch. -/
structure HomeWant where
  vdev : Nat
  page : Nat
  write : Bool
  core : Nat
  die : Nat
  launch : Nat
deriving DecidableEq, Repr

/-- The page that n bytes of a team's save area miss, if any. -/
def wantOf (s : State) (core : Nat) (team : Team) (write : Bool) (off n : Nat) : List HomeWant :=
  ((missOf s write (vdevOf team.ctx) (headerVa s team + off) n).map fun page =>
    ⟨vdevOf team.ctx, page, write, core, dieOf core, team.launch⟩).toList

/-- Whether a team's moved pages are to come back: an access in flight or a stalled stream may need one (R106). -/
def pagesWanted (s : State) (t : Nat) (team : Team) : Bool :=
  !s.flights.isEmpty || (sliceNums team).any fun j => (sliceAt s (32 * t + j)).a.stall

/-- What a resident team waits for in its save area: its swapped slices whose stalls are over, the registers that stalled
instructions need, and its moved pages (R42, R48, R106). -/
def teamWants (s : State) (t : Nat) (team : Team) : List HomeWant :=
  let core := t / 16
  let regs : Nat → Bool → List Nat → List HomeWant := fun j acc rs =>
    (rs.filter fun r => (regInfo acc (sliceAt s (32 * t + j)) r).loc == .hbm).flatMap fun r =>
      wantOf s core team false (registerHome team j acc r) (spillBytes acc)
  ((sliceNums team).flatMap fun j =>
    let sl := sliceAt s (32 * t + j)
    (if sl.swapped && !swapStalled sl then wantOf s core team false (registerHome team j false 0) (16 * team.v + 32 * team.a)
      else []) ++ regs j false sl.c.want ++ regs j true sl.a.want)
    ++ if pagesWanted s t team then
        (team.moved.filter fun i => !pageTaken s t team i).flatMap fun i => wantOf s core team false (pageHome team i) 4096
      else []

/-- What the device's own accesses to save areas wait for: writes to the spill areas, what resident teams need back, and a saved
team's header that lacks counters. -/
def homeWants (s : State) : List HomeWant :=
  (s.spills.flatMap fun x => ((missOf s true x.vdev x.va x.bytes).map fun page =>
    ⟨x.vdev, page, true, x.core, dieOf x.core, x.launch⟩).toList)
  ++ s.teams.flatMap fun p => match p.2 with
    | none => []
    | some team =>
      if team.phase == .saved then (if team.headerDue then wantOf s team.home team true 0 1 else [])
      else teamWants s p.1 team

/-- Whether the device's own writes to save areas may wait for a page: those to the spill areas, and the saves of stopped teams. -/
def homeWrites (s : State) (vdev page : Nat) : Bool :=
  (homeWants s).any (fun w => w.vdev == vdev && w.page == page && w.write)
    || s.teams.any fun p => p.2.any fun team => team.phase == .stopped && vdevOf team.ctx == vdev
      && decide (headerVa s team / 2 ^ 16 ≤ page)

/-- Walk for the pages of save areas that are waited for (R112, R359). -/
def seekHomes (s : State) : State := (homeWants s).foldl (fun s w => seekPage s w.vdev w.page w.write w.core w.die) s

/-! The fold. -/

/-- A request for a fold (R343). -/
structure FoldReq where
  smask : BitVec 8
  gran : Nat
  pages : Nat
  ben : Option Nat
deriving DecidableEq, Repr

/-- The highest bit of a set of physical slices. -/
def highBit (x : BitVec 8) : BitVec 8 :=
  match ([7, 6, 5, 4, 3, 2, 1, 0] : List Nat).find? fun i => x.getLsbD i with
  | some i => BitVec.ofNat 8 (2 ^ i)
  | none => 0

/-- Withdraw physical slices from one context place (R344): the new PSET. -/
def withdraw (x m : BitVec 8) : BitVec 8 := if x &&& ~~~m = 0 then highBit x else x &&& ~~~m

/-- The context places of a fold after its first loop: PSETs withdrawn, and given to the beneficiary (R344, R345). -/
def foldPlaces (places : Assoc CtxPlace) (q : FoldReq) : Assoc CtxPlace × BitVec 8 :=
  let others := places.filter fun p => p.2.ctx.isSome && some p.1 != q.ben
  let kept := others.foldl (fun m p => if p.2.pset &&& ~~~q.smask = 0 then m ||| highBit p.2.pset else m) 0
  let taken := others.flatMap fun p => (List.range 8).filterMap fun i =>
    if p.2.pset.getLsbD i && !(withdraw p.2.pset q.smask).getLsbD i then some (i, p.1, p.2.ctx.getD 0) else none
  let m := others.foldl (fun m p => aput CtxPlace.zero m p.1 { p.2 with pset := withdraw p.2.pset q.smask }) places
  let freed := q.smask &&& ~~~kept
  (match q.ben with
   | some b =>
     let p := aget CtxPlace.zero m b
     aput CtxPlace.zero m b { p with pset := p.pset ||| freed, got := p.got ++ taken }
   | none => m, freed)

/-- Whether a team may be a victim of a fold for a context (R344). -/
def isVictim (s : State) (t : Nat) (team : Team) (ben : Option Nat) (below : Nat) : Bool :=
  some team.ctx != ben && heldMask s t team == 0 && team.phase != .saved
    && decide (fld (ctxRecord s (t / 16) team.ctx) 232 8 < below)

/-- Victim order (R344): the lowest PRIO first, then the team placed latest, then the higher team place. -/
def victimBefore (s : State) (x y : Nat × Team) : Bool :=
  let px := fld (ctxRecord s (x.1 / 16) x.2.ctx) 232 8
  let py := fld (ctxRecord s (y.1 / 16) y.2.ctx) 232 8
  decide (px < py) || (px == py && (decide (y.2.order < x.2.order) || (x.2.order == y.2.order && decide (y.1 < x.1))))

/-- Sort by a strict order, with the list's length as fuel. -/
def sortBy {α : Type} [DecidableEq α] (lt : α → α → Bool) : Nat → List α → List α
  | 0, _ => []
  | n + 1, xs =>
    match leastBy lt xs with
    | none => []
    | some x => x :: sortBy lt n (xs.erase x)

/-- The victims of a fold, in order: their keys. -/
def victims (s : State) (core : Nat) (ben : Option Nat) (below : Nat) : List Nat :=
  let vs := (coreTeams s core).filter fun p => isVictim s p.1 p.2 ben below
  (sortBy (victimBefore s) vs.length vs).map (·.1)

/-- The highest level whose slice count is at most n, not above the present one (R344). -/
def levelFor (sn n level : Nat) : Nat :=
  ((List.range 4).find? fun l => decide (level ≤ l) && decide (levelSlices sn l ≤ n)).getD 3

/-- Lower a victim to the slices of its context's PSET (R344, second loop). -/
def lowerToSlices (toHbm : Bool) (s : State) (t : Nat) : State :=
  match teamAt s t with
  | none => s
  | some team =>
    let l := levelFor team.s (sliceCount (psetOf s t team)) team.level
    if l = team.level then s else setLevel toHbm s t l

/-- Lower a victim level by level until enough register entries are free (R344, third loop). -/
def lowerForEntries (toHbm : Bool) (need t : Nat) : Nat → State → State
  | 0, s => s
  | f + 1, s =>
    match teamAt s t with
    | none => s
    | some team =>
      if freeEntries s (t / 16) < need && team.level < 3 then
        lowerForEntries toHbm need t f (setLevel toHbm s t (team.level + 1))
      else s

/-- Move pages of a victim, the highest first, until enough are free (R344, fourth loop). -/
def freePagesOf (need t : Nat) : List Nat → State → State
  | [], s => s
  | p :: ps, s =>
    match teamAt s t with
    | none => s
    | some team =>
      if need ≤ freePages s (t / 16) then s
      else freePagesOf need t ps (if pageMovable s t team p then movePage s t p else s)

/-- The pages of a team, the highest first. -/
def pagesOf (s : State) (t : Nat) : List Nat :=
  match teamAt s t with
  | some team => (List.range (team.size / 4096)).reverse
  | none => []

/-- A fold (R344). `below` bounds the PRIO of its victims (R345). It gives the slices withdrawn. -/
def foldCore (s : State) (core : Nat) (q : FoldReq) (below : Nat) : State × BitVec 8 :=
  let c := coreAt s core
  let r := foldPlaces c.places q
  let ben := q.ben.bind fun b => (aget CtxPlace.zero c.places b).ctx
  let s := putCore s core { c with places := r.1 }
  let vs := victims s core ben below
  let toHbm := decide (0 < q.pages)
  let s := vs.foldl (lowerToSlices toHbm) s
  let s := vs.foldl (fun s t => lowerForEntries toHbm (32 * q.gran) t 4 s) s
  let s := vs.foldl (fun s t => freePagesOf q.pages t (pagesOf s t) s) s
  (s, r.2)

/-- The fields of a FOLDCTL request (R343). -/
def foldReqOf (x : Nat) : FoldReq where
  smask := BitVec.ofNat 8 (bits x 0 8)
  gran := bits x 8 12
  pages := bits x 20 8
  ben := if bitAt x 30 then some (bits x 28 2) else none

/-- Whether a request is illegal on a core (R343). -/
def foldReqBad (s : State) (core x : Nat) : Bool :=
  bits x 31 33 != 0 || decide (2048 < bits x 8 12) || decide (128 < bits x 20 8)
    || (bitAt x 30 && (aget CtxPlace.zero (coreAt s core).places (bits x 28 2)).ctx.isNone)

/-- The result of a fold (R343): withdrawn slices, free granules and pages, and whether all of it is met. -/
def foldResult (s : State) (core : Nat) (q : FoldReq) (freed : BitVec 8) : Nat :=
  let g := min 4095 (freeEntries s core / 32)
  let p := freePages s core
  let full := freed == q.smask && decide (32 * q.gran ≤ freeEntries s core) && decide (q.pages ≤ p)
  freed.toNat + g * 2 ^ 8 + p * 2 ^ 20 + full.toNat * 2 ^ 31

/-- The highest level that freed resources allow a team, not below its present one (R47). -/
def expandTo (s : State) (t : Nat) (team : Team) : Nat :=
  let pset := sliceCount (psetOf s t team)
  let n := heldSlices s t team
  let free := freeEntries s (t / 16) + entriesAt team n team.level
  ((List.range 4).find? fun l => decide (l < team.level) && decide (levelSlices team.s l ≤ pset)
    && decide (entriesAt team n l ≤ free)).getD team.level

/-- Expansion order (R345): the highest PRIO first, then the team placed earliest. -/
def expandBefore (s : State) (x y : Nat × Team) : Bool :=
  let px := fld (ctxRecord s (x.1 / 16) x.2.ctx) 232 8
  let py := fld (ctxRecord s (y.1 / 16) y.2.ctx) 232 8
  decide (py < px) || (px == py && decide (x.2.order < y.2.order))

/-- Expand the folded teams of a core (R47, R345). -/
def expandCore (s : State) (core : Nat) : State :=
  let vs := (coreTeams s core).filter fun p => decide (0 < p.2.level)
  (sortBy (expandBefore s) vs.length vs).foldl (fun s p =>
    match teamAt s p.1 with
    | some team => if expandTo s p.1 team < team.level then setLevel false s p.1 (expandTo s p.1 team) else s
    | none => s) s

/-- RESIDENCY_EXPANSION (R47). -/
def execResidencyExpansion (core : Nat) (s : State) : Host.Outcome State Fault Refusal := .next (expandCore s core)

end Sys2Proof.Machine
end

