-- ==== Sys2Proof/Machine/Header.lean ====
section
/-! DEFINITION. Save areas and team headers (R340, R349 to R352): the size of a team's save area, where its header
lies, the header's bytes with their CRC, and the counters that completions lower while a team is saved (R350). -/

namespace Sys2Proof.Machine

/-- One bit of CRC-32 with the IEEE 802.3 polynomial, least significant bit first. -/
def crcBit (c : Nat) : Nat := if c % 2 = 1 then (c / 2) ^^^ 0xEDB88320 else c / 2

/-- One byte of CRC-32. -/
def crcByte (c : Nat) (b : Byte) : Nat :=
  crcBit (crcBit (crcBit (crcBit (crcBit (crcBit (crcBit (crcBit (c ^^^ b.toNat))))))))

/-- CRC-32 of bytes (R351, R404). -/
def crc32 (bs : List Byte) : Nat := (bs.foldl crcByte 0xFFFFFFFF) ^^^ 0xFFFFFFFF

/-- Bytes of a team's save area (R340). -/
def saveBytes (sn v a scratch : Nat) : Nat :=
  (4096 + 16 * sn * (v + 2 * a) + scratch + 2048 * sn + 4095) / 4096 * 4096

/-- One slice block of a header (R352). -/
def sliceBlock (sl : Slice) : Nat :=
  sl.c.pc.toNat % 2 ^ 32 + sl.a.pc.toNat % 2 ^ 32 * 2 ^ 32 + (hintBits sl.c.hint).toNat * 2 ^ 64
    + (hintBits sl.a.hint).toNat * 2 ^ 128 + sl.sdiv.toNat * 2 ^ 192
    + (match sl.c.wait with
       | .merge i => i.toNat * 2 ^ 224 + 2 ^ 245
       | _ => 0)
    + sl.unit % 32 * 2 ^ 240 + sl.held.toNat * 2 ^ 246 + sl.pend.toNat * 2 ^ 247 + cnts sl * 2 ^ 248
    + sl.ldq.length % 64 * 2 ^ 280 + sl.sdq.length % 32 * 2 ^ 286 + sl.cq.length % 16 * 2 ^ 291

/-- The slot at which a stream waits at BAR or QBAR. -/
def headerSlot : Wait → Option Nat
  | .bar n => some n
  | .qbar n => some n
  | _ => none

/-- BARW of a header (R351). -/
def headerBarw (s : State) (t : Nat) (team : Team) : Nat :=
  ((sliceNums team).map fun j =>
    let sl := sliceAt s (32 * t + j)
    let one : Option Nat → Nat → Nat := fun w st => match w with
      | some n => 2 ^ (1024 * st + 32 * (n % 32) + j)
      | none => 0
    one (headerSlot sl.c.wait) 0 + one (headerSlot sl.a.wait) 1).sum

/-- A sum over the slices of a team of one bit each. -/
def sliceBits (s : State) (t : Nat) (team : Team) (lo : Nat) (f : Slice → Bool) : Nat :=
  ((sliceNums team).map fun j => if f (sliceAt s (32 * t + j)) then 2 ^ (lo + j) else 0).sum

/-- Bytes 0 to 4091 of a team header (R351, R352), with the TCAUSE of an open invocation. -/
def headerBody (s : State) (t : Nat) (team : Team) (forced : Bool) (invoc : Option Word64) : List Byte :=
  valBytes 4092 (5 + team.s * 2 ^ 16 + team.level * 2 ^ 22 + team.epoch.toNat * 2 ^ 24 + forced.toNat * 2 ^ 32
    + invoc.isSome.toNat * 2 ^ 33 + (team.wd % 2 ^ 41) * 2 ^ 64 + (invoc.getD 0).toNat * 2 ^ 128
    + team.pin.toNat * 2 ^ 192 + (team.qsize + team.qrank * 2 ^ 8) * 2 ^ 224
    + (team.tx.toNat + team.ty.toNat * 2 ^ 32 + team.tz.toNat * 2 ^ 64) * 2 ^ 256
    + team.home * 2 ^ 352 + team.base * 2 ^ 368 + headerBarw s t team * 2 ^ 512
    + (heldMask s t team).toNat * 2 ^ 2560
    + (sliceBits s t team 0 (fun sl => sl.c.exited) + sliceBits s t team 32 fun sl => sl.a.exited) * 2 ^ 2592
    + (sliceBits s t team 0 (fun sl => sl.anvErr.isSome) + sliceBits s t team 32 fun sl => sl.scbErr.isSome) * 2 ^ 2656
    + ((sliceNums team).map fun j => sliceBlock (sliceAt s (32 * t + j)) * 2 ^ (4096 + 896 * j)).sum)

/-- A whole header: its body and the CRC over it. -/
def headerBytes (s : State) (t : Nat) (team : Team) (forced : Bool) (invoc : Option Word64) : List Byte :=
  let b := headerBody s t team forced invoc
  b ++ valBytes 4 (crc32 b)

/-- Where a team's header lies: in this package's memory, on a plain page. -/
def headerLoc (s : State) (team : Team) : Option Target :=
  let a := headerVa s team
  if Config.sramBase ≤ a then none
  else match tlbFind s (vdevOf team.ctx) a with
  | none => none
  | some l =>
    if bitAt l.pte.toNat 3 || bits l.pte.toNat 5 2 == 2 || !targetReady s (leafTarget l a) then
      none
    else some (leafTarget l a)

/-- The CRC of the header at a target. -/
def headerCrc (s : State) (t : Target) : Nat := crc32 (readList (seen s t 4092) t.loc 4092)

/-- Whether the header at a target has a CRC that matches. -/
def headerGood (s : State) (t : Target) : Bool := headerCrc s t == readBytes (seen s t 4096) (t.loc + 4092) 4

/-- Show the counters of a slice in the header at a target, whose CRC still matches if it did (R350). -/
def writeCounters (k : Nat) (t : Target) (s : State) : State :=
  let good := headerGood s t
  let s := store s t.key (t.loc + 543 + 112 * (k % 32)) (valBytes 4 (cnts (sliceAt s k)))
  if good then store s t.key (t.loc + 4092) (valBytes 4 (headerCrc s t)) else s

/-- Where a team's header may be written (R359). -/
def headerPlace (s : State) (team : Team) : Option Target :=
  if (missOf s true (vdevOf team.ctx) (headerVa s team) 1).isSome then none else headerLoc s team

/-- Counters of a saved slice have changed: its header shows them, once its memory may be used (R350, R370, R401). -/
def refreshHeader (s : State) (k : Nat) : State :=
  match teamAt s (k / 32) with
  | none => s
  | some team =>
    if team.phase = .saved then
      match headerPlace s team with
      | none => putTeam s (k / 32) (some { team with headerDue := true })
      | some t => writeCounters k t s
    else s

/-- A saved team's header takes the counters that it still lacks, if its memory may be used by now. -/
def refreshDue (s : State) (t : Nat) : State :=
  match teamAt s t with
  | none => s
  | some team =>
    if team.headerDue && team.phase == .saved then
      match headerPlace s team with
      | some p =>
        (sliceNums team).foldl (fun s j => writeCounters (32 * t + j) p s) (putTeam s t (some { team with headerDue := false }))
      | none => s
    else s

end Sys2Proof.Machine
end

