-- ==== Sys2Proof/Machine/Privileged.lean ====
section
/-! DEFINITION. The privileged instructions of the trap context: ERET, RDSL and WRSL with their selectors (R327 to
R331), and FOLDCTL (R343). -/

namespace Sys2Proof.Machine

/-- A selector of R328. -/
structure Selector where
  slice : Nat
  lane : Nat
  acc : Bool
  cls : Nat
  index : Nat
deriving DecidableEq, Repr

/-- The fields of a selector. -/
def selectorOf (x : Nat) : Selector := ⟨bits x 0 5, bits x 5 2, bitAt x 7, bits x 8 4, bits x 12 8⟩

/-- Whether a selector is faulting for a team (R331). -/
def selectorBad (team : Team) (x : Nat) : Bool :=
  let q := selectorOf x
  bits x 20 44 != 0 || decide (team.s ≤ q.slice) ||
    (match q.cls with
    | 0 => q.acc || decide (team.v ≤ q.index)
    | 1 => !q.acc || decide (team.a ≤ q.index)
    | 2 => q.acc || decide (32 ≤ q.index)
    | 3 => q.index != 0
    | 4 => q.acc || decide (4 ≤ q.index)
    | 5 => match srUse q.acc false q.index with
      | .rw => false
      | .ro => false
      | _ => true
    | 6 => if q.acc then decide (22 ≤ q.index) else decide (23 ≤ q.index)
    | 7 => bitAt q.index 5 || bits q.index 6 2 == 3
    | _ => true)

/-- The packed entries of a mask stack (R328). -/
def maskEntries (m : MaskStack) : Nat :=
  ((List.range 8).map fun i => (aget 0 m.ents i).toNat * 2 ^ (4 * i)).sum

/-- A lane of an LDQ entry with its poison flag (R328); bits that nothing has filled are a free value (log entry 21). -/
def ldqItem (e : LdEntry) (l : Nat) : Nat :=
  match e.st with
  | .filled q => (qget q l).toNat
  | .reserved => (Config.unfilledEntry e.seq l).toNat
  | .poisoned _ => (Config.unfilledEntry e.seq l).toNat + 2 ^ 32

/-- The item that a selector names, zero-extended (R328). -/
def readItem (s : State) (k : Nat) (q : Selector) : Nat :=
  let sl := sliceAt s k
  let st := streamOf q.acc sl
  match q.cls with
  | 0 => regVal false sl q.index q.lane
  | 1 => regVal true sl q.index q.lane
  | 2 => (aget 0 sl.s q.index).toNat
  | 3 => (qget st.preds q.lane).toNat / 2 * 2 + 1
  | 4 => (qget (xReg sl q.index) q.lane).toNat
  | 5 => match envOf s k q.acc with
    | some e => readSr s e sl q.index q.lane
    | none => 0
  | 6 => match q.index with
    | 0 => st.pc.toNat
    | 1 => st.mask.toNat
    | 2 => st.mstk.depth
    | 3 => maskEntries st.mstk
    | 4 => (hintBits st.hint).toNat
    | 5 => st.rstk.depth
    | 22 => sl.sdiv.toNat
    | i => (aget 0 st.rstk.ents (i - 6)).toNat
  | _ =>
    let pos := bits q.index 0 5
    match bits q.index 6 2 with
    | 0 => match sl.ldq[pos]? with
      | some e => ldqItem e q.lane
      | none => 0
    | 1 => match sl.sdq[pos]? with
      | some e => (qget e.val q.lane).toNat
      | none => 0
    | _ => match sl.cq[pos]? with
      | some e => (qget e.val q.lane).toNat
      | none => 0

/-- The register of a slice that a selector names holds an uncorrectable error (R334). -/
def itemBad (sl : Slice) (q : Selector) : Bool :=
  (q.cls == 0 && (regInfo false sl q.index).bad.getLsbD q.lane) || (q.cls == 1 && (regInfo true sl q.index).bad.getLsbD q.lane)

/-- The fault that WRSL of a value raises under the rule of the item (R43, R87, R169, R329). -/
def itemFault (team : Team) (q : Selector) (x : Nat) : Option FaultInfo :=
  let bad : Bool → Nat → Option FaultInfo := fun b c => if b then some (plainFault c) else none
  match q.cls with
  | 5 =>
    if q.index = 0x10 then bad (decide (3 < bits x 0 3)) codeILLEGAL_OPERAND
    else if q.index = 0x24 then bad (pinBad team (x % 2 ^ 32)) codePIN_LIMIT
    else none
  | 6 =>
    if q.index = 2 then bad (decide (8 < x)) codeILLEGAL_OPERAND
    else if q.index = 5 then bad (decide (16 < x)) codeILLEGAL_OPERAND
    else if q.index = 4 then bad (decide (5 < bits x 25 3) || decide (16 < bits x 36 5)) codeILLEGAL_OPERAND
    else none
  | _ => none

/-- Write one lane of a quad. -/
def qset {α : Type} (q : Quad α) (l : Nat) (x : α) : Quad α := qof fun j => if j = l then x else qget q j

/-- Write a special register of a slice from the handler (R329): the ignored ones are CLOCK, CNTS, TEAMID, GRIDDIM,
QUIRESZ and ERRREC. The others are written as the slice holds them (log entry 22). FPMODE is written for the streams as they
stand, with no write number of its own (log entry 163). -/
def writeSrItem (q : Selector) (x : Nat) (sl : Slice) : Slice :=
  let w := BitVec.ofNat 32 x
  match q.index with
  | 0x01 => { sl with high := w }
  | 0x10 => if q.acc then { sl with fpmodeA := w &&& 0x1F } else { sl with fpmode := w &&& 0x1F }
  | 0x11 => { sl with fpflags := qset sl.fpflags q.lane (w &&& 0x1F) }
  | 0x12 => { sl with satflag := qset sl.satflag q.lane (w &&& 1) }
  | 0x40 => setStream q.acc sl { streamOf q.acc sl with region := BitVec.ofNat 64 x }
  | n => writeSr n (BitVec.ofNat 4 (2 ^ q.lane)) (qfill (x % 2 ^ 32)) x sl

/-- The wait of a stream whose PC the handler writes: it leaves the instruction at which it waits, and resumes at the PC
(R330), and the access of a park is made no more (R112). An arrival that is not performed yet is past its instruction (R244). -/
def leftWait : Wait → Wait
  | .arrive => .arrive
  | _ => .none

/-- Write control state of a stream from the handler (R328, R329). -/
def writeControl (q : Selector) (x : Nat) (sl : Slice) : Slice :=
  let st := streamOf q.acc sl
  match q.index with
  | 0 =>
    let sl := if q.acc then { backOut sl with park := none, parts := [] } else sl
    let st := streamOf q.acc sl
    setStream q.acc sl (unstalled { st with pc := BitVec.ofNat 64 x, wait := leftWait st.wait })
  | 1 => setStream q.acc sl { st with mask := BitVec.ofNat 4 x }
  | 2 => setStream q.acc sl { st with mstk := { st.mstk with depth := x } }
  | 3 => setStream q.acc sl { st with mstk := { st.mstk with
      ents := (List.range 8).foldl (fun m i => aput 0 m i (BitVec.ofNat 4 (bits x (4 * i) 4))) [] } }
  | 4 => setStream q.acc sl { st with hint := hintOf (BitVec.ofNat 64 x) }
  | 5 => setStream q.acc sl { st with rstk := { st.rstk with depth := x } }
  | 22 => { sl with sdiv := BitVec.ofNat 32 x }
  | i => setStream q.acc sl { st with rstk := { st.rstk with ents := aput 0 st.rstk.ents (i - 6) (BitVec.ofNat 64 x) } }

/-- Write the item that a selector names in a slice (R329). -/
def writeItem (q : Selector) (x : Nat) (sl : Slice) : Slice :=
  let st := streamOf q.acc sl
  match q.cls with
  | 0 => setReg false sl q.index q.lane x
  | 1 => setReg true sl q.index q.lane x
  | 2 => { sl with s := aput 0 sl.s q.index (BitVec.ofNat 32 x) }
  | 3 => setStream q.acc sl { st with preds := qset st.preds q.lane (BitVec.ofNat 8 (x / 2 * 2)) }
  | 4 => { sl with x := aput ⟨0, 0, 0, 0⟩ sl.x q.index (qset (xReg sl q.index) q.lane (BitVec.ofNat 32 x)) }
  | 5 => writeSrItem q x sl
  | 6 => writeControl q x sl
  | _ => sl

/-- An FX instruction of the trap context: its source registers, a destination or none, and what it does with the
values of lane 0, after its own faults: it gives its result, or none where it does not retire yet. Without its lane it retires
with no effect (log entry 23). -/
def runPrivileged (srcs : List Nat) (dst : Option Nat) (s : State)
    (bad : List Nat → Option FaultInfo) (f : Nat → List Nat → State → State × Option Nat) :
    Host.Outcome State Fault Refusal :=
  match s.issuer with
  | .trap core =>
    match envOf s (trapBase + core) true with
    | none => .fault .noIssuer
    | some e =>
      let k := e.key
      let sl := sliceAt s k
      let act := actLanes sl.a
      let o : Operands := ⟨srcs.map fun r => (.int, r), dst.map fun r => (false, r)⟩
      match (checkOperands e sl act o false).or (stallOperands e sl act o) with
      | some v => .next (commitOne s k v)
      | none =>
        if badSrc e sl act o then .next (commitOne s k (.error ⟨codeUNCORRECTABLE, 0, 0, badLanes e sl act o⟩))
        else if act = 0 then .next (putSlice s k (finishLane e sl act o none none sl))
        else
          let vals := srcs.map fun r => regVal true sl r 0
          match bad vals with
          | some ft => .next (takeFault s k true ft)
          | none =>
            match f core vals s with
            | (s1, none) => .next s1
            | (s1, some x) =>
              let sl1 := match dst with
                | some d => (writeDst e act false d (qfill x) sl).1
                | none => sl
              if (coreAt s1 core).invoc then
                .next (putSlice s1 k (finishLane e sl act o none none sl1))
              else .next s1
  | _ => issueLane s .privileged false fun _ _ => .stall [] []

/-- The bound team of a core. -/
def boundTeam (s : State) (core : Nat) : Option Team := teamAt s (teamKey core (coreAt s core).tteam)

/-- The slice count of the team that the issuing trap context serves. -/
def issuerBound (s : State) : Option Team :=
  match s.issuer with
  | .trap core => boundTeam s core
  | _ => none

/-- ERET (R330): a faulting SLC is a double fault; a slice that is not held is left as it is. -/
def execEret (r : AReg) (s : State) : Host.Outcome State Fault Refusal :=
  runPrivileged [r.toNat] none s
    (fun vs => match issuerBound s with
      | some t => if t.s ≤ vs.headD 0 then some (plainFault codeILLEGAL_OPERAND) else none
      | none => none)
    fun core vs s => (resumeSlice s core (vs.headD 0), some 0)

/-- RDSL (R328, R329). An item that holds an uncorrectable error is consumed by the read (R334). -/
def execRdsl (d r : AReg) (s : State) : Host.Outcome State Fault Refusal :=
  runPrivileged [r.toNat] (some d.toNat) s
    (fun vs => match issuerBound s, s.issuer with
      | some t, .trap core =>
        let q := selectorOf (vs.headD 0)
        if selectorBad t (vs.headD 0) then some (plainFault codeILLEGAL_OPERAND)
        else if itemBad (sliceAt s (32 * teamKey core (coreAt s core).tteam + q.slice)) q then
          some (plainFault codeUNCORRECTABLE)
        else none
      | _, _ => none)
    fun core vs s =>
      let q := selectorOf (vs.headD 0)
      (s, some (readItem s (32 * teamKey core (coreAt s core).tteam + q.slice) q))

/-- Whether the slice that a selector names is held. -/
def selectedHeld (s : State) (core : Nat) (x : Nat) : Bool :=
  (sliceAt s (32 * teamKey core (coreAt s core).tteam + (selectorOf x).slice)).held

/-- Write an item of a held slice, PINMASK in its team (R329). -/
def writeHeld (s : State) (core sel x : Nat) : State :=
  let q := selectorOf sel
  let t := teamKey core (coreAt s core).tteam
  let k := 32 * t + q.slice
  let s := if q.cls = 6 && q.index == 0 && q.acc then forgetWait s k else s
  if q.cls = 5 && q.index == 0x24 then putPin s t (some (BitVec.ofNat 32 x))
  else putSlice s k (writeItem q x (sliceAt s k))

/-- WRSL (R328, R329): it acts on held slices alone. -/
def execWrsl (r x : AReg) (s : State) : Host.Outcome State Fault Refusal :=
  runPrivileged [r.toNat, x.toNat] none s
    (fun vs => match issuerBound s, s.issuer with
      | some t, .trap core =>
        let sel := vs.headD 0
        if selectorBad t sel then some (plainFault codeILLEGAL_OPERAND)
        else if selectedHeld s core sel then itemFault t (selectorOf sel) ((vs.drop 1).headD 0) else none
      | _, _ => none)
    fun core vs s =>
      if selectedHeld s core (vs.headD 0) then (writeHeld s core (vs.headD 0) ((vs.drop 1).headD 0), some 0) else (s, some 0)

/-- Whether a level change has not reached a slice of a core yet (R37). -/
def levelsDue (s : State) (core : Nat) : Bool :=
  (coreTeams s core).any fun p => (sliceNums p.2).any fun j => (sliceAt s (32 * p.1 + j)).levelDue.isSome

/-- Whether a fold has left a team of a core whose save area does not take what it removes now (R343). -/
def foldHeld (before s : State) (core : Nat) : Bool :=
  (coreTeams s core).any fun p => (teamAt before p.1).any (fun x => x.level != p.2.level || x.moved != p.2.moved)
    && !homeOpen s p.2 0 (saveBytes p.2.s p.2.v p.2.a p.2.size)

/-- FOLDCTL (R343, R344): it retires once every level change has taken effect and what the fold removes is in its save
area, and waits until then. -/
def execFoldctl (d r : AReg) (s : State) : Host.Outcome State Fault Refusal :=
  runPrivileged [r.toNat] (some d.toNat) s
    (fun vs => match s.issuer with
      | .trap core => if foldReqBad s core (vs.headD 0) then some (plainFault codeILLEGAL_OPERAND) else none
      | _ => none)
    fun core vs s =>
      let q := foldReqOf (vs.headD 0)
      let x := foldCore s core q 256
      let k := trapBase + core
      if levelsDue x.1 core || foldHeld s x.1 core then
        (putSlice x.1 k { sliceAt x.1 k with a := { (sliceAt x.1 k).a with wait := .fold d.toNat (vs.headD 0) x.2 } }, none)
      else (x.1, some (foldResult x.1 core q x.2))

/-- A FOLDCTL that waits retires once its changes have taken effect (R343). -/
def finishFold (s : State) (core : Nat) : State :=
  let k := trapBase + core
  let sl := sliceAt s k
  match sl.a.wait, envOf s k true with
  | .fold d x freed, some e =>
    if levelsDue s core || s.spills.any (fun w => w.core = core) then s
    else
      let act := actLanes sl.a
      let o : Operands := ⟨[], some (false, d)⟩
      let sl1 := (writeDst e act false d (qfill (foldResult s core (foldReqOf x) freed)) sl).1
      let sl2 := finishLane e sl act o none none sl1
      putSlice s k { sl2 with a := { sl2.a with wait := .none } }
  | _, _ => s

end Sys2Proof.Machine
end

