-- ==== Sys2Proof/Machine/Fabric.lean ====
section
/-! DEFINITION. The fabric (R383 to R392): fabric addresses, messages and their flits, sent and received streams,
routes and their failures, the event ring, the remote operations of R225 and R297, and posted writes. -/

namespace Sys2Proof.Machine

/-! Read-modify-write operations. -/

/-- The sum of two patterns of a format under R97. -/
def addPattern (f : Fmt) (x y : Nat) : Nat :=
  (roundFmt f .rn false false (xSum .rn [decodeF f false x, decodeF f false y]).1).1

/-- The new value of an atomic (R225, R226): operation number, width in bits, old value, data, swap value. -/
def atomicNew (op w old data swap : Nat) : Nat :=
  let lt := decide (sval w old < sval w data)
  match op with
  | 0 => (old + data) % 2 ^ w
  | 1 => old &&& data
  | 2 => old ||| data
  | 3 => old ^^^ data
  | 4 => if lt then old else data
  | 5 => if lt then data else old
  | 6 => min old data
  | 7 => max old data
  | 8 => data
  | 9 => if old = data then swap else old
  | 10 => addPattern .f32 old data
  | _ => addPattern .bf16 (bits old 0 16) (bits data 0 16) + 2 ^ 16 * addPattern .bf16 (bits old 16 16) (bits data 16 16)

/-- The number of a REDUCE operation in R297's table. -/
def reduceNum : ReduceOp → Nat
  | .addf => 0 | .addbf => 1 | .addi => 2 | .maxf => 3 | .minf => 4

/-- The new value of a REDUCE unit (R297). -/
def reduceNew (op old src : Nat) : Nat :=
  match op with
  | 0 => addPattern .f32 old src
  | 1 => addPattern .bf16 (bits old 0 16) (bits src 0 16) + 2 ^ 16 * addPattern .bf16 (bits old 16 16) (bits src 16 16)
  | 2 => (old + src) % 2 ^ 32
  | 3 => fminmax .f32 false true false old src
  | _ => fminmax .f32 false false false old src

/-- Apply a REDUCE to n units at a location (R297). -/
def reduceBytes (op : Nat) (m : Memory) (loc : Nat) : List Byte → Nat → List Byte
  | _, 0 => []
  | src, n + 1 =>
    valBytes 4 (reduceNew op (readBytes m loc 4) (bytesVal (src.take 4))) ++ reduceBytes op m (loc + 4) (src.drop 4) n

/-! Fabric addresses and entries. -/

/-- The node of a fabric address (R383). -/
def faNode (a : Nat) : Nat := bits a 48 12

/-- The location of a fabric address (R383). -/
def faLoc (a : Nat) : Nat := bits a 0 46

/-- Whether a fabric address keeps its reserved bits 0 (R383). -/
def faValid (a : Nat) : Bool := bits a 60 4 == 0 && bits a 46 2 == 0

/-- This package's node number (R384). -/
def nodeId (s : State) : Nat := fld s.fabric.record 0 12

/-- The number that stands for no entry but for going out through a port. -/
def portEntry (port : Nat) : Nat := 2 ^ 16 + port

/-- A destination-table entry. The numbers of `portEntry` give a present route 0 through the port. -/
def destAt (s : State) (i : Nat) : DestEntry :=
  if 2 ^ 16 ≤ i then ⟨BitVec.ofNat 256 ((1 + 2 * (i - 2 ^ 16)) * 2 ^ 64), 0⟩ else aget DestEntry.zero s.dests i

/-- Write a destination-table entry. -/
def putDest (s : State) (i : Nat) (x : DestEntry) : State := { s with dests := aput DestEntry.zero s.dests i x }

/-- Whether an entry is valid and names a node. -/
def destNames (e : DestEntry) (node : Nat) : Bool := bitAt e.record.toNat 12 && fld e.record 0 12 == node

/-- The lowest valid entry of a partition that names a node (R387). -/
def findDest (s : State) (part node : Nat) : Option Nat :=
  (List.range 256).findSome? fun i => if destNames (destAt s (256 * part + i)) node then some (256 * part + i) else none

/-- Whether a port's link is up: ready since the start, and not down (R390, R400, R401). -/
def portLinked (s : State) (port : Nat) : Bool :=
  bitAt s.boot.ready.toNat (120 + port) && !bitAt s.boot.down.toNat port

/-- The port of a route of an entry. -/
def routePort (e : DestEntry) (n : Nat) : Nat := fld e.record (64 + 64 * n + 1) 5

/-- Whether a route is present, not failed and linked (R390, R391). -/
def routeUsable (s : State) (e : DestEntry) (n : Nat) : Bool :=
  bitAt e.record.toNat (64 + 64 * n) && !e.failed.getLsbD n && portLinked s (routePort e n)

/-- The first usable route of an entry, from PREF upward modulo 3 (R390). -/
def pickRoute (s : State) (e : DestEntry) : Option Nat :=
  let p := fld e.record 16 2
  [p % 3, (p + 1) % 3, (p + 2) % 3].find? fun n => routeUsable s e n

/-! Streams. -/

/-- A stream sent to a node in a class. -/
def txAt (s : State) (node tc : Nat) : TxStream := aget TxStream.zero s.fabric.tx (4 * node + tc)

/-- Write a sent stream. -/
def putTx (s : State) (node tc : Nat) (x : TxStream) : State :=
  { s with fabric := { s.fabric with tx := aput TxStream.zero s.fabric.tx (4 * node + tc) x } }

/-- A stream received from a node in a class. -/
def rxAt (s : State) (node tc : Nat) : RxStream := aget RxStream.zero s.fabric.rx (4 * node + tc)

/-- Write a received stream. -/
def putRx (s : State) (node tc : Nat) (x : RxStream) : State :=
  { s with fabric := { s.fabric with rx := aput RxStream.zero s.fabric.rx (4 * node + tc) x } }

/-- Flits in a port's retry buffer (R388). -/
def portLoad (s : State) (port : Nat) : Nat :=
  (s.fabric.tx.map fun p => (p.2.unacked.filter fun f => f.port = port).length).sum

/-- The flits of the first message of a queue: those that are left of it. -/
def firstMessage (q : List (Flit × Nat)) : Nat :=
  match q with
  | [] => 0
  | f :: _ => f.1.nflit.toNat - f.1.fidx.toNat + 1

/-- The SEQ after the last flit sent, when flits of the queue are sent: a replay sends nothing new. -/
def lastSent (x : TxStream) (fs : List (Flit × Nat)) : BitVec 16 :=
  fs.foldl (fun q f => if (x.next - (f.1.seq + 1)).toNat < (x.next - q).toNat then f.1.seq + 1 else q) x.sent

/-- A stream that waits for a usable route, from now on if it did not wait before (R391). -/
def awaitRoute (s : State) (x : TxStream) : TxStream := { x with waiting := some (x.waiting.getD s.clock.toNat) }

/-- A flit as it is sent: its ACK field is the next SEQ expected on the reverse stream now (R385). -/
def withAck (s : State) (node tc : Nat) (f : Flit) : Flit := { f with ack := (rxAt s node tc).e }

/-- Send the messages of a stream that the window and the retry buffers admit, each whole on one port, over the first
usable route of its entry (R385, R388, R390). A message without a usable route, and those behind it, wait, and so does a stream
that has nothing to send (R391, R399). -/
def pumpMessages (s : State) (node tc : Nat) : Nat → State
  | 0 => s
  | n + 1 =>
    let x := txAt s node tc
    match x.queue with
    | [] =>
      if (pickRoute s (destAt s x.entry)).isNone then putTx s node tc (awaitRoute s x)
      else putTx s node tc { x with waiting := none }
    | f :: _ =>
      match pickRoute s (destAt s f.2) with
      | none => putTx s node tc (awaitRoute s x)
      | some r =>
        let port := routePort (destAt s f.2) r
        let m := firstMessage x.queue
        if x.unacked.length + m ≤ 4096 && portLoad s port + m ≤ 8192 then
          pumpMessages (putTx s node tc { x with
            unacked := x.unacked ++ (x.queue.take m).map fun q => ⟨withAck s node tc q.1, port, q.2, r⟩
            sent := lastSent x (x.queue.take m)
            queue := x.queue.drop m
            entry := f.2
            route := r
            lastAck := if x.unacked.isEmpty then s.clock.toNat else x.lastAck
            waiting := none }) node tc n
        else putTx s node tc { x with waiting := none }

/-- Let a stream send what it may. -/
def pump (s : State) (node tc : Nat) : State :=
  let x := txAt s node tc
  if x.failed.isSome || x = TxStream.zero then s
  else pumpMessages s node tc (x.queue.length + 1)

/-- Let every stream send what it may: room in a port's retry buffer, or a route, may be there again (R388, R390, R391). -/
def pumpAll (s : State) : State := s.fabric.tx.foldl (fun s p => pump s (p.1 / 4) (p.1 % 4)) s

/-- The header of a message, and its payload. -/
structure Msg where
  typ : Nat
  ord : Nat
  op : Nat
  width : Nat
  loc : Nat
  clear : Bool
  payload : List Byte
deriving DecidableEq, Repr

/-- Cut a payload into flits: 48 bytes each. Their ACK fields are filled as they are sent. -/
def flitsOf (m : Msg) (src dst tc total : Nat) : Nat → Nat → BitVec 16 → List Byte → List Flit
  | 0, _, _, _ => []
  | n + 1, i, q, p =>
    { typ := BitVec.ofNat 4 m.typ, tc := BitVec.ofNat 2 tc, width := BitVec.ofNat 2 m.width,
      snode := BitVec.ofNat 12 src, dnode := BitVec.ofNat 12 dst, seq := q, ack := 0,
      fidx := BitVec.ofNat 4 i, nflit := BitVec.ofNat 4 (total - 1), ord := BitVec.ofNat 2 m.ord,
      op := BitVec.ofNat 6 m.op, addr := BitVec.ofNat 46 m.loc, clear := m.clear, payload := p.take 48 }
      :: flitsOf m src dst tc total n (i + 1) (q + 1) (p.drop 48)

/-- The flits that a payload needs. -/
def flitCount (p : List Byte) : Nat := max 1 ((p.length + 47) / 48)

/-- Put a message on a stream through an entry (R386, R388). -/
def sendOn (s : State) (entry node tc : Nat) (m : Msg) : State :=
  let x := txAt s node tc
  let n := flitCount m.payload
  let fs := flitsOf m (nodeId s) node tc n n 0 x.next m.payload
  pump (putTx s node tc { x with
    queue := x.queue ++ fs.map fun f => (f, entry), next := x.next + BitVec.ofNat 16 n }) node tc

/-! The event ring (R362, R384, R392). -/

/-- Whether a posted write to a location must wait: its memory is not ready, or is retraining, or an earlier one waits for
the same memory (R370, R401). -/
def postWaits (s : State) (loc : Nat) : Bool :=
  !targetReady s ⟨if loc < Config.hbmEnd then .hbm else .cxl, loc, none, 0, loc⟩
    || s.posted.any fun p => p.1 / 2 ^ 36 == loc / 2 ^ 36

/-- Store bytes at a location of this package's memory once that may be used (R370, R401); other locations take no such
write. A fabric address has no key id, so it is 0 (log entry 124). -/
def storeAt (s : State) (loc : Nat) (bs : List Byte) : State :=
  if Config.cxlEnd ≤ loc then s
  else if postWaits s loc then { s with posted := s.posted ++ [(loc, bs)] }
  else store s 0 loc bs

/-- Make the posted writes that wait, oldest first, as far as their memory is ready now. -/
def flushPosted (s : State) : State := s.posted.foldl (fun s p => storeAt s p.1 p.2) { s with posted := [] }

/-- The launch on whose behalf an owner makes a request (R137). -/
def ownerLaunch (s : State) : RemoteOwner → Option Nat
  | .flight id _ => (s.flights.find? fun f => f.id = id).map (·.launch)
  | .dup id _ => (s.flights.find? fun f => f.id = id).map (·.launch)
  | .scribe n x _ _ => (aget none (aget Scribe.zero s.scribes n).ctxs x).map (·.launch)
  | .anvil n id _ _ => ((anvilAt s n).resv.find? fun r => r.id = id).map (·.launch)
  | .nibble n x _ _ _ _ _ _ _ _ => (aget none (aget Scribe.zero s.scribes n).ctxs x).map (·.launch)
  | _ => none

/-- Note a request that waits for its answer, or that its stream has lost. -/
def addReq (s : State) (owner : RemoteOwner) (part node tc : Nat) (doomed : Option Nat) : State :=
  { s with
    serial := s.serial + 1
    fabric := { s.fabric with
      reqs := s.fabric.reqs ++ [⟨s.serial, owner, part, node, tc, doomed, ownerLaunch s owner⟩] } }

/-- The cuts of a write of n bytes at a location into parts that each lie in one block: offset and length. -/
def blockCuts (loc n : Nat) : List (Nat × Nat) :=
  ((List.range (n / 64 + 2)).map fun i =>
    let lo := max loc ((loc / 64 + i) * 64)
    (lo - loc, min (loc + n) ((loc / 64 + i + 1) * 64) - lo)).filter fun p => p.2 != 0

/-- A write of bytes at a location, all within one block. -/
def writeMsg (ord loc : Nat) (bs : List Byte) (clear : Bool) : Msg :=
  if bs.length = 4 && loc % 4 = 0 then ⟨1, ord, 1, 0, loc, clear, bs⟩
  else if bs.length = 8 && loc % 8 = 0 then ⟨1, ord, 1, 1, loc, clear, bs⟩
  else
    let off := loc % 64
    ⟨1, ord, 1, 2, loc - off, clear,
      valBytes 8 ((2 ^ bs.length - 1) * 2 ^ off) ++ List.replicate off 0 ++ bs ++ List.replicate (64 - off - bs.length) 0⟩

/-- A node has lost its sequence state, so that the streams from it have failed too (R391). -/
def peerReset (s : State) (node : Nat) : State :=
  ([0, 1, 2, 3] : List Nat).foldl (fun s tc => putRx s node tc { rxAt s node tc with failed := true }) s

/-- Mark a stream failed with a code, by an entry (R391): its messages without an answer are lost to their issuers, and the
room that it leaves in retry buffers is there for others (R388, R390). -/
def loseStream (s : State) (node tc code entry : Nat) : State :=
  let s := putTx s node tc { TxStream.zero with failed := some code, entry := entry }
  let s := if code = 3 then peerReset s node else s
  pumpAll { s with fabric := { s.fabric with reqs := s.fabric.reqs.map fun r =>
    if r.node = node && r.tc = tc && r.doomed.isNone then { r with doomed := some code } else r } }

/-- A posted write to a fabric address (R383): here at once, else as messages of one block each. `fail` says what a node
without an entry, or a failed stream, does. -/
def postWrite (s : State) (part : Nat) (owner : RemoteOwner) (ord fa : Nat) (bs : List Byte)
    (fail : State → Nat → State) : State :=
  let node := faNode fa
  if node = nodeId s then storeAt s (faLoc fa) bs
  else match findDest s part node with
  | none => fail s 4
  | some e =>
    match (txAt s node 3).failed with
    | some c => fail s c
    | none =>
      (blockCuts (faLoc fa) bs.length).foldl (fun s p =>
        addReq (sendOn s e node 3 (writeMsg ord (faLoc fa + p.1) ((bs.drop p.1).take p.2) true)) owner part node 3 none) s

/-- The lap byte of record w of a ring of n records (R362). -/
def lapByte (w n : Nat) : Byte := if w / n % 2 = 0 then 0xA5 else 0x5A

/-- Whether a device-written ring is full (R362). -/
def ringFull (w cons : Word32) (len : Nat) : Bool := (w - cons).toNat % 2 ^ 32 == len

/-- Write a fabric event record, or count it as lost (R362, R384, R392). The ring itself is reached through the table
of partition 0 when it lies on another node (log entry 24); without an entry the stream to that node fails, and no
record can say so (R383). -/
def fabricEvent (s : State) (code port detail node tc part : Nat) : State :=
  let f := s.fabric
  let base := fld f.record 80 64
  let len := fld f.record 144 16
  if ringFull f.evW f.evCons len then
    { s with fabric := { f with evLost := if f.evLost = 0xFFFFFFFF then f.evLost else f.evLost + 1 } }
  else
    let w := f.evW.toNat
    let body := valBytes 31 (8 + code * 2 ^ 16 + port * 2 ^ 32 + detail * 2 ^ 37 + node * 2 ^ 40 + tc * 2 ^ 52
      + part % 64 * 2 ^ 54 + s.clock.toNat * 2 ^ 64)
    let s := { s with fabric := { f with evW := f.evW + 1 } }
    let node' := faNode (base + 32 * (w % len))
    postWrite s 0 .none 2 (base + 32 * (w % len)) (body ++ [lapByte w len]) fun s c =>
      if c = 4 && (txAt s node' 3).failed.isNone then loseStream s node' 3 4 0 else s

/-! Failures of routes and streams. -/

/-- A stream fails (R391): its messages without an answer are lost to their issuers, and an event record says so. -/
def failStreamBy (s : State) (node tc code entry port : Nat) : State :=
  if (txAt s node tc).failed.isSome then s
  else fabricEvent (loseStream s node tc code entry) 3 port code node tc (entry / 256)

/-- A stream fails (R391), over the entry and the route it last used. -/
def failStream (s : State) (node tc code : Nat) : State :=
  let x := txAt s node tc
  failStreamBy s node tc code x.entry (routePort (destAt s x.entry) x.route)

/-- The entry that a request goes by: of two valid entries with one NODE the lower-numbered (R387). -/
def resolveEntry (s : State) (entry : Nat) : Nat :=
  if 2 ^ 16 ≤ entry then entry
  else (findDest s (entry / 256) (fld (destAt s entry).record 0 12)).getD entry

/-- Send a request for an answer, on behalf of an owner (R386 to R392). Without a valid entry the stream fails, and on a
failed stream the request is lost at once, with the code of R391. -/
def sendRequest (s : State) (owner : RemoteOwner) (part entry tc : Nat) (m : Msg) : State :=
  let node := fld (destAt s entry).record 0 12
  if !bitAt (destAt s entry).record.toNat 12 then
    addReq (failStreamBy s node tc 4 entry 0) owner part node tc (some 4)
  else match (txAt s node tc).failed with
  | some c => addReq s owner part node tc (some c)
  | none => addReq (sendOn s (resolveEntry s entry) node tc m) owner part node tc none

/-- Whether the stream that an entry leads to takes another request at once: on one that stalls at its window, at a full
retry buffer or for want of a route, the issuing unit waits (R35, R388). -/
def streamOpen (s : State) (entry tc : Nat) : Bool := (txAt s (fld (destAt s entry).record 0 12) tc).queue.isEmpty

/-- The streams with unacknowledged flits on a failed route: all of their flits without an ack are replayed, in SEQ order, over
the next route and ahead of what has not been sent (R390). -/
def failOver (s : State) (entry route : Nat) : State :=
  let s := s.fabric.tx.foldl (fun s p =>
    let x := txAt s (p.1 / 4) (p.1 % 4)
    if x.unacked.any fun f => f.entry = entry && f.route = route then
      putTx s (p.1 / 4) (p.1 % 4) { x with
        unacked := [], queue := x.unacked.map (fun f => (f.flit, f.entry)) ++ x.queue, lastAck := s.clock.toNat }
    else s) s
  pumpAll s

/-- The lowest class among the streams with unacknowledged flits on a route, or 0 (R397). -/
def routeClass (s : State) (entry route : Nat) : Nat :=
  (leastBy (fun x y => decide (x < y)) (s.fabric.tx.filterMap fun p =>
    if p.2.unacked.any fun f => f.entry = entry && f.route = route then some (p.1 % 4) else none)).getD 0

/-- Mark routes failed, write their event records, and fail over (R390, R392, R397): every route is marked before anything is
sent again, and a record's class is that of the moment of the mark. -/
def failRoutes (s0 : State) (code : Nat) (all : List (Nat × Nat)) : State :=
  let rs := all.filter fun p => !(destAt s0 p.1).failed.getLsbD p.2 && decide (p.1 < 2 ^ 16)
  let s := rs.foldl (fun s p =>
    putDest s p.1 { destAt s p.1 with failed := (destAt s p.1).failed ||| BitVec.ofNat 3 (2 ^ p.2) }) s0
  let s := rs.foldl (fun s p =>
    let e := destAt s0 p.1
    fabricEvent s code (routePort e p.2) 0 (fld e.record 0 12) (routeClass s0 p.1 p.2) (p.1 / 256)) s
  rs.foldl (fun s p => failOver s p.1 p.2) s

/-- The present routes of every entry that start at a port. -/
def routesAt (s : State) (port : Nat) : List (Nat × Nat) :=
  s.dests.flatMap fun p => (([0, 1, 2] : List Nat).filter fun n =>
    bitAt p.2.record.toNat (64 + 64 * n) && routePort p.2 n == port).map fun n => (p.1, n)

/-- LINK_DOWN (R390): every route that starts at the port fails. -/
def execLinkDown (port : Nat) (s : State) : Host.Outcome State Fault Refusal :=
  .next (if 18 ≤ port then s
    else
      let s := { s with boot := { s.boot with down := s.boot.down ||| BitVec.ofNat 18 (2 ^ port) } }
      pumpAll (failRoutes s 1 (routesAt s port)))

/-- LINK_UP (R391): routes from the port count as linked; failed marks stay. -/
def execLinkUp (port : Nat) (s : State) : Host.Outcome State Fault Refusal :=
  .next (if 18 ≤ port then s
    else pumpAll { s with boot := { s.boot with down := s.boot.down &&& ~~~(BitVec.ofNat 18 (2 ^ port)) } })

/-- RTO in cycles (R384). -/
def rtoCycles (s : State) : Nat :=
  let x := fld s.fabric.record 16 32
  Config.cyclesPerUs * (if x = 0 then 20 else x)

/-- TROUTE in cycles (R384). -/
def trouteCycles (s : State) : Nat :=
  let x := fld s.fabric.record 48 32
  Config.cyclesPerUs * (if x = 0 then 100000 else x)

/-- Whether a stream has waited RTO for an ack (R390). -/
def ackOverdue (s : State) (node tc : Nat) : Bool :=
  let x := txAt s node tc
  x.failed.isNone && !x.unacked.isEmpty && decide (rtoCycles s ≤ s.clock.toNat - x.lastAck)

/-- ACK_TIMEOUT (R390): the route of the oldest flit without an ack fails. -/
def execAckTimeout (part node tc : Nat) (s : State) : Host.Outcome State Fault Refusal :=
  .next (match (txAt s node tc).unacked.head? with
    | none => s
    | some f => if ackOverdue s node tc && f.entry / 256 == part then failRoutes s 2 [(f.entry, f.route)] else s)

/-- Whether a stream has waited TROUTE for a route (R391). -/
def routeOverdue (s : State) (node tc : Nat) : Bool :=
  let x := txAt s node tc
  match x.waiting with
  | some t => decide (trouteCycles s ≤ s.clock.toNat - t)
  | none => false

/-- The entry by whose route a stream waits: that of its first unsent flit. -/
def waitEntry (x : TxStream) : Nat :=
  match x.queue with
  | f :: _ => f.2
  | [] => x.entry

/-- ROUTE_WAIT_TIMEOUT (R391). -/
def execRouteWaitTimeout (part node tc : Nat) (s : State) : Host.Outcome State Fault Refusal :=
  let e := waitEntry (txAt s node tc)
  .next (if routeOverdue s node tc && e / 256 == part then
      failStreamBy s node tc 1 e (routePort (destAt s e) (fld (destAt s e).record 16 2 % 3)) else s)

/-- A stream received from another node restarts at SEQ 0 (R391). What it has accepted goes on. -/
def restartRx (x : RxStream) : RxStream := { x with e := 0, failed := false, parts := [], ack := none }

/-- The streams from other nodes that restart in a move, their sources having had their entries written (R391; log entry 179). -/
def restartStreams (s : State) (ks : List Nat) : State :=
  ks.foldl (fun s k => putRx s (k / 4) (k % 4) (restartRx (rxAt s (k / 4) (k % 4)))) s

/-- The entry by which a stream to a node goes once the table has been written: the one that it has, if that still names the node,
or the partition's lowest that does (R383, R387). -/
def entryNow (s : State) (node e : Nat) : Option Nat :=
  if decide (2 ^ 16 ≤ e) || destNames (destAt s e) node then some e else findDest s (e / 256) node

/-- A stream that goes by an entry just written: it goes on by that entry, or by another that names its node, or fails at once with
NO_ENTRY (R391). DESIGN CHOICE: one with nothing to send fails too (log entry 179). -/
def rerouteStream (s : State) (entry node tc : Nat) : State :=
  let x := txAt s node tc
  let by_ : Nat → Bool := fun e => e == entry
  if x.failed.isSome || x = TxStream.zero
      || !(by_ x.entry || x.queue.any (fun f => by_ f.2) || x.unacked.any fun f => by_ f.entry) then s
  else match entryNow s node entry with
  | none => failStreamBy s node tc 4 entry 0
  | some e =>
    let new : Nat → Nat := fun y => if by_ y then e else y
    putTx s node tc { x with
      queue := x.queue.map fun f => (f.1, new f.2)
      unacked := x.unacked.map fun f => { f with entry := new f.entry }
      entry := new x.entry }

/-- An entry has been written: the failed streams of that entry, and those to its node, restart at SEQ 0, so do those from the
node that are seen to have failed, streams whose entry no longer names their node leave it, and waiting ones go on (R391; log
entries 164, 179). -/
def entryWritten (s : State) (entry : Nat) : State :=
  let node := fld (destAt s entry).record 0 12
  let s := s.fabric.tx.foldl (fun s p =>
    let here := p.1 / 4 == node && (p.2.entry / 256 == entry / 256 || decide (2 ^ 16 ≤ p.2.entry))
    if p.2.failed.isSome && (here || p.2.entry == entry) then putTx s (p.1 / 4) (p.1 % 4) TxStream.zero else s) s
  let s := s.fabric.tx.foldl (fun s p => rerouteStream s entry (p.1 / 4) (p.1 % 4)) s
  let s := s.fabric.rx.foldl (fun s p =>
    if p.1 / 4 = node && p.2.failed then putRx s node (p.1 % 4) (restartRx p.2) else s) s
  pumpAll s

/-- Process an ack of a stream (R388, R391): flits it covers leave the retry buffer, also those that wait to be sent again; one
that no flit of the stream explains means that the destination lost its state. -/
def ackStream (s : State) (node tc : Nat) (ack : BitVec 16) : State :=
  let x := txAt s node tc
  if x.failed.isSome then s
  else if 8192 < (x.sent - ack).toNat then failStream s node tc 3
  else
    let covered : Flit → Bool := fun f =>
      let d := (ack - f.seq).toNat
      decide (0 < d) && decide (d ≤ 4096)
    if x.unacked.any (fun f => covered f.flit) || x.queue.any (fun f => covered f.1) then
      pumpAll (putTx s node tc { x with
        unacked := x.unacked.filter fun f => !covered f.flit
        queue := x.queue.filter fun f => !covered f.1
        lastAck := s.clock.toNat })
    else s

/-- ACK_RECEIVE (R388). -/
def execAckReceive (node tc : Nat) (ack : BitVec 16) (s : State) : Host.Outcome State Fault Refusal :=
  .next (if tc < 4 then ackStream s node tc ack else s)

/-! Requests of a lane's access to a remote page. -/

/-- A read of n bytes at a location: 4 or 8 bytes, or the block. -/
def readMsg (ord loc n : Nat) (clear : Bool) : Msg :=
  if n ≤ 4 then ⟨1, ord, 0, 0, loc - loc % 4, clear, []⟩
  else if n = 8 then ⟨1, ord, 0, 1, loc, clear, []⟩
  else ⟨1, ord, 0, 2, loc - loc % 64, clear, []⟩

/-- The bytes of an answer to `readMsg` that the read asked for. -/
def readPart (loc n : Nat) (bs : List Byte) : List Byte :=
  if n ≤ 4 then (bs.drop (loc % 4)).take n else if n = 8 then bs.take 8 else (bs.drop (loc % 64)).take n

/-- The partition and table entry of a remote target. -/
def remoteEntry (ctx : Nat) (dest : Nat) : Nat := 256 * partOf (vdevOf ctx) + dest

/-- Whether the stream to a remote page takes another request of a context (R388). -/
def remoteOpen (s : State) (ctx dest tc : Nat) : Bool := streamOpen s (remoteEntry ctx dest) tc

/-- Send a request of a context to a remote page. -/
def sendRemote (s : State) (owner : RemoteOwner) (ctx dest tc : Nat) (m : Msg) : State :=
  sendRequest s owner (partOf (vdevOf ctx)) (remoteEntry ctx dest) tc m

/-- Send a write of a context to a remote page, in messages of one block each (R385). -/
def sendWrite (s : State) (owner : RemoteOwner) (ctx dest tc ord loc : Nat) (bs : List Byte) (clear : Bool) : State :=
  (blockCuts loc bs.length).foldl (fun s p =>
    sendRemote s owner ctx dest tc (writeMsg ord (loc + p.1) ((bs.drop p.1).take p.2) clear)) s

end Sys2Proof.Machine
end

