-- ==== Sys2Proof/Machine/Perform.lean ====
section
/-! DEFINITION. Accesses in flight and how they are performed (R111, R134, R135, R138, R219, R223 to R231): what each
waits for, loads that fill their entries, writes and atomics, lane copies, and the wakes of WAITADDR and SLEEPUNTIL. -/

namespace Sys2Proof.Machine

/-! Accesses. -/

/-- An access in flight by its identifier. -/
def flightAt (s : State) (id : Nat) : Option Flight := s.flights.find? fun f => f.id = id

/-- Replace an access in flight. -/
def putFlight (s : State) (f : Flight) : State :=
  { s with flights := s.flights.map fun g => if g.id = f.id then f else g }

/-- Remove an access in flight. -/
def dropFlight (s : State) (id : Nat) : State := { s with flights := s.flights.filter fun f => f.id != id }

/-- The bytes that one lane of a LANE access touches, descriptors standing for their blocks. -/
def laneRange (f : Flight) (a : LaneAcc) : Nat × Nat :=
  match f.kind with
  | .load n _ => (a.tgt.loc, n)
  | .store n => (a.tgt.loc, n)
  | .atomic _ n _ _ => (a.tgt.loc, n)
  | .arrive _ => (a.tgt.loc, 16)
  | .lddesc _ => (a.tgt.loc / 64 * 64, 64)
  | .stdesc => (a.tgt.loc / 64 * 64, 64)
  | _ => (a.tgt.loc, 0)

/-- Whether a LANE access must wait for an earlier one of its slice, since they touch a common byte. Once the earlier
one's requests have left for another module, the order of their stream keeps the two in order there (R393). -/
def flightsMeet (f g : Flight) : Bool :=
  f.lanes.any fun a => g.lanes.any fun b =>
    let x := laneRange f a
    let y := laneRange g b
    a.tgt.space == b.tgt.space && !(isRemote b.tgt && g.sent) && decide (x.1 < y.1 + y.2) && decide (y.1 < x.1 + x.2)

/-- Whether the SRAM behind a target is in place: its page is not moved out and its team is not saved (R106, R350). -/
def sramInPlace (s : State) (ctx : Nat) (t : Target) (n : Nat) : Bool :=
  match t.space with
  | .sram =>
    match regionOf 0 t.loc with
    | .sram core off =>
      match sramOwner s ctx core off with
      | some (_, team) => !sramWaits team off n
      | none => true
    | _ => true
  | _ => true

/-- Whether a write through a target is held at a scratchpad's entry (R350). -/
def entryHeld (s : State) (ctx : Nat) (t : Target) : Bool :=
  match t.space with
  | .sram =>
    match regionOf 0 t.loc with
    | .sram core off => (sramOwner s ctx core off).any fun x => heldAtEntry s x.2
    | _ => false
  | _ => false

/-- Whether a target may still be written: SRAM only while a team of the context holds it (R105). -/
def mayWrite (s : State) (ctx : Nat) (t : Target) : Bool :=
  match t.space with
  | .sram =>
    match regionOf 0 t.loc with
    | .sram core off => (sramOwner s ctx core off).isSome
    | _ => false
  | _ => true

/-- Bytes of one lane's access. -/
def flightBytes (f : Flight) : Nat :=
  match f.kind with
  | .load n _ => n
  | .ldx n _ _ => n
  | .store n => n
  | .atomic _ n _ _ => n
  | .acp n _ _ => n
  | .arrive _ => 16
  | _ => 2

/-- The blocks of this package's memory that an access reads: each lane's, and all of a tile that a converting read takes
(R109, R111). -/
def laneBlocks (f : Flight) : List Target := f.lanes.flatMap fun a =>
  match f.kind with
  | .ldx _ _ _ => blocksOf { a.tgt with loc := a.tgt.loc / 4096 * 4096 } 4096
  | _ => [a.tgt]

/-- The bytes of a read's lanes: a converting read may take any of its tiles. -/
def readRange (f : Flight) (a : LaneAcc) : Nat × Nat :=
  match f.kind with
  | .ldx _ _ _ => (a.tgt.loc / 4096 * 4096, 4096)
  | _ => laneRange f a

/-- Whether an access is a converting read. -/
def isConverting (f : Flight) : Bool :=
  match f.kind with
  | .ldx _ _ _ => true
  | _ => false

/-- Whether a converting read, or a LANE write, must wait for an earlier converting read of its slice that may take bytes of
what it reads or writes: the later read does not take an older value, and the earlier one no later write (R127). -/
def tilesMeet (f g : Flight) : Bool :=
  isConverting g && (isConverting f || isLaneWrite f) && f.lanes.any fun a => g.lanes.any fun b =>
    let x := readRange f a
    let y := readRange g b
    a.tgt.space == b.tgt.space && decide (x.1 < y.1 + y.2) && decide (y.1 < x.1 + x.2)

/-- Whether a read that a slice has issued before a mark still has to bind bytes of a range: what the slice starts after
it writes them only then (R127, rule 3). -/
def readsFirst (s : State) (owner mark : Nat) (t : Target) (n : Nat) : Bool :=
  s.flights.any fun g => g.owner = owner && decide (g.id < mark) && isRead g && g.lanes.any fun a =>
    let x := readRange g a
    a.tgt.space == t.space && decide (x.1 < t.loc + n) && decide (t.loc < x.1 + x.2)

/-- Whether a copy may write: no earlier read of its slice still has to bind bytes that it writes (R127). -/
def copyMayWrite (s : State) (f : Flight) : Bool :=
  f.lanes.all fun a => !readsFirst s f.owner f.id a.dst (flightBytes f)

/-- Remote requests of an access that wait for their answers. -/
def flightAwaits (s : State) (id : Nat) : Bool := s.fabric.reqs.any fun r =>
  match r.owner with
  | .flight i _ => i == id
  | .dup i _ => i == id
  | _ => false

/-- Whether the streams to the modules that an access reaches take its requests (R388). -/
def flightOpen (s : State) (f : Flight) : Bool :=
  let ctx := keyCtx s f.owner
  f.sent || f.lanes.all fun a =>
    let far : Target → Bool := fun t => match t.space with
      | .remote d => remoteOpen s ctx d 0
      | _ => t.dup.all fun d => remoteOpen s ctx d 0
    far a.tgt && far a.dst

/-- Whether an access is of descriptors, which lie nowhere in SRAM (R83, R84). -/
def isDescAccess (f : Flight) : Bool :=
  match f.kind with
  | .lddesc _ => true
  | .stdesc => true
  | _ => false

/-- Whether an access in flight has a write that is held at a scratchpad's entry (R350). -/
def flightHeld (s : State) (ctx : Nat) (f : Flight) : Bool :=
  match f.kind with
  | .acp _ _ _ => f.lanes.any fun a => entryHeld s ctx a.dst
  | .stdesc => false
  | _ => isLaneWrite f && f.lanes.any fun a => entryHeld s ctx a.tgt

/-- Whether an access in flight has come to its memory: that is ready and in place; earlier accesses of its slice to common
bytes are done (R121); a release has seen every earlier access of its slice performed, and a write after a releasing FENCE
the reads before it (R122, R135); streams to other modules take its requests; and those are answered. -/
def atMemory (s : State) (f : Flight) : Bool :=
  let ctx := keyCtx s f.owner
  let n := flightBytes f
  let earlier := s.flights.filter fun g => g.owner = f.owner && decide (g.id < f.id)
  f.lanes.all (fun a => targetReady s a.tgt && targetReady s a.dst
      && (isDescAccess f || (sramInPlace s ctx a.tgt n && sramInPlace s ctx a.dst n)))
    && !(earlier.any fun g => tilesMeet f g
      || ((isLaneWrite g || isLaneRead g) && (isLaneWrite f || isLaneRead f) && flightsMeet f g))
    && (!f.rel || earlier.isEmpty)
    && (!isLaneWrite f || f.id < (sliceAt s f.owner).relMark
      || !(earlier.any fun g => isLaneRead g && decide (g.id < (sliceAt s f.owner).relMark)))
    && !flightHeld s ctx f && flightOpen s f && !flightAwaits s f.id

/-- Whether an access of another virtual device that holds a token waits at a controller (R368; log entry 76). -/
def tokenWaits (s : State) (v c : Nat) : Bool :=
  (s.flights.any fun g =>
    let w := vdevOf (keyCtx s g.owner)
    w != v && hasToken s w c && g.lanes.any (fun a => targetCtrl a.tgt == some c || targetCtrl a.dst == some c) && atMemory s g)
  || s.pressing.any fun p => p.1 != v && p.2 == c && hasToken s p.1 c

/-- Whether the controller behind a target serves a virtual device now (R368, R369): nothing of the deadline class waits
there, and the device holds a token or nobody who holds one waits. -/
def served (s : State) (v : Nat) (t : Target) : Bool :=
  servedFree s v t || (targetCtrl t).all fun c => (deadlineDues s c).isEmpty && !tokenWaits s v c

/-- Whether an access in flight may be performed now: it has come to its memory, whose controllers serve it. -/
def canPerform (s : State) (f : Flight) : Bool :=
  let v := vdevOf (keyCtx s f.owner)
  atMemory s f && f.lanes.all fun a => served s v a.tgt && served s v a.dst

/-- Fill reserved entries: the j-th reservation of a list gets `f j` (R111, R219). -/
def fillEntries (sl : Slice) (seqs : List Nat) (f : Nat → LdState) : Slice :=
  { sl with ldq := sl.ldq.map fun e =>
    match seqs.findIdx? (· == e.seq) with
    | some j => { e with st := f j }
    | none => e }

/-- The entries of lane values (R219). -/
def entryOf (vals : List (Nat × Nat)) (j : Nat) : LdState :=
  .filled (qof fun l =>
    match vals.find? fun v => v.1 = l with
    | some v => BitVec.ofNat 32 (bits v.2 (32 * j) 32)
    | none => 0)

/-- The fault of data that holds an uncorrectable error: the lanes whose data held it (R325, R334). -/
def errorFault (bad : List LaneAcc) : FaultInfo :=
  ⟨codeUNCORRECTABLE, 0, BitVec.ofNat 64 ((bad.head?.map fun a => a.tgt.va).getD 0), maskOf fun l => bad.any fun a => a.lane = l⟩

/-- Fill the entries of a read, or poison them where data held an uncorrectable error (R62, R334). -/
def fillRead (sl : Slice) (seqs : List Nat) (vals : List (Nat × Nat)) (bad : List LaneAcc) : Slice :=
  fillEntries sl seqs (if bad.isEmpty then entryOf vals else fun _ => .poisoned (errorFault bad))

/-- The destination-table entry of a remote target. -/
def remoteDest (t : Target) : Nat :=
  match t.space with
  | .remote d => d
  | _ => 0

/-- The order code of a flit (R385). -/
def ordCode (acq rel : Bool) : Nat := acq.toNat + 2 * rel.toNat

/-- What one lane of a read finds in this package, each 4-byte unit old or new where a write races (R114, R115). -/
def localRead (s : State) (f : Flight) (a : LaneAcc) : Nat :=
  match f.kind with
  | .ldx n _ conv =>
    let tile := a.tgt.loc / 4096 * 4096
    tileValue (underKey (withOlds f.olds s) a.tgt.key tile 4096) tile conv a.data (2 * n) (2 * (a.tgt.loc % 4096))
  | .lddesc _ => (descAt s a.tgt.loc).toNat
  | _ => seenVal (withOlds f.olds s) a.tgt (flightBytes f)

/-- Whether what one lane of a read finds holds an uncorrectable error. -/
def localBad (s : State) (f : Flight) (a : LaneAcc) : Bool :=
  match f.kind with
  | .ldx n _ conv => (List.range (2 * n)).any fun i =>
      poisoned s (a.tgt.loc / 4096 * 4096 + tileSource conv a.data (2 * (a.tgt.loc % 4096) + i) / 2) 1
  | .lddesc _ => false
  | _ => poisoned s a.tgt.loc (flightBytes f)

/-- The request of a remote lane of a read. -/
def laneMsg (f : Flight) (a : LaneAcc) : Msg :=
  match f.kind with
  | .lddesc _ => ⟨1, ordCode f.acq f.rel, 2, 0, a.tgt.loc, isClear a.tgt, []⟩
  | _ => readMsg (ordCode f.acq f.rel) a.tgt.loc (flightBytes f) (isClear a.tgt)

/-- Whether two lanes of a read ask for the same bytes of one module: one read serves both (R111, R117). -/
def sameRead (f : Flight) (a b : LaneAcc) : Bool :=
  isRemote a.tgt && a.tgt.space == b.tgt.space && laneMsg f a == laneMsg f b

/-- The lane whose request serves a lane of a read: the lowest with the same request. -/
def servedBy (f : Flight) (a : LaneAcc) : Nat :=
  match f.lanes.find? fun b => sameRead f b a with
  | some b => b.lane
  | none => a.lane

/-- Send the requests of the remote lanes of a read, one for each set of bytes (R111). -/
def sendReads (s : State) (f : Flight) : State :=
  f.lanes.foldl (fun s a =>
    if isRemote a.tgt && servedBy f a == a.lane then
      sendRemote s (.flight f.id a.lane) (keyCtx s f.owner) (remoteDest a.tgt) 0 (laneMsg f a)
    else s) s

/-- The reservations of a read. -/
def flightSeqs (f : Flight) : List Nat :=
  match f.kind with
  | .load _ q => q
  | .ldx _ q _ => q
  | .lddesc q => q
  | .atomic _ _ q _ => q
  | _ => []

/-- Whether a lane reads SRAM that no team of its context holds any more: an allotment stops being reachable when its team
ends (R105). -/
def laneGone (s : State) (ctx : Nat) (a : LaneAcc) : Bool := !mayWrite s ctx a.tgt

/-- The lanes of a read whose bytes are out of reach; a descriptor read takes no bytes of SRAM (R83). -/
def goneLanes (s : State) (f : Flight) : List LaneAcc :=
  match f.kind with
  | .lddesc _ => []
  | _ => f.lanes.filter (laneGone s (keyCtx s f.owner))

/-- The entries of a read none of whose bytes are out of reach by now; else they fail with SRAM_ACCESS (R105; log entry
133). -/
def fillReach (s : State) (f : Flight) (sl : Slice) (vals : List (Nat × Nat)) (bad : List LaneAcc) : Slice :=
  match goneLanes s f with
  | [] => fillRead sl (flightSeqs f) vals bad
  | g :: gs => fillEntries sl (flightSeqs f) fun _ => .poisoned
      ⟨codeSRAM_ACCESS, 0, BitVec.ofNat 64 g.tgt.va, maskOf fun l => (g :: gs).any fun a => a.lane = l⟩

/-- Complete a load: its entries fill in one cycle and LD falls (R111, R219). -/
def finishLoad (s : State) (f : Flight) : State :=
  let vals := f.lanes.map fun a => (a.lane, if isRemote a.tgt then a.data else localRead s f a)
  let bad := f.lanes.filter fun a => if isRemote a.tgt then a.bad else localBad s f a
  let s := spendFor s (keyCtx s f.owner) (laneBlocks f)
  let sl := fillReach s f (sliceAt s f.owner) vals bad
  finishRollback (putSlice (dropFlight s f.id) f.owner { sl with nld := sl.nld - 1 }) f.owner

/-- LOAD_FILL (R111): a load with remote lanes first sends their requests. -/
def execLoadFill (id : Nat) (s : State) : Host.Outcome State Fault Refusal :=
  .next (match flightAt s id with
    | none => s
    | some f =>
      if isLoad f && canPerform s f then
        if !f.sent && f.lanes.any (fun a => isRemote a.tgt) then putFlight (sendReads s f) { f with sent := true }
        else finishLoad s f
      else s)

/-- Write bytes where a lane's access of a context may write them. -/
def laneStore (s : State) (ctx : Nat) (t : Target) (bs : List Byte) : State :=
  if mayWrite s ctx t then storeTo s t bs else s

/-- Send the second copy of a duplicated write (R394). -/
def sendDup (s : State) (f : Flight) (ctx lane : Nat) (t : Target) (bs : List Byte) : State :=
  match t.dup with
  | none => s
  | some d => sendRemote s (.dup f.id lane) ctx d 0 (writeMsg (ordCode false f.rel) t.loc bs (isClear t))

/-- Perform one lane of a write here, or send it: the state and the lane with what it read. -/
def performLane (f : Flight) (ctx : Nat) (s : State) (a : LaneAcc) : State × LaneAcc :=
  let t := a.tgt
  let n := flightBytes f
  let ord := ordCode f.acq f.rel
  match f.kind with
  | .store _ =>
    if isRemote t then
      (sendRemote s (.flight f.id a.lane) ctx (remoteDest t) 0 (writeMsg ord t.loc (valBytes n a.data) (isClear t)), a)
    else (sendDup (laneStore s ctx t (valBytes n a.data)) f ctx a.lane t (valBytes n a.data), a)
  | .stdesc =>
    if isRemote t then
      (sendRemote s (.flight f.id a.lane) ctx (remoteDest t) 0
        ⟨1, ord, 3, 0, t.loc, isClear t, valBytes 4 a.data⟩, a)
    else (setDesc s t.loc (BitVec.ofNat 16 a.data), a)
  | .atomic op _ _ _ =>
    if isRemote t then
      (sendRemote s (.flight f.id a.lane) ctx (remoteDest t) 0
        ⟨1, ord, 8 + op, if n = 4 then 0 else 1, t.loc, (isClear t),
          valBytes n a.data ++ (if op = 9 then valBytes n a.swap else [])⟩, a)
    else if poisoned s t.loc n then (s, { a with bad := true })
    else
      let old := seenVal s t n
      let new := atomicNew op (8 * n) old a.data a.swap
      (sendDup (laneStore s ctx t (valBytes n new)) f ctx a.lane t (valBytes n new), { a with data := old })
  | .arrive _ =>
    if poisoned s t.loc 9 then (s, { a with bad := true })
    else (if mayWrite s ctx t then arriveAt s t.loc a.data else s, a)
  | _ => (s, a)

/-- Perform the lanes of a write in ascending order (R111). -/
def performLanes (f : Flight) (ctx : Nat) : List LaneAcc → State → State × List LaneAcc
  | [], s => (s, [])
  | a :: as, s =>
    let x := performLane f ctx s a
    let r := performLanes f ctx as x.1
    (r.1, x.2 :: r.2)

/-- Complete a write: its counters fall, an atomic's entries fill, and an error is consumed (R134, R219, R392). -/
def finishWrite (s : State) (f : Flight) : State :=
  let bad := f.lanes.filter fun a => a.bad
  let k := f.owner
  let sl := sliceAt s k
  let spend := match f.kind with
    | .atomic _ _ _ _ => spendEach
    | _ => spendFor
  let s := spend (dropFlight s f.id) (keyCtx s k) (f.lanes.map (·.tgt))
  match f.kind with
  | .atomic _ _ _ true =>
    let sl := fillReach s f sl (f.lanes.map fun a => (a.lane, a.data)) bad
    finishRollback (putSlice s k { sl with nld := sl.nld - 1, nst := sl.nst - 1 }) k
  | .arrive true =>
    let s := finishRollback (putSlice s k { sl with c := { sl.c with wait := if sl.c.wait = .arrive then .none else sl.c.wait } }) k
    if bad.isEmpty then s else consumeError s k false (errorFault bad)
  | _ =>
    let s := finishRollback (putSlice s k { sl with nst := sl.nst - 1 }) k
    if bad.isEmpty then s else consumeError s k true (errorFault bad)

/-- Whether an access is a write or an atomic. -/
def isWrite (f : Flight) : Bool := isLaneWrite f

/-- STORE_PERFORMED (R134, R138): the first event performs the local lanes and sends the others and the second copies;
with every answer there the write is globally performed. -/
def execStorePerformed (id : Nat) (s : State) : Host.Outcome State Fault Refusal :=
  .next (match flightAt s id with
    | none => s
    | some f =>
      if isWrite f && canPerform s f then
        if f.sent then finishWrite s f
        else
          let r := performLanes f (keyCtx s f.owner) f.lanes s
          let g := { f with sent := true, lanes := r.2 }
          if flightAwaits r.1 id then putFlight r.1 g else finishWrite r.1 g
      else s)

/-- What one lane of a copy reads, and whether that holds an uncorrectable error. -/
def copyLane (s : State) (f : Flight) (a : LaneAcc) : LaneAcc :=
  if isRemote a.tgt then a
  else if laneGone s (keyCtx s f.owner) a then { a with bad := true }
  else { a with data := seenVal (withOlds f.olds s) a.tgt (flightBytes f), bad := poisoned s a.tgt.loc (flightBytes f) }

/-- Write the lanes of a copy that read good data, in ascending order; a destination elsewhere is sent. -/
def writeCopies (s : State) (f : Flight) (ctx : Nat) : State :=
  f.lanes.foldl (fun s a =>
    if a.bad then s
    else if isRemote a.dst then
      sendRemote s (.flight f.id a.lane) ctx (remoteDest a.dst) 0
        (writeMsg 0 a.dst.loc (valBytes (flightBytes f) a.data) (isClear a.dst))
    else
      sendDup (laneStore s ctx a.dst (valBytes (flightBytes f) a.data)) f ctx a.lane a.dst
        (valBytes (flightBytes f) a.data)) s

/-- A status word (R231). -/
def statWord (f : Flight) (a : LaneAcc) : Nat := if a.bad then 2 ^ 31 + 2 ^ 30 else 2 ^ 31 + flightBytes f

/-- Complete a copy: status words, CP, and the arrival (R231). A checkpoint is younger than the copy, so it holds the status
words too (R62). -/
def finishCopy (s : State) (f : Flight) (stat : Nat) (arv : Option Target) : State :=
  let k := f.owner
  let words : Slice → Slice := fun sl => f.lanes.foldl (fun sl a => setReg true sl stat a.lane (statWord f a)) sl
  let sl := words (sliceAt s k)
  let kept : Checkpoint → Checkpoint := fun c =>
    let x := words { sl with ar := c.ar, arInfo := c.arInfo }
    { c with ar := x.ar, arInfo := x.arInfo }
  let sl := { sl with check := sl.check.map kept }
  let lanes := maskOf fun l => f.lanes.any fun a => a.lane = l
  let s := spendFor s (keyCtx s k) (f.lanes.map (·.tgt) ++ f.lanes.map (·.dst))
  let s := putSlice (dropFlight s f.id) k { sl with
    ncp := sl.ncp - 1
    statPend := sl.statPend.erase (stat, lanes) }
  match arv with
  | some t => if mayWrite s (keyCtx s k) t then arriveAt s t.loc 1 else s
  | none => s

/-- Whether a read that a slice has issued before a mark is still to be bound: what releases it to others waits for it (R127,
rule 3, R136). -/
def readsOpen (s : State) (owner mark : Nat) : Bool :=
  s.flights.any fun g => g.owner = owner && decide (g.id < mark) && isRead g

/-- Whether a copy may make its arrival: the barrier is in place, and the reads before the copy are bound (R136). -/
def arvReady (s : State) (k id : Nat) : Option Target → Bool
  | some t => sramInPlace s (keyCtx s k) t 16 && !entryHeld s (keyCtx s k) t && !readsOpen s k id
  | none => true

/-- ACP_COMPLETE (R231): sources elsewhere are asked for first; the writes are made once every source is there; with
the answers of destinations elsewhere the copy ends. A lane whose source has answered has 1 in `swap`. -/
def execAcpComplete (id : Nat) (s : State) : Host.Outcome State Fault Refusal :=
  .next (match flightAt s id with
    | none => s
    | some f =>
      match f.kind with
      | .acp _ stat arv =>
        if canPerform s f && arvReady s f.owner f.id arv then
          let ctx := keyCtx s f.owner
          let far := f.lanes.any fun a => isRemote a.tgt && a.swap == 0
          if !f.sent && far then sendReads s f
          else if !f.sent && !copyMayWrite s f then s
          else if !f.sent then
            let g := { f with sent := true, lanes := f.lanes.map (copyLane s f) }
            let s := putFlight (writeCopies s g ctx) g
            if flightAwaits s id then s else finishCopy s g stat arv
          else finishCopy s f stat arv
        else s
      | _ => s)

/-- WAITADDR_WAKE (R234): the watched word is read again, by an access that is checked as its first one was, and parks or
fails as that would (R105, R106, R108, R112, R220, R368); a word elsewhere is read by a request of its own (log entry 19). -/
def execWaitaddrWake (k : Nat) (s : State) : Host.Outcome State Fault Refusal :=
  let sl := sliceAt s k
  .next (match sl.a.wait, envOf s k true with
    | .addr t0 n x acq codes, some e =>
      if sl.held || sl.park.any (fun p => !p.refused) then s
      else match checkAddr s (laneSpec e n false false) (refusedOf sl) t0.va with
      | .miss page => parkSlice s k page false
      | .stall => s
      | .bad c => failWatch s k ⟨c, 0, BitVec.ofNat 64 t0.va, lowMask (actLanes sl.a)⟩
      | .ok t =>
        let sl := { sl with park := none, a := { sl.a with wait := .addr t n x acq codes } }
        let s := putSlice s k sl
        if isRemote t then
          (if s.fabric.reqs.any (fun r => r.owner == .waitaddr k) || watchLate s k t n then s
           else sendRemote s (.waitaddr k) e.ctx (remoteDest t) 0 (readMsg (ordCode acq false) t.loc n (isClear t)))
        else if !served s (vdevOf e.ctx) t then s
        else match probe s k t n x with
          | .wait => s
          | .error => failWatch (spendFor s e.ctx [t]) k
              ⟨codeUNCORRECTABLE, 0, BitVec.ofNat 64 t.va, lowMask (actLanes sl.a)⟩
          | .go => let s := spendFor s e.ctx [t]
              yieldTeam (putSlice s k (wokenSlice s e (actLanes sl.a) codes sl)) (k / 32)
    | _, _ => s)

/-- SLEEPUNTIL_WAKE (R246): CLOCK has reached the value, and the barrier's phase is read. -/
def execSleepuntilWake (k : Nat) (s : State) : Host.Outcome State Fault Refusal :=
  let sl := sliceAt s k
  .next (match sl.a.wait, envOf s k true with
    | .sleep clk bar l codes, some e =>
      if sl.held || decide (s.clock.toNat < clk.toNat) then s
      else
        let go := yieldTeam (putSlice s k (wokenSlice s e sl.a.mask codes sl)) (k / 32)
        match bar with
        | none => go
        | some b =>
          let addr := b.toNat - b.toNat % 2
          match checkAddr s (barrierSpec e) (fun _ => false) addr with
          | .ok t =>
            if acqPending s k || s.flights.any fun f => f.owner = k && touches f t.loc 16 then s
            else if poisoned s (t.loc + 8) 1 then
              consumeError s k true ⟨codeUNCORRECTABLE, 0, BitVec.ofNat 64 addr, BitVec.ofNat 4 (2 ^ l)⟩
            else if promiseKept s b t.loc then go
            else takeFault s k true (plainFault codePROMISE_MISSED)
          | .bad c => commitOne s k (failNow sl ⟨c, 0, BitVec.ofNat 64 addr, BitVec.ofNat 4 (2 ^ l)⟩)
          | _ => s
    | _, _ => s)

end Sys2Proof.Machine
end

