-- ==== Sys2Proof/Machine/Matrix.lean ====
section
/-! DEFINITION. The arithmetic of the anvil (R79, R81, R82, R257 to R266): the command block, element values, blocks of
the weight buffer, the K-steps of a pass, and the epilogue chain. The element values also serve CONVERT (R298). -/

namespace Sys2Proof.Machine

/-- The floating-point format of a format code (R80). -/
def codeFmt (c : Nat) : Option Fmt :=
  match c with
  | 0x04 => some .f16
  | 0x05 => some .bf16
  | 0x06 => some .f32
  | 0x10 => some .e4m3
  | 0x11 => some .e5m2
  | 0x12 => some .e2m1
  | 0x13 => some .e2m1
  | _ => none

/-- The codes to which block and band scales apply (R79). -/
def codeScaled (c : Nat) : Bool := decide (0x10 ≤ c) && decide (c ≤ 0x13)

/-- Whether a value is a zero. -/
def xZero : XVal → Bool
  | .num _ 0 _ s => !s
  | _ => false

/-- Whether a value is an infinity or a NaN. -/
def xOdd : XVal → Bool
  | .num _ _ _ _ => false
  | _ => true

/-- The value of a BF16 pattern. -/
def bandVal (x : Nat) : XVal := decodeF .bf16 false x

/-- The value of an element of a format code with a block scale and a band scale (R79). -/
def elemVal (c x : Nat) (scale band : XVal) : XVal :=
  match c with
  | 0x01 => xInt (sval 8 x)
  | 0x02 => xInt (x % 256 : Nat)
  | 0x03 => xInt (sval 16 x)
  | 0x07 => xInt (sval 32 x)
  | _ =>
    match codeFmt c with
    | none => .num false 0 0 false
    | some f =>
      let v := decodeF f false x
      if codeScaled c then
        if xZero scale || xZero band then .num false 0 0 false
        else (xMul (xMul v scale).1 band).1
      else v

/-- The exact quotient of a value by a non-zero finite value, to more than 128 bits. -/
def xDiv (x y : XVal) : XVal :=
  match x, y with
  | .nan, _ => .nan
  | .inf n, .num m _ _ _ => .inf (n != m)
  | .num n q e s, .num m d f _ =>
    if d = 0 then .nan
    else if q = 0 && !s then .num (n != m) 0 0 false
    else
      let k := bitLen d + 200
      .num (n != m) (q * 2 ^ k / d) (e - f - k) (s || q * 2 ^ k % d != 0)
  | _, _ => .nan

/-- Whether |x| ≤ |y| for finite values. -/
def xAbsLe (x y : XVal) : Bool :=
  match x, y with
  | .num _ q e _, .num _ d f _ =>
    let m := min e f
    decide (q * 2 ^ (e - m).toNat ≤ d * 2 ^ (f - m).toNat)
  | .inf _, .inf _ => true
  | .num _ _ _ _, .inf _ => true
  | _, _ => false

/-! The command block (R256). -/

/-- Fields of a command block. -/
structure Cmd where
  abase : Nat
  ascale : Nat
  astride : Nat
  akinc : Nat
  ksteps : Nat
  boff : Nat
  bkinc : Nat
  aband : Nat × Nat
  tile : Nat
  clear : Bool
  semi : Nat
  final : Bool
  abandv : Bool
  afmt : Nat
  bfmt : Nat
  bias : Bool
  act : Bool
  req : Bool
  rm : Nat
  satq : Bool
  actid : Nat
  ofmt : Nat
  ossrc : Nat
  oscale : Nat
  oband : Nat
  biasaddr : Nat
  out : Nat
deriving DecidableEq, Repr

/-- Read a command block; stages of the epilogue count only with FINAL (R256). -/
def cmdOf (b : BitVec 512) : Cmd :=
  let fin := fld b 294 1 == 1
  { abase := fld b 0 64, ascale := fld b 64 64, astride := fld b 128 32, akinc := fld b 160 16, ksteps := fld b 176 16
    boff := fld b 192 32, bkinc := fld b 224 32, aband := (fld b 256 16, fld b 272 16), tile := fld b 288 3
    clear := fld b 291 1 == 1, semi := fld b 292 2, final := fin, abandv := fld b 295 1 == 1
    afmt := fld b 296 8, bfmt := fld b 304 8
    bias := fin && fld b 312 1 == 1, act := fin && fld b 313 1 == 1, req := fin && fld b 314 1 == 1
    rm := fld b 315 3, satq := fld b 318 1 == 1, actid := fld b 320 8, ofmt := fld b 328 8, ossrc := fld b 336 8
    oscale := fld b 344 8, oband := fld b 352 16, biasaddr := fld b 384 64, out := fld b 448 64 }

/-- Whether a code is a format of a command (R80, R256). -/
def cmdFormat (c : Nat) : Bool := c = 0 || c = 0x20 || fmtNibbles c != 0

/-- Byte offset of the lowest reserved or out-of-range field (R257, first condition). -/
def cmdReserved (b : BitVec 512) (c : Cmd) : Option Nat :=
  if c.ksteps = 0 || 1024 < c.ksteps then some 22
  else if !cmdFormat c.afmt then some 37
  else if !cmdFormat c.bfmt then some 38
  else if (c.req && decide (5 < c.rm)) || fld b 319 1 != 0 then some 39
  else if c.act && decide (7 < c.actid) then some 40
  else if c.req && !cmdFormat c.ofmt then some 41
  else if c.req && decide (1 < c.ossrc) then some 42
  else if fld b 368 16 ≠ 0 then some 46
  else none

/-- Elements of K that one step covers for an allowed pair of formats (R258), or none. -/
def pairK (semi a b : Nat) : Option Nat :=
  let fp8 : Nat → Bool := fun x => x == 0x10 || x == 0x11
  let i8 : Nat → Bool := fun x => x == 0x01 || x == 0x02
  if semi = 0 then
    if a = 0x04 && b = 0x04 || a = 0x05 && b = 0x05 then some 1
    else if fp8 a && fp8 b || i8 a && i8 b then some 2
    else if a = 0x12 && (b = 0x12 || b = 0x13) then some 4
    else none
  else if semi = 3 then (if a = 0x20 && b = 0x20 then some 16 else none)
  else if a = 0x05 && b = 0x05 then some 1
  else none

/-- Elements of K that one step covers, from the A format alone (R258). -/
def stepK (a : Nat) : Nat :=
  match a with
  | 0x04 => 1 | 0x05 => 1 | 0x12 => 4 | 0x20 => 16
  | _ => 2

/-- Whether a pass's tile holds I32 words (R258). -/
def tileInt (c : Cmd) : Bool := c.semi == 3 || c.afmt == 0x01 || c.afmt == 0x02

/-- A failure of an anvil request: CODE, DETAIL, failing address and K-step (R273). -/
structure AFail where
  code : Nat
  detail : Nat
  faddr : Nat
  kstep : Nat
deriving DecidableEq, Repr

/-- The first slab byte outside a window of a size, relative to it (R257, condition 13). -/
def slabOutside (c : Cmd) (size : Nat) : Option Nat :=
  (List.range c.ksteps).findSome? fun s =>
    let o := c.boff + s * c.bkinc
    if size ≤ o then some o else if size < o + 128 then some size else none

/-- Whether an A format has scales in a pass (R259). -/
def scaledA (f : Nat) : Bool := decide (0x10 ≤ f) && decide (f ≤ 0x12)

/-- The conditions of R257 on the command and the anvil, in order: the context's tile mask, the window's bytes, the
valid tables and the invalid tiles. -/
def judgeCmd (b : BitVec 512) (tiles : Nat) (wsize : Nat) (tabOk invalid : BitVec 8) : Option AFail :=
  let c := cmdOf b
  let no : Nat → Nat → Option AFail := fun code d => some ⟨code, d, 0, 0⟩
  let narrow := c.req && (c.ofmt == 0x10 || c.ofmt == 0x11 || c.ofmt == 0x12)
  match cmdReserved b c with
  | some d => no 1 d
  | none =>
    if c.astride % 2 ≠ 0 then no 1 16
    else if c.akinc % 2 ≠ 0 then no 1 20
    else if c.boff % 64 ≠ 0 then no 1 24
    else if c.bkinc % 64 ≠ 0 then no 1 28
    else if c.afmt = 0 || (c.bfmt ≠ 0 && (pairK c.semi c.afmt c.bfmt).isNone) then no 2 0
    else if c.semi = 3 && (c.bias || c.act || c.req) then no 2 0
    else if c.req && !([0x01, 0x04, 0x05, 0x06, 0x10, 0x11, 0x12].contains c.ofmt) then no 1 41
    else if c.req && c.ossrc = 1 && !narrow then no 1 42
    else if narrow && c.ossrc = 0 && (c.oscale = 0 || c.oscale = 0xFF) then no 1 43
    else if c.abandv && scaledA c.afmt && xOdd (bandVal c.aband.1) then no 3 32
    else if c.abandv && scaledA c.afmt && xOdd (bandVal c.aband.2) then no 3 34
    else if narrow && (xOdd (bandVal c.oband) || xZero (bandVal c.oband)) then no 3 44
    else if !bitAt tiles c.tile then no 4 c.tile
    else match slabOutside c wsize with
    | some o => no 5 o
    | none =>
      if c.act && !tabOk.getLsbD c.actid then no 7 c.actid
      else if !c.clear && invalid.getLsbD c.tile then no 6 c.tile
      else none

/-! The weight buffer. -/

/-- A 64-byte block of the weight buffer: its bytes as a number, descriptor and band scale. -/
structure WBlock where
  val : Nat
  desc : Nat
  band : Nat
deriving DecidableEq, Repr

/-- The block at a byte offset of the weight buffer (R253, R268). -/
def wbBlock (v : Anvil) (off : Nat) : WBlock :=
  ⟨readBytes v.wb off 64, (aget 0 v.wbDesc (off / 64)).toNat, (aget 0x3F80 v.wbBand (off / 64)).toNat⟩

/-- Whether the kept positions of a B-pack block ascend in every group (R81). -/
def packOk (x : Nat) : Bool :=
  (List.range 32).all fun g => decide (bits x (256 + 4 * g) 2 < bits x (256 + 4 * g + 2) 2)

/-- The format a block is read in, or the failure: BLOCK_ILLFORMED before FMT_PAIR (R82, R257, R258). -/
def blockFormat (c : Cmd) (w : WBlock) : Nat ⊕ Nat :=
  let own := w.desc % 256
  let scale := w.desc / 256
  let f := if c.bfmt = 0 then own else c.bfmt
  let uses := codeScaled own && codeScaled f
  let ill :=
    if c.bfmt = 0 then own == 0 || fmtReserved own || scale == 0xFF
    else uses && scale == 0xFF
  if ill || (f == 0x13 && !packOk w.val) || (codeScaled f && xOdd (bandVal w.band)) then .inr 3
  else if (pairK c.semi c.afmt f).isNone then .inr 2
  else .inl f

/-- The dense element of a block: format, k, column 0 to 31, step element (R81, R260). -/
def blockElem (f k : Nat) (w : WBlock) (col r : Nat) : Nat :=
  let i := k * col + r
  match f with
  | 0x13 =>
    if bits w.val (256 + 4 * col) 2 = r then bits w.val (4 * (2 * col)) 4
    else if bits w.val (256 + 4 * col + 2) 2 = r then bits w.val (4 * (2 * col + 1)) 4
    else 0
  | 0x20 => bits w.val i 1
  | _ =>
    let n := 4 * fmtNibbles f
    bits w.val (n * i) n

/-- The value of a block element under its scales (R79, R258). -/
def blockVal (f k : Nat) (w : WBlock) (col r : Nat) : XVal :=
  let own := w.desc % 256
  let scale := if codeScaled own && codeScaled f then e3m5 (w.desc / 256) else .num false 1 0 false
  elemVal f (blockElem f k w col r) scale (bandVal w.band)

/-! K-steps. -/

/-- What a step has fetched of A: for each row the two bytes and the scale byte (R259). -/
abbrev ARows := List (Nat × Nat)

/-- Element r of two A bytes (R259). -/
def aElem (f x r : Nat) : Nat :=
  match f with
  | 0x12 => bits x (4 * r) 4
  | 0x20 => bits x r 1
  | 0x04 => x
  | 0x05 => x
  | _ => bits x (8 * r) 8

/-- The values of one A row at a step; a scale byte of 0x100 stands for 1 (R259). -/
def aVals (c : Cmd) (k row : Nat) (x : Nat × Nat) : List XVal :=
  let one : XVal := .num false 1 0 false
  let band := if c.abandv then bandVal (if row < 64 then c.aband.1 else c.aband.2) else one
  let scale := if x.2 = 256 then one else e3m5 x.2
  (List.range k).map fun r => elemVal c.afmt (aElem c.afmt x.1 r) scale band

/-- The minimum or maximum of two F32 patterns with −0 below +0 and NaN canonical (R262). -/
def pickF (great : Bool) (x y : Nat) : Nat :=
  if xIsNan (decodeF .f32 false x) || xIsNan (decodeF .f32 false y) then fmtNan .f32
  else if decide (orderKey .f32 x < orderKey .f32 y) == great then y else x

/-- The exact integer of a value that is one. -/
def xToExact : XVal → Int
  | .num n q e _ => let m : Int := ((q * 2 ^ e.toNat : Nat) : Int); if n then -m else m
  | _ => 0

/-- One cell's step (R261). -/
def cellStep (c : Cmd) (acc : Nat) (as bs : List XVal) (abits bbits : List Nat) : Nat :=
  let ps := as.zip bs
  match c.semi with
  | 0 =>
    if tileInt c then
      wrap 32 (sval 32 acc + (ps.map fun p => xToExact p.1 * xToExact p.2).sum)
    else (roundFmt .f32 .rn false false (xDot .rn ps [decodeF .f32 false acc]).1).1
  | 1 => pickF false acc (roundFmt .f32 .rn false false (xSum .rn [as.headD .nan, bs.headD .nan]).1).1
  | 2 => pickF true acc (roundFmt .f32 .rn false false (xMul (as.headD .nan) (bs.headD .nan)).1).1
  | _ => acc ||| (if (abits.zip bbits).any (fun p => p.1 == 1 && p.2 == 1) then 1 else 0)

/-- One step over the tile, row by row: 128 rows of 64 cells (R261). -/
def tileStep (c : Cmd) (k : Nat) (rows : ARows) (b0 b1 : WBlock) (f0 f1 : Nat) (tile : List (List Nat)) :
    List (List Nat) :=
  let cols := (List.range 64).map fun j =>
    let w := if j < 32 then b0 else b1
    let f := if j < 32 then f0 else f1
    ((List.range k).map (fun r => blockVal f k w (j % 32) r), (List.range k).map fun r => blockElem f k w (j % 32) r)
  (tile.zip rows.zipIdx).map fun p =>
    let as := aVals c k p.2.2 p.2.1
    let ab := (List.range k).map fun r => aElem c.afmt p.2.1.1 r
    (p.1.zip cols).map fun q => cellStep c q.1 as q.2.1 ab q.2.2

/-- The identity of a semiring (R262). -/
def identity (semi : Nat) : Nat :=
  match semi with
  | 1 => 0x7F800000
  | 2 => 0xFF800000
  | _ => 0

/-- A tile's words in rows (R253). -/
def tileRows (v : Anvil) (t : Nat) : List (List Nat) :=
  (List.range 128).map fun i => (List.range 64).map fun j => (aget 0 v.tiles (8192 * t + 64 * i + j)).toNat

/-- Replace a tile's words. -/
def putTile (m : Assoc Word32) (t : Nat) (rows : List (List Nat)) : Assoc Word32 :=
  m.filter (fun p => decide (p.1 < 8192 * t))
    ++ (rows.flatten.zipIdx.filterMap fun p =>
      if p.1 % 2 ^ 32 = 0 then none else some (8192 * t + p.2, BitVec.ofNat 32 p.1))
    ++ m.filter fun p => decide (8192 * (t + 1) ≤ p.1)

/-! The epilogue chain. -/

/-- The segment of an activation table that a value takes (R264). -/
def segmentOf (x : Nat) : Nat :=
  let b : Nat := match decodeF .f32 false x with
    | .inf _ => 31
    | .num _ 0 _ _ => 0
    | .num _ q e _ => (min (max ((bitLen q : Int) - 1 + e + 16) 0) 31).toNat
    | .nan => 0
  (if bitAt x 31 then 32 else 0) + b

/-- Act of R264, with a table's bytes. -/
def actOf (tab : Nat → Nat) (x : Nat) : Nat :=
  match decodeF .f32 false x with
  | .nan => fmtNan .f32
  | v =>
    let n := segmentOf x
    let slope := decodeF .f32 false (tab (8 * n))
    let icpt := decodeF .f32 false (tab (8 * n + 4))
    let p := match slope, v with
      | .nan, _ => XVal.nan
      | s, v => if (xZero s && xIsInfAny v) || (xZero v && xIsInfAny s) then .num false 0 0 false else (xMul s v).1
    (roundFmt .f32 .rn false false (xSum .rn [p, icpt]).1).1
where
  xIsInfAny : XVal → Bool
    | .inf _ => true
    | _ => false

/-- A value on its way through the epilogue: an F32 pattern or an I32. -/
structure EVal where
  int : Bool
  x : Nat
deriving DecidableEq, Repr

/-- The exact value of an epilogue value. -/
def eVal (v : EVal) : XVal := if v.int then xInt (sval 32 v.x) else decodeF .f32 false v.x

/-- The stages before requantisation (R263). -/
def preQuant (c : Cmd) (tab : Nat → Nat) (bias : Nat) (acc : Nat) : EVal :=
  let v : EVal := ⟨tileInt c, acc⟩
  let v := if (c.bias || c.act) && v.int then ⟨false, (roundFmt .f32 .rn false false (eVal v)).1⟩ else v
  let v := if c.bias then ⟨false, addPattern .f32 v.x bias⟩ else v
  if c.act then ⟨false, actOf tab v.x⟩ else v

/-- The rounding mode of the requantisation (R265). -/
def quantMode (c : Cmd) (fpmode : Nat) : RMode :=
  match c.rm with
  | 1 => .rn
  | 2 => .rz
  | 3 => .ru
  | 4 => .rd
  | 5 => .rna
  | _ => rmOf (bits fpmode 0 3)

/-- A value rounded to an I8, clamped; a NaN gives 0 (R265). -/
def toI8 (mode : RMode) : XVal → Nat
  | .nan => 0
  | .inf n => if n then 0x80 else 0x7F
  | .num n q e _ =>
    let m := (xToInt mode n q e).1
    let y : Int := if n then -(m : Int) else m
    wrap 8 (satS 8 y).1

/-- The scale code fitted to a block's values, for an output format (R265). -/
def fitScale (f : Fmt) (oband : XVal) (vs : List XVal) : Nat :=
  let ms := vs.filter fun v => !xIsNan v
  if ms.all xZero then 0x60
  else
    let top := decodeF f false (fmtMax f)
    ((List.range 254).find? fun i =>
      ms.all fun v => xAbsLe v (xMul (xMul top (e3m5 (i + 1))).1 oband).1).elim 0xFE fun i => i + 1

/-- The output format of a pass, as a code (R263, R265). -/
def outFormat (c : Cmd) : Nat :=
  if c.req then c.ofmt else if tileInt c && !(c.bias || c.act) then 0x07 else 0x06

/-- One output block: its values to elements and its SCALE code (R265). -/
def quantBlock (c : Cmd) (fpmode : Nat) (vs : List EVal) : List Nat × Nat :=
  let mode := quantMode c fpmode
  let sat := c.satq || bitAt fpmode 4
  if !c.req then (vs.map (·.x), 0)
  else match c.ofmt with
  | 0x06 => (vs.map fun v => if v.int then (roundFmt .f32 mode false false (eVal v)).1 else v.x, 0)
  | 0x01 => (vs.map fun v => toI8 mode (eVal v), 0)
  | _ =>
    match codeFmt c.ofmt with
    | none => (vs.map (·.x), 0)
    | some f =>
      if codeScaled c.ofmt then
        let ob := bandVal c.oband
        let code := if c.ossrc = 1 then fitScale f ob (vs.map eVal) else c.oscale
        let den := (xMul ob (e3m5 code)).1
        (vs.map fun v => (roundFmt f mode sat false (xDiv (eVal v) den)).1, code)
      else (vs.map fun v => (roundFmt f mode sat false (eVal v)).1, 0)

/-- Pack elements of n nibbles into bytes (R81, R266). -/
def packElems (n : Nat) (xs : List Nat) : List Byte :=
  valBytes (xs.length * n / 2) (xs.foldr (fun x acc => x % 2 ^ (4 * n) + 2 ^ (4 * n) * acc) 0)

/-- Cut a list into pieces of n. -/
def chunks {α : Type} (n : Nat) : Nat → List α → List (List α)
  | 0, _ => []
  | f + 1, xs => if xs.isEmpty then [] else xs.take n :: chunks n f (xs.drop n)

/-- The output of a pass: 64-byte blocks with their descriptors, from OUT up (R266). -/
def outBlocks (c : Cmd) (fpmode : Nat) (tab bias : Nat → Nat) (rows : List (List Nat)) :
    List (Nat × List Byte × BitVec 16) :=
  let f := outFormat c
  let n := fmtNibbles f
  let vals := rows.flatMap fun row => row.zipIdx.map fun p => preQuant c tab (bias (4 * p.2)) p.1
  (chunks (128 / n) 512 vals).zipIdx.map fun p =>
    let q := quantBlock c fpmode p.1
    (wrap 64 ((c.out : Int) + 64 * p.2), packElems n q.1, BitVec.ofNat 16 (f + 256 * q.2))

end Sys2Proof.Machine
end

