-- ==== Sys2Proof/Machine/Anvil.lean ====
section
/-! DEFINITION. The anvil (R250 to R254, R267 to R274): issuing its requests, granting them in order, judging and running
them, their error records, and their completion. -/

namespace Sys2Proof.Machine

/-- The tile mask and the weight-buffer window (first byte, bytes) of a context's grant (R253, R338). -/
def grantOf (s : State) (core ctx : Nat) : Nat × Nat × Nat :=
  let r := ctxRecord s core ctx
  (fld r 240 8, fld r 248 5 * 65536, fld r 253 6 * 65536)

/-! Issue. -/

/-- The lane values of a request's registers (R250). -/
def reqVals (sl : Slice) (act : BitVec 4) (rs : List Nat) : List Nat :=
  rs.map fun r => regVal true sl r ((lowestLane act).getD 0)

/-- One slice's issue of an anvil request (R250, R251, R271): `more` gives the verdict that its own operands add. What that
raises comes before a stall on a full table or on TL: DESIGN CHOICE (log entry 173). -/
def anvilSlice (s : State) (rs : List Nat) (more : Env → Slice → List Nat → Option Verdict) (e : Env) (sl : Slice) :
    Verdict :=
  let act := actLanes sl.a
  let o : Operands := ⟨rs.map fun r => (.int, r), none⟩
  match checkOperands e sl act o false with
  | some v => v
  | none =>
    match stallOperands e sl act o with
    | some v => v
    | none =>
      if badSrc e sl (lowMask act) o then .error ⟨codeUNCORRECTABLE, 0, 0, badLanes e sl (lowMask act) o⟩
      else
        let fin : Slice → Slice := fun x => { finishLane e sl act o none none x with park := none }
        if act = 0 then .done (fin sl) [] none
        else if sl.check.isSome then .held
        else match sl.anvErr with
        | some c => .fault ⟨codeANVIL_ERROR, c, 0, 0⟩
        | none =>
          match more e sl (reqVals sl act rs) with
          | some v => v
          | none =>
            if sl.ntl = 63 || decide (16 ≤ (anvilAt s (anvilOf e.core)).resv.length) || acqPending s e.key then
              .stall [] []
            else
              let sl1 := fin sl
              .done { sl1 with ntl := sl1.ntl + 1 } [] none

/-- The slice in whose name an issuer's request is made: its own, or that of a trap context's invocation (R337). -/
def namedSlice (s : State) (e : Env) : Nat :=
  let c := coreAt s e.core
  if trapBase ≤ e.key then 32 * teamKey e.core c.tteam + c.tslice else e.key

/-- A new entry of the reservation table, with what it captures (R250). -/
def newReq (s : State) (e : Env) (sl : Slice) (kind : Nat) (cb : BitVec 512) (addr r1 r2 tile : Nat) : AReq where
  id := s.serial
  issued := s.clock.toNat
  prio := fld (ctxRecord s e.core e.ctx) 232 8
  core := e.core
  owner := e.key
  slice := namedSlice s e
  ctx := e.ctx
  kind := kind
  cb := cb
  addr := BitVec.ofNat 64 addr
  r1 := BitVec.ofNat 64 r1
  r2 := BitVec.ofNat 64 r2
  tile := tile
  fpmode := sl.fpmodeA
  checked := (teamAt s (teamKeyOf s e)).any fun t => t.checked
  apc := sl.a.pc
  launch := keyLaunch s e.key
  ended := false
  code := 0
  granted := false
  committed := false
  errs := 0
  misses := 0
  park := none
  bias := []
  done := 0
  out := []
  inbox := []
  remote := 0
  olds := []

/-- Enter a request that the issue counted in TL. -/
def enterReq (s s' : State) (mk : Env → Slice → AReq) : State :=
  let k := accessKey s.issuer
  match envOf s k true with
  | none => s'
  | some e =>
    if (sliceAt s' k).ntl = (sliceAt s k).ntl + 1 then
      let n := anvilOf e.core
      let a := anvilAt s' n
      let s' := putAnvil s' n { a with resv := a.resv ++ [mk e (sliceAt s k)] }
      { s' with serial := s'.serial + 1 }
    else s'

/-- The specification of a command block's address (R255). -/
def cbSpec (e : Env) : AccSpec := ⟨e.ctx, e.core, 64, 64, false, false, .sram codeANVIL_SPACE⟩

/-- The location of a command block whose check passes. -/
def cbLoc (s : State) (e : Env) (a : Nat) : Nat :=
  match checkAddr s (cbSpec e) (fun _ => false) a with
  | .ok t => t.loc
  | _ => 0

/-- MXLOOP (R255): the command block is read at issue, after the slice's own earlier stores to it. -/
def execMxloop (c : AReg) (s : State) : Host.Outcome State Fault Refusal :=
  andThen (issueLane s .access false (anvilSlice s [c.toNat] fun e sl vs =>
      let a := vs.headD 0
      let l := (lowestLane (actLanes sl.a)).getD 0
      match checkAddr s (cbSpec e) (fun _ => false) a with
      | .bad code => some (failNow sl ⟨code, 0, BitVec.ofNat 64 a, BitVec.ofNat 4 (2 ^ l)⟩)
      | .miss _ => some (.stall [] [])
      | .stall => some (.stall [] [])
      | .ok t =>
        if s.flights.any fun f => f.owner = e.key && isLaneWrite f && touches f t.loc 64 then some (.stall [] [])
        else if poisoned s t.loc 64 then
          some (.error ⟨codeUNCORRECTABLE, 0, BitVec.ofNat 64 a, BitVec.ofNat 4 (2 ^ l)⟩)
        else none))
    fun s' => enterReq s s' fun e sl =>
      let a := (reqVals sl (actLanes sl.a) [c.toNat]).headD 0
      let cb := BitVec.ofNat 512 (readBytes s.mem (cbLoc s e a) 64)
      newReq s e sl 0 cb a 0 0 (cmdOf cb).tile

/-- MXLDB (R268). -/
def execMxldb (w src c : AReg) (s : State) : Host.Outcome State Fault Refusal :=
  andThen (issueLane s .access false (anvilSlice s [w.toNat, src.toNat, c.toNat] fun _ _ _ => none))
    fun s' => enterReq s s' fun e sl =>
      let vs := reqVals sl (actLanes sl.a) [w.toNat, src.toNat, c.toNat]
      newReq s e sl 1 0 ((vs.drop 1).headD 0) (vs.headD 0) ((vs.drop 2).headD 0) 0

/-- MXST (R269). -/
def execMxst (t : BitVec 3) (d : AReg) (s : State) : Host.Outcome State Fault Refusal :=
  andThen (issueLane s .access false (anvilSlice s [d.toNat] fun _ _ _ => none))
    fun s' => enterReq s s' fun e sl =>
      newReq s e sl 2 0 ((reqVals sl (actLanes sl.a) [d.toNat]).headD 0) 0 0 t.toNat

/-- MXLDT (R269). -/
def execMxldt (t : BitVec 3) (src : AReg) (s : State) : Host.Outcome State Fault Refusal :=
  andThen (issueLane s .access false (anvilSlice s [src.toNat] fun _ _ _ => none))
    fun s' => enterReq s s' fun e sl =>
      newReq s e sl 3 0 ((reqVals sl (actLanes sl.a) [src.toNat]).headD 0) 0 0 t.toNat

/-! The reservation table. -/

/-- Whether a request is granted before another (R251). -/
def grantBefore (x y : AReq) : Bool :=
  decide (x.issued < y.issued) || (x.issued == y.issued &&
    (decide (y.prio < x.prio) || (x.prio == y.prio && (decide (x.core < y.core) || (x.core == y.core && decide (x.id < y.id))))))

/-- Replace a request. -/
def putReq (v : Anvil) (r : AReq) : Anvil := { v with resv := v.resv.map fun x => if x.id = r.id then r else x }

/-- Remove a request. -/
def dropReq (v : Anvil) (id : Nat) : Anvil := { v with resv := v.resv.filter fun x => x.id != id }

/-- The request with an identifier and its anvil's number. -/
def reqAt (s : State) (id : Nat) : Option (Nat × AReq) :=
  s.anvils.findSome? fun v => (v.2.resv.find? fun r => r.id = id).map fun r => (v.1, r)

/-- The weight-buffer bytes a request names: windows of other contexts do not overlap, so the offsets of the window
stand for them; a pass is taken to name all of its slabs' span. -/
def reqBytes (s : State) (r : AReq) : Nat × Nat :=
  let w := (grantOf s r.core r.ctx).2.1
  if r.kind = 0 then
    let c := cmdOf r.cb
    (w + c.boff, w + c.boff + (c.ksteps - 1) * c.bkinc + 128)
  else if r.kind = 1 then (w + bits r.r1.toNat 0 21, w + bits r.r1.toNat 0 21 + 64 * bits r.r2.toNat 0 16)
  else (0, 0)

/-- Whether two requests depend on each other (R252). -/
def dependent (s : State) (x y : AReq) : Bool :=
  let tile : AReq → Option Nat := fun r => if r.kind = 0 || r.kind = 2 then some r.tile else none
  let slot : AReq → Option Nat := fun r =>
    if r.kind = 3 then some r.tile else if r.kind = 0 && (cmdOf r.cb).act then some (cmdOf r.cb).actid else none
  let bx := reqBytes s x
  let by_ := reqBytes s y
  x.owner == y.owner || ((tile x).isSome && tile x == tile y) || ((slot x).isSome && slot x == slot y)
    || (decide (bx.1 < by_.2) && decide (by_.1 < bx.2))

/-- Whether an earlier granted request on which one depends has not completed. -/
def mustWait (s : State) (v : Anvil) (r : AReq) : Bool := v.resv.any fun x => x.id != r.id && x.granted && dependent s x r

/-! Errors. -/

/-- The 64-byte anvil error record (R273). -/
def anvilRecord (s : State) (n : Nat) (r : AReq) (f : AFail) : List Byte :=
  let k := if trapBase ≤ r.owner then 0 else r.owner % 32
  let place := r.slice / 32 % 16
  valBytes 64 (2 + f.code * 2 ^ 16 + n * 2 ^ 32 + r.core * 2 ^ 48 + (r.apc.toNat % 2 ^ 32) * 2 ^ 64 + k * 2 ^ 96
    + place * 2 ^ 102 + s.clock.toNat * 2 ^ 128 + r.addr.toNat * 2 ^ 192 + r.kind * 2 ^ 256 + r.tile * 2 ^ 258
    + f.kstep * 2 ^ 272 + (f.detail % 2 ^ 32) * 2 ^ 288 + f.faddr * 2 ^ 320)

/-- Lower TL of a slice by a number of requests. -/
def lowerTl (s : State) (k n : Nat) : State :=
  let sl := sliceAt s k
  putSlice s k { sl with ntl := sl.ntl - n }

/-- What a failed request leaves once its record is written and what it sent is answered (R271, R412): the tile of a pass
becomes INVALID, the slice's ungranted entries go with the failing one, TL falls for each, and the slice holds the pending
mark. One whose launch was killed just leaves (R354). -/
def settleFail (s : State) (n id : Nat) : State :=
  match (anvilAt s n).resv.find? fun r => r.id = id with
  | none => s
  | some r =>
    if !r.ended || r.remote ≠ 0 || recordWaits s (.anvil n id) then s
    else if r.code = 0 then putAnvil s n (dropReq (anvilAt s n) id)
    else
      let v := anvilAt s n
      let v := if r.kind = 0 && bitAt (grantOf s r.core r.ctx).1 r.tile then
          { v with invalid := v.invalid ||| BitVec.ofNat 8 (2 ^ r.tile) } else v
      let goes : AReq → Bool := fun x => x.id = id || (x.owner = r.owner && !x.granted)
      let s := putAnvil s n { v with resv := v.resv.filter fun x => !goes x }
      if orphanBase ≤ r.owner then s
      else
        let s := lowerTl s r.owner (v.resv.filter goes).length
        putSlice s r.owner { sliceAt s r.owner with anvErr := some r.code }

/-- A request fails (R271): its record comes first, and its entry stays until that is written and what it sent is answered
(R126, R412). -/
def failReq (s : State) (n : Nat) (r : AReq) (f : AFail) : State :=
  let s := submitRecord s r.ctx r.core (anvilRecord s n r f) none (.anvil n r.id)
  settleFail (putAnvil s n (putReq (anvilAt s n) { r with
    ended := true, code := f.code, granted := true, park := none, inbox := [], out := [] })) n r.id

/-- The K-step of what is detected after the array ran: the last, of an MXLOOP. DESIGN CHOICE (log entry 160). -/
def afterSteps (r : AReq) : Nat := if r.kind = 0 then (cmdOf r.cb).ksteps - 1 else 0

/-- A pass fails its second comparison (R272), with KSTEP as `afterSteps` gives it (log entry 160): it fails, and the team of the slice that issued it takes a machine check, also
where the invocation that issued it has ended (R337). Of a team that has ended, the launch alone is marked (log entry 158). -/
def failCheck (s : State) (n : Nat) (r : AReq) (row : Nat) : State :=
  let s := failReq s n r ⟨0xA, row, 0, afterSteps r⟩
  if (teamAt s (r.slice / 32)).any fun t => t.launch = r.launch then
    machineCheck s r.slice true ⟨codeANVIL_CHECK, 0xA, 0, 0⟩
  else match launchAt s r.launch with
  | some l => if l.ended then s else putLaunch s r.launch (some { l with status := 3 })
  | none => s

/-- Complete a request: it leaves the table and TL falls (R270). -/
def completeReq (s : State) (n : Nat) (r : AReq) : State :=
  lowerTl (putAnvil s n (dropReq (anvilAt s n) r.id)) r.owner 1

/-- The DETAIL of an access failure (R273). -/
def accDetail (code : Nat) : Nat :=
  if code = codeSRAM_RANGE then 1 else if code = codeSRAM_ACCESS then 2 else if code = codeAPERTURE then 3
  else if code = codeMISALIGNED then 4 else if code = codePAGE_FAULT then 5 else if code = codeNONCANONICAL then 7 else 3

/-- The pages whose requests were refused for a parked unit. -/
def refusedBy (p : Option Park) (page : Nat) : Bool := p.any fun x => x.refused && x.page == page

/-- Check an address of an anvil request: bytes, alignment, write. -/
def anvilChk (s : State) (r : AReq) (bytes align : Nat) (write : Bool) (a : Nat) : Chk :=
  checkAddr s ⟨r.ctx, r.core, bytes, align, write, false, .any⟩ (refusedBy r.park) a

/-- Park a request on a miss (R112, R271). -/
def parkReq (s : State) (n : Nat) (r : AReq) (page : Nat) (write : Bool) : State :=
  addWalk (putAnvil s n (putReq (anvilAt s n) { r with park := some ⟨page, write, false, none⟩ })) (vdevOf r.ctx) page write
    0xFFF (anvilDie n)

/-- What checking n blocks of 64 bytes from an address gives: their targets, or the first that does not pass. -/
def chkBlocks (s : State) (r : AReq) (write : Bool) (a : Nat) : Nat → List Target × Option Chk
  | 0 => ([], none)
  | m + 1 =>
    match anvilChk s r 64 64 write a with
    | .ok t =>
      let x := chkBlocks s r write (wrap 64 ((a : Int) + 64)) m
      (t :: x.1, x.2)
    | c => ([], some c)

/-- What the blocks of a read gave. -/
inductive Fetch where
  | got (bs : List (List Byte × Nat))
  | bad (f : AFail) (before : List (List Byte × Nat))
  | park (page : Nat)
  | wait (s : State)
deriving DecidableEq, Repr

/-- Read 64-byte blocks with their descriptors through checked targets: here, or from what other modules have
answered; a block that is not ready, or not yet answered, waits. A stored error gives `unit` as its DETAIL. -/
def readBlocks (s : State) (r : AReq) (unit addr : Nat) : List Target → Nat → List (List Byte × Nat) × Option (Option AFail)
  | [], _ => ([], none)
  | t :: ts, i =>
    if isRemote t then
      match r.inbox.find? (fun p => p.1 = 2 * i), r.inbox.find? (fun p => p.1 = 2 * i + 1) with
      | some d, some x =>
        let rest := readBlocks s r unit addr ts (i + 1)
        ((d.2, bytesVal (x.2.take 2)) :: rest.1, rest.2)
      | _, _ => ([], some none)
    else if !targetReady s t || !sramInPlace s r.ctx t 64 || !served s (vdevOf r.ctx) t then ([], some none)
    else if poisoned s t.loc 64 then ([], some (some ⟨9, unit, wrap 64 ((addr : Int) + 64 * i), 0⟩))
    else
      let rest := readBlocks s r unit addr ts (i + 1)
      ((readList (seen (withOlds r.olds s) t 64) t.loc 64, (descAt s t.loc).toNat) :: rest.1, rest.2)

/-- Whether block i of a read lies in another module and has not been answered yet. -/
def blockMissing (r : AReq) (t : Target) (i : Nat) : Bool := isRemote t && !r.inbox.any fun p => p.1 == 2 * i

/-- Ask other modules for the blocks of a read that lie there and are not at hand, data and descriptor (R387). -/
def askBlocks (s : State) (n : Nat) (r : AReq) : List Target → Nat → State × Nat
  | [], _ => (s, 0)
  | t :: ts, i =>
    if blockMissing r t i then
      let s := sendRemote s (.anvil n r.id (2 * i) t.va) r.ctx (remoteDest t) 0 (readMsg 0 t.loc 64 (isClear t))
      let s := sendRemote s (.anvil n r.id (2 * i + 1) t.va) r.ctx (remoteDest t) 0 ⟨1, 0, 2, 0, t.loc, isClear t, []⟩
      let x := askBlocks s n r ts (i + 1)
      (x.1, x.2 + 2)
    else askBlocks s n r ts (i + 1)

/-- Fetch n blocks for a request (R263, R268, R269): those of other modules that are not at hand yet are asked for, also when
the request goes on after a miss (R112, R271). -/
def fetchBlocks (s : State) (n : Nat) (r : AReq) (unit addr count : Nat) : Fetch :=
  let c := chkBlocks s r false addr count
  let ok := c.1
  if r.remote ≠ 0 then .wait s
  else if ok.zipIdx.any fun p => blockMissing r p.1 p.2 then
    if !(ok.all fun t => !isRemote t || remoteOpen s r.ctx (remoteDest t) 0) then .wait s
    else
    let x := askBlocks s n r ok 0
    .wait (putAnvil x.1 n (putReq (anvilAt x.1 n) { r with remote := x.2 }))
  else
    let got := readBlocks s r unit addr ok 0
    match got.2, c.2 with
    | some none, _ => .wait s
    | some (some f), _ => .bad f got.1
    | none, none => .got got.1
    | none, some (.bad code) => .bad ⟨8, accDetail code, wrap 64 ((addr : Int) + 64 * ok.length), 0⟩ got.1
    | none, some (.miss p) => .park p
    | none, some _ => .wait s

/-- An uncorrectable error met by a request: the first is followed by another read, the second fails it (R268, R269,
R272). -/
def meetError (s : State) (n : Nat) (r : AReq) (f : AFail) (last : State → State) : State :=
  if r.errs = 0 then putAnvil s n (putReq (anvilAt s n) { r with errs := 1, bias := [], inbox := [] })
  else failReq (last s) n r f

/-! Grant. -/

/-- The ill-formed registers of an MXLDB (R268), in an order that the spec leaves open (log entry 111). -/
def judgeLdb (r : AReq) (wsize : Nat) : Option AFail :=
  let w := r.r1.toNat
  let c := r.r2.toNat
  let lowBit : Nat → Nat → Nat → Option Nat := fun x lo hi => (List.range (hi - lo)).findSome? fun i =>
    if bitAt x (lo + i) then some (lo + i) else none
  match lowBit w 21 64 with
  | some b => some ⟨1, 0x100 + b, 0, 0⟩
  | none =>
    if w % 64 ≠ 0 then some ⟨1, 0x100, 0, 0⟩
    else match lowBit c 33 64 with
    | some b => some ⟨1, 0x140 + b, 0, 0⟩
    | none =>
      if bits c 0 16 = 0 || 32768 < bits c 0 16 then some ⟨1, 0x140, 0, 0⟩
      else if xOdd (bandVal (bits c 16 16)) then some ⟨3, 0x150, 0, 0⟩
      else if wsize < bits w 0 21 + 64 * bits c 0 16 then some ⟨5, bits w 0 21, 0, 0⟩
      else none

/-- What judging a request at grant finds (R257, R268, R269). -/
def judgeReq (s : State) (n : Nat) (r : AReq) : Option AFail :=
  let g := grantOf s r.core r.ctx
  let v := anvilAt s n
  match r.kind with
  | 0 => judgeCmd r.cb g.1 g.2.2 v.tabOk v.invalid
  | 1 => judgeLdb r g.2.2
  | 2 =>
    if !bitAt g.1 r.tile then some ⟨4, r.tile, 0, 0⟩
    else if v.invalid.getLsbD r.tile then some ⟨6, r.tile, 0, 0⟩
    else none
  | _ => none

/-- Read the bias vector of a granted pass (R263): it fails, parks or waits where that is not there. -/
def readBias (s : State) (n : Nat) (r : AReq) (c : Cmd) : State :=
  match fetchBlocks s n r 5 c.biasaddr 4 with
  | .got bs =>
    let s := spendFor s r.ctx (chkBlocks s r false c.biasaddr 4).1
    putAnvil s n (putReq (anvilAt s n) { r with bias := bs.flatMap (·.1), inbox := [], park := none })
  | .bad f _ => if f.code = 9 then meetError s n r f (fun x => x) else failReq s n r f
  | .park p => parkReq s n r p false
  | .wait s' => s'

/-- ANVIL_GRANT (R251, R252, R257, R263): the anvil's first waiting request in grant order is granted, unless a granted one
on which it depends is still at work; it is judged, and a pass reads its bias. -/
def execAnvilGrant (n : Nat) (s : State) : Host.Outcome State Fault Refusal :=
  let v := anvilAt s n
  .next (match leastBy grantBefore (v.resv.filter fun r => !r.granted) with
    | none => s
    | some r =>
      if mustWait s v r then s
      else match judgeReq s n r with
      | some f => failReq s n { r with granted := true } f
      | none =>
        let g := { r with granted := true }
        let s := putAnvil s n (putReq v g)
        if r.kind = 0 && (cmdOf r.cb).bias then readBias s n g (cmdOf r.cb) else s)

/-! The pass. -/

/-- What a pass finds at one A or A scale byte range (R259): a location, a failure, or a wait. -/
inductive AFetch where
  | loc (a : Nat)
  | fail (f : AFail)
  | wait
deriving DecidableEq, Repr

/-- Check one A address (R259). -/
def aAddr (s : State) (n : Nat) (r : AReq) (a bytes kstep unit : Nat) : AFetch :=
  let no : Nat → AFetch := fun d => .fail ⟨8, d, a, kstep⟩
  if 2 ^ 56 ≤ a then no 7
  else match regionOf r.core a with
  | .unused => no 1
  | .paged => no 6
  | .sram core off =>
    if core / 24 ≠ n / 6 then no 6
    else match sramOwner s r.ctx core off with
    | none => no 2
    | some (_, t) =>
      if t.base + t.size < off + bytes then no 2
      else if sramWaits t off bytes then .wait
      else if poisoned s (sramAddr core off) bytes then .fail ⟨9, unit, a, kstep⟩
      else .loc (sramAddr core off)

/-- What fetching gives: data, a failure, or a wait. -/
inductive Got (α : Type) where
  | ok (x : α)
  | fail (f : AFail)
  | wait
deriving DecidableEq, Repr

/-- Fetch the A rows of a step (R259), each with its scale before the next (log entry 159). -/
def fetchRows (s : State) (n : Nat) (r : AReq) (c : Cmd) (k : Nat) : List Nat → Got ARows
  | [] => .ok []
  | i :: is =>
    let x := wrap 64 ((c.abase + i * c.astride + k * c.akinc : Nat) : Int)
    match aAddr s n r x 2 k 1 with
    | .wait => .wait
    | .fail f => .fail f
    | .loc a =>
      let rest : Nat → Got ARows := fun sc =>
        match fetchRows s n r c k is with
        | .ok xs => .ok ((readBytes (withOlds r.olds s).mem a 2, sc) :: xs)
        | g => g
      if c.ascale ≠ 0 && scaledA c.afmt then
        let d := i * c.astride + k * c.akinc
        match aAddr s n r (wrap 64 ((c.ascale + d / 64 : Nat) : Int)) 1 k 2 with
        | .wait => .wait
        | .fail f => .fail f
        | .loc b =>
          let sc := readBytes (withOlds r.olds s).mem b 1
          if sc = 0xFF then .fail ⟨3, d, 0, k⟩ else rest sc
      else rest 256

/-- One block of a step's slab, in its format. -/
def slabBlock (v : Anvil) (c : Cmd) (w k b : Nat) : Got (WBlock × Nat) :=
  let off := w + c.boff + k * c.bkinc + 64 * b
  if v.badWb.contains (off / 64) then .fail ⟨9, 3, 0, k⟩
  else
    let x := wbBlock v off
    match blockFormat c x with
    | .inl f => .ok (x, f)
    | .inr code => .fail ⟨code, 2 * k + b, 0, k⟩

/-- Run the steps of a pass from a tile (R257, R261). -/
def runSteps (s : State) (n : Nat) (r : AReq) (c : Cmd) (w : Nat) : List Nat → List (List Nat) → Got (List (List Nat))
  | [], tile => .ok tile
  | k :: ks, tile =>
    match fetchRows s n r c k (List.range 128) with
    | .fail f => .fail f
    | .wait => .wait
    | .ok rows =>
      match slabBlock (anvilAt s n) c w k 0 with
      | .fail f => .fail f
      | .wait => .wait
      | .ok b0 =>
        match slabBlock (anvilAt s n) c w k 1 with
        | .fail f => .fail f
        | .wait => .wait
        | .ok b1 =>
          runSteps s n r c w ks (tileStep c (stepK c.afmt) rows b0.1 b1.1 b0.2 b1.2 tile)

/-- Run a whole pass on its working copy (R257, R259, R261, R272). A stored error of its tile or its table comes before any
A or B data (log entry 159). -/
def runPass (s : State) (n : Nat) (r : AReq) (c : Cmd) : Got (List (List Nat)) :=
  let v := anvilAt s n
  if c.abase % 2 ≠ 0 then .fail ⟨8, if 2 ^ 56 ≤ c.abase then 7 else 4, c.abase, 0⟩
  else if !c.clear && v.badTile.contains c.tile then .fail ⟨9, 4, 0, 0⟩
  else if c.act && v.badTab.contains c.actid then .fail ⟨9, 7, 0, 0⟩
  else
    let start := if c.clear then List.replicate 128 (List.replicate 64 (identity c.semi)) else tileRows v c.tile
    runSteps s n r c (grantOf s r.core r.ctx).2.1 (List.range c.ksteps) start

/-- Commit a pass: the tile becomes valid with its new words, and the output waits to be written (R254, R263, R272). -/
def commitPass (s : State) (n : Nat) (r : AReq) (c : Cmd) (rows : List (List Nat)) : State :=
  let v := anvilAt s n
  let tab : Nat → Nat := fun o => readBytes v.tabs (512 * c.actid + o) 4
  let bias : Nat → Nat := fun o => bytesVal ((r.bias.drop o).take 4)
  let out := if c.final then outBlocks c r.fpmode.toNat tab bias rows else []
  putAnvil s n (putReq { v with
    tiles := putTile v.tiles c.tile rows
    invalid := v.invalid &&& ~~~(BitVec.ofNat 8 (2 ^ c.tile))
    badTile := v.badTile.filter fun t => t != c.tile } { r with committed := true, out := out, inbox := [], park := none })

/-- The lowest row whose comparison fails in this move (R272, R273, R333). -/
def anvilMismatch (s : State) (n : Nat) : Option Nat :=
  leastBy (fun x y => decide (x < y)) ((s.soft.filter fun p => p.1 = 2 ^ 22 + n).map (·.2))

/-- ANVIL_PASS_COMMIT (R257, R263, R272): a granted pass runs its steps, and commits, or meets an error that makes it run
again or fail. A bias vector that was not at hand at the grant, or that is to be read again, is read first. -/
def execAnvilPassCommit (id : Nat) (s : State) : Host.Outcome State Fault Refusal :=
  .next (match reqAt s id with
    | none => s
    | some (n, r) =>
      let c := cmdOf r.cb
      if r.kind ≠ 0 || !r.granted || r.committed || r.ended then s
      else if c.bias && r.bias.isEmpty then readBias s n r c
      else match runPass s n r c with
      | .wait => s
      | .fail f => if f.code = 9 then meetError s n r f (fun x => x) else failReq s n r f
      | .ok rows =>
        match (if r.checked then anvilMismatch s n else none) with
        | some row =>
          if r.misses = 0 then putAnvil s n (putReq (anvilAt s n) { r with misses := 1 })
          else failCheck s n r row
        | none => commitPass s n r c rows)

/-! Completion. -/

/-- The tag of a request that writes. -/
def anvilWriteTag : Nat := 2 ^ 20

/-- Send one output block with its descriptor to another module. -/
def sendOut (s : State) (n : Nat) (r : AReq) (dest : Nat) (t : Target) (bs : List Byte) (d : BitVec 16) : State × Nat :=
  let s := sendRemote s (.anvil n r.id anvilWriteTag t.va) r.ctx dest 0 (writeMsg 0 t.loc bs (isClear t))
  if d = 0 then (s, 1)
  else (sendRemote s (.anvil n r.id anvilWriteTag t.va) r.ctx dest 0 ⟨1, 0, 3, 0, t.loc, isClear t, valBytes 4 d.toNat⟩, 2)

/-- Write output blocks through checked targets, and send second copies (R266, R269, R394). -/
def writeOut (s : State) (n : Nat) (r : AReq) : List (Target × List Byte × BitVec 16) → State × Nat
  | [] => (s, 0)
  | (t, bs, d) :: rest =>
    let y :=
      if isRemote t then sendOut s n r (remoteDest t) t bs d
      else
        let s := if mayWrite s r.ctx t then storeDesc s t.key t.loc bs d else s
        match t.dup with
        | some e => sendOut s n r e t bs d
        | none => (s, 0)
    let z := writeOut y.1 n r rest
    (z.1, z.2 + y.2)

/-- Whether an output block has to wait: for its memory, its SRAM, its controller, an earlier read of its slice (R127), or
the streams that it needs (R388). -/
def outWaits (s : State) (r : AReq) (t : Target) : Bool :=
  !targetReady s t || !sramInPlace s r.ctx t 64 || entryHeld s r.ctx t || !served s (vdevOf r.ctx) t || readsFirst s r.owner r.id t 64
    || !(match t.space with
      | .remote d => remoteOpen s r.ctx d 0
      | _ => t.dup.all fun d => remoteOpen s r.ctx d 0)

/-- The blocks of a request that are to be written. -/
def reqOut (s : State) (n : Nat) (r : AReq) : List (Nat × List Byte × BitVec 16) :=
  if r.kind = 2 then
    (chunks 16 512 (tileRows (anvilAt s n) r.tile).flatten).zipIdx.map fun p =>
      (wrap 64 ((r.addr.toNat : Int) + 64 * p.2), p.1.flatMap (valBytes 4), 0)
  else r.out

/-- Check the addresses of output blocks in order: targets, or the first that does not pass. -/
def chkOut (s : State) (r : AReq) : List (Nat × List Byte × BitVec 16) →
    List (Target × List Byte × BitVec 16) × Option (Chk × Nat)
  | [] => ([], none)
  | (a, bs, d) :: rest =>
    match anvilChk s r 64 64 true a with
    | .ok t =>
      let x := chkOut s r rest
      ((t, bs, d) :: x.1, x.2)
    | c => ([], some (c, a))

/-- Write a request's output and complete it, or fail, park or wait (R266, R269, R271). A failure after the steps names the last
of them (log entry 160). -/
def finishOut (s : State) (n : Nat) (r : AReq) : State :=
  let x := chkOut s r (reqOut s n r)
  match x.2 with
  | some (.bad code, a) => failReq s n r ⟨8, accDetail code, a, afterSteps r⟩
  | some (.miss p, _) => parkReq s n r p true
  | some _ => s
  | none =>
    if x.1.any fun o => outWaits s r o.1 then s
    else
      let y := writeOut (spendFor s r.ctx (x.1.map (·.1))) n r x.1
      if y.2 = 0 then completeReq y.1 n r
      else putAnvil y.1 n (putReq (anvilAt y.1 n) { r with remote := y.2, done := 1, park := none })

/-- Load blocks into the weight buffer at a byte offset, each with its descriptor and band scale (R268). -/
def loadBlocks (v : Anvil) (off : Nat) (band : BitVec 16) : List (List Byte × Nat) → Anvil
  | [] => v
  | (bs, d) :: rest =>
    loadBlocks { v with
      wb := writeList v.wb off bs
      wbDesc := aput 0 v.wbDesc (off / 64) (BitVec.ofNat 16 d)
      wbBand := aput 0x3F80 v.wbBand (off / 64) band
      badWb := v.badWb.filter fun b => b != off / 64 } (off + 64) band rest

/-- Load blocks of an MXLDB as far as they were read. -/
def ldbDone (s : State) (n : Nat) (r : AReq) (bs : List (List Byte × Nat)) : State :=
  let c := r.r2.toNat
  let band : BitVec 16 := if bitAt c 32 then BitVec.ofNat 16 (bits c 16 16) else 0x3F80
  putAnvil s n (loadBlocks (anvilAt s n) ((grantOf s r.core r.ctx).2.1 + bits r.r1.toNat 0 21) band bs)

/-- Load a table, or make its slot invalid (R269). -/
def ldtDone (s : State) (n : Nat) (r : AReq) (bs : Option (List Byte)) : State :=
  let v := anvilAt s n
  let bit := BitVec.ofNat 8 (2 ^ r.tile)
  putAnvil s n (match bs with
    | some x => { v with
        tabs := writeList v.tabs (512 * r.tile) x
        tabOk := v.tabOk ||| bit
        badTab := v.badTab.filter fun t => t != r.tile }
    | none => { v with tabOk := v.tabOk &&& ~~~bit })

/-- ANVIL_REQUEST_COMPLETE (R266 to R270): the loads and writes of a granted request are made and TL falls. An MXST of a tile
that holds an uncorrectable error is tried again once and then fails (log entry 161). -/
def execAnvilRequestComplete (id : Nat) (s : State) : Host.Outcome State Fault Refusal :=
  .next (match reqAt s id with
    | none => s
    | some (n, r) =>
      if !r.granted || r.remote ≠ 0 || r.ended then s
      else match r.kind with
      | 0 => if !r.committed then s else if r.done = 1 then completeReq s n r else finishOut s n r
      | 1 =>
        match fetchBlocks s n r 6 r.addr.toNat (bits r.r2.toNat 0 16) with
        | .got bs =>
          completeReq (ldbDone (spendFor s r.ctx (chkBlocks s r false r.addr.toNat (bits r.r2.toNat 0 16)).1) n r bs) n r
        | .bad f before =>
          if f.code = 9 then meetError s n r f fun s => ldbDone s n r before else failReq (ldbDone s n r before) n r f
        | .park p => parkReq s n r p false
        | .wait s' => s'
      | 2 =>
        if r.done = 1 then completeReq s n r
        else if (anvilAt s n).badTile.contains r.tile then meetError s n r ⟨9, 4, 0, 0⟩ fun x => x
        else finishOut s n r
      | _ =>
        match fetchBlocks s n r 7 r.addr.toNat 8 with
        | .got bs =>
          completeReq (ldtDone (spendFor s r.ctx (chkBlocks s r false r.addr.toNat 8).1) n r
            (some (bs.flatMap (·.1)))) n r
        | .bad f _ =>
          if f.code = 9 then meetError s n r f fun s => ldtDone s n r none else failReq (ldtDone s n r none) n r f
        | .park p => parkReq s n r p false
        | .wait s' => s')

end Sys2Proof.Machine
end

