-- ==== Sys2Proof/Machine/Scribe.lean ====
section
/-! DEFINITION. Scribes as the slices of their cluster see them (R275 to R283, R306): virtual queues, booked times and
promises, handles and status words, the four requests of major 0x3D, and the end of a program. -/

namespace Sys2Proof.Machine

/-- A scribe. -/
def scribeAt (s : State) (n : Nat) : Scribe := aget Scribe.zero s.scribes n

/-- Write a scribe. -/
def putScribe (s : State) (n : Nat) (x : Scribe) : State := { s with scribes := aput Scribe.zero s.scribes n x }

/-- The program in a context. -/
def progAt (s : State) (n x : Nat) : Option Prog := aget none (scribeAt s n).ctxs x

/-- Write the program of a context. -/
def putProg (s : State) (n x : Nat) (p : Option Prog) : State :=
  putScribe s n { scribeAt s n with ctxs := aput none (scribeAt s n).ctxs x p }

/-- A virtual queue of a scribe. -/
def queueAt (s : State) (n vq : Nat) : SQueue := aget SQueue.zero (scribeAt s n).queues vq

/-- Write a virtual queue. -/
def putQueue (s : State) (n vq : Nat) (q : SQueue) : State :=
  putScribe s n { scribeAt s n with queues := aput SQueue.zero (scribeAt s n).queues vq q }

/-- The four context numbers of a scribe. -/
def ctxNums : List Nat := [0, 1, 2, 3]

/-- The contexts of a scribe that run a program of a queue. -/
def runningOf (s : State) (n vq : Nat) : List (Nat × Prog) :=
  ctxNums.filterMap fun x => match progAt s n x with
    | some p => if p.vq = vq then some (x, p) else none
    | none => none

/-- Whether a unit is a trap context, whose words are its own (R321). -/
def isTrapUnit : Issuer → Bool
  | .trap _ => true
  | _ => false

/-- A virtual device's instruction word from another module, once it has come (R107, R321; log entry 138): one that the trap
context has asked for, or any other unit. -/
def farWord (s : State) (trap : Option Nat) (vdev va : Nat) : Option Word32 :=
  (s.farCode.find? fun w => (match trap with
    | some core => w.unit == .trap core
    | none => !isTrapUnit w.unit) && w.vdev = vdev && w.va = va && w.word.isSome).bind (·.word)

/-- A word of a launch's image, read through the translation of its virtual device; none where it is not at hand. -/
def imageWord (s : State) (ctx launch off : Nat) : Option Word32 :=
  match launchAt s launch with
  | none => none
  | some l =>
    let a := wrap 64 ((l.img.toNat + off : Nat) : Int)
    if a < Config.sramBase then
      match tlbFind s (vdevOf ctx) a with
      | some leaf =>
        let t := leafTarget leaf a
        if isRemote t then farWord s none (vdevOf ctx) a
        else if !targetReady s t || !served s (vdevOf ctx) t then none
        else some (BitVec.ofNat 32 (seenVal s t 4))
      | none => none
    else none

/-- What keeps a word of an image away: a page that is not translated, memory that is not ready, or another module that has
to be asked. -/
inductive WordWait where
  | miss (page : Nat)
  | wait
  | far (va : Nat) (t : Target)
deriving DecidableEq, Repr

/-- Why a word of a launch's image is not at hand. -/
def wordWait (s : State) (ctx launch off : Nat) : WordWait :=
  match launchAt s launch with
  | none => .wait
  | some l =>
    let a := wrap 64 ((l.img.toNat + off : Nat) : Int)
    if Config.sramBase ≤ a then .wait
    else match tlbFind s (vdevOf ctx) a with
    | none => .miss (a / 2 ^ 16)
    | some leaf => if isRemote (leafTarget leaf a) then .far a (leafTarget leaf a) else .wait

/-- Ask another module for a unit's instruction word, once (R107, R386). A unit keeps the two words it asked for last. -/
def askWord (s : State) (u : Issuer) (ctx va : Nat) (t : Target) : State :=
  if s.farCode.any fun w => w.unit = u && w.vdev = vdevOf ctx && w.va = va then s
  else
    let mine := (s.farCode.filter fun w => w.unit = u).take 1
    let s := { s with farCode := ⟨u, vdevOf ctx, va, none⟩ :: mine ++ s.farCode.filter fun w => w.unit != u }
    sendRemote s (.code u va) ctx (remoteDest t) 0 (readMsg 0 t.loc 4 (isClear t))

/-- The scribe section of a launch's image: first byte and length (R154). -/
def scribeSection (s : State) (launch : Nat) : Nat × Nat :=
  match launchAt s launch with
  | some l => (fld l.hdr 288 32, fld l.hdr 320 32)
  | none => (0, 0)

/-- Whether an offset lies in the scribe section. -/
def inScribe (s : State) (launch off : Nat) : Bool :=
  let x := scribeSection s launch
  decide (x.1 ≤ off) && decide (off < x.1 + x.2)

/-! Ends and outcomes. -/

/-- A status word with LATE (R282). -/
def lateBit (late : Bool) : Nat := if late then 2 ^ 26 else 0

/-- Keep an outcome among the 64 most recent programs of a queue (R282). -/
def keepOutcome (q : SQueue) (seq : Nat) (w : Word32) : SQueue :=
  { q with past := ((seq, w) :: q.past).filter fun p => decide ((q.next + 2 ^ 20 - p.1) % 2 ^ 20 ≤ 64) }

/-- A handle (R279). -/
def handleOf (n vq seq : Nat) : Nat := n % 256 + vq * 2 ^ 8 + (seq % 2 ^ 20) * 2 ^ 12

/-- The SCCANCELs that wait for the end of a program execute again, and retire (R283). -/
def freeCancels (s : State) (h : Nat) : State :=
  s.slices.foldl (fun s x =>
    let sl := sliceAt s x.1
    if sl.a.wait = .cancel h then putSlice s x.1 { sl with a := { sl.a with wait := .none } } else s) s

/-- What the end of a program does beyond its context or queue (R278, R280, R282, R306): the outcome is kept, T is 0
again once the queue is empty, CP falls, and an error marks the slice. Of two programs that end with ERR before the fault is
raised, the mark holds the CODE of the later: DESIGN CHOICE (log entry 176). -/
def programEnded (s : State) (n : Nat) (p : Prog) (w : Nat) (err : Option Nat) : State :=
  let late := decide (p.promise.toNat < s.clock.toNat)
  let q := keepOutcome (queueAt s n p.vq) p.seq (BitVec.ofNat 32 (w + lateBit late))
  let q := if q.items.isEmpty && (runningOf s n p.vq).isEmpty then { q with booked := 0 } else q
  let s := freeCancels (putQueue s n p.vq q) (handleOf n p.vq p.seq)
  let sl := sliceAt s p.owner
  if orphanBase ≤ p.owner then s
  else refreshHeader (putSlice s p.owner { sl with ncp := sl.ncp - 1, scbErr := match err with
    | some c => some c
    | none => sl.scbErr }) p.owner

/-- Requests that a context's program has sent no longer answer to it; a nibble that is being written goes on. -/
def forgetProg (n x : Nat) (r : RemoteReq) : RemoteReq :=
  match r.owner with
  | .scribe m y _ _ => if m = n && y = x then { r with owner := .none } else r
  | .nibble m y e l c va i v w d => if m = n && y = x then { r with owner := .nibble Config.scribes y e l c va i v w d } else r
  | _ => r

/-- The tag of a request that writes, and what the tag of a block's descriptor adds to the block's. -/
def writeTag : Nat := 2 ^ 60
def descTag : Nat := 2 ^ 59

/-- Whether a request is a read of a context's program. -/
def readOfProg (n x : Nat) (r : RemoteReq) : Bool :=
  match r.owner with
  | .scribe m y tag _ => m == n && y == x && tag != writeTag
  | _ => false

/-- The reads of a context's program that have no answer yet. -/
def readsOut (s : State) (n x : Nat) : Nat := (s.fabric.reqs.filter (readOfProg n x)).length

/-- A program that wants nothing of what it has read elsewhere: answers that are here or on their way are no longer its own,
and only its writes are still out (R140, R283, R287). -/
def quietProg (s : State) (n x : Nat) (p : Prog) : State × Prog :=
  let reqs := s.fabric.reqs.map fun r => if readOfProg n x r then { r with owner := .none } else r
  ({ s with fabric := { s.fabric with reqs := reqs } }, { p with remote := p.remote - readsOut s n x, inbox := [] })

/-- Whether a line operation of a program is under way: it has asked another module for what it reads (R283, R296). -/
def lineFlying (s : State) (n x : Nat) (p : Prog) : Bool :=
  p.data.isSome && (p.park.all fun k => k.refused) && (!p.inbox.isEmpty || readsOut s n x != 0)

/-- End the program of a context. -/
def endProg (s : State) (n x w : Nat) (err : Option Nat) : State :=
  match progAt s n x with
  | none => s
  | some p =>
    let s := { s with fabric := { s.fabric with reqs := s.fabric.reqs.map (forgetProg n x) } }
    programEnded (putProg s n x none) n p w err

/-- A program that has faulted ends once its record is written and its writes are performed: CP falls only then (R126, R302,
R412). -/
def settleProg (s : State) (n x : Nat) : State :=
  match progAt s n x with
  | none => s
  | some p =>
    match p.failed with
    | none => s
    | some c => if p.remote = 0 && !recordWaits s (.scribe n x) then endProg s n x (2 ^ 30 + c) (some c) else s

/-- Remove a queued program without starting it (R283). -/
def dropQueued (s : State) (n vq seq : Nat) : State :=
  let q := queueAt s n vq
  match q.items.find? fun p => p.seq = seq with
  | none => s
  | some p => programEnded (putQueue s n vq { q with items := q.items.filter fun p => p.seq != seq }) n p (2 ^ 29) none

/-! Issue. -/

/-- The two scribes of a core's cluster (R7). -/
def scribesOf (core : Nat) : Nat × Nat := (2 * clusterOf core, 2 * clusterOf core + 1)

/-- The scribe that SEL chooses (R278). -/
def pickScribe (s : State) (core vq : Nat) : ScribeSel → Nat
  | .s0 => (scribesOf core).1
  | .s1 => (scribesOf core).2
  | .any =>
    if (queueAt s (scribesOf core).2 vq).booked.toNat < (queueAt s (scribesOf core).1 vq).booked.toNat then
      (scribesOf core).2 else (scribesOf core).1

/-- The promise of a program (R280). -/
def promiseOf (s : State) (q : SQueue) (budget : Nat) : Nat :=
  wrap 64 (((max (s.clock.toNat + 32) q.booked.toNat) + 64 * budget : Nat) : Int)

/-- The launch that a stream belongs to. -/
def launchOf (s : State) (e : Env) : Nat :=
  match teamAt s (teamKeyOf s e) with
  | some t => t.launch
  | none => 0

/-- One slice's issue of a scribe request that reads registers `rs` and writes `ds` (R277): `more` gives the verdict
that the request adds, or the values of its results. -/
def scribeSlice (s : State) (rs ds : List Nat) (count : Bool)
    (more : Env → Slice → List Nat → Verdict ⊕ List Nat) (e : Env) (sl : Slice) : Verdict :=
  let act := actLanes sl.a
  let o : Operands := ⟨rs.map fun r => (.int, r), none⟩
  let illegal := ds.any fun d => decide (e.a ≤ d)
  match checkOperands e sl act o illegal with
  | some v => v
  | none =>
    match stallOperands e sl act ⟨(rs ++ ds).map fun r => (.int, r), none⟩ with
    | some v => v
    | none =>
      if badSrc e sl (lowMask act) o then .error ⟨codeUNCORRECTABLE, 0, 0, badLanes e sl (lowMask act) o⟩
      else
        let named : Operands := ⟨(rs ++ ds).map fun r => (.int, r), none⟩
        let fin : Slice → Slice := fun x => { finishLane e sl act named none none x with park := none }
        if act = 0 then .done (fin sl) [] none
        else if sl.check.isSome then .held
        else match more e sl (reqVals sl act rs) with
        | .inl v => v
        | .inr vals =>
          if (count && sl.ncp == 63) || acqPending s e.key then .stall [] []
          else
            let sl1 := (ds.zip vals).foldl (fun sl p =>
              (maskLanes act).foldl (fun sl l => setReg true sl p.1 l p.2) sl) sl
            let sl2 := fin sl1
            .done { sl2 with ncp := if count then sl2.ncp + 1 else sl2.ncp } [] none

/-- The header word of a program, if PROG names one in the scribe section (R276, R278). -/
def headerOf (s : State) (ctx launch prog : Nat) : Option Nat :=
  if prog % 64 = 0 && inScribe s launch prog then
    match imageWord s ctx launch prog with
    | some w => if w.toNat / 2 ^ 26 = 0x3F then some (bits w.toNat 0 26) else none
    | none => none
  else none

/-- What an SCSTART finds where the header is not at hand (R112, R278): its page is missed, or has been refused, or the stream
stalls until the word comes; and a place that no header may have is a fault. -/
def headerWait (s : State) (e : Env) (sl : Slice) (prog : Nat) : Verdict :=
  let launch := launchOf s e
  if prog % 64 ≠ 0 || !inScribe s launch prog || (imageWord s e.ctx launch prog).isSome then
    .fault (plainFault codeSCRIBE_PROG)
  else match wordWait s e.ctx launch prog with
  | .miss page =>
    if refusedBy sl.park page then
      .fault ⟨codePAGE_FAULT, 0, BitVec.ofNat 64 (((launchAt s launch).map fun l => l.img.toNat + prog).getD 0),
        lowMask (actLanes sl.a)⟩
    else .park page false
  | _ => .stall [] []

/-- What an SCSTART finds (R278, R280, R281): a verdict, or the handle and the promise. -/
def scstartVals (s : State) (sel : ScribeSel) (e : Env) (sl : Slice) (vs : List Nat) : Verdict ⊕ List Nat :=
  match headerOf s e.ctx (launchOf s e) (vs.headD 0) with
  | none => .inl (headerWait s e sl (vs.headD 0))
  | some budget =>
    let vq := vdevOf e.ctx % 8
    let n := pickScribe s e.core vq sel
    let q := queueAt s n vq
    if 16 ≤ q.items.length then .inl (.stall [] [])
    else .inr [handleOf n vq q.next, promiseOf s q budget]

/-- The registers of a program at its start (R275). -/
def startRegs (prog args : Nat) : ScribeRegs := ⟨prog + 4, aput 0 [] 0 (BitVec.ofNat 64 args), [], []⟩

/-- Raise the pass value of a queue that becomes non-empty (R371). -/
def joinQueues (s : State) (n vq : Nat) (q : SQueue) : SQueue :=
  if !q.items.isEmpty then q
  else
    let others := (scribeAt s n).queues.filter fun x => x.1 != vq && !x.2.items.isEmpty
    match leastBy (fun x y => serialLt 32 x y) (others.map fun x => x.2.pass.toNat) with
    | some m => if serialLt 32 q.pass.toNat m then { q with pass := BitVec.ofNat 32 m } else q
    | none => q

/-- A new program of a queue with what it captures (R275, R278). -/
def newProg (s : State) (e : Env) (k : Nat) (q : SQueue) (prog args : Nat) (res : Bool) : Prog where
  seq := q.next
  vq := vdevOf e.ctx % 8
  owner := k
  core := e.core
  ctx := e.ctx
  launch := launchOf s e
  start := prog
  args := BitVec.ofNat 64 args
  res := res
  promise := BitVec.ofNat 64 (promiseOf s q ((headerOf s e.ctx (launchOf s e) prog).getD 0))
  fpmode := (sliceAt s k).fpmodeA
  regs := startRegs prog args
  ck := startRegs prog args
  count := 0
  rolled := false
  data := none
  waitb := none
  ending := false
  cancel := false
  failed := none
  mark := s.serial
  park := none
  inbox := []
  remote := 0
  olds := []

/-- A program enters its queue, whose booked time becomes its promise (R278, R280). -/
def enqueue (s : State) (n : Nat) (p : Prog) : State :=
  let q := joinQueues s n p.vq (queueAt s n p.vq)
  putQueue s n p.vq { q with items := q.items ++ [p], next := (q.next + 1) % 2 ^ 20, booked := p.promise }

/-- Enter the program of an SCSTART that has issued (R278). -/
def enterProg (s s' : State) (prog args : Nat) (sel : ScribeSel) (res : Bool) : State :=
  let k := accessKey s.issuer
  match envOf s k true with
  | none => s'
  | some e =>
    if (sliceAt s' k).ncp = (sliceAt s k).ncp + 1 then
      let vq := vdevOf e.ctx % 8
      let n := pickScribe s e.core vq sel
      enqueue s' n (newProg s e k (queueAt s n vq) prog args res)
    else s'

/-- SCSTART (R278). -/
def execScstart (h p a : AReg) (sel : ScribeSel) (res : Bool) (s : State) : Host.Outcome State Fault Refusal :=
  andThen (issueLane s .access false (scribeSlice s [p.toNat, a.toNat] [h.toNat, h.toNat + 1] true
      fun e sl vs => scstartVals s sel e sl vs))
    fun s' =>
      let sl := sliceAt s (accessKey s.issuer)
      let vs := reqVals sl (actLanes sl.a) [p.toNat, a.toNat]
      enterProg s s' (vs.headD 0) ((vs.drop 1).headD 0) sel res

/-- Whether a handle is refused (R279). -/
def handleBad (s : State) (e : Env) (h : Nat) : Bool :=
  let n := bits h 0 8
  let vq := bits h 8 3
  bits h 11 1 != 0 || bits h 32 32 != 0 || !(n == (scribesOf e.core).1 || n == (scribesOf e.core).2)
    || vq != vdevOf e.ctx % 8
    || serialLt 20 ((queueAt s n vq).next + 2 ^ 20 - 1) (bits h 12 20)

/-- The status word of a program (R282). -/
def statusWord (s : State) (h : Nat) : Nat :=
  let n := bits h 0 8
  let vq := bits h 8 3
  let seq := bits h 12 20
  let q := queueAt s n vq
  match (runningOf s n vq).find? fun p => p.2.seq = seq with
  | some p => 2 ^ 28 + lateBit (decide (p.2.promise.toNat < s.clock.toNat))
  | none =>
    match q.items.find? fun p => p.seq = seq with
    | some p => 2 ^ 27 + lateBit (decide (p.promise.toNat < s.clock.toNat))
    | none =>
      if 64 < (q.next + 2 ^ 20 - seq) % 2 ^ 20 then 2 ^ 25
      else match q.past.find? fun p => p.1 = seq with
      | some p => p.2.toNat
      | none => 2 ^ 25

/-- SCPOLL (R282). -/
def execScpoll (d h : AReg) (s : State) : Host.Outcome State Fault Refusal :=
  issueLane s .access false (scribeSlice s [h.toNat] [d.toNat] false fun e _ vs =>
    if handleBad s e (vs.headD 0) then .inl (.fault (plainFault codeSCRIBE_HANDLE))
    else .inr [statusWord s (vs.headD 0)])

/-- The physical place of a target, by which copies of a record are told apart. -/
def placeOfTarget (t : Target) : Nat :=
  match t.space with
  | .remote d => (d + 1) * 2 ^ 46 + t.loc
  | _ => t.loc

/-- The physical place of an address of a context, if it has one now. -/
def placeOfVa (s : State) (ctx core a : Nat) : Option Nat :=
  match regionOf core a with
  | .sram c off => some (sramAddr c off)
  | .paged => (tlbFind s (vdevOf ctx) a).map fun l => placeOfTarget (leafTarget l a)
  | .unused => none

/-- Programs that have asked another module for one instruction's bytes ask anew (R287): a record block that has come before
the flush, or is on its way, is no record's newest copy. -/
def askAnew (s : State) : State :=
  s.scribes.foldl (fun s b => b.2.ctxs.foldl (fun s c => match progAt s b.1 c.1 with
    | some p => if p.data.isNone && p.waitb.isNone then
        let q := quietProg s b.1 c.1 p
        putProg q.1 b.1 c.1 (some q.2)
      else s
    | none => s) s) s

/-- Drop record copies (R287): every copy of the record at an address of a context, or with address 0 all that are held for
the context. -/
def flushRecords (s : State) (ctx core a : Nat) : State :=
  let place := placeOfVa s ctx core (a / 64 * 64)
  let s := askAnew s
  { s with recCache := s.recCache.filterMap fun c =>
    let rs := c.2.filter fun r => !(if a = 0 then r.ctx == ctx
      else some r.place == place || (r.ctx == ctx && r.addr.toNat / 64 == a / 64))
    if rs.isEmpty then none else some (c.1, rs) }

/-- RFLUSH (R287). -/
def execRflush (r : AReg) (s : State) : Host.Outcome State Fault Refusal :=
  andThen (issueLane s .access false (scribeSlice s [r.toNat] [] false fun _ _ _ => .inr []))
    fun s' =>
      let k := accessKey s.issuer
      let sl := sliceAt s k
      if (sliceAt s' k).a.pc = sl.a.pc + 4 && actLanes sl.a ≠ 0 && !(sliceAt s' k).held then
        flushRecords s' (keyCtx s k) (coreOfKey k) ((reqVals sl (actLanes sl.a) [r.toNat]).headD 0)
      else s'

/-- The context that runs the program of a handle. -/
def handleCtx (s : State) (h : Nat) : Option Nat :=
  ((runningOf s (bits h 0 8) (bits h 8 3)).find? fun p => p.2.seq = bits h 12 20).map (·.1)

/-- Whether any party waits on a page of a virtual device. -/
def pageWanted (s : State) (vdev page : Nat) : Bool :=
  let hit : Nat → Option Park → Bool := fun v p => v == vdev && p.any fun k => k.page == page && !k.refused
  s.slices.any (fun x => hit (vdevOf (keyCtx s x.1)) x.2.park)
    || s.anvils.any (fun v => v.2.resv.any fun r => hit (vdevOf r.ctx) r.park)
    || s.scribes.any (fun b => b.2.ctxs.any fun c => c.2.any fun p => hit (vdevOf p.ctx) p.park)
    || s.recWaits.any (fun w => hit (vdevOf w.ctx) (some w.park))
    || s.packets.any (fun p => hit p.vdev p.park)

/-- A miss is dropped (R283): with nobody left who waits on its page, its walk ends, and a page request that has not been
written is not made. -/
def dropMiss (s : State) (vdev page : Nat) : State :=
  if pageWanted s vdev page then s
  else { s with
    walks := s.walks.filter fun w => !(w.vdev = vdev && w.page = page)
    pageReqs := s.pageReqs.filter fun r => !(r.vdev = vdev && r.page = page && r.written.isNone) }

/-- Stop a program for good at an instruction or line boundary (R283): it ends with CANCEL once its writes are performed (R126),
and what it has not performed never is. -/
def stopProg (s : State) (n x : Nat) (p : Prog) : State :=
  let q := quietProg s n x p
  let s := putProg q.1 n x (some { q.2 with cancel := true, data := none, waitb := none, park := none })
  if q.2.remote = 0 then endProg s n x (2 ^ 29) none else s

/-- Cancel a program that runs (R283): a line operation under way completes first; else it stops where it is, and the miss that
it is parked on is dropped. One that has faulted ends as such. -/
def cancelRunning (s : State) (n x : Nat) : State :=
  match progAt s n x with
  | none => s
  | some p =>
    if p.failed.isSome then s
    else if lineFlying s n x p then putProg s n x (some { p with cancel := true })
    else
      let t := stopProg s n x p
      match p.park with
      | some k => dropMiss t (vdevOf p.ctx) k.page
      | none => t

/-- Cancel the program of a handle as far as it can be now (R283). -/
def cancelHandle (s : State) (h : Nat) : State :=
  let n := bits h 0 8
  match handleCtx s h with
  | none => dropQueued s n (bits h 8 3) (bits h 12 20)
  | some x => cancelRunning s n x

/-- Whether the program of a handle has a line operation or writes in flight that it must wait for, or a fault that is being
recorded. -/
def handleBusy (s : State) (h : Nat) : Bool :=
  match handleCtx s h with
  | some x => (progAt s (bits h 0 8) x).any fun p =>
      p.failed.isSome || lineFlying s (bits h 0 8) x p || p.remote != readsOut s (bits h 0 8) x
  | none => false

/-- One slice's SCCANCEL but for the wait on the program's line operations. -/
def cancelSlice (s : State) (r : Nat) (e : Env) (sl : Slice) : Verdict :=
  scribeSlice s [r] [] false (fun e _ vs =>
    if handleBad s e (vs.headD 0) then .inl (.fault (plainFault codeSCRIBE_HANDLE)) else .inr []) e sl

/-- The handle whose program an SCCANCEL reaches: that of an issue, in some lane, that nothing but the program's line
operations can hold back. -/
def cancelReaches (s : State) (r : Nat) : Option Nat :=
  match s.issuer with
  | .compute _ => none
  | u =>
    let sl := sliceAt s (accessKey u)
    match envOf s (accessKey u) true with
    | none => none
    | some e =>
      match cancelSlice s r e sl with
      | .done _ _ _ => if actLanes sl.a = 0 then none else some ((reqVals sl (actLanes sl.a) [r]).headD 0)
      | _ => none

/-- SCCANCEL (R283): it retires when the program has ended. -/
def execSccancel (h : AReg) (s : State) : Host.Outcome State Fault Refusal :=
  andThen (issueLane s .access false (scribeSlice s [h.toNat] [] false fun e sl vs =>
      if handleBad s e (vs.headD 0) then .inl (.fault (plainFault codeSCRIBE_HANDLE))
      else if handleBusy s (vs.headD 0) then .inl (.done { sl with a := { sl.a with wait := .cancel (vs.headD 0) } } [] none)
      else .inr []))
    fun s' =>
      match cancelReaches s h.toNat with
      | some x => cancelHandle s' x
      | none => s'

end Sys2Proof.Machine
end

