-- ==== Sys2Proof/Machine/ScribeProgram.lean ====
section
/-! DEFINITION. Scribe programs (R284 to R307): layout records and address generators, the scribe instructions, line
operations, faults, rollback and resumption, and the events of R281, R296, R300 and R301. -/

namespace Sys2Proof.Machine

/-! Faults and memory. -/

/-- A scribe fault: CODE, DETAIL and failing address (R302). -/
structure SFault where
  code : Nat
  detail : Nat
  faddr : Nat
deriving DecidableEq, Repr

/-- The 384-byte scribe error record (R303). -/
def scribeRecord (s : State) (n x : Nat) (p : Prog) (f : SFault) : List Byte :=
  let head := 3 + f.code * 2 ^ 16 + n * 2 ^ 32 + x * 2 ^ 40 + p.vq * 2 ^ 42 + p.core * 2 ^ 48
    + (p.regs.pc % 2 ^ 32) * 2 ^ 64 + (p.ck.pc % 2 ^ 32) * 2 ^ 96 + s.clock.toNat * 2 ^ 128
    + handleOf n p.vq p.seq * 2 ^ 192 + (f.detail % 2 ^ 32) * 2 ^ 224 + f.faddr * 2 ^ 256
  let ks := (List.range 16).flatMap fun i => valBytes 8 (aget 0 p.ck.k i).toNat
  let ls := ([0, 1, 2, 3] : List Nat).flatMap fun i =>
    let l := aget (0, 0) p.ck.l i
    valBytes 4 l.1 ++ valBytes 4 l.2
  let gs := ([0, 1, 2, 3] : List Nat).flatMap fun i =>
    match aget none p.ck.g i with
    | none => valBytes 32 0
    | some g =>
      valBytes 8 g.addr.toNat ++ (([0, 1, 2, 3, 4] : List Nat).flatMap fun d => valBytes 4 (aget 0 g.o d).toNat)
        ++ valBytes 4 1
  valBytes 64 head ++ ks ++ ls ++ gs ++ valBytes 32 0

/-- A fault halts the program (R302, R306): its record is written, and it ends once that is done and its writes are
performed (R126, R412). -/
def faultProg (s : State) (n x : Nat) (p : Prog) (f : SFault) : State :=
  let s := submitRecord s p.ctx p.core (scribeRecord s n x p f) none (.scribe n x)
  let q := quietProg s n x p
  settleProg (putProg q.1 n x (some { q.2 with
    failed := some f.code, data := none, waitb := none, park := none })) n x

/-- A consumed uncorrectable error (R304): the program goes back to its checkpoint, and its reads there are new ones (R140); the
second before the next REGION is a fault. Unit: 1 source data, 2 record, 3 index array. -/
def rollbackProg (s : State) (n x : Nat) (p : Prog) (unit faddr : Nat) : State :=
  if p.rolled then faultProg s n x p ⟨8, unit, faddr⟩
  else
    let q := quietProg s n x p
    putProg q.1 n x (some { q.2 with regs := p.ck, rolled := true, data := none, waitb := none, park := none })

/-- The DETAIL of an access failure (R302). -/
def scribeDetail (code : Nat) : Nat :=
  if code = codeSRAM_RANGE then 1 else if code = codeSRAM_ACCESS then 2 else if code = codeAPERTURE then 3
  else if code = codeMISALIGNED then 4 else if code = codePAGE_FAULT then 5 else if code = codeNONCANONICAL then 6
  else if code = codeBARRIER_SPACE then 7 else 1

/-- A range that a program reads or writes, and whether the descriptors of its blocks are wanted. -/
structure Span where
  addr : Nat
  bytes : Nat
  align : Nat
  write : Bool
  conv : Bool
  space : SpaceRule
  desc : Bool
deriving DecidableEq, Repr

/-- A range of plain memory or SRAM. -/
def plainSpan (addr bytes align : Nat) (write : Bool) : Span := ⟨addr, bytes, align, write, false, .any, false⟩

/-- The parts of a range with their lengths: paged memory is translated page by page (R103). -/
def spanCuts (r : Span) : List (Nat × Nat) :=
  let room := 2 ^ 16 - r.addr % 2 ^ 16
  if Config.sramBase ≤ r.addr || r.bytes ≤ room then [(r.addr, r.bytes)]
  else [(r.addr, room), (r.addr + room, r.bytes - room)]

/-- The targets of a range's parts, with their lengths. -/
abbrev Parts := List (Target × Nat)

/-- Check the parts of a range in order (R411): their targets, or the address of the first that does not pass. -/
def chkCuts (s : State) (p : Prog) (r : Span) : List (Nat × Nat) → Parts × Option (Nat × Chk)
  | [] => ([], none)
  | c :: cs =>
    match checkAddr s ⟨p.ctx, p.core, c.2, if c.1 = r.addr then r.align else 1, r.write, r.conv, r.space⟩
        (refusedBy p.park) c.1 with
    | .ok t =>
      let x := chkCuts s p r cs
      ((t, c.2) :: x.1, x.2)
    | k => ([], some (c.1, k))

/-- Check a range (R411). -/
def chkSpan (s : State) (p : Prog) (r : Span) : Parts × Option (Nat × Chk) := chkCuts s p r (spanCuts r)

/-- What checking ranges in order gives: their targets, or the first that does not pass, with the address. -/
def chkSpans (s : State) (p : Prog) : List Span → List Parts × Option (Span × Nat × Chk)
  | [] => ([], none)
  | r :: rs =>
    match chkSpan s p r with
    | (ts, none) =>
      let x := chkSpans s p rs
      (ts :: x.1, x.2)
    | (_, some k) => ([], some (r, k))

/-- Park a program on a miss (R112). A line operation that SCCANCEL waits for is discarded instead (R283). -/
def parkProg (s : State) (n x : Nat) (p : Prog) (page : Nat) (write : Bool) : State :=
  if p.cancel then stopProg s n x p
  else addWalk (putProg s n x (some { p with park := some ⟨page, write, false, none⟩ })) (vdevOf p.ctx) page write 0xFFF
    (scribeDie n)

/-- The tag of a remote block. -/
def blockTag (t : Target) : Nat := remoteDest t * 2 ^ 40 + t.loc / 64

/-- The requests that a read of parts makes to other modules: each block, and its descriptor where that is wanted (R107). -/
def asksOf (desc : Bool) (ps : Parts) : List (Nat × Target) :=
  ps.flatMap fun q => if isRemote q.1 then
      (blocksOf q.1 q.2).flatMap fun b => (blockTag b, b) :: if desc then [(descTag + blockTag b, b)] else []
    else []

/-- The requests of reads that have no answer yet. -/
def missingAsks (p : Prog) (rs : List (Parts × Span)) : List (Nat × Target) :=
  (rs.flatMap fun r => asksOf r.2.desc r.1).filter fun a => !(p.inbox.any fun i => i.1 = a.1)

/-- Ask for remote blocks and descriptors, each once. -/
def askFor (s : State) (n x : Nat) (p : Prog) (tc : Nat) : List (Nat × Target) → List Nat → State × Nat
  | [], _ => (s, 0)
  | a :: as, seen =>
    if seen.contains a.1 then askFor s n x p tc as seen
    else
      let m : Msg := if descTag ≤ a.1 then ⟨1, 0, 2, 0, a.2.loc, isClear a.2, []⟩ else readMsg 0 a.2.loc 64 (isClear a.2)
      let r := askFor (sendRemote s (.scribe n x a.1 a.2.va) p.ctx (remoteDest a.2) tc m) n x p tc as (a.1 :: seen)
      (r.1, r.2 + 1)

/-- One byte of another module that a program has been given. -/
def farByte (p : Prog) (t : Target) (i : Nat) : Byte :=
  let a := t.loc + i
  match p.inbox.find? fun b => b.1 = remoteDest t * 2 ^ 40 + a / 64 with
  | some b => (b.2.drop (a % 64)).headD 0
  | none => 0

/-- The bytes of a range as a program sees them, each 4-byte unit old or new where a write races (R115, R117). -/
def sbytes (s : State) (p : Prog) (t : Target) (n : Nat) : List Byte :=
  if isRemote t then (List.range n).map (farByte p t) else readList (seen (withOlds p.olds s) t n) t.loc n

/-- The bytes of parts as a program sees them. -/
def sread (s : State) (p : Prog) (ps : Parts) : List Byte := ps.flatMap fun q => sbytes s p q.1 q.2

/-- What checking and fetching ranges gives: their targets, or the state in which the program stops or waits. -/
inductive SFetch where
  | got (ts : List Parts)
  | stop (s : State)
deriving DecidableEq, Repr

/-- Whether a team's scratch is about to be saved: its quire's teams have all stopped for an eviction (R307, R350). -/
def teamSaving (s : State) (team : Team) : Bool :=
  team.phase == .stopped && (quireAt s team.quire).any fun x => x.members.all fun t =>
    (teamAt s t).all fun y => y.phase != .running

/-- Whether a program is suspended before a write of a part (R307, R350): the SRAM belongs to a team that is about to be
saved, and no line operation of the program is under way. -/
def suspended (s : State) (p : Prog) (t : Target) : Bool :=
  (p.data.all fun o => o.dst.isEmpty) && match t.space with
    | .sram => match regionOf 0 t.loc with
      | .sram core off => (sramOwner s p.ctx core off).any fun y => teamSaving s y.2
      | _ => false
    | _ => false

/-- Whether requests of a program are out that keep no order with what it sends in a class: those of another class, and
nibbles, which may be asked again (R127). -/
def unordered (s : State) (n x tc : Nat) : Bool := s.fabric.reqs.any fun r => match r.owner with
  | .scribe m y _ _ => m == n && y == x && r.tc != tc
  | .nibble m y _ _ _ _ _ _ _ _ => m == n && y == x
  | _ => false

/-- Whether the streams that a part of a range needs take its requests now (R127, R388). -/
def wayOpen (s : State) (n x : Nat) (p : Prog) (tc : Nat) (t : Target) (write : Bool) : Bool :=
  match t.space with
  | .remote d => remoteOpen s p.ctx d tc && !unordered s n x tc
  | _ => !write || t.dup.all fun d => remoteOpen s p.ctx d 0 && !unordered s n x 0

/-- Whether a part of a range has to wait: for its memory, its SRAM or its controller (R106, R350, R368, R401), for the saving
of a team (R307), for an earlier read of the starting slice (R121, R127), or for a stream (R388). -/
def partWaits (s : State) (n x : Nat) (p : Prog) (tc : Nat) (t : Target) (bytes : Nat) (write : Bool) : Bool :=
  !targetReady s t || !sramInPlace s p.ctx t bytes || !served s (vdevOf p.ctx) t
    || (write && (suspended s p t || entryHeld s p.ctx t || readsFirst s p.owner p.mark t bytes)) || !wayOpen s n x p tc t write

/-- A program with the SRAM ranges that its line operation targets noted (R307). -/
def aimed (s : State) (p : Prog) (rs : List Span) : Prog :=
  match p.data with
  | none => p
  | some o =>
    let ranges := (rs.filter (·.write)).flatMap fun r =>
      (chkSpan s p r).1.filterMap fun q => if q.1.space = .sram then some (q.1.loc, q.2) else none
    { p with data := some { o with dst := if ranges.isEmpty then o.dst else ranges } }

/-- Whether parts of this package's memory hold a stored error. -/
def storedError (s : State) (ps : Parts) : Bool := ps.any fun q => !isRemote q.1 && poisoned s q.1.loc q.2

/-- Check ranges and make the data of the reads among them available (R290 to R300): a failure is a fault, a miss parks,
what is not ready waits, and an error that `bad` finds in a read's parts rolls the program back. -/
def fetchWith (bad : Parts → Bool) (s : State) (n x : Nat) (p : Prog) (unit tc : Nat) (rs : List Span) : SFetch :=
  let c := chkSpans s p rs
  match c.2 with
  | some (_, a, .bad code) => .stop (faultProg s n x p ⟨2, scribeDetail code, a⟩)
  | some (r, _, .miss page) => .stop (parkProg s n x (aimed s p rs) page r.write)
  | some _ => .stop s
  | none =>
    let all := c.1.zip rs
    let reads := all.filter fun t => !t.2.write
    if all.any fun t => t.1.any fun q => partWaits s n x p tc q.1 q.2 t.2.write then .stop s
    else match reads.find? fun t => bad t.1 with
    | some t => .stop (rollbackProg s n x p unit t.2.addr)
    | none =>
      let need := missingAsks p reads
      if need.isEmpty then .got c.1
      else if p.remote ≠ 0 then .stop s
      else
        let a := askFor s n x p tc need []
        let p := aimed s p rs
        .stop (putProg a.1 n x (some { p with remote := p.remote + a.2 }))

/-- Ranges that are read whole: a stored error anywhere in them counts. -/
def fetchSpans (s : State) (n x : Nat) (p : Prog) (unit tc : Nat) (rs : List Span) : SFetch :=
  fetchWith (storedError s) s n x p unit tc rs

/-- Send a write of an order, with a descriptor for its blocks, to another module: the bytes of each block, then its descriptor
(R83, R385). -/
def sendBlocks (s : State) (n x : Nat) (p : Prog) (dest tc ord : Nat) (t : Target) (bs : List Byte) (d : BitVec 16) :
    State × Nat :=
  let cuts := blockCuts t.loc bs.length
  let s := sendWrite s (.scribe n x writeTag t.va) p.ctx dest tc ord t.loc bs (isClear t)
  if d = 0 then (s, cuts.length)
  else (cuts.foldl (fun s c => sendRemote s (.scribe n x writeTag t.va) p.ctx dest tc
    ⟨1, 0, 3, 0, (t.loc + c.1) / 64 * 64, isClear t, valBytes 4 d.toNat⟩) s, 2 * cuts.length)

/-- Write bytes of a program through a target with a descriptor for its blocks; a remote write, and the second copy of a
duplicated one, are sent (R83, R394). -/
def swrite (s : State) (n x : Nat) (p : Prog) (tc ord : Nat) (t : Target) (bs : List Byte) (d : BitVec 16) : State × Nat :=
  if isRemote t then sendBlocks s n x p (remoteDest t) tc ord t bs d
  else
    let s := if mayWrite s p.ctx t then storeDesc s t.key t.loc bs d else s
    match t.dup with
    | some e => sendBlocks s n x p e 0 ord t bs d
    | none => (s, 0)

/-- Write bytes of a program through the parts of a range. -/
def swriteParts (s : State) (n x : Nat) (p : Prog) (tc ord : Nat) (bs : List Byte) (d : BitVec 16) : Parts → State × Nat
  | [] => (s, 0)
  | q :: qs =>
    let w := swrite s n x p tc ord q.1 (bs.take q.2) d
    let r := swriteParts w.1 n x p tc ord (bs.drop q.2) d qs
    (r.1, r.2 + w.2)

/-! Running one instruction. -/

/-- A k register. -/
def kreg (p : Prog) (r : KReg) : Nat := (aget 0 p.regs.k r.toNat).toNat

/-- Write a k register. -/
def setK (p : Prog) (r : KReg) (x : Nat) : Prog :=
  { p with regs := { p.regs with k := aput 0 p.regs.k r.toNat (BitVec.ofNat 64 x) } }

/-- A program whose instruction completes: counted, past it, with no park and no answers kept (R288, R301). -/
def retireProg (p : Prog) : Prog :=
  { p with regs := { p.regs with pc := p.regs.pc + 4 }, count := p.count + 1, park := none, inbox := [] }

/-- Whether running on from a program's instruction leaves the scribe section (R291). -/
def runsOut (s : State) (p : Prog) : Bool := !inScribe s p.launch (p.regs.pc + 4)

/-- Run an instruction of the issuing scribe context. -/
def runScribe (s : State) (f : Nat → Nat → Prog → State) : Host.Outcome State Fault Refusal :=
  match s.issuer with
  | .scribe n x =>
    match progAt s n x with
    | some p => .next (f n x p)
    | none => .fault .noIssuer
  | _ => .fault .noIssuer

/-- The instruction word of an instruction, for DETAIL of ILLEGAL (R302). -/
def wordOf (i : Instr) : Nat :=
  match encode i with
  | some w => w.toNat
  | none => 0

/-- An instruction that completes with registers of its own; at the section's last word it faults instead (R291). -/
def stepProg (s : State) (n x : Nat) (p p' : Prog) : State :=
  if runsOut s p then faultProg s n x p ⟨9, p.regs.pc + 4, 0⟩ else putProg s n x (some (retireProg p'))

/-- A k instruction (R289). -/
def runK (s : State) (d : KReg) (f : Prog → Nat) : Host.Outcome State Fault Refusal :=
  runScribe s fun n x p => stepProg s n x p (setK p d (f p))

/-- KMOVI (R289). -/
def execKmovi (d : KReg) (i : BitVec 14) (s : State) : Host.Outcome State Fault Refusal :=
  runK s d fun _ => sext 14 64 i.toNat

/-- KMOVHI (R289). -/
def execKmovhi (d : KReg) (i : BitVec 14) (s : State) : Host.Outcome State Fault Refusal :=
  runK s d fun p => (kreg p d * 2 ^ 14) % 2 ^ 64 ||| i.toNat

/-- KADD (R289). -/
def execKadd (d a b : KReg) (s : State) : Host.Outcome State Fault Refusal :=
  runK s d fun p => wrap 64 ((kreg p a : Int) + kreg p b)

/-- KSUB (R289). -/
def execKsub (d a b : KReg) (s : State) : Host.Outcome State Fault Refusal :=
  runK s d fun p => wrap 64 ((kreg p a : Int) - kreg p b)

/-- KMUL (R289). -/
def execKmul (d a b : KReg) (s : State) : Host.Outcome State Fault Refusal :=
  runK s d fun p => wrap 64 ((kreg p a : Int) * kreg p b)

/-- KSHL (R289). -/
def execKshl (d a b : KReg) (s : State) : Host.Outcome State Fault Refusal :=
  runK s d fun p => (kreg p a <<< (kreg p b % 64)) % 2 ^ 64

/-- KSHR (R289). -/
def execKshr (d a b : KReg) (s : State) : Host.Outcome State Fault Refusal :=
  runK s d fun p => kreg p a >>> (kreg p b % 64)

/-- KAND (R289). -/
def execKand (d a b : KReg) (s : State) : Host.Outcome State Fault Refusal :=
  runK s d fun p => kreg p a &&& kreg p b

/-- KOR (R289). -/
def execKor (d a b : KReg) (s : State) : Host.Outcome State Fault Refusal :=
  runK s d fun p => kreg p a ||| kreg p b

/-- KADDI (R289). -/
def execKaddi (d a : KReg) (i : BitVec 14) (s : State) : Host.Outcome State Fault Refusal :=
  runK s d fun p => wrap 64 ((kreg p a : Int) + sval 14 i.toNat)

/-- A condition of KCMP (R289). -/
def kcond (c : KCond) (a b : Nat) : Bool :=
  match c with
  | .eq => a == b
  | .ne => a != b
  | .ltS => decide (sval 64 a < sval 64 b)
  | .leS => decide (sval 64 a ≤ sval 64 b)
  | .ltU => decide (a < b)
  | .leU => decide (a ≤ b)

/-- KCMP (R289). -/
def execKcmp (d a b : KReg) (c : KCond) (s : State) : Host.Outcome State Fault Refusal :=
  runK s d fun p => (kcond c (kreg p a) (kreg p b)).toNat

/-- The address of a KLD or KST (R290). -/
def kaddr (p : Prog) (a : KReg) (e : BitVec 14) : Nat := wrap 64 ((kreg p a : Int) + 8 * sval 14 e.toNat)

/-- The targets of a list of parts. -/
def partTargets (ts : List Parts) : List Target := ts.flatMap fun ps => ps.map (·.1)

/-- The blocks that a list of parts touches, each a request of its own (R368). -/
def partBlocks (ts : List Parts) : List Target := ts.flatMap fun ps => ps.flatMap fun q => blocksOf q.1 q.2

/-- The parts of a list at a position, and the first target there. -/
def nth (ts : List Parts) (i : Nat) : Parts := ts.getD i []
def nthT (ts : List Parts) (i : Nat) : Target := ((nth ts i).map (·.1)).headD ⟨.sram, 0, none, 0, 0⟩

/-- KLD (R290). -/
def execKld (d a : KReg) (e : BitVec 14) (s : State) : Host.Outcome State Fault Refusal :=
  runScribe s fun n x p =>
    match fetchSpans s n x p 1 0 [plainSpan (kaddr p a e) 8 8 false] with
    | .stop s' => s'
    | .got ts => stepProg (spendFor s p.ctx (partBlocks ts)) n x p (setK p d (bytesVal (sread s p (nth ts 0))))

/-- KST (R290). -/
def execKst (a b : KReg) (e : BitVec 14) (s : State) : Host.Outcome State Fault Refusal :=
  runScribe s fun n x p =>
    match fetchSpans s n x p 1 0 [plainSpan (kaddr p a e) 8 8 true] with
    | .stop s' => s'
    | .got ts =>
      if runsOut s p then faultProg s n x p ⟨9, p.regs.pc + 4, 0⟩
      else
        let w := swriteParts s n x p 0 0 (valBytes 8 (kreg p b)) 0 (nth ts 0)
        putProg (spendFor w.1 p.ctx (partBlocks ts)) n x (some (retireProg { p with remote := p.remote + w.2 }))

/-- A branch to a byte offset (R291). -/
def branchTo (s : State) (n x : Nat) (p : Prog) (target : Nat) : State :=
  if inScribe s p.launch target && target % 4 == 0 then
    putProg s n x (some { retireProg p with regs := { p.regs with pc := target } })
  else faultProg s n x p ⟨9, target, 0⟩

/-- BR (R291). -/
def execKbr (o : BitVec 26) (s : State) : Host.Outcome State Fault Refusal :=
  runScribe s fun n x p => branchTo s n x p (wrap 32 ((p.regs.pc : Int) + 4 * sval 26 o.toNat))

/-- BRC (R291). -/
def execKbrc (d : KReg) (o : BitVec 22) (s : State) : Host.Outcome State Fault Refusal :=
  runScribe s fun n x p =>
    if kreg p d ≠ 0 then branchTo s n x p (wrap 32 ((p.regs.pc : Int) + 4 * sval 22 o.toNat))
    else stepProg s n x p p

/-- LOOP (R292). -/
def execKloop (l a : KReg) (i : BitVec 14) (s : State) : Host.Outcome State Fault Refusal :=
  runScribe s fun n x p =>
    let c := kreg p a
    if c = 0 then branchTo s n x p (p.regs.pc + 4 * i.toNat + 4)
    else if 2 ^ 32 ≤ c then faultProg s n x p ⟨1, wordOf (.kloop l a i), 0⟩
    else stepProg s n x p { p with regs := { p.regs with l := aput (0, 0) p.regs.l l.toNat (c, p.regs.pc + 4) } }

/-- ENDLOOP (R292). -/
def execKendloop (l : KReg) (s : State) : Host.Outcome State Fault Refusal :=
  runScribe s fun n x p =>
    let c := aget (0, 0) p.regs.l l.toNat
    if c.1 = 0 then faultProg s n x p ⟨1, wordOf (.kendloop l), 0⟩
    else
      let q := { p with regs := { p.regs with
        l := aput (0, 0) p.regs.l l.toNat (c.1 - 1, c.2) } }
      if c.1 = 1 then stepProg s n x p q else branchTo s n x q c.2

/-! Layout records and generators. -/

/-- The extent of a dimension (R284). -/
def recSize (r : BitVec 1536) (d : Nat) : Nat := fld r (192 + 32 * d) 32

/-- The tile extent of a dimension (R284). -/
def recTile (r : BitVec 1536) (d : Nat) : Nat := fld r (704 + 16 * d) 16

/-- The byte stride of a dimension from 1 up (R284). -/
def recStride (r : BitVec 1536) (d : Nat) : Int := sval 64 (fld r (320 + 64 * d) 64)

/-- NDIM, FMT and CONV of a record. -/
def recNdim (r : BitVec 1536) : Nat := fld r 128 8
def recFmt (r : BitVec 1536) : Nat := fld r 136 8
def recConv (r : BitVec 1536) : Nat := fld r 144 2

/-- The element size of a record in nibbles, or 0 (R284). -/
def recNibbles (r : BitVec 1536) : Nat :=
  if recFmt r = 0 then esizeNibbles (fld r 148 3) else if recFmt r = 0x13 then 1 else fmtNibbles (recFmt r)

/-- The byte offset of the lowest offending field of an ill-formed record (R285), or none. -/
def recordBad (r : BitVec 1536) : Option Nat :=
  let nd := recNdim r
  let dims := (List.range 5).filter fun d => decide (d < nd)
  let e := recNibbles r
  if e ≠ 0 && 2 ≤ e && fld r 0 64 % (e / 2) ≠ 0 then some 0
  else if nd = 0 || 5 < nd then some 16
  else if fmtReserved (recFmt r) then some 17
  else if fld r 146 2 = 3 then some 18
  else if recFmt r = 0 && e = 0 then some 18
  else if fld r 151 9 ≠ 0 then some 18
  else match dims.find? fun d => recSize r d = 0 with
  | some d => some (24 + 4 * d)
  | none =>
    if fld r 352 32 ≠ 0 then some 44
    else if fld r 640 64 ≠ 0 then some 80
    else match dims.find? fun d => recTile r d = 0 with
    | some d => some (88 + 2 * d)
    | none => if fld r 784 752 ≠ 0 then some 98 else none

/-- The record cache of a scribe's cluster (R287). -/
def cachedAt (s : State) (n : Nat) : List CachedRec := aget [] s.recCache (n / 2)

/-- The copy of a record in the cache: of the context, at the address, read from the place that the address leads to. -/
def cachedRec (s : State) (n ctx a place : Nat) : Option (BitVec 1536) :=
  ((cachedAt s n).find? fun r => r.ctx = ctx && r.addr.toNat = a && r.place = place).map (·.record)

/-- Keep a record in the cache, the oldest of more than 64 leaving it (R287). -/
def cacheRec (s : State) (n ctx a place : Nat) (r : BitVec 1536) : State :=
  let all := cachedAt s n ++ [(⟨ctx, BitVec.ofNat 64 a, place, r⟩ : CachedRec)]
  { s with recCache := aput [] s.recCache (n / 2) (all.reverse.take 64).reverse }

/-- What binding a generator gives: the record, or where the program stops. -/
inductive Bind where
  | got (r : BitVec 1536) (s : State)
  | stop (s : State)
deriving DecidableEq, Repr

/-- The place of a record whose address passes its check, for the cache. -/
def recordPlace (s : State) (p : Prog) (r : Span) : Option Nat :=
  match chkSpan s p r with
  | (q :: _, none) => some (placeOfTarget q.1)
  | _ => none

/-- A record as memory shows it now, where it lies here and can be read. -/
def shownRec (s : State) (n x : Nat) (p : Prog) (r : Span) : Option (BitVec 1536) :=
  match chkSpan s p r with
  | (ts, none) =>
    if storedError s ts || ts.any fun q => isRemote q.1 || partWaits s n x p 0 q.1 q.2 false then none
    else some (BitVec.ofNat 1536 (bytesVal (sread s p ts)))
  | _ => none

/-- Unit i of what a GSET reads that finds a copy: the copy's, or, where memory has another by now, either (R287; log entry
175). -/
def heldUnit (p : Prog) (old new : BitVec 1536) (i : Nat) : Nat :=
  let x := fld old (32 * i) 32
  let y := fld new (32 * i) 32
  if x = y then x else if Config.recordNew p.mark p.count i then y else x

/-- What a GSET reads that finds a copy of its record (R287): each 4-byte unit old or new. The copy of a record that cannot be
read here at once is taken whole: DESIGN CHOICE (log entry 175). -/
def heldRec (s : State) (n x : Nat) (p : Prog) (r : Span) (old : BitVec 1536) : BitVec 1536 :=
  match shownRec s n x p r with
  | none => old
  | some new => BitVec.ofNat 1536 ((List.range 48).foldr (fun i v => heldUnit p old new i + 2 ^ 32 * v) 0)

/-- Read a record through the cache (R285, R287). -/
def bindRec (s : State) (n x : Nat) (p : Prog) (a : Nat) : Bind :=
  let r := plainSpan a 192 64 false
  match (recordPlace s p r).bind (cachedRec s n p.ctx a) with
  | some v => .got (heldRec s n x p r v) s
  | none =>
    match fetchSpans s n x p 2 0 [r] with
    | .stop s' => .stop s'
    | .got ts =>
      let v := BitVec.ofNat 1536 (bytesVal (sread s p (nth ts 0)))
      .got v (cacheRec (spendFor s p.ctx (partBlocks ts)) n p.ctx a (placeOfTarget (nthT ts 0)) v)

/-- A generator of a program. -/
def genOf (p : Prog) (g : KReg) : Option Gen := aget none p.regs.g g.toNat

/-- Write a generator. -/
def setG (p : Prog) (g : KReg) (x : Gen) : Prog :=
  { p with regs := { p.regs with g := aput none p.regs.g g.toNat (some x) } }

/-- GSET (R293). -/
def execGset (g a : KReg) (s : State) : Host.Outcome State Fault Refusal :=
  runScribe s fun n x p =>
    match bindRec s n x p (kreg p a) with
    | .stop s' => s'
    | .got r s' =>
      match recordBad r with
      | some d => faultProg s' n x p ⟨3, d, 0⟩
      | none => stepProg s' n x p (setG p g ⟨BitVec.ofNat 64 (kreg p a), r, []⟩)

/-- An index of a generator's origin. -/
def orig (g : Gen) (d : Nat) : Nat := (aget 0 g.o d).toNat

/-- Carry of GSTEP from dimension d (R293): the new origin and whether the carry leaves the last dimension. -/
def carry (r : BitVec 1536) : Nat → Nat → Assoc Word32 → Assoc Word32 × Bool
  | 0, _, o => (o, true)
  | f + 1, d, o =>
    let i := (aget 0 o d).toNat + recTile r d
    if i < recSize r d then (aput 0 o d (BitVec.ofNat 32 i), false)
    else
      let o := aput 0 o d 0
      if d + 1 = recNdim r then (o, true) else carry r f (d + 1) o

/-- GSTEP (R293). -/
def execGstep (d g : KReg) (k : BitVec 3) (s : State) : Host.Outcome State Fault Refusal :=
  runScribe s fun n x p =>
    match genOf p g with
    | none => faultProg s n x p ⟨1, wordOf (.gstep d g k), 0⟩
    | some q =>
      if recNdim q.record ≤ k.toNat then faultProg s n x p ⟨1, wordOf (.gstep d g k), 0⟩
      else
        let r := carry q.record 6 k.toNat q.o
        stepProg s n x p (setK (setG p g { q with o := r.1 }) d r.2.toNat)

/-- The nibble address of an element by its indices (R284). -/
def elemNibble (r : BitVec 1536) (ix : Nat → Nat) : Nat :=
  let base : Int := 2 * (fld r 0 64 : Int) + recNibbles r * ix 0
  let rest := ((List.range (recNdim r)).filter fun d => d != 0).map fun d => 2 * (ix d : Int) * recStride r d
  wrap 65 (base + rest.sum)

/-- GADDR (R293). -/
def execGaddr (d g : KReg) (s : State) : Host.Outcome State Fault Refusal :=
  runScribe s fun n x p =>
    match genOf p g with
    | none => faultProg s n x p ⟨1, wordOf (.gaddr d g), 0⟩
    | some q =>
      let a := elemNibble q.record (orig q)
      if a % 2 = 1 then faultProg s n x p ⟨2, 4, a / 2⟩ else stepProg s n x p (setK p d (a / 2))

/-! Data instructions. -/

/-- Begin a data instruction of a number of line operations (R296). -/
def beginData (s : State) (n x : Nat) (p : Prog) (i : Instr) (total : Nat) : State :=
  putProg s n x (some { p with data := some ⟨i, 0, total, [], none⟩ })

/-- LINE (R295). -/
def execLine (d a : KReg) (c : BitVec 14) (s : State) : Host.Outcome State Fault Refusal :=
  runScribe s fun n x p => beginData s n x p (.line d a c) c.toNat

/-- REDUCE (R297). -/
def execReduce (d a : KReg) (op : ReduceOp) (c : BitVec 11) (s : State) : Host.Outcome State Fault Refusal :=
  runScribe s fun n x p => beginData s n x p (.reduce d a op c) c.toNat

/-- Bytes of a row of a gather or scatter, in nibbles (R295). -/
def rowNib (r : BitVec 1536) : Nat := recTile r 0 * recNibbles r

/-- The byte offset of the field that makes a record unfit for GATHER or SCATTER (R295), or none. -/
def rowsBad (r : BitVec 1536) : Option Nat :=
  if recNdim r < 2 then some 16 else if recConv r ≠ 0 then some 18 else if rowNib r % 8 ≠ 0 then some 88 else none

/-- Line operations of a row. -/
def rowOps (r : BitVec 1536) : Nat := (rowNib r + 127) / 128

/-- Begin a GATHER or SCATTER. -/
def beginRows (s : State) (n x : Nat) (p : Prog) (g : KReg) (i : Instr) (rows : Nat) : State :=
  match genOf p g with
  | none => faultProg s n x p ⟨1, wordOf i, 0⟩
  | some q =>
    match rowsBad q.record with
    | some d => faultProg s n x p ⟨3, d, 0⟩
    | none => beginData s n x p i (rows * rowOps q.record)

/-- GATHER (R295). -/
def execGather (d a g : KReg) (c : BitVec 14) (s : State) : Host.Outcome State Fault Refusal :=
  runScribe s fun n x p => beginRows s n x p g (.gather d a g c) c.toNat

/-- SCATTER (R295). -/
def execScatter (g a b : KReg) (c : BitVec 14) (s : State) : Host.Outcome State Fault Refusal :=
  runScribe s fun n x p => beginRows s n x p g (.scatter g a b c) c.toNat

/-- Elements of a generator's tile (R298). -/
def tileCount (r : BitVec 1536) : Nat :=
  ((List.range (recNdim r)).map fun d => recTile r d).foldl (· * ·) 1

/-- Elements of the source tile of a CONVERT (R298). -/
def sourceCount (r : BitVec 1536) : Nat := if recConv r = 0 then tileCount r else 8192 / recNibbles r

/-- Output formats of CONVERT (R298). -/
def convertFmt (c : Nat) : Bool := [0x04, 0x05, 0x06, 0x10, 0x11, 0x12].contains c

/-- CONVERT (R298). -/
def execConvert (gd gs : KReg) (c : BitVec 8) (s : State) : Host.Outcome State Fault Refusal :=
  runScribe s fun n x p =>
    let i := Instr.convert gd gs c
    match genOf p gd, genOf p gs with
    | some d, some q =>
      if !convertFmt (recFmt d.record) then faultProg s n x p ⟨3, 17, 0⟩
      else if recConv d.record ≠ 0 then faultProg s n x p ⟨3, 18, 0⟩
      else if tileCount d.record ≠ sourceCount q.record then faultProg s n x p ⟨3, 88, 0⟩
      else if codeScaled (recFmt d.record) && (c = 0 || c = 0xFF) then faultProg s n x p ⟨5, 0, 0⟩
      else if !codeScaled (recFmt d.record) && c ≠ 0 then faultProg s n x p ⟨1, wordOf i, 0⟩
      else beginData s n x p i ((tileCount d.record * recNibbles d.record + 127) / 128)
    | _, _ => faultProg s n x p ⟨1, wordOf i, 0⟩

/-- A line operation has been performed: the next one, or the end of the instruction (R296). A program that SCCANCEL stops goes
no further (R283). -/
def nextLine (s : State) (n x : Nat) (p : Prog) (o : DataOp) (sent : Nat) : State :=
  let p := { p with remote := p.remote + sent, park := none, inbox := [] }
  if p.cancel then stopProg s n x p
  else if o.next + 1 < o.total then putProg s n x (some { p with data := some { o with next := o.next + 1, dst := [] } })
  else
    let p := { p with data := none }
    if runsOut s p then faultProg s n x p ⟨9, p.regs.pc + 4, 0⟩ else putProg s n x (some (retireProg p))

/-- The class of a line transfer: collective when either end is remote (R386). -/
def lineClass (ts : List Parts) : Nat := if (partTargets ts).any isRemote then 2 else 0

/-- One line of a LINE (R295). -/
def lineOp (s : State) (n x : Nat) (p : Prog) (o : DataOp) (d a : Nat) : State :=
  let src := wrap 64 ((a : Int) + 64 * o.next)
  let dst := wrap 64 ((d : Int) + 64 * o.next)
  let rs := [plainSpan src 64 64 false, plainSpan dst 64 64 true]
  match fetchSpans s n x p 1 2 rs with
  | .stop s' => s'
  | .got ts =>
    let w := swriteParts s n x p (lineClass ts) 0 (sread s p (nth ts 0)) 0 (nth ts 1)
    nextLine (spendFor w.1 p.ctx (partBlocks ts)) n x p o w.2

/-- One line of a REDUCE (R297): the destination is read and written at its home. -/
def reduceOp (s : State) (n x : Nat) (p : Prog) (o : DataOp) (d a op : Nat) : State :=
  let src := wrap 64 ((a : Int) + 64 * o.next)
  let dst := wrap 64 ((d : Int) + 64 * o.next)
  match fetchSpans s n x p 1 2 [plainSpan src 64 64 false, plainSpan dst 64 64 true] with
  | .stop s' => s'
  | .got ts =>
    let t := nthT ts 1
    let bs := sread s p (nth ts 0)
    if isRemote t then
      let s := sendRemote s (.scribe n x writeTag t.va) p.ctx (remoteDest t) 2
        ⟨1, 0, 0x18 + op, 2, t.loc, isClear t, valBytes 8 (2 ^ 64 - 1) ++ bs⟩
      nextLine (spendFor s p.ctx (partBlocks ts)) n x p o 1
    else if poisoned s t.loc 64 then rollbackProg s n x p 1 dst
    else
      let w := swrite s n x p 0 0 t (reduceBytes op (seen s t 64) t.loc bs 16) 0
      nextLine (spendFor w.1 p.ctx (partBlocks ts)) n x p o w.2

/-- Where an element lies: in place, padded, discarded, or out of bounds in a dimension (R299). -/
inductive Where where
  | at (ix : List Nat)
  | pad
  | drop
  | fault (d : Nat)
deriving DecidableEq, Repr

/-- The first used dimension of an index vector that is out of range. -/
def outOfRange (r : BitVec 1536) (ix : List Nat) : Option Nat :=
  (List.range (recNdim r)).find? fun d => decide (recSize r d ≤ ix.getD d 0)

/-- Apply the BOUNDS policy to an index vector (R299). -/
def boundsOf (r : BitVec 1536) (write : Bool) (ix : List Nat) : Where :=
  match outOfRange r ix with
  | none => .at ix
  | some d =>
    match fld r 146 2 with
    | 1 => if write then .drop else .pad
    | 2 => if write then .drop else .at (ix.zipIdx.map fun p => min p.1 (recSize r p.2 - 1))
    | _ => .fault d

/-- The byte range that holds an element of n nibbles at a nibble address, aligned to the element (log entry 139). -/
def elemSpan (a n : Nat) (write conv : Bool) : Span :=
  ⟨wrap 64 ((a / 2 : Nat) : Int), (a % 2 + n + 1) / 2, if n ≤ 2 then 1 else n / 2, write, conv, .any, false⟩

/-- The pattern of an element, from the bytes of its range. -/
def elemBits (a n : Nat) (bs : List Byte) : Nat := bits (bytesVal bs) (4 * (a % 2)) (4 * n)

/-- What a line operation writes at a target: whole bytes, or one nibble of a byte. -/
inductive Piece where
  | whole (t : Target) (bs : List Byte)
  | half (t : Target) (hi : Bool) (v : Nat)
deriving DecidableEq, Repr

/-- One element of n nibbles as a piece: target, nibble address and pattern. -/
def onePiece (nib : Nat) (e : Target × Nat × Nat) : Piece :=
  if nib = 1 then .half e.1 (e.2.1 % 2 == 1) e.2.2 else .whole e.1 (valBytes (nib / 2) e.2.2)

/-- Elements as pieces; two nibbles of one byte that follow each other make a whole byte. -/
def piecesOf (nib : Nat) : List (Target × Nat × Nat) → List Piece
  | [] => []
  | [x] => [onePiece nib x]
  | x :: y :: rest =>
    if nib = 1 && x.2.1 % 2 == 0 && y.2.1 == x.2.1 + 1 then
      .whole x.1 [BitVec.ofNat 8 (x.2.2 % 16 + 16 * y.2.2)] :: piecesOf nib rest
    else onePiece nib x :: piecesOf nib (y :: rest)

/-- Put a piece before others: whole bytes that go on where it ends, through one page's leaf, are written with it. -/
def joinPiece (x : Piece) (rest : List Piece) : List Piece :=
  match x, rest with
  | .whole t bs, .whole u cs :: more =>
    if u.space = t.space && u.loc = t.loc + bs.length && u.dup = t.dup && u.key = t.key then .whole t (bs ++ cs) :: more
    else x :: rest
  | _, _ => x :: rest

/-- A byte with one nibble replaced. -/
def putNibble (old : Byte) (hi : Bool) (v : Nat) : Byte :=
  if hi then BitVec.ofNat 8 (old.toNat % 16 + 16 * (v % 16)) else BitVec.ofNat 8 (old.toNat / 16 * 16 + v % 16)

/-- A 4-byte unit with one nibble replaced. -/
def unitNibble (old pos v : Nat) : Nat := old - bits old (4 * pos) 4 * 16 ^ pos + v % 16 * 16 ^ pos

/-- Ask a home for the read-modify-write of one nibble (R128, R294): a compare and swap of its unit, which is repeated with
what the unit holds until none has come between. -/
def askNibble (s : State) (n x part entry loc : Nat) (clear : Bool) (va pos v : Nat) (expect : Word32) (d : BitVec 16) :
    State :=
  sendRequest s (.nibble n x entry loc clear va pos v expect d) part entry 0
    ⟨1, 0, 17, 0, loc, clear, valBytes 4 expect.toNat ++ valBytes 4 (unitNibble expect.toNat pos v)⟩

/-- Write one nibble of a program through a target, keeping the other nibble of its byte as its home holds it (R294): here
first, from where the partner of a duplicated page gets the resulting byte (R394). -/
def writeNibble (s : State) (n x : Nat) (p : Prog) (t : Target) (hi : Bool) (v : Nat) (d : BitVec 16) : State × Nat :=
  if isRemote t then
    (askNibble s n x (partOf (vdevOf p.ctx)) (remoteEntry p.ctx (remoteDest t)) (t.loc / 4 * 4) (isClear t) t.va
      (2 * (t.loc % 4) + hi.toNat) v 0 d, 1)
  else swrite s n x p 0 0 t [putNibble (readByte (seen s t 1) t.loc) hi v] d

/-- Write pieces in order. -/
def writePieces (s : State) (n x : Nat) (p : Prog) (d : BitVec 16) : List Piece → State × Nat
  | [] => (s, 0)
  | y :: rest =>
    let w := match y with
      | .whole t bs => swrite s n x p 0 0 t bs d
      | .half t hi v => writeNibble s n x p t hi v d
    let r := writePieces w.1 n x p d rest
    (r.1, r.2 + w.2)

/-- Write elements of n nibbles at nibble addresses, with a descriptor for their blocks (R83, R294). -/
def writeElems (s : State) (n x : Nat) (p : Prog) (nib : Nat) (d : BitVec 16) (es : List (Target × Nat × Nat)) :
    State × Nat :=
  writePieces s n x p d ((piecesOf nib es).foldr joinPiece [])

/-- The index vector of element t of a row x (R295). -/
def rowIndex (g : Gen) (t x : Nat) : List Nat :=
  (List.range (recNdim g.record)).map fun d => if d = 0 then orig g 0 + t else if d = 1 then x else orig g d

/-- The elements of one line operation of a row: their numbers in the row. -/
def rowPart (r : BitVec 1536) (j : Nat) : List Nat :=
  let per := 128 / recNibbles r
  (List.range per).filterMap fun i => if j * per + i < recTile r 0 then some (j * per + i) else none

/-- The nibble address of an index vector. -/
def vecNibble (r : BitVec 1536) (ix : List Nat) : Nat := elemNibble r fun d => ix.getD d 0

/-- The bounds fault among places, if any. -/
def placeFault (ws : List Where) : Option Nat := ws.findSome? fun w =>
  match w with
  | .fault d => some d
  | _ => none

/-- The index vector of a place. -/
def placeIx : Where → Option (List Nat)
  | .at ix => some ix
  | _ => none

/-- PAD as an element pattern (R299). -/
def padBits (r : BitVec 1536) : Nat := fld r 160 32 % 2 ^ (4 * recNibbles r)

/-- The index of a row and the range that holds it: the first line of a row reads it, for the later ones too (R295). -/
def rowSpans (o : DataOp) (a : Nat) : List Span := if o.row.isSome then [] else [plainSpan a 4 4 false]

/-- The index of the row under way, from what its range gives. -/
def rowOf (s : State) (p : Prog) (o : DataOp) (ts : List Parts) : Nat :=
  o.row.getD (bytesVal (sread s p (nth ts 0)))

/-- A line operation with the index of its row for the lines that the row still has. -/
def keepRow (o : DataOp) (r : BitVec 1536) (row : Nat) : DataOp :=
  { o with row := if (o.next + 1) % rowOps r = 0 then none else some row }

/-- One line operation of a GATHER (R295, R299). Where it writes is known before its index (R307). -/
def gatherOp (s : State) (n x : Nat) (p : Prog) (o : DataOp) (d a : Nat) (g : Gen) : State :=
  let r := g.record
  let e := recNibbles r
  let i := o.next / rowOps r
  let ia := wrap 64 ((a : Int) + 4 * i)
  let part := rowPart r (o.next % rowOps r)
  let bytes := (part.length * e + 1) / 2
  let dst := wrap 64 ((d : Int) + (i * rowNib r + (o.next % rowOps r) * 128 : Nat) / 2)
  let goal := plainSpan dst bytes 1 true
  let idx := rowSpans o ia
  match fetchSpans s n x (aimed s p [goal]) 3 0 idx with
  | .stop s' => s'
  | .got it =>
    let row := rowOf s p o it
    let ws := part.map fun t => boundsOf r false (rowIndex g t row)
    match placeFault ws with
    | some dim => faultProg s n x p ⟨4, dim, 0⟩
    | none =>
      let srcs := ws.filterMap fun w => (placeIx w).map fun ix => elemSpan (vecNibble r ix) e false false
      match fetchSpans s n x p 1 0 (idx ++ srcs ++ [goal]) with
      | .stop s' => s'
      | .got ts =>
        let vals := readPlaces s p r e (ts.drop idx.length) ws
        let w := swriteParts s n x p 0 0 ((packElems e vals).take bytes) 0 (ts.getLastD [])
        nextLine (spendFor w.1 p.ctx (partBlocks ts)) n x p (keepRow o r row) w.2
where
  /-- The patterns of places: read through their targets in order, or PAD. -/
  readPlaces (s : State) (p : Prog) (r : BitVec 1536) (e : Nat) : List Parts → List Where → List Nat
    | _, [] => []
    | ts, w :: ws =>
      match placeIx w with
      | none => padBits r :: readPlaces s p r e ts ws
      | some ix => elemBits (vecNibble r ix) e (sread s p (nth ts 0)) :: readPlaces s p r e (ts.drop 1) ws

/-- One line operation of a SCATTER (R295, R299). -/
def scatterOp (s : State) (n x : Nat) (p : Prog) (o : DataOp) (a b : Nat) (g : Gen) : State :=
  let r := g.record
  let e := recNibbles r
  let i := o.next / rowOps r
  let ib := wrap 64 ((b : Int) + 4 * i)
  let idx := rowSpans o ib
  match fetchSpans s n x p 3 0 idx with
  | .stop s' => s'
  | .got it =>
    let row := rowOf s p o it
    let part := rowPart r (o.next % rowOps r)
    let ws := part.map fun t => boundsOf r true (rowIndex g t row)
    match placeFault ws with
    | some dim => faultProg s n x p ⟨4, dim, 0⟩
    | none =>
      let src := wrap 64 ((a : Int) + (i * rowNib r + (o.next % rowOps r) * 128 : Nat) / 2)
      let bytes := (part.length * e + 1) / 2
      let dsts := ws.filterMap fun w => (placeIx w).map fun ix => elemSpan (vecNibble r ix) e true false
      match fetchSpans s n x p 1 0 (idx ++ plainSpan src bytes 1 false :: dsts) with
      | .stop s' => s'
      | .got ts =>
        let data := bytesVal (sread s p (nth ts idx.length))
        let outs := ((ws.zipIdx.filterMap fun w => (placeIx w.1).map fun ix =>
          (vecNibble r ix, bits data (4 * e * w.2) (4 * e))).zip (partTargets (ts.drop (idx.length + 1)))).map fun y => (y.2, y.1.1, y.1.2)
        let desc : BitVec 16 := if recFmt r = 0 then 0 else BitVec.ofNat 16 (recFmt r + 0x6000)
        let w := writeElems s n x p e desc outs
        nextLine (spendFor w.1 p.ctx (partBlocks ts)) n x p (keepRow o r row) w.2

/-- The index vector of element t of a tile in tile order (R298). -/
def tileIndex (g : Gen) : Nat → Nat → Nat → List Nat
  | 0, _, _ => []
  | f + 1, d, t =>
    let m := max 1 (recTile g.record d)
    (orig g d + t % m) :: tileIndex g f (d + 1) (t / m)

/-- The band entry that governs an index vector (R286). -/
def bandEntry (r : BitVec 1536) (ix : List Nat) : Nat :=
  wrap 64 ((fld r 64 64 : Int) + 2 * (if recNdim r < 2 then 0 else ix.getD 1 0 / 64 : Nat))

/-- Whether a record has a band table. -/
def hasBands (r : BitVec 1536) : Bool := fld r 64 64 != 0

/-- The value of a source element under a block's descriptor (R79, R82, R298), or none where the block is ill-formed:
the record, the block's descriptor, its 64 bytes as a number, the element's nibble in the block, the pattern read at the
element's place with the width of its format, and the band scale. -/
def sourceVal (r : BitVec 1536) (d val nib : Nat) (pattern : Nat → Nat) (band : XVal) : Option XVal :=
  let own := d % 256
  let f := if recFmt r = 0 then own else recFmt r
  let uses := codeScaled own && codeScaled f
  let ill := if recFmt r = 0 then own == 0 || fmtReserved own || d / 256 == 0xFF else uses && d / 256 == 0xFF
  if ill || (f == 0x13 && !packOk val) || xOdd band then none
  else
    let scale := if uses then e3m5 (d / 256) else .num false 1 0 false
    if f = 0x13 then some (elemVal 0x13 (blockElem 0x13 4 ⟨val, d, 0⟩ (nib / 4) (nib % 4)) scale band)
    else some (elemVal f (pattern (fmtNibbles f)) scale band)

/-- What one source element of a CONVERT needs: its nibble address, or a pad. -/
structure SrcElem where
  pad : Bool
  nib : Nat
  band : Nat
deriving DecidableEq, Repr

/-- The source elements of a line operation of a CONVERT, or the dimension that is out of bounds. -/
def srcElems (g : Gen) (from_ count : Nat) : Option Nat × List SrcElem :=
  let r := g.record
  let ws := (List.range count).map fun i => boundsOf r false (tileIndex g (recNdim r) 0 (from_ + i))
  (placeFault ws, ws.map fun w =>
    match placeIx w with
    | some ix => ⟨false, vecNibble r ix, bandEntry r ix⟩
    | none => ⟨true, 0, 0⟩)

/-- The range of a band entry, where the record has a table; an entry at an odd address is MISALIGNED (log entry 157). -/
def bandSpans (r : BitVec 1536) (a : Nat) : List Span := if hasBands r then [plainSpan a 2 2 false] else []

/-- A 64-byte block by its number. -/
def blockSpan (b : Nat) (desc : Bool) : Span := ⟨wrap 64 ((b * 64 : Nat) : Int), 64, 64, false, false, .any, desc⟩

/-- The ranges that a source element is read from: the 64-byte block of its first nibble with the descriptor, and its band
entry. An element that is not aligned to its size fails there (log entry 139). -/
def srcSpans (r : BitVec 1536) (x : SrcElem) : List Span :=
  let el := elemSpan x.nib (recNibbles r) false false
  if x.pad then []
  else (if el.addr % el.align = 0 then blockSpan (x.nib / 128) true else el) :: bandSpans r x.band

/-- The descriptor of a block as CONVERT reads it (R80, R107): SRAM blocks read as raw, remote ones carry theirs. -/
def spanDesc (s : State) (p : Prog) (t : Target) : Nat :=
  if isRemote t then
    match p.inbox.find? fun b => b.1 = descTag + blockTag t with
    | some b => bytesVal (b.2.take 2)
    | none => 0
  else (descAt s t.loc).toNat

/-- The band scale that a program reads through the parts of an entry. -/
def readBand (s : State) (p : Prog) (r : BitVec 1536) (ps : Parts) : XVal :=
  if hasBands r then bandVal (bytesVal (sread s p ps)) else .num false 1 0 false

/-- The ranges that each source element of a record takes among those of a line operation. -/
def srcStep (r : BitVec 1536) : Nat := if hasBands r then 2 else 1

/-- The blocks that source elements go on in, where the format of the block that holds the first nibble is wider than the
record's elements (log entry 139). -/
def pastBlocks (s : State) (p : Prog) (r : BitVec 1536) : List Parts → List SrcElem → List Nat
  | _, [] => []
  | ts, x :: xs =>
    if x.pad then pastBlocks s p r ts xs
    else
      let f := if recFmt r = 0 then spanDesc s p (nthT ts 0) % 256 else recFmt r
      let more := pastBlocks s p r (ts.drop (srcStep r)) xs
      if f ≠ 0x13 && 128 < x.nib % 128 + fmtNibbles f then (x.nib / 128 + 1) :: more else more

/-- The values of source elements through their targets, in order, with the blocks that they go on in; none where a block is
ill-formed. -/
def srcVals (s : State) (p : Prog) (r : BitVec 1536) (past : List (Nat × Nat)) :
    List Parts → List SrcElem → List (Option XVal)
  | _, [] => []
  | ts, x :: xs =>
    if x.pad then
      let v : XVal := if recFmt r = 0 then .num false 0 0 false
        else elemVal (recFmt r) (padBits r) (.num false 1 0 false) (.num false 1 0 false)
      some v :: srcVals s p r past ts xs
    else
      let bs := bytesVal (sread s p (nth ts 0))
      let next := ((past.find? fun b => b.1 = x.nib / 128 + 1).map (·.2)).getD 0
      let nib := x.nib % 128
      sourceVal r (spanDesc s p (nthT ts 0)) bs nib (fun w => bits (bs + 2 ^ 512 * next) (4 * nib) (4 * w))
          (readBand s p r (nth ts 1))
        :: srcVals s p r past (ts.drop (srcStep r)) xs

/-- The element size of one row of a tile that CONVERT reads through the converting aperture, or none where the row makes
the tile ill-formed (R82, R110): a record that names a format names it for every row (log entry 136). -/
def convRow (s : State) (r : BitVec 1536) (loc : Nat) : Option Nat :=
  let own := fld (descAt s loc) 0 8
  if recFmt r = 0 then rowNibbles s loc (esizeNibbles (fld r 148 3))
  else if own = 0x13 || recFmt r = 0x13 then none
  else if codeScaled own && codeScaled (recFmt r) && fld (descAt s loc) 8 8 == 0xFF then none
  else if own = 0 || fmtReserved own then some (recNibbles r)
  else some (fmtNibbles own)

/-- The element size of a tile that CONVERT reads through the converting aperture, or none where it is ill-formed (R110). -/
def convNibbles (s : State) (r : BitVec 1536) (tile : Nat) : Option Nat :=
  (convRow s r tile).bind fun e => if (List.range 64).all fun i => convRow s r (tile + 64 * i) == some e then some e else none

/-- The values of elements of a tile in output order (R109, R298): each is read under the descriptor of the block that holds
its first nibble. -/
def convVals (s : State) (r : BitVec 1536) (t : Target) (size from_ count : Nat) (band : XVal) : List (Option XVal) :=
  let m := seen s t 4096
  (List.range count).map fun i =>
    let pos := recNibbles r * (from_ + i)
    let q := tileSource (recConv r) size pos
    sourceVal r (descAt s (t.loc + q / 2)).toNat 0 (q % 128) (fun w => tileValue m t.loc (recConv r) size w pos) band

/-- What a line operation of CONVERT has read: the ranges that are left, the values of its elements, or the DETAIL of a tile
that is ill-formed. -/
structure SrcRead where
  rest : List Parts
  vals : List (Option XVal)
  bad : Bool

/-- The source ranges of a line operation of CONVERT, or the dimension that is out of bounds: with conversion bits the whole
tile at the origin and the band of the origin, bounds not applied (R298). -/
def convSpans (g : Gen) (from_ count : Nat) : Option Nat × List Span :=
  let r := g.record
  if recConv r = 0 then ((srcElems g from_ count).1, (srcElems g from_ count).2.flatMap (srcSpans r))
  else (none, ⟨elemNibble r (orig g) / 2, 4096, 4096, false, true, .any, false⟩
    :: bandSpans r (bandEntry r ((List.range 5).map (orig g))))

/-- The blocks beyond those of its first nibbles that a line operation of CONVERT reads. -/
def convPast (s : State) (p : Prog) (g : Gen) (from_ count : Nat) (ts : List Parts) : List Nat :=
  if recConv g.record = 0 then (pastBlocks s p g.record ts (srcElems g from_ count).2).eraseDups else []

/-- Read the source of a line operation of CONVERT through its targets. -/
def readConv (s : State) (p : Prog) (g : Gen) (from_ count : Nat) (past : List (Nat × Nat)) (ts : List Parts) : SrcRead :=
  let r := g.record
  let rest := ts.drop (convSpans g from_ count).2.length
  if recConv r = 0 then ⟨rest, srcVals s p r past ts (srcElems g from_ count).2, false⟩
  else
    let t := nthT ts 0
    match convNibbles s r t.loc with
    | some e => ⟨rest, convVals (withOlds p.olds s) r t e from_ count (readBand s p r (nth ts 1)), false⟩
    | none => ⟨rest, [], true⟩

/-- The output elements of a line operation: index vectors of the destination, bounds applied. -/
def dstPlaces (g : Gen) (from_ count : Nat) : List Where :=
  (List.range count).map fun i => boundsOf g.record true (tileIndex g (recNdim g.record) 0 (from_ + i))

/-- One output element of a line operation: its number in the line, its nibble address, its target and its band scale. -/
structure OutElem where
  no : Nat
  nib : Nat
  tgt : Target
  band : XVal

/-- The output elements that are written, through their band entries and their targets. -/
def outElems (s : State) (p : Prog) (r : BitVec 1536) (ws : List Where) (ts : List Parts) : List OutElem :=
  let ixs := ws.zipIdx.filterMap fun w => (placeIx w.1).map fun ix => (w.2, vecNibble r ix)
  let b := if hasBands r then ixs.length else 0
  ixs.zipIdx.map fun i => ⟨i.1.1, i.1.2, nthT ts (b + i.2), readBand s p r (nth ts i.2)⟩

/-- Make the ranges of a line operation of CONVERT available, and after them the blocks that its elements go on in. -/
def fetchPast (s : State) (n x : Nat) (p : Prog) (gs : Gen) (from_ count : Nat) (all : List Span) : SFetch :=
  match fetchSpans s n x p 1 0 all with
  | .stop s' => .stop s'
  | .got ts =>
    let more := convPast s p gs from_ count ts
    if more.isEmpty then .got ts else fetchSpans s n x p 1 0 (all ++ more.map fun b => blockSpan b false)

/-- One line operation of a CONVERT (R298): up to 64 bytes of output in tile order. -/
def convertOp (s : State) (n x : Nat) (p : Prog) (o : DataOp) (gd gs : Gen) (scale : Nat) : State :=
  let rd := gd.record
  let rs := gs.record
  let e := recNibbles rd
  let per := 128 / e
  let from_ := o.next * per
  let count := min per (tileCount rd - from_)
  let src := convSpans gs from_ count
  let ws := dstPlaces gd from_ count
  let start := elemNibble rs (orig gs)
  if recConv rs ≠ 0 && start % 2 = 1 && decide (start / 2 < 2 ^ 56) then faultProg s n x p ⟨2, 4, start / 2⟩
  else match src.1.or (placeFault ws) with
  | some d => faultProg s n x p ⟨4, d, 0⟩
  | none =>
    let dstIx := ws.filterMap placeIx
    let bandS := dstIx.flatMap fun ix => bandSpans rd (bandEntry rd ix)
    let dstS := dstIx.map fun ix => elemSpan (vecNibble rd ix) e true false
    let all := src.2 ++ bandS ++ dstS
    match fetchPast s n x p gs from_ count all with
    | .stop s' => s'
    | .got ts =>
      let more := convPast s p gs from_ count ts
      let past := more.zip ((ts.drop all.length).map fun ps => bytesVal (sread s p ps))
      let y := readConv s p gs from_ count past ts
      let outs := outElems s p rd ws y.rest
      if y.bad then faultProg s n x p ⟨5, from_, 0⟩
      else match y.vals.findIdx? (·.isNone), outs.find? fun q => xOdd q.band || xZero q.band with
      | some i, _ => faultProg s n x p ⟨5, from_ + i, 0⟩
      | none, some q => faultProg s n x p ⟨5, from_ + q.no, 0⟩
      | none, none =>
        match codeFmt (recFmt rd) with
        | none => s
        | some f =>
          let c := if codeScaled (recFmt rd) then e3m5 scale else .num false 1 0 false
          let mode := rmOf (bits p.fpmode.toNat 0 3)
          let sat := bitAt p.fpmode.toNat 4
          let es := outs.map fun q =>
            (q.tgt, q.nib, (roundFmt f mode sat false (xDiv ((y.vals.getD q.no none).getD .nan) (xMul q.band c).1)).1)
          let desc := BitVec.ofNat 16 (recFmt rd + 256 * (if codeScaled (recFmt rd) then scale else 0))
          let w := writeElems s n x p e desc es
          nextLine (spendFor w.1 p.ctx (partBlocks ts)) n x p o w.2

/-- Whether a program's cluster is one that its partition owns: it runs on no other (R365). -/
def onOwned (s : State) (n : Nat) (p : Prog) : Bool := ownsUnit s (partOf (vdevOf p.ctx)) (64 + n / 2)

/-- Whether a context may perform its next line operation: under SCCANCEL, only one that is under way (R283). -/
def lineReady (s : State) (n x : Nat) (p : Prog) : Bool :=
  p.data.isSome && (!p.cancel || lineFlying s n x p) && p.failed.isNone && (p.park.all fun k => k.refused)
    && (onOwned s n p || p.cancel)

/-- LINE_OPERATION (R296). -/
def execLineOperation (n x : Nat) (s : State) : Host.Outcome State Fault Refusal :=
  .next (match progAt s n x with
    | none => s
    | some p =>
      match p.data with
      | none => s
      | some o =>
        if !lineReady s n x p then s
        else match o.i with
        | .line d a _ => lineOp s n x p o (kreg p d) (kreg p a)
        | .reduce d a op _ => reduceOp s n x p o (kreg p d) (kreg p a) (reduceNum op)
        | .gather d a g _ =>
          match genOf p g with
          | some q => gatherOp s n x p o (kreg p d) (kreg p a) q
          | none => s
        | .scatter g a b _ =>
          match genOf p g with
          | some q => scatterOp s n x p o (kreg p a) (kreg p b) q
          | none => s
        | .convert gd gs c =>
          match genOf p gd, genOf p gs with
          | some d, some q => convertOp s n x p o d q c.toNat
          | _, _ => s
        | _ => s)

/-! Synchronisation, regions and ends. -/

/-- A barrier's range (R300). -/
def barSpan (a : Nat) (write : Bool) : Span := ⟨a, 16, 16, write, false, .sram codeBARRIER_SPACE, false⟩

/-- ARRIVE of a scribe (R300): a release, so it waits for the program's remote writes. -/
def execScribeArrive (a b : KReg) (s : State) : Host.Outcome State Fault Refusal :=
  runScribe s fun n x p =>
    match fetchSpans s n x p 1 0 [barSpan (kreg p a) true] with
    | .stop s' => s'
    | .got ts =>
      if p.remote ≠ 0 || readsOpen s p.owner p.mark then s
      else if poisoned s (nthT ts 0).loc 9 then rollbackProg s n x p 1 (kreg p a)
      else if runsOut s p then faultProg s n x p ⟨9, p.regs.pc + 4, 0⟩
      else putProg (arriveAt s (nthT ts 0).loc (kreg p b % 2 ^ 32)) n x (some (retireProg p))

/-- Whether the byte of a barrier's PHASE has a stored error (R243, R304). -/
def phaseError (s : State) (ps : Parts) : Bool := ps.any fun q => poisoned s (q.1.loc + 8) 1

/-- Read a barrier for a WAITB, which consumes its PHASE alone (R304): go on when PHASE has the value, else stay parked (R300). -/
def waitbRead (s : State) (n x : Nat) (p : Prog) (a : Nat) (ph : Bool) : State :=
  match fetchWith (phaseError s) s n x p 1 0 [barSpan a false] with
  | .stop s' => s'
  | .got ts =>
    if bitAt (readByte s.mem ((nthT ts 0).loc + 8)).toNat 0 = ph then stepProg s n x p { p with waitb := none }
    else putProg s n x (some { p with waitb := some (BitVec.ofNat 64 a, ph), park := none })

/-- WAITB (R300). -/
def execWaitb (a b : KReg) (s : State) : Host.Outcome State Fault Refusal :=
  runScribe s fun n x p => waitbRead s n x p (kreg p a) (bitAt (kreg p b) 0)

/-- WAITB_WAKE (R300). -/
def execWaitbWake (n x : Nat) (s : State) : Host.Outcome State Fault Refusal :=
  .next (match progAt s n x with
    | none => s
    | some p =>
      match p.waitb with
      | some w => if p.cancel || p.failed.isSome || !(p.park.all fun k => k.refused) || !onOwned s n p then s
          else waitbRead s n x p w.1.toNat w.2
      | none => s)

/-- SFENCE (R300): this memory keeps no older copies; the program's writes elsewhere are waited for. -/
def execSfence (wm _rm : BitVec 6) (s : State) : Host.Outcome State Fault Refusal :=
  runScribe s fun n x p => if wm ≠ 0 && p.remote ≠ 0 then s else stepProg s n x p p

/-- SIGNAL (R300): a write of order rel, 10 in a flit (R385). -/
def execSignal (a b : KReg) (_sc : Scope) (s : State) : Host.Outcome State Fault Refusal :=
  runScribe s fun n x p =>
    match fetchSpans s n x p 1 0 [plainSpan (kreg p a) 4 4 true] with
    | .stop s' => s'
    | .got ts =>
      if p.remote ≠ 0 || readsOpen s p.owner p.mark then s
      else if runsOut s p then faultProg s n x p ⟨9, p.regs.pc + 4, 0⟩
      else
        let w := swriteParts s n x p 0 2 (valBytes 4 (kreg p b)) 0 (nth ts 0)
        putProg (spendFor w.1 p.ctx (partBlocks ts)) n x (some (retireProg { p with remote := p.remote + w.2 }))

/-- REGION of a scribe (R301). -/
def execScribeRegion (s : State) : Host.Outcome State Fault Refusal :=
  runScribe s fun n x p =>
    if p.remote ≠ 0 then s
    else if runsOut s p then faultProg s n x p ⟨9, p.regs.pc + 4, 0⟩
    else
      let q := retireProg p
      putProg s n x (some { q with ck := q.regs, count := 0, rolled := false })

/-- END (R301): the program ends once its writes are performed (SCRIBE_PROGRAM_END). -/
def execScribeEnd (s : State) : Host.Outcome State Fault Refusal :=
  runScribe s fun n x p => putProg s n x (some { p with ending := true })

/-- SCRIBE_PROGRAM_END (R301): the program ends with DONE; one that SCCANCEL stops ends with CANCEL (R283). -/
def execScribeProgramEnd (n x : Nat) (s : State) : Host.Outcome State Fault Refusal :=
  .next (match progAt s n x with
    | none => s
    | some p =>
      if p.remote ≠ 0 then s
      else if p.failed.isSome then settleProg s n x
      else if p.cancel then endProg s n x (2 ^ 29) none
      else if p.ending then endProg s n x (2 ^ 31) none
      else s)

/-- SCRIBE_LONG (R301): the 65,537th instruction faults. -/
def execScribeLong (s : State) : Host.Outcome State Fault Refusal :=
  runScribe s fun n x p => faultProg s n x p ⟨7, 0, 0⟩

/-- ILLEGAL (R276, R288): a reserved or ill-formed word, or a header, at the program's PC. -/
def execScribeIllegal (s : State) : Host.Outcome State Fault Refusal :=
  runScribe s fun n x p =>
    faultProg s n x p ⟨1, ((imageWord s p.ctx p.launch p.regs.pc).getD 0).toNat, 0⟩

/-! Starts. -/

/-- The least queue by pass value, the lower virtual device on a tie (R371), of those whose head may run here (R365). -/
def nextQueue (s : State) (n : Nat) : Option (Nat × SQueue) :=
  leastBy (fun x y => serialLt 32 x.2.pass.toNat y.2.pass.toNat)
    ((scribeAt s n).queues.filter fun q => q.2.items.head?.any (onOwned s n))

/-- The stride of a queue (R371). -/
def queueStride (s : State) (vdev : Nat) : Nat := 65536 / max 1 (fld (vdevSt s vdev).record 80 8)

/-- A generator that a record binds again (R305). -/
structure ReGen where
  no : Nat
  addr : Nat
  o : Assoc Word32
deriving DecidableEq, Repr

/-- The generators bound in an error record (R303, R305). -/
def savedGens (b : Nat) : List ReGen :=
  ([0, 1, 2, 3] : List Nat).filterMap fun i =>
    let g := bits b (1792 + 256 * i) 256
    if bitAt g 224 then
      some ⟨i, bits g 0 64, ([0, 1, 2, 3, 4] : List Nat).foldl (fun m d => aput 0 m d (BitVec.ofNat 32 (bits g (64 + 32 * d) 32))) []⟩
    else none

/-- Rebind generators through the record cache (R305). -/
def rebind (n x : Nat) (p : Prog) : List ReGen → State → Assoc (Option Gen) → State × Option (Assoc (Option Gen))
  | [], s, gs => (s, some gs)
  | g :: rest, s, gs =>
    match bindRec s n x p g.addr with
    | .stop s' => (s', none)
    | .got r s' =>
      match recordBad r with
      | some d => (faultProg s' n x p ⟨3, d, 0⟩, none)
      | none => rebind n x p rest s' (aput none gs g.no (some ⟨BitVec.ofNat 64 g.addr, r, g.o⟩))

/-- Resume a program from the error record at ARGS (R305), which need not be aligned. A resume PC that lies in the scribe section
is taken as it is, aligned or not, and so is a loop's start PC (log entry 156). -/
def resumeProg (s : State) (n x : Nat) (p : Prog) : State :=
  match fetchSpans s n x p 1 0 [plainSpan p.args.toNat 384 1 false] with
  | .stop s' => s'
  | .got ts =>
    let b := bytesVal (sread s p (nth ts 0))
    let rpc := bits b 96 32
    if bits b 0 16 ≠ 3 || !inScribe s p.launch rpc then faultProg s n x p ⟨0xA, 0, 0⟩
    else
      match rebind n x p (savedGens b) s [] with
      | (s', none) => s'
      | (s', some gs) =>
        let s' := spendFor s' p.ctx (partBlocks ts)
        let regs : ScribeRegs := {
          pc := rpc
          k := (List.range 16).foldl (fun m i => aput 0 m i (BitVec.ofNat 64 (bits b (512 + 64 * i) 64))) []
          l := ([0, 1, 2, 3] : List Nat).foldl (fun m i =>
            aput (0, 0) m i (bits b (1536 + 64 * i) 32, bits b (1568 + 64 * i) 32)) []
          g := gs }
        putProg s' n x (some { p with regs := regs, ck := regs, res := false, park := none, inbox := [] })

/-- The contexts whose programs are to read the record that they resume from, and may go on. -/
def resumers (s : State) (n : Nat) : List (Nat × Prog) :=
  ctxNums.filterMap fun x => match progAt s n x with
    | some p => if p.res && !p.cancel && p.failed.isNone && (p.park.all fun k => k.refused) && onOwned s n p then some (x, p)
        else none
    | none => none

/-- The head of the queue that the arbiter picks starts in a free context (R281, R371). -/
def startHead (s : State) (n : Nat) : State :=
  match ctxNums.find? (fun x => (progAt s n x).isNone), nextQueue s n with
  | some x, some (vq, q) =>
    match q.items with
    | [] => s
    | p :: rest =>
      let s := putQueue s n vq { q with items := rest, pass := q.pass + BitVec.ofNat 32 (queueStride s (vdevOf p.ctx)) }
      putProg s n x (some p)
  | _, _ => s

/-- SCRIBE_PROGRAM_START (R281, R305, R371): programs that are to resume read their records, each as far as it can, and the
head of the queue that the arbiter picks starts in a free context. -/
def execScribeProgramStart (n : Nat) (s : State) : Host.Outcome State Fault Refusal :=
  .next (startHead ((resumers s n).foldl (fun s y => resumeProg s n y.1 y.2) s) n)

end Sys2Proof.Machine
end

