-- ==== Sys2Proof/Machine/Packets.lean ====
section
/-! DEFINITION. Command packets as they are read (R375 to R380): their fields, the target of a CONFIG packet, the
capability checks in order of byte offset, and the error record of a ring. -/

namespace Sys2Proof.Machine

/-- A packet by its identifier. -/
def pktAt (s : State) (id : Nat) : Option Packet := s.packets.find? fun p => p.id = id

/-- Replace a packet. -/
def putPkt (s : State) (p : Packet) : State :=
  { s with packets := s.packets.map fun q => if q.id = p.id then p else q }

/-- Remove a packet. -/
def dropPkt (s : State) (id : Nat) : State := { s with packets := s.packets.filter fun q => q.id != id }

/-- n bytes of a packet from an offset, as a number. -/
def pfld (p : Packet) (off n : Nat) : Nat := fld p.bytes (8 * off) (8 * n)

/-- TYPE, ORDER, ACQ and REL of the trailer (R375), and CADDR (R376). -/
def pktType (p : Packet) : Nat := pfld p 254 1
def pktOrder (p : Packet) : Nat := fld p.bytes (2016 + 12) 4
def pktAcq (p : Packet) : Nat := fld p.bytes (2016 + 9) 3
def pktRel (p : Packet) : Nat := fld p.bytes (2016 + 6) 3
def pktCaddr (p : Packet) : Nat := pfld p 0 8

/-- A ring of a virtual device. -/
def ringAt (s : State) (v q : Nat) : RingSt := aget RingSt.zero (vdevSt s v).rings q

/-- Write a ring. -/
def putRing (s : State) (v q : Nat) (r : RingSt) : State :=
  putVdev s v { vdevSt s v with rings := aput RingSt.zero (vdevSt s v).rings q r }

/-- A device-originated message whose node has no entry makes its stream fail (R383). -/
def postFail (fa part : Nat) (s : State) (code : Nat) : State :=
  if code = 4 then failStreamBy s (faNode fa) 3 4 (256 * part) 0 else s

/-- A posted write of the device with order rel, whose answer an owner awaits (R362, R374, R380, R382). -/
def postFor (s : State) (owner : RemoteOwner) (part fa : Nat) (bs : List Byte) : State :=
  postWrite s part owner 2 fa bs (postFail fa part)

/-- A posted write of the device that nobody waits for. -/
def post (s : State) (part fa : Nat) (bs : List Byte) : State := postFor s .none part fa bs

/-- ERRADDR of a ring (R372). -/
def errAddr (s : State) (v q : Nat) : Nat := fld (ringAt s v q).record 192 64

/-- The error record of a ring (R373, R380), for the packet that waits for it, if there is one. -/
def ringError (s : State) (owner : RemoteOwner) (v q code field : Nat) (seq : Word32) : State :=
  postFor s owner (partOf v) (errAddr s v q) (valBytes 32 (7 + code * 2 ^ 16 + field * 2 ^ 32 + (q % 4) * 2 ^ 40
    + seq.toNat * 2 ^ 64 + s.clock.toNat * 2 ^ 96))

/-- The location in this package of a posted write that waits for its memory. -/
def postedAt (s : State) (fa : Nat) : Option Nat :=
  if faNode fa = nodeId s && s.posted.any (fun p => p.1 = faLoc fa) then some (faLoc fa) else none

/-- A capability fault (R379, R380): the error record, and the packet completes with status 2 once that is written. -/
def failCap (s : State) (p : Packet) (code field : Nat) : State :=
  let s := ringError s (.cc p.id) p.vdev p.ring code field p.seq
  putPkt s { p with
    phase := .done 2, park := none, caddrBad := p.caddrBad || field == 0
    record := postedAt s (errAddr s p.vdev p.ring) }

/-- What one check of a field gives. -/
inductive PCheck where
  | ok
  | fault (code : Nat)
  | miss (page : Nat) (write : Bool)
deriving DecidableEq, Repr

/-- A check that fails with a code. -/
def failIf (b : Bool) (code : Nat) : PCheck := if b then .fault code else .ok

/-- Where an address of a packet of the administrative ring leads: that ring has no page tables, and the address is a location
of this package (log entry 68). -/
def adminTarget (a : Nat) : Option Target :=
  if a < Config.hbmEnd then some ⟨.hbm, a, none, 0, a⟩
  else if Config.cxlBase ≤ a && decide (a < Config.cxlEnd) && Config.cxlBacked ((a - Config.cxlBase) / 2 ^ 36) then
    some ⟨.cxl, a, none, 0, a⟩
  else none

/-- Check a virtual address for an access: bounds, alignment, then translation (R379, R380). -/
def vaCheck (s : State) (p : Packet) (off align : Nat) (write : Bool) : PCheck :=
  let a := pfld p off 8
  if Config.sramBase ≤ a then .fault 1
  else if a % align ≠ 0 then .fault 2
  else if p.vdev = Config.adminVdev then failIf (adminTarget a).isNone 3
  else match tlbFind s p.vdev a with
  | none => if p.refused.contains (a / 2 ^ 16) then .fault 3 else .miss (a / 2 ^ 16) write
  | some l =>
    if bitAt l.pte.toNat 3 then .fault 3
    else if write && !bitAt l.pte.toNat 2 then
      (if p.refused.contains (a / 2 ^ 16) then .fault 3 else .miss (a / 2 ^ 16) write)
    else .ok

/-- Check a fabric address (R379, R383): bounds, the partition's table, then alignment. -/
def faCheck (s : State) (part align a : Nat) : PCheck :=
  if !faValid a then .fault 1
  else if faNode a != nodeId s && (findDest s part (faNode a)).isNone then .fault 1
  else if a % align ≠ 0 then .fault 2
  else .ok

/-- Bytes that must be 0: the first that is not (R379). -/
def zeroBytes (p : Packet) (lo hi : Nat) : List (Nat × PCheck) :=
  match (List.range (hi - lo)).find? fun i => pfld p (lo + i) 1 != 0 with
  | some i => [(lo + i, .fault 4)]
  | none => []

/-- Kind and index of a CONFIG packet (R377). -/
def cfgKind (p : Packet) : Nat := pfld p 24 1
def cfgIndex (p : Packet) : Nat := pfld p 25 2

/-- The virtual device that a CONFIG packet's target names, if its bits are in order (R377). -/
def cfgTarget (p : Packet) : Option Nat :=
  let t := pfld p 28 2
  if p.vdev = Config.adminVdev then
    if t < 512 && t % 64 < 48 then some (8 * (t % 64) + t / 64 % 8) else none
  else if t = 0 then some p.vdev else none

/-- The virtual device that a CONFIG packet configures: on the administrative ring one of a valid partition (R377). -/
def cfgVdev (s : State) (p : Packet) : Option Nat :=
  (cfgTarget p).filter fun v => p.vdev != Config.adminVdev || vdevValid s v

/-- Whether a CONFIG packet's kind, index, target and ring are in order, whatever records stand (R377). -/
def cfgForm (p : Packet) : Bool :=
  let i := cfgIndex p
  let admin := p.vdev == Config.adminVdev
  match cfgKind p with
  | 0 => decide (i < 16) && (cfgTarget p).isSome
  | 1 => admin && i == 0 && (cfgTarget p).isSome
  | 2 => decide (i < 4) && (cfgTarget p).isSome
  | 3 => admin && decide (i < 48) && pfld p 28 2 == 0
  | 4 => admin && decide (i < 256 * 48) && pfld p 28 2 == 0
  | 5 => admin && i == 0 && pfld p 28 2 == 0
  | 6 => i % 4 == 0 && decide (i ≤ 60) && (cfgTarget p).isSome
  | _ => false

/-- Whether a CONFIG packet is in order (R377): kinds 3 to 5 configure no virtual device. -/
def cfgOk (s : State) (p : Packet) : Bool :=
  cfgForm p && ((decide (3 ≤ cfgKind p) && decide (cfgKind p ≤ 5)) || (cfgVdev s p).isSome)

/-- Whether a ring record's slots lie where rings may lie: in this package's HBM or second tier (R372). -/
def ringBase (s : State) (a : Nat) : Bool :=
  faValid a && faNode a == nodeId s
    && (decide (faLoc a < Config.hbmEnd) || (decide (Config.cxlBase ≤ faLoc a) && decide (faLoc a < Config.cxlEnd)))

/-- Whether NSLOT is a power of two from 2 to 32768 (R372). -/
def nslotOk (n : Nat) : Bool := decide (2 ≤ n) && decide (n ≤ 32768) && n &&& (n - 1) == 0

/-- Check EVBASE of a fabric record (R383, R384): the node is the one that the record gives this package, or the table of
partition 0 has an entry for it (log entry 24). -/
def evbaseCheck (s : State) (p : Packet) : PCheck :=
  let a := pfld p 74 8
  if !faValid a then .fault 1
  else if faNode a != fld p.bytes (8 * 64) 12 && (findDest s 0 (faNode a)).isNone then .fault 1
  else if a % 32 ≠ 0 then .fault 2
  else .ok

/-- The checks of the fields of a configured record (R372, R379, R383, R384), made as the packet is read, whatever the records
of its target say by then. -/
def recordChecks (s : State) (p : Packet) : List (Nat × PCheck) :=
  let part := partOf ((cfgTarget p).getD 0)
  if !cfgForm p then []
  else match cfgKind p with
  | 1 => [(84, faCheck s part 1 (pfld p 84 8))]
  | 2 =>
    [(64, if !ringBase s (pfld p 64 8) then .fault 1 else failIf (pfld p 64 8 % 256 != 0) 2),
     (72, failIf (!nslotOk (pfld p 72 2)) 4),
     (80, faCheck s part 8 (pfld p 80 8)),
     (88, faCheck s part 32 (pfld p 88 8))]
  | 5 => [(74, evbaseCheck s p)]
  | 6 => [64, 80, 96, 112].map fun o => (o, faCheck s part 1 (pfld p o 8))
  | _ => []

/-- Whether a virtual device has a configured context record at an index, whose VDEV names that device (R338; log entry 143). -/
def ctxNamed (s : State) (v i : Nat) : Bool :=
  (aget none (vdevSt s v).ctxs i).any fun r => fld r 259 3 == v % 8

/-- The checks of a packet's own bytes 24 to 251 (R377). -/
def bodyChecks (s : State) (p : Packet) : List (Nat × PCheck) :=
  match pktType p with
  | 0x01 =>
    [(24, vaCheck s p 24 64 false),
     (40, failIf (!ctxNamed s p.vdev (pfld p 40 1)) 5),
     (41, failIf (decide (1 < pfld p 41 1)) 4)] ++ zeroBytes p 42 252
  | 0x02 => [(24, vaCheck s p 24 4 false), (36, failIf (decide (1 < pfld p 36 1)) 4)] ++ zeroBytes p 37 252
  | 0x03 => [(24, vaCheck s p 24 8 true)] ++ zeroBytes p 40 252
  | 0x10 =>
    zeroBytes p 27 28 ++ zeroBytes p 30 64 ++ recordChecks s p
      ++ (if cfgKind p = 4 then zeroBytes p 96 128 else []) ++ zeroBytes p 128 252
  | 0x11 => [(30, failIf (decide (1 < pfld p 30 1)) 4)] ++ zeroBytes p 31 252
  | 0x12 =>
    [(24, failIf (decide (Config.sramBase ≤ pfld p 24 8)) 1)] ++ zeroBytes p 40 252
  | _ => []

/-- All checks of a packet by byte offset (R379, R380). -/
def packetChecks (s : State) (p : Packet) : List (Nat × PCheck) :=
  [(0, if pktCaddr p = 0 then .ok else vaCheck s p 0 8 true),
   (8, failIf (decide (63 < pfld p 8 2)) 4),
   (10, failIf (decide (1 < pfld p 10 1)) 4)] ++ zeroBytes p 11 24 ++ bodyChecks s p
    ++ [(252, failIf (decide (5 < pktRel p)) 4), (253, failIf (decide (2 < pktOrder p) || decide (5 < pktAcq p)) 4)]

/-- Whether a check passes. -/
def checkPasses : PCheck → Bool
  | .ok => true
  | _ => false

/-- The CORE of a page request of the command complex (R361). -/
def coreOfCc : Nat := 0xFFE

/-- Park a packet on a miss (R379). -/
def parkPkt (s : State) (p : Packet) (page : Nat) (write : Bool) : State :=
  addWalk (putPkt s { p with park := some ⟨page, write, false, none⟩ }) p.vdev page write coreOfCc complexDie

/-- Check a packet that has been copied (R379, R380): it passes, completes with a capability fault, or waits. -/
def checkPkt (s : State) (p : Packet) : State :=
  match (packetChecks s p).find? fun c => !checkPasses c.2 with
  | none => putPkt s { p with phase := .read, park := none }
  | some (off, .fault code) => failCap s p code off
  | some (_, .miss page write) => parkPkt s p page write
  | some (_, .ok) => s

/-- A packet whose miss has been resolved goes on: a packet under check is checked again, any other just waits for
its next event. -/
def resumePkt (s : State) (id : Nat) : State :=
  match pktAt s id with
  | none => s
  | some p => if p.phase = .checking then checkPkt s { p with park := none } else putPkt s { p with park := none }

/-- A packet whose request was refused. -/
def refusePkt (s : State) (id page : Nat) : State :=
  match pktAt s id with
  | none => s
  | some p => resumePkt (putPkt s { p with refused := page :: p.refused }) id

end Sys2Proof.Machine
end

