-- ==== Sys2Proof/Machine/Pages.lean ====
section
/-! DEFINITION. Walks, page requests and parks (R112, R358 to R363, R412): completing a walk, writing page-request
records, answers and refusals, what becomes of the slices, anvils, scribes, records and packets that wait, and the steps
of a record that has to wait. -/

namespace Sys2Proof.Machine

/-! Who waits on a page. -/

/-- Settle the parks of slices and trap contexts. -/
def settleSlices (s : State) (f : Nat → Park → Option Park) : State :=
  s.slices.foldl (fun s x =>
    match x.2.park with
    | none => s
    | some p => putSlice s x.1 { sliceAt s x.1 with park := f (vdevOf (keyCtx s x.1)) p }) s

/-- Settle the park of an anvil request. -/
def settleReq (f : Nat → Park → Option Park) (r : AReq) : AReq :=
  match r.park with
  | none => r
  | some p => { r with park := f (vdevOf r.ctx) p }

/-- Settle the parks of anvil requests. -/
def settleAnvils (s : State) (f : Nat → Park → Option Park) : State :=
  s.anvils.foldl (fun s v => putAnvil s v.1 { anvilAt s v.1 with
    resv := (anvilAt s v.1).resv.map (settleReq f) }) s

/-- Settle the parks of scribe programs. -/
def settleScribes (s : State) (f : Nat → Park → Option Park) : State :=
  s.scribes.foldl (fun s b => ctxNums.foldl (fun s x =>
    match progAt s b.1 x with
    | none => s
    | some g =>
      match g.park with
      | none => s
      | some p => putProg s b.1 x (some { g with park := f (vdevOf g.ctx) p })) s) s

/-- Settle the parks of slices, anvils and scribes. -/
def settleParks (s : State) (f : Nat → Park → Option Park) : State :=
  settleScribes (settleAnvils (settleSlices s f) f) f

/-- Settle the parks of packets. -/
def settlePkts (s : State) (f : Nat → Park → Option Park) : State :=
  { s with packets := s.packets.map fun p => match p.park with
    | none => p
    | some k => { p with park := f p.vdev k } }

/-- Settle the parks of waiting records. -/
def settleRecs (s : State) (f : Nat → Park → Park) : State :=
  { s with recWaits := s.recWaits.map fun w => { w with park := f (vdevOf w.ctx) w.park } }

/-! Records that wait. -/

/-- Remove a record that waits. -/
def dropRecWait (s : State) (id : Nat) : State := { s with recWaits := s.recWaits.filter fun w => w.id != id }

/-- Replace a record that waits. -/
def putRec (s : State) (w : RecWait) : State :=
  { s with recWaits := s.recWaits.map fun x => if x.id = w.id then w else x }

/-- The unit that waited for a record goes on (R412). -/
def settleUnit (s : State) : RecUnit → State
  | .none => s
  | .scribe n x => settleProg s n x
  | .anvil n id => settleFail s n id

/-- A record is written at an address, or is discarded (R323, R412). -/
def recordEnd (s : State) (w : RecWait) (addr : Option Nat) : State :=
  let s := dropRecWait s w.id
  settleUnit (match addr with
    | some a => recordDone s w.core a w.trap
    | none => recordLost s w.trap) w.unit

/-- The park of a record that waits for no translation. -/
def noPark : Park := ⟨0, true, true, none⟩

/-- A record waits for the translation of a page (R412). -/
def parkRec (s : State) (w : RecWait) (page : Nat) : State :=
  let x := recordWalk w.core w.unit
  addWalk (putRec s { w with park := ⟨page, true, false, none⟩ }) (vdevOf w.ctx) page true x.1 x.2

/-- Increment WRIDX after the bytes of a record, with order rel (R324); a duplicated page gets its second copy (R394). -/
def countRec (s : State) (w : RecWait) (refused : Nat → Bool) (a : Nat) : State :=
  match recLoc s (vdevOf w.ctx) refused (recErrrec (ctxRecord s w.core w.ctx)) with
  | .discard => recordEnd s w none
  | .wait page => parkRec s { w with step := .count a } page
  | .far t =>
    putRec (sendRemote s (.record w.id) w.ctx (remoteDest t) 0 ⟨1, 2, 8, 0, t.loc, isClear t, valBytes 4 1⟩)
      { w with step := .last a, out := 1 }
  | .at h =>
    if !served s (vdevOf w.ctx) h then putRec s { w with step := .count a }
    else
    let s := spendFor s w.ctx [h]
    let bs := valBytes 4 (seenVal s h 4 + 1)
    let s := storeTo s h bs
    match h.dup with
    | none => recordEnd s w (some a)
    | some e => putRec (sendWrite s (.record w.id) w.ctx e 0 2 h.loc bs (isClear h)) { w with step := .last a, out := 1 }

/-- Write the bytes of a record at its place (R324), and the second copy of a duplicated page (R394). -/
def bodyRec (s : State) (w : RecWait) (refused : Nat → Bool) (i nent : Nat) : State :=
  let a := recordAddr (recErrrec (ctxRecord s w.core w.ctx)) i nent
  match recLoc s (vdevOf w.ctx) refused a with
  | .discard => recordEnd s w none
  | .wait page => parkRec s w page
  | .far t =>
    putRec (sendWrite s (.record w.id) w.ctx (remoteDest t) 0 0 t.loc w.bytes (isClear t))
      { w with step := .count a, out := (blockCuts t.loc w.bytes.length).length }
  | .at r =>
    if !served s (vdevOf w.ctx) r then s
    else
    let s := storeTo (spendFor s w.ctx (blocksOf r w.bytes.length)) r w.bytes
    match r.dup with
    | none => countRec s w refused a
    | some e =>
      putRec (sendWrite s (.record w.id) w.ctx e 0 0 r.loc w.bytes (isClear r))
        { w with step := .count a, out := (blockCuts r.loc w.bytes.length).length }

/-- Take the next step of a record that waits for nothing (R324, R412), as far as it can be taken now. -/
def stepRec (s : State) (w0 : RecWait) (refused : Nat → Bool) : State :=
  let w := { w0 with park := noPark }
  let s := putRec s w
  if recordBusy s w.ctx w.id then s
  else match w.step with
  | .header =>
    match recLoc s (vdevOf w.ctx) refused (recErrrec (ctxRecord s w.core w.ctx)) with
    | .discard => recordEnd s w none
    | .wait page => parkRec s w page
    | .far t =>
      putRec (sendRemote s (.record w.id) w.ctx (remoteDest t) 0 (readMsg 0 t.loc 8 (isClear t))) { w with out := 1 }
    | .at h =>
      if !served s (vdevOf w.ctx) h then s
      else if nentBad (areaNent s h) then recordEnd s w none
      else bodyRec s w refused (seenVal s h 4) (areaNent s h)
  | .body i nent => bodyRec s w refused i nent
  | .count a => countRec s w refused a
  | .last a => recordEnd s w (some a)

/-- Try a record again whose page has been translated, or refused: it is lost then (R412). -/
def retryRecord (s : State) (w : RecWait) (refused : Bool) : State := stepRec s w fun page => refused && page == w.park.page

/-- Try the records that wait on a page again. -/
def retryRecords (s : State) (hit : RecWait → Bool) (refused : Bool) : State :=
  (s.recWaits.filter fun w => !w.park.refused && hit w).foldl (fun s w => retryRecord s w refused) s

/-- Records that wait for another module, or for others of their area, go on as far as they can. -/
def stepRecords (s : State) : State :=
  (s.recWaits.filter fun w => w.park.refused && w.out == 0).foldl (fun s w =>
    match s.recWaits.find? fun x => x.id = w.id with
    | some x => stepRec s x fun _ => false
    | none => s) s

/-- The packets that wait on a page. -/
def parkedPkts (s : State) (vdev page : Nat) (hit : Park → Bool) : List Nat :=
  (s.packets.filter fun p => p.vdev = vdev && p.park.any fun k => k.page = page && hit k).map (·.id)

/-- Whether any party waits to write a page. -/
def waitsToWrite (s : State) (vdev page : Nat) : Bool :=
  let hit : Nat → Option Park → Bool := fun v p => v == vdev && p.any fun k => k.page == page && k.write && !k.refused
  s.slices.any (fun x => hit (vdevOf (keyCtx s x.1)) x.2.park)
    || s.anvils.any (fun v => v.2.resv.any fun r => hit (vdevOf r.ctx) r.park)
    || s.scribes.any (fun b => b.2.ctxs.any fun c => c.2.any fun p => hit (vdevOf p.ctx) p.park)
    || s.recWaits.any (fun w => hit (vdevOf w.ctx) (some w.park))
    || s.packets.any (fun p => hit p.vdev p.park)

/-! Page requests. -/

/-- Whether a page request covers a park: a permission request covers the writes alone. -/
def covers (reason page : Nat) (p : Park) : Bool := p.page == page && !p.refused && (reason != 1 || p.write)

/-- The parks that a page request covers wait on it (R112, R363). -/
def bindParks (s : State) (vdev page reason id : Nat) : State :=
  let f : Nat → Park → Park := fun v p => if v = vdev && covers reason page p then { p with req := some id } else p
  settleRecs (settlePkts (settleParks s fun v p => some (f v p)) fun v p => some (f v p)) f

/-- One page request for each virtual device, page and reason (R361), in the name of the first requester: of a permission request
the first party that missed to write, which may wait on another request of the page. -/
def requestPage (s : State) (w : Walk) (reason : Nat) : State :=
  match s.pageReqs.find? fun r => r.vdev = w.vdev && r.page = w.page && r.reason = reason with
  | some r =>
    bindParks { s with pageReqs := s.pageReqs.map fun x =>
      if x.id = r.id then { x with write := x.write || w.write, writer := x.writer.or w.writer } else x }
      w.vdev w.page reason r.id
  | none =>
    let writers := s.pageReqs.filter fun r => r.vdev = w.vdev && r.page = w.page
    let by_ := if reason = 1 then ((writers.findSome? (·.writer)).or w.writer).getD (w.core, w.die) else (w.core, w.die)
    let req : PageReq := ⟨s.serial, w.vdev, w.page, w.write, reason, (vdevSt s w.vdev).gen, by_.1, by_.2, w.writer, none, none⟩
    bindParks { s with serial := s.serial + 1, pageReqs := s.pageReqs ++ [req] } w.vdev w.page reason s.serial

/-- Replay what a leaf satisfies (R112): every park on its page but writes to a page that may not be written, and those whose
request has been refused. -/
def replay (s : State) (vdev page : Nat) (writable : Bool) : State :=
  let free : Park → Bool := fun p => p.page == page && !p.refused && (writable || !p.write)
  let s := settleParks s fun v p => if v = vdev && free p then none else some p
  let s := retryRecords s (fun w => vdevOf w.ctx == vdev && free w.park) false
  (parkedPkts s vdev page free).foldl resumePkt s

/-- Every access parked on a request fails (R112, R363, R412), those without a park in settling the move. -/
def refusePage (s : State) (r : PageReq) : State :=
  let s := { s with refused := (r.vdev, r.page, r.reason == 1) :: s.refused }
  let mine : Park → Bool := fun p => p.req == some r.id
  let s := settleParks s fun _ p => if mine p then some { p with refused := true } else some p
  let s := retryRecords s (fun w => mine w.park) true
  (parkedPkts s r.vdev r.page mine).foldl (fun s id => refusePkt s id r.page) s

/-! Walks. -/

/-- Keep a leaf among the cached ones, in place of any that covered its page, which accesses in flight may have used (R360). -/
def cacheLeaf (s : State) (vdev va b e : Nat) : State :=
  let old : TlbLeaf → Bool := fun l => l.vdev = vdev && l.va * 2 ^ l.bits / 2 ^ (max b l.bits) = va / 2 ^ (max b l.bits)
  { s with
    tlb := ⟨vdev, va / 2 ^ b, b, BitVec.ofNat 64 e⟩ :: s.tlb.filter fun l => !old l
    tlbGone := s.tlbGone ++ s.tlb.filter old }

/-- Complete a walk (R112, R358, R359, R361): a usable leaf is cached and what waits on it replays; without one, or for
writes that it forbids, a page request goes out. -/
def finishWalk (s : State) (w : Walk) : State :=
  let s := { s with walks := s.walks.filter fun x => x.id != w.id }
  match walkAddr s w.vdev (w.page * 2 ^ 16) with
  | .none reason => requestPage s w reason
  | .leaf b e =>
    let s := replay (cacheLeaf s w.vdev (w.page * 2 ^ 16) b e) w.vdev w.page (bitAt e 2)
    if !bitAt e 2 && (waitsToWrite s w.vdev w.page || (w.write && homeWrites s w.vdev w.page)) then requestPage s { w with write := true } 1 else s

/-- PAGE_WALK (R357 to R359): one of at most 4096 walks that a die's walker holds. -/
def execPageWalk (id : Nat) (s : State) : Host.Outcome State Fault Refusal :=
  .next (match s.walks.find? fun w => w.id = id with
    | none => s
    | some w =>
      let ahead := (s.walks.takeWhile fun x => x.id != id).filter fun x => x.die = w.die
      if ahead.length < 4096 && walkReady s w.vdev (w.page * 2 ^ 16) then finishWalk s w else s)

/-- PRQBASE and PRQLEN (R367). -/
def prqBase (s : State) (v : Nat) : Nat := fld (vdevSt s v).record 160 64
def prqLen (s : State) (v : Nat) : Nat := fld (vdevSt s v).record 224 16

/-- A page-request record (R361, R362). -/
def prqRecord (r : PageReq) (lap : Byte) : List Byte :=
  valBytes 31 (6 + (r.vdev % 8) * 2 ^ 16 + r.reason * 2 ^ 19 + r.gen.toNat * 2 ^ 32 + r.page * 2 ^ 16 * 2 ^ 64
    + (r.id % 2 ^ 32) * 2 ^ 128 + r.core * 2 ^ 160) ++ [lap]

/-- PAGE_REQUEST (R361, R362): the record is written once the ring has room, and its timeout begins (R363): when its memory
takes it, or when it is sent to another node (log entry 165). -/
def execPageRequest (id : Nat) (s : State) : Host.Outcome State Fault Refusal :=
  .next (match s.pageReqs.find? fun r => r.id = id with
    | none => s
    | some r =>
      let v := vdevSt s r.vdev
      let len := prqLen s r.vdev
      if r.written.isSome || r.place.isSome || ringFull v.prqW v.prqCons len then s
      else
        let fa := prqBase s r.vdev + 32 * (v.prqW.toNat % len)
        let s := post (putVdev s r.vdev { v with prqW := v.prqW + 1 }) (partOf r.vdev) fa
          (prqRecord r (lapByte v.prqW.toNat len))
        let held := postedAt s fa
        { s with pageReqs := s.pageReqs.map fun x => if x.id = id then
            { x with place := held, written := if held.isSome then none else some s.clock.toNat } else x })

/-- Page requests whose records have been written by now begin their timeouts (R363). -/
def dateRequests (s : State) : State :=
  { s with pageReqs := s.pageReqs.map fun r => match r.place with
    | some loc => if s.posted.any fun p => p.1 = loc then r else { r with place := none, written := some s.clock.toNat }
    | none => r }

/-- PRTIMEOUT in cycles (R367). -/
def prTimeout (s : State) (v : Nat) : Nat :=
  let x := fld (vdevSt s v).record 288 32
  Config.cyclesPerUs * (if x = 0 then 100000 else x)

/-- Remove a page request. -/
def dropPageReq (s : State) (id : Nat) : State := { s with pageReqs := s.pageReqs.filter fun r => r.id != id }

/-- Whether a page request has waited PRTIMEOUT for its answer. -/
def requestOverdue (s : State) (r : PageReq) : Bool :=
  match r.written with
  | some t => decide (prTimeout s r.vdev ≤ s.clock.toNat - t)
  | none => false

/-- PAGE_REQUEST_TIMEOUT (R363): a request without an answer counts as refused. -/
def execPageRequestTimeout (id : Nat) (s : State) : Host.Outcome State Fault Refusal :=
  .next (match s.pageReqs.find? fun r => r.id = id with
    | none => s
    | some r => if requestOverdue s r then refusePage (dropPageReq s id) r else s)

/-- Answer a page request (R363): a stale GEN counts in STALEPR; a request that is not there is dropped; one that has waited
PRTIMEOUT counts as refused, whatever the answer says. -/
def answerRequest (s : State) (v reqid gen status : Nat) : State :=
  let d := vdevSt s v
  if gen ≠ d.gen.toNat then
    putVdev s v { d with stale := if d.stale = 0xFFFFFFFF then d.stale else d.stale + 1 }
  else match s.pageReqs.find? fun r => r.vdev = v && r.id % 2 ^ 32 = reqid with
  | none => s
  | some r =>
    if status = 1 || requestOverdue s r then refusePage (dropPageReq s r.id) r
    else joinWalk (dropPageReq s r.id) v r.page r.writer r.core r.die

/-! Stored errors. -/

/-- UNCORRECTABLE_ERROR (R272, R334): data, a register, a tile, a weight block or a table comes to hold an error. -/
def execUncorrectableError (e : ErrorPlace) (s : State) : Host.Outcome State Fault Refusal :=
  .next (match e with
    | .mem u => { s with poison := aput false s.poison u true }
    | .vreg k r lanes =>
      let sl := sliceAt s k
      if (teamAt s (k / 32)).any fun t => k % 32 < t.s && r < t.v then
        putSlice s k (putInfo false sl r { regInfo false sl r with bad := (regInfo false sl r).bad ||| lanes }) else s
    | .areg k r lanes =>
      let sl := sliceAt s k
      if (teamAt s (k / 32)).any fun t => k % 32 < t.s && r < t.a then
        putSlice s k (putInfo true sl r { regInfo true sl r with bad := (regInfo true sl r).bad ||| lanes }) else s
    | .tile n t =>
      if t < 8 && n < 576 then putAnvil s n { anvilAt s n with badTile := t :: (anvilAt s n).badTile } else s
    | .weight n b =>
      if b < 32768 && n < 576 then putAnvil s n { anvilAt s n with badWb := b :: (anvilAt s n).badWb } else s
    | .table n t =>
      if t < 8 && n < 576 then putAnvil s n { anvilAt s n with badTab := t :: (anvilAt s n).badTab } else s)

end Sys2Proof.Machine
end

