-- ==== Sys2Proof/Machine/Traps.lean ====
section
/-! DEFINITION. The events that take traps (R27, R157, R177, R242, R323, R332): invocations, deadlocks between a
slice's streams, mismatched barriers, the watchdog, and the two faults that the fetch of an instruction raises. -/

namespace Sys2Proof.Machine

/-- TRAP_INVOCATION (R323). -/
def execTrapInvocation (core : Nat) (s : State) : Host.Outcome State Fault Refusal := .next (openInvocation s core)

/-- Whether a stream is stalled on a queue condition that only the other stream can release (R27). -/
def queueStalled (st : Stream) : Bool := !st.exited && st.stall && st.qstall

/-- Whether a slice's streams are deadlocked (R27). -/
def deadlocked (sl : Slice) : Bool :=
  !sl.held && ((queueStalled sl.c && (queueStalled sl.a || sl.a.exited)) || (sl.c.exited && queueStalled sl.a))

/-- STREAM_DEADLOCK (R27): at the stalled compute instruction, or at the access instruction if compute has exited. -/
def execStreamDeadlock (k : Nat) (s : State) : Host.Outcome State Fault Refusal :=
  let sl := sliceAt s k
  .next (if deadlocked sl && decide (k < trapBase) then takeFault s k sl.c.exited (plainFault codeSTREAM_DEADLOCK) else s)

/-- The slices of a team whose stream has not ended. -/
def liveSlices (s : State) (t : Nat) (team : Team) (acc : Bool) : List Nat :=
  (sliceNums team).filter fun j => !(streamOf acc (sliceAt s (32 * t + j))).exited

/-- Whether the live slices of a team all wait at a BAR in one stream, on at least two slots (R242). -/
def barMismatched (s : State) (t : Nat) (team : Team) (acc : Bool) : Bool :=
  let slots := (liveSlices s t team acc).map fun j => barSlot (streamOf acc (sliceAt s (32 * t + j))).wait
  slots.all (·.isSome) && decide (1 < slots.eraseDups.length)

/-- Raise BAR_MISMATCH in the waiting slices of one stream. -/
def raiseMismatch (s : State) (t : Nat) (team : Team) (acc : Bool) : State :=
  if barMismatched s t team acc then
    (liveSlices s t team acc).foldl (fun s j =>
      if (sliceAt s (32 * t + j)).held then s else takeFault s (32 * t + j) acc (plainFault codeBAR_MISMATCH)) s
  else s

/-- BAR_MISMATCH (R242). -/
def execBarMismatch (t : Nat) (s : State) : Host.Outcome State Fault Refusal :=
  .next (match teamAt s t with
    | none => s
    | some team =>
      let s := raiseMismatch s t team false
      raiseMismatch s t team true)

/-- Hold one slice at its instruction boundaries. -/
def holdSlice (s : State) (k : Nat) : State :=
  let s := leaveUnit s k
  let sl := sliceAt s k
  putSlice s k { holdAt sl with c := { sl.c with wait := stopWait sl.c.wait } }

/-- WATCHDOG (R332): every slice of the team is held, one record is written, and the counter is 0. -/
def execWatchdog (t : Nat) (s : State) : Host.Outcome State Fault Refusal :=
  .next (match teamAt s t with
    | none => s
    | some team =>
      if team.phase = .running && decide (watchdogLimit s t team ≤ team.wd) && heldMask s t team == 0 then
        let bytes := sliceRecord s 1 (32 * t) 0 1 (plainFault codeWATCHDOG)
        let s := (sliceNums team).foldl (fun s j => holdSlice s (32 * t + j)) s
        let s := match teamAt s t with
          | some x => putTeam s t (some { x with wd := 0 })
          | none => s
        submitRecord s team.ctx (t / 16) bytes (some ⟨t, 0, 0, 0, 0⟩) .none
      else s)

/-- FETCH_RANGE (R157, R325, R326): FADDR is the address that could not be fetched, DETAIL the PC of the instruction that
led here. In the trap context a fetch that fails is a double fault (R321). -/
def execFetchRange (s : State) : Host.Outcome State Fault Refusal :=
  issueLane s .both false fun e sl => .fault ⟨codeFETCH_RANGE, (streamOf e.acc sl).prev.toNat, (streamOf e.acc sl).pc, 0⟩

/-- ILLEGAL_OP (R177). -/
def execIllegalOp (s : State) : Host.Outcome State Fault Refusal :=
  issueLane s .both false fun _ _ => .fault (plainFault codeILLEGAL_OP)

end Sys2Proof.Machine
end

