-- ==== Sys2Proof/Machine/Dispatcher.lean ====
section
/-! DEFINITION. The dispatcher (R18 to R23, R147, R339, R340): which clusters and cores can hold a quire, where
its teams go, how they start, which launches wait, and how soft eviction begins. -/

namespace Sys2Proof.Machine

/-! What a launch asks for. -/

/-- S, V, A, barrier slots, scratch bytes and the quire sizes of an image header (R154). -/
def hdrS (h : BitVec 512) : Nat := fld h 48 8
def hdrV (h : BitVec 512) : Nat := fld h 64 16
def hdrA (h : BitVec 512) : Nat := fld h 80 8
def hdrBars (h : BitVec 512) : Nat := fld h 88 8
def hdrScratch (h : BitVec 512) : Nat := fld h 96 32
def hdrPref (h : BitVec 512) : Nat := fld h 128 8
def hdrFall (h : BitVec 512) : Nat := fld h 136 8

/-- Register-file entries of one team (R18). -/
def teamEntries (h : BitVec 512) : Nat := hdrS h * 4 * (hdrV h + 2 * hdrA h)

/-- Teams that an empty core holds (R8, R18). -/
def emptyCoreTeams (h : BitVec 512) : Nat :=
  let cap : Nat → Nat → Nat := fun total each => if each = 0 then 16 else total / each
  min (min (cap 64 (hdrS h)) (cap Config.regEntries (teamEntries h)))
    (min 16 (min (cap Config.scratchBytes (hdrScratch h)) (cap Config.barrierSlots (hdrBars h))))

/-- The configured record of a context (R338). -/
def ctxConfigured (s : State) (ctx : Nat) : BitVec 512 := (aget none (vdevSt s (vdevOf ctx)).ctxs (ctx % 16)).getD 0

/-- The record that governs a context on a cluster: the copy of the first core there that holds the context, or else
the configured one, which takes effect when the context becomes resident (R338). -/
def clusterRecord (s : State) (cluster ctx : Nat) : BitVec 512 :=
  match ((List.range Config.coresPerCluster).map fun i => Config.coresPerCluster * cluster + i).findSome?
      fun c => ctxPlaceOf s c ctx with
  | some p => p.2.record
  | none => ctxConfigured s ctx

/-- PRIO of a context on a cluster (R338). -/
def ctxPrio (s : State) (cluster ctx : Nat) : Nat := fld (clusterRecord s cluster ctx) 232 8

/-- Whether a cluster belongs to a partition and is ready (R365, R401). -/
def clusterUsable (s : State) (part c : Nat) : Bool :=
  ownsUnit s part (64 + c) && bitAt s.boot.ready.toNat (24 + c)

/-- The clusters of a partition in ascending order after the one that received the previous quire (R340). -/
def clusterOrder (s : State) (l : Launch) : List Nat :=
  let cs := (List.range Config.clusters).filter fun c => clusterUsable s (partOf (vdevOf l.ctx)) c
  cs.filter (fun c => decide (l.lastCluster ≤ c)) ++ cs.filter fun c => decide (c < l.lastCluster)

/-! Room on a core. -/

/-- The ranges of a core's scratch that an allotment for a context may not overlap: what teams hold, the moved pages of
its own context's teams, and the ranges of its own evicted teams (R340). -/
def scratchTaken (s : State) (core ctx : Nat) : List (Nat × Nat) :=
  let resident := (coreTeams s core).flatMap fun p =>
    if p.2.ctx = ctx then [(p.2.base, p.2.base + p.2.size)]
    else (List.range (p.2.size / 4096)).filterMap fun i =>
      if p.2.moved.contains i then none else some (p.2.base + 4096 * i, p.2.base + 4096 * (i + 1))
  let evicted := s.teams.filterMap fun p =>
    match p.2 with
    | some t => if t.phase = .saved && t.home = core && t.ctx = ctx then some (t.base, t.base + t.size) else none
    | none => none
  resident ++ evicted

/-- Whether a range is clear of others. -/
def rangeFree (taken : List (Nat × Nat)) (lo n : Nat) : Bool :=
  taken.all fun r => decide (r.2 ≤ lo) || decide (lo + n ≤ r.1)

/-- The lowest free allotment of a size (R19). -/
def findScratch (taken : List (Nat × Nat)) (size : Nat) : Option Nat :=
  if size = 0 then some 0
  else ((List.range 128).map (4096 * ·)).find? fun o =>
    decide (o + size ≤ Config.scratchBytes) && rangeFree taken o size

/-- The lowest free team place of a core. -/
def freePlace (s : State) (core : Nat) : Option Nat := placeNums.find? fun p => (teamAt s (teamKey core p)).isNone

/-- Whether the grants of two context records overlap (R253, R339): they share a tile or a byte of the weight buffer. -/
def grantsMeet (x y : BitVec 512) : Bool :=
  fld x 240 8 &&& fld y 240 8 != 0
    || (fld x 253 6 != 0 && fld y 253 6 != 0 && decide (fld x 248 5 < fld y 248 5 + fld y 253 6) && decide (fld y 248 5 < fld x 248 5 + fld x 253 6))

/-- Whether a context may be on a core: it is there, or a context place is free and its grant meets no other (R339). -/
def ctxFits (s : State) (core ctx : Nat) : Bool :=
  (ctxPlaceOf s core ctx).isSome ||
    (([0, 1, 2, 3] : List Nat).any (fun p => (aget CtxPlace.zero (coreAt s core).places p).ctx.isNone) &&
      (quadCores core).all fun c => (coreAt s c).places.all fun p =>
        p.2.ctx.isNone || p.2.ctx == some ctx || !grantsMeet (ctxConfigured s ctx) p.2.record)

/-- The save areas that the teams of a context hold in its pool: first byte and size. -/
def saveAreas (s : State) (ctx : Nat) : List (Nat × Nat) :=
  s.teams.filterMap fun p =>
    match p.2 with
    | some t => if t.ctx = ctx then some (t.save, t.save + saveBytes t.s t.v t.a t.size) else none
    | none => none

/-- The lowest free place for a save area in the pool of a context (R338, R340). -/
def findSave (s : State) (core ctx n : Nat) : Option Nat :=
  let areas := saveAreas s ctx
  let pool := fld (ctxRecord s core ctx) 192 32 * 4096
  leastBy (fun x y => decide (x < y)) ((0 :: areas.map (·.2)).filter fun o => decide (o + n ≤ pool) && rangeFree areas o n)

/-- Barrier slots in use on a core. -/
def barsUsed (s : State) (core : Nat) : Nat := ((coreTeams s core).map fun p => p.2.bars).sum

/-- Room for one team of a launch on a core (R19, R339, R340): the team place, the allotment and the save area. -/
def roomFor (s : State) (l : Launch) (core : Nat) : Option (Nat × Nat × Nat) :=
  if residentSlices s core + hdrS l.hdr ≤ Config.sliceSlots && decide (teamEntries l.hdr ≤ freeEntries s core)
      && decide (barsUsed s core + hdrBars l.hdr ≤ Config.barrierSlots) && ctxFits s core l.ctx then
    match freePlace s core, findScratch (scratchTaken s core l.ctx) (hdrScratch l.hdr),
        findSave s core l.ctx (saveBytes (hdrS l.hdr) (hdrV l.hdr) (hdrA l.hdr) (hdrScratch l.hdr)) with
    | some p, some o, some v => some (p, o, v)
    | _, _, _ => none
  else none

/-! Placing. -/

/-- WDLIMIT that a context record gives (R338). -/
def recWdlimit (r : BitVec 512) : Nat := if fld r 264 41 = 0 then 2 ^ 24 else clampWd (fld r 264 41)

/-- The pass value with which a context joins a core: 0, raised to the least of those that are eligible there (R341). -/
def joinPass (places : Assoc CtxPlace) (acc : Bool) : Word32 :=
  let passes := (places.filter fun p => p.2.ctx.isSome && (if acc then p.2.eligA else p.2.eligC)).map fun p =>
    if acc then p.2.passA else p.2.passC
  match leastBy (fun x y => serialLt 32 x.toNat y.toNat) passes with
  | some m => if serialLt 32 0 m.toNat then m else 0
  | none => 0

/-- A context becomes resident on a core: it takes the lowest free place, with a copy of its record (R338, R342), pass values
that earn no credit (R341), and the tiles that this names newly on the quad (R253, R254). -/
def enterCtx (s : State) (core ctx : Nat) : State :=
  if (ctxPlaceOf s core ctx).isSome then s
  else match ([0, 1, 2, 3] : List Nat).find? fun p => (aget CtxPlace.zero (coreAt s core).places p).ctx.isNone with
  | none => s
  | some p =>
    let c := coreAt s core
    let r := ctxConfigured s ctx
    let x : CtxPlace := { CtxPlace.zero with
      ctx := some ctx, record := r, wdlimit := recWdlimit r
      passC := joinPass c.places false, passA := joinPass c.places true }
    let n := anvilOf core
    let fresh := recTiles r - (recTiles r &&& tilesOnQuad s core ctx)
    let s := if fresh = 0 then s else putAnvil s n (grantTiles (anvilAt s n) ctx fresh)
    putCore s core { c with places := aput CtxPlace.zero c.places p x }

/-- The team of a launch with a linear number (R19). -/
def newTeam (s : State) (lid : Nat) (l : Launch) (core base save q size rank : Nat) : Team where
  launch := lid
  ctx := l.ctx
  home := core
  s := hdrS l.hdr
  v := hdrV l.hdr
  a := hdrA l.hdr
  base := base
  size := hdrScratch l.hdr
  bars := hdrBars l.hdr
  tx := BitVec.ofNat 32 (l.next % l.gx)
  ty := BitVec.ofNat 32 (l.next / l.gx % l.gy)
  tz := BitVec.ofNat 32 (l.next / l.gx / l.gy)
  quire := q
  qsize := size
  qrank := rank
  level := 0
  epoch := 0
  pin := 0
  wd := 0
  wdClock := 0
  mapped := []
  rr := 31
  moved := []
  order := s.serial
  phase := .running
  checked := l.checked
  save := save
  spill := []
  spillBad := []
  headerDue := false

/-- The slices of a team as they start (R17, R23): at the entries of the two code sections. -/
def startSlices (s : State) (t : Nat) (team : Team) (l : Launch) : State :=
  (sliceNums team).foldl (fun s j =>
    putSlice s (32 * t + j) { Slice.zero with
      c := { Stream.zero with pc := BitVec.ofNat 64 (fld l.hdr 224 32), age := s.clock.toNat }
      a := { Stream.zero with pc := BitVec.ofNat 64 (fld l.hdr 160 32), age := s.clock.toNat }
      unit := j / 8 * 8
      since := s.clock.toNat }) s

/-- Place one team of a quire on a core: the state, the launch as it then stands, and the team's key. -/
def placeOn (s : State) (lid : Nat) (l : Launch) (q size rank core : Nat) : Option (State × Launch × Nat) :=
  match roomFor s l core with
  | none => none
  | some (p, o, v) =>
    let t := teamKey core p
    let s := enterCtx s core l.ctx
    let team := newTeam s lid l core o v q size rank
    let s := putTeam s t (some team)
    let s := startSlices { spillOut s core with serial := s.serial + 1 } t team l
    some (s, { l with
      next := l.next + 1
      live := l.live + 1
      lastCore := aput 0 l.lastCore (core / 24) (core % 24 + 1) }, t)

/-- Place the teams of a quire on a cluster one after another, each on the first core with room after the core that
last received one (R340). -/
def placeAll (lid q size cluster : Nat) : Nat → Nat → State → Launch → Option (State × Launch × List Nat)
  | 0, _, s, l => some (s, l, [])
  | n + 1, rank, s, l =>
    let start := aget 0 l.lastCore cluster
    match ((List.range 24).map fun i => cluster * 24 + (start + i) % 24).findSome?
        fun c => placeOn s lid l q size rank c with
    | none => none
    | some (s, l, t) =>
      match placeAll lid q size cluster n (rank + 1) s l with
      | none => none
      | some (s, l, ts) => some (s, l, t :: ts)

/-- Whether a cluster can hold n further teams of a launch at once (R20). -/
def clusterHolds (s : State) (lid : Nat) (l : Launch) (n cluster : Nat) : Bool :=
  (placeAll lid 0 n cluster n 0 s l).isSome

/-- Where the next quire goes and how many teams it has (R20, R340): the size is chosen by what a cluster can hold, and a
last quire that has fewer teams left holds those. -/
def chooseQuire (s : State) (lid : Nat) (l : Launch) : Option (Nat × Nat) :=
  let rest := gridSize l - l.next
  let order := clusterOrder s l
  match order.find? fun c => clusterHolds s lid l (hdrPref l.hdr) c with
  | some c => some (c, min (hdrPref l.hdr) rest)
  | none => (order.find? fun c => clusterHolds s lid l (hdrFall l.hdr) c).map fun c => (c, min (hdrFall l.hdr) rest)

/-- What reading a part of an image gives: its bytes, a page that misses, memory that is not ready, or a block of another
module, which is to be asked (R107, R377). -/
inductive ImageRead where
  | bytes (bs : List Byte)
  | miss (page : Nat)
  | wait
  | far (va : Nat) (t : Target)
deriving DecidableEq, Repr

/-- Bytes of an image from an offset, read through translation. -/
def readImage (s : State) (l : Launch) (off : Nat) : Nat → ImageRead
  | 0 => .bytes []
  | n + 1 =>
    let a := wrap 64 ((l.img.toNat + off : Nat) : Int)
    let next : Byte → ImageRead := fun b => match readImage s l (off + 1) n with
      | .bytes bs => .bytes (b :: bs)
      | r => r
    match tlbFind s (vdevOf l.ctx) a with
    | none => .miss (a / 2 ^ 16)
    | some leaf =>
      let t := leafTarget leaf a
      if isRemote t then
        match l.far.find? fun b => b.1 = a / 64 with
        | some b => next ((b.2.drop (a % 64)).headD 0)
        | none => .far a t
      else if !targetReady s t || !served s (vdevOf l.ctx) t then .wait
      else next (readByte (seen s t 1) t.loc)

/-- Ask another module for a block of a launch's image, one at a time. -/
def askImage (s : State) (lid : Nat) (l : Launch) (va : Nat) (t : Target) : State :=
  let out : RemoteReq → Bool := fun r => match r.owner with
    | .image x _ => x == lid
    | _ => false
  if s.fabric.reqs.any out || !remoteOpen s l.ctx (remoteDest t) 0 then s
  else sendRemote s (.image lid (va / 64)) l.ctx (remoteDest t) 0 (readMsg 0 t.loc 64 (isClear t))

/-- Clear a range of memory. -/
def eraseRange (m : Memory) (lo n : Nat) : Memory := m.filter fun c => !(decide (lo ≤ c.1) && decide (c.1 < lo + n))

/-- The quire directory (R22). -/
def directory (s : State) (ts : List Nat) : List Byte :=
  (List.range 24).flatMap fun i => valBytes 8 (match ts[i]? with
    | some t => match teamAt s t with
      | some team => sramAddr (t / 16) team.base
      | none => 0
    | none => 0)

/-- The first contents of an allotment (R22, R147): zeros, the `.sram` image from byte 256, and the directory. A stored error
of the image's bytes is not met in the copy (log entry 162). -/
def fillAllotment (s : State) (t : Nat) (dir img : List Byte) : State :=
  match teamAt s t with
  | none => s
  | some team =>
    if team.size = 0 then s
    else
      let lo := sramAddr (t / 16) team.base
      { s with
        mem := writeList (writeList (eraseRange s.mem lo team.size) lo dir) (lo + 256) (img.take (team.size - 256))
        poison := clearPoison s.poison lo team.size }

/-- The `.sram` section of a launch: what was read before its first team, or what reading it gives. -/
def imageOf (s : State) (l : Launch) : ImageRead :=
  match l.image with
  | some bs => .bytes bs
  | none => readImage s l (fld l.hdr 352 32) (fld l.hdr 384 32)

/-- The 64-byte blocks of a launch's `.sram` section in this package's memory, which its reading spends tokens for (R368). -/
def imageBlocks (s : State) (l : Launch) : List Target :=
  if l.image.isSome then []
  else
    let a := l.img.toNat + fld l.hdr 352 32
    (List.range ((a % 64 + fld l.hdr 384 32 + 63) / 64)).filterMap fun i =>
      let va := wrap 64 ((a / 64 * 64 + 64 * i : Nat) : Int)
      (tlbFind s (vdevOf l.ctx) va).map fun leaf => leafTarget leaf va

/-- Place and start the next quire of a launch (R19 to R23). Its `.sram` section is read whole before its first team (R147; log
entry 60). -/
def placeQuire (s : State) (lid : Nat) (l : Launch) (cluster size : Nat) : State :=
  match imageOf s l with
  | .miss page => seekPage s (vdevOf l.ctx) page false coreOfCc complexDie
  | .wait => s
  | .far va t => askImage s lid l va t
  | .bytes img =>
    let s := spendFor s l.ctx (imageBlocks s l)
    let q := s.serial
    let fresh := !(s.quires.any fun x => x.2.any fun y => y.launch = lid && y.cluster = cluster && y.phase == .running)
    match placeAll lid q size cluster size 0 { s with serial := s.serial + 1 } l with
    | none => s
    | some (s, l, ts) =>
      let dir := directory s ts
      let s := ts.foldl (fun s t => remapTeam (fillAllotment s t dir img) t) s
      let s := putQuire s q (some ⟨lid, cluster, size, ts, .running, false, none⟩)
      putLaunch s lid (some { l with
        lastCluster := cluster + 1
        far := []
        image := some img
        quantum := if fresh then aput 0 l.quantum cluster s.clock.toNat else l.quantum })

/-- A launch whose `.sram` section cannot be read ends with status 6 before any team of it starts (R363, R378, R392; log
entry 60). -/
def failImage (s : State) (lid : Nat) : State :=
  match launchAt s lid with
  | none => s
  | some l =>
    if l.image.isSome || l.ended || l.status ≠ 0 then s
    else putLaunch s lid (some { l with next := gridSize l, status := 6, ended := true, far := [] })

/-- Whether a launch still has teams to place. -/
def placing (l : Launch) : Bool := !l.ended && l.status == 0 && decide (l.next < gridSize l)

/-- TEAM_PLACEMENT (R19, R20): the next quire of a launch, where a cluster can hold it. -/
def execTeamPlacement (lid : Nat) (s : State) : Host.Outcome State Fault Refusal :=
  .next (match launchAt s lid with
    | none => s
    | some l =>
      if placing l then
        match chooseQuire s lid l with
        | some (c, n) => placeQuire s lid l c n
        | none => s
      else s)

/-! Launches that wait, and the start of soft eviction. -/

/-- Whether a launch has an evicted quire on a cluster. -/
def hasSaved (s : State) (lid cluster : Nat) : Bool :=
  s.quires.any fun q => q.2.any fun x => x.launch = lid && x.cluster = cluster && x.phase == .saved

/-- Whether a launch waits for a cluster. -/
def waitsFor (s : State) (cluster lid : Nat) (l : Launch) : Bool :=
  clusterUsable s (partOf (vdevOf l.ctx)) cluster && (placing l || (!l.ended && hasSaved s lid cluster))

/-- The launches that wait for a cluster, with their identifiers. -/
def waiters (s : State) (cluster : Nat) : List (Nat × Launch) :=
  s.launches.filterMap fun x =>
    match x.2 with
    | some l => if waitsFor s cluster x.1 l then some (x.1, l) else none
    | none => none

/-- Whether a slice is parked in WAITADDR or SLEEPUNTIL, which counts as a YIELD (R235, R348). -/
def parkedWait (sl : Slice) : Bool :=
  match sl.a.wait with
  | .addr _ _ _ _ _ => true
  | .sleep _ _ _ _ => true
  | _ => false

/-- Stop a running team whose slice is parked in WAITADDR or SLEEPUNTIL. -/
def stopIfParked (s : State) (t : Nat) : State :=
  match teamAt s t with
  | none => s
  | some team =>
    if team.phase = .running && (sliceNums team).any fun j => parkedWait (sliceAt s (32 * t + j)) then
      putTeam s t (some { team with phase := .stopped }) else s

/-- Soft eviction begins for the running quires of a context on a cluster, and T1 and T2 start (R347, R348). -/
def startEviction (s : State) (ctx cluster : Nat) : State :=
  s.quires.foldl (fun s q =>
    match quireAt s q.1 with
    | none => s
    | some x =>
      if x.cluster = cluster && x.phase == .running && (launchAt s x.launch).any fun l => l.ctx = ctx then
        x.members.foldl stopIfParked (putQuire s q.1 (some { x with phase := .soft s.clock.toNat, drained := false }))
      else s) s

end Sys2Proof.Machine
end

