-- ==== Sys2Proof/Machine/Ladder.lean ====
section
/-! DEFINITION. The escalation ladder (R345 to R354): forced eviction, the drain bound, saving and resuming a quire,
killing a launch, folds for a team that cannot be placed, and power throttling (R16). -/

namespace Sys2Proof.Machine

/-- T1 in cycles (R338). -/
def t1Cycles (r : BitVec 512) : Nat := Config.cyclesPerUs * (if fld r 320 32 = 0 then 200 else fld r 320 32)

/-- T2 in cycles (R338): a value below T1 + 1000 µs is read as that. -/
def t2Cycles (r : BitVec 512) : Nat :=
  max (Config.cyclesPerUs * (if fld r 352 32 = 0 then 20000 else fld r 352 32)) (t1Cycles r + Config.cyclesPerUs * 1000)

/-- The context of a quire. -/
def quireCtx (s : State) (x : Quire) : Nat :=
  match launchAt s x.launch with
  | some l => l.ctx
  | none => 0

/-- The record whose timers govern a quire (R347). -/
def quireRecord (s : State) (x : Quire) : BitVec 512 :=
  match x.members.head?.bind fun t => teamAt s t with
  | some team => ctxRecord s team.home team.ctx
  | none => ctxConfigured s (quireCtx s x)

/-- The CLOCK at which a quire's eviction began. -/
def evictStart : QuirePhase → Option Nat
  | .soft t => some t
  | .forced t => some t
  | _ => none

/-- Stop a running team at once, at the instruction boundaries of its streams (R349). -/
def stopTeam (s : State) (t : Nat) : State :=
  match teamAt s t with
  | none => s
  | some team => if team.phase = .running then putTeam s t (some { team with phase := .stopped }) else s

/-- FORCED_EVICTION (R347, R349): T1 has passed with a team still running. -/
def execForcedEviction (q : Nat) (s : State) : Host.Outcome State Fault Refusal :=
  .next (match quireAt s q with
    | none => s
    | some x =>
      match x.phase with
      | .soft t =>
        if decide (t1Cycles (quireRecord s x) ≤ s.clock.toNat - t)
            && x.members.any (fun m => (teamAt s m).any fun team => team.phase == .running) then
          x.members.foldl stopTeam (putQuire s q (some { x with phase := .forced t }))
        else s
      | _ => s)

/-! Saving. -/

/-- Whether every team of a quire has stopped. -/
def allStopped (s : State) (x : Quire) : Bool :=
  x.members.all fun t => (teamAt s t).all fun team => team.phase == .stopped

/-- What a team still has under way that its save waits for (R349): accesses, and granted anvil requests. -/
def teamBusy (s : State) (t : Nat) : Bool :=
  s.flights.any (fun f => f.owner / 32 == t)
    || s.anvils.any fun v => v.2.resv.any fun r => r.owner / 32 == t && r.granted

/-- Whether an unfinished write of another party targets a team's allotment (R350). -/
def scratchBusy (s : State) (t : Nat) : Bool :=
  match teamAt s t with
  | some team => (List.range (team.size / 4096)).any fun i => pageBusy false s t team i
  | none => false

/-- DRAIN_BOUND_EXPIRY (R350): once every team has stopped and 2 µs have passed since, writes that have not arrived are held
at the scratchpad's entry. -/
def execDrainBoundExpiry (q : Nat) (s : State) : Host.Outcome State Fault Refusal :=
  .next (match quireAt s q with
    | none => s
    | some x =>
      match evictStart x.phase, x.drainAt with
      | some _, some t =>
        if allStopped s x && decide (2 * Config.cyclesPerUs ≤ s.clock.toNat - t) then
          putQuire s q (some { x with drained := true })
        else s
      | _, _ => s)

/-- The quires that are to be evicted and whose teams have now all stopped begin their drain (R350). -/
def noteDrains (s : State) : State :=
  s.quires.foldl (fun s p => match quireAt s p.1 with
    | some x => if (evictStart x.phase).isSome && x.drainAt.isNone && allStopped s x then
        putQuire s p.1 (some { x with drainAt := some s.clock.toNat }) else s
    | none => s) s

/-- The first key of saved teams, and the first above them: no core's place has such a key. -/
def savedBase : Nat := 16 * 2304
def savedEnd : Nat := 65536

/-- A free key for a saved team. -/
def freeSaved (s : State) : Option Nat :=
  (List.range (savedEnd - savedBase)).findSome? fun i =>
    if (teamAt s (savedBase + i)).isNone then some (savedBase + i) else none

/-- Replace a team's key in a pending record. -/
def rekeyPend (t t' : Nat) (p : PendRec) : PendRec := if p.team = t then { p with team := t' } else p

/-- A team goes to another key, with its slices and everything that names it. -/
def rekey (s : State) (t t' : Nat) : State :=
  match teamAt s t with
  | none => s
  | some team =>
    let s := (sliceNums team).foldl (fun s j =>
      let k := 32 * t + j
      let k' := 32 * t' + j
      reown (putSlice (putSlice s k' (sliceAt s k)) k Slice.zero) k k') s
    let s := putTeam (putTeam s t' (some team)) t none
    let c := coreAt s team.home
    let s := putCore s team.home { c with pend := c.pend.map (rekeyPend t t') }
    let s := { s with recWaits := s.recWaits.map fun w => { w with trap := w.trap.map (rekeyPend t t') } }
    match quireAt s team.quire with
    | some x => putQuire s team.quire (some { x with members := x.members.map fun m => if m = t then t' else m })
    | none => s

/-- Whether the invocation that is open on a core serves a team. -/
def boundTo (s : State) (t : Nat) : Bool :=
  let c := coreAt s (t / 16)
  c.invoc && c.tteam == t % 16

/-- An open invocation of a team is abandoned; its record stands first in line again (R323). -/
def abandon (s : State) (t : Nat) : State :=
  if boundTo s t then
    let c := coreAt s (t / 16)
    let s := closeInvocation s (t / 16)
    let d := coreAt s (t / 16)
    putCore s (t / 16) { d with pend := ⟨t, c.tslice, c.tcause, c.tstream, c.tfaddr⟩ :: d.pend }
  else s

/-- Ungranted requests of a team leave the reservation tables (R274). -/
def parkReqs (s : State) (t : Nat) : State :=
  { s with anvils := s.anvils.map fun v =>
    let mine : AReq → Bool := fun r => r.owner / 32 == t && !r.granted
    (v.1, { v.2 with resv := v.2.resv.filter fun r => !mine r, away := v.2.away ++ v.2.resv.filter mine }) }

/-- What the save of a slice sets aside (R349): an access parked on a translation is rewound and will issue again, and
every register's value goes to the save area, but for the dead ones (R42, R352). -/
def saveSlice (team : Team) (sl : Slice) : Slice :=
  let out : Bool → Nat → Slice → Slice := fun acc n sl => (List.range n).foldl (fun sl r =>
    let i := regInfo acc sl r
    putInfo acc sl r { i with loc := if i.dead = 15 then .dropped else .hbm }) sl
  { out true team.a (out false team.v sl) with park := none, parts := [] }

/-- Save one stopped team (R349 to R351) under a new key. -/
def saveTeam (forced : Bool) (s : State) (t : Nat) : State :=
  match teamAt s t with
  | none => s
  | some team =>
    match headerLoc s team, freeSaved s with
    | some place, some t' => saveAt forced s t team place t'
    | _, _ => s
where
  /-- The save itself: the header at its place, requests and scratch set aside, and the team under its new key. -/
  saveAt (forced : Bool) (s : State) (t : Nat) (team : Team) (place : Target) (t' : Nat) : State :=
    let tc := if boundTo s t then some (coreAt s (t / 16)).tcause else none
    let s := storeTo s place (headerBytes s t team forced tc)
    let s := clearDescs s (vdevOf team.ctx) (headerVa s team) (saveBytes team.s team.v team.a team.size)
    let s := parkReqs (abandon s t) t
    let pages := (List.range (team.size / 4096)).filter fun i => !team.moved.contains i
    let s := putTeam s t (some { pagesOut s t team pages with phase := .saved, mapped := [], moved := [], headerDue := false })
    let s := (sliceNums team).foldl (fun s j =>
      putSlice s (32 * t + j) (saveSlice team (sliceAt s (32 * t + j)))) s
    leaveCore (rekey s t t') (t / 16) team.ctx

/-- The page that the save of a team misses, or its restore, if any. -/
def saveMiss (write : Bool) (s : State) (t : Nat) : Option (Nat × Nat) :=
  match teamAt s t with
  | some team =>
    match missOf s write (vdevOf team.ctx) (headerVa s team) (saveBytes team.s team.v team.a team.size) with
    | some page => some (vdevOf team.ctx, page)
    | none => if (headerLoc s team).isNone then some (vdevOf team.ctx, headerVa s team / 2 ^ 16) else none
  | none => none

/-- The controllers that the save areas of a quire's teams lie behind (R351, R369). -/
def saveCtrls (s : State) (x : Quire) : List Nat :=
  (x.members.flatMap fun t => match teamAt s t with
    | none => []
    | some team =>
      (pageCuts (headerVa s team) (saveBytes team.s team.v team.a team.size)).filterMap fun p =>
        (tlbFind s (vdevOf team.ctx) p.1).bind fun l => targetCtrl (leafTarget l p.1)).eraseDups

/-- Whether the memory behind a controller may be used (R370, R401). -/
def ctrlReady (s : State) (c : Nat) : Bool :=
  if c < 48 then bitAt s.boot.ready.toNat (c / 2) && !bitAt s.boot.training.toNat (c / 2)
  else bitAt s.boot.ready.toNat (138 + (c - 48))

/-- The save or restore traffic of a quire joins the deadline queues of its controllers, with a latest-service CLOCK value
(R369; log entry 141). -/
def joinDeadline (s : State) (q : Nat) (save : Bool) (ctrls : List Nat) : State :=
  if s.deadlines.any fun d => d.quire = q && d.save == save then s
  else { s with serial := s.serial + 1, deadlines := s.deadlines ++ [⟨q, save, ctrls, Config.latestService s.serial⟩] }

/-- The traffic of quires leaves the deadline queues. -/
def leaveDeadline (s : State) (gone : Nat → Bool) : State :=
  { s with deadlines := s.deadlines.filter fun d => !gone d.quire }

/-- Whether the save or restore traffic of a quire is served now: it has joined the queues, none that waits at its controllers
is due earlier, and the memory behind them may be used (R369, R370). -/
def deadlineTurn (s : State) (q : Nat) (save : Bool) : Bool :=
  s.deadlines.any fun d => d.quire = q && d.save == save && d.ctrls.all fun c => earliestAt s d.due c && ctrlReady s c

/-- QUIRE_SAVE (R349, R350): every team has stopped, what they had under way is complete, and writes to their scratch
have arrived or are held at its entry. A header whose page is not there waits for its translation, and the traffic takes
its turn among the deadline requests (R369). -/
def execQuireSave (q : Nat) (s : State) : Host.Outcome State Fault Refusal :=
  .next (match quireAt s q with
    | none => s
    | some x =>
      if (evictStart x.phase).isNone || !allStopped s x || x.members.any (teamBusy s)
          || (!x.drained && x.members.any (scratchBusy s)) then s
      else match x.members.findSome? (saveMiss true s) with
      | some (v, page) => seekPage s v page true coreOfCc complexDie
      | none =>
        if freeSaved s = none then s
        else if !deadlineTurn s q true then joinDeadline s q true (saveCtrls s x)
        else
          let s := leaveDeadline s (· == q)
          let forced := match x.phase with
            | .forced _ => true
            | _ => false
          let s := x.members.foldl (saveTeam forced) s
          match quireAt s q with
          | some y => putQuire s q (some { y with phase := .saved })
          | none => s)

/-! Killing. -/

/-- Cancel the scribe programs of a launch (R283, R354). -/
def cancelLaunch (s : State) (lid : Nat) : State :=
  s.scribes.foldl (fun s b =>
    let n := b.1
    let s := ctxNums.foldl (fun s x =>
      match progAt s n x with
      | none => s
      | some p => if p.launch = lid then cancelRunning (putProg s n x (some { p with owner := orphanBase + p.core })) n x
          else s) s
    b.2.queues.foldl (fun s q =>
      (q.2.items.filter fun p => p.launch = lid).foldl (fun s p => dropQueued s n q.1 p.seq) s) s) s

/-- Drop what a launch has in flight (R354): accesses that are parked, held or not yet sent, and anvil entries. What has
been sent to another node goes on, on its own, until it is answered (R137). -/
def dropLaunchWork (s : State) (lid : Nat) : State :=
  { s with
    flights := (s.flights.filter fun f => !(f.launch = lid && !f.sent)).map fun f =>
      if f.launch = lid then { f with owner := orphanBase + coreOfKey f.owner } else f
    anvils := s.anvils.map fun v => (v.1, { v.2 with
      resv := (v.2.resv.filter fun r => !(r.launch = lid && r.remote = 0)).map fun r =>
        if r.launch = lid then { r with ended := true, code := 0, granted := true, owner := orphanBase + r.core } else r
      away := v.2.away.filter fun r => r.launch != lid }) }

/-- The tiles of a killed launch's context become VALID with zero bits: those it holds on a quad, and those saved with
it (R354). -/
def clearTiles (s : State) (ctx : Nat) : State :=
  { s with anvils := s.anvils.map fun v =>
    let mask := s.cores.foldl (fun m c => if anvilOf c.1 = v.1 then
      m ||| ((ctxPlaceOf s c.1 ctx).map fun p => recTiles p.2.record).getD 0 else m) 0
    (v.1, zeroTiles { v.2 with kept := v.2.kept.filter fun k => k.ctx != ctx } mask) }

/-- End one team of a killed launch (R354). -/
def killTeam (s : State) (t : Nat) : State :=
  match teamAt s t with
  | none => s
  | some team =>
    let s := if boundTo s t then closeInvocation s (t / 16) else s
    let c := coreAt s team.home
    let s := putCore s team.home { c with pend := c.pend.filter fun p => p.team != t }
    let s := { s with recWaits := s.recWaits.filter fun w => !(w.trap.any fun p => p.team = t) }
    let s := leaveQuire (putTeam (dropSlices s t team) t none) team.quire t
    leaveCore s team.home team.ctx

/-- Kill and reset a launch (R354): it completes with the machine-check status if that was its cause, else as killed. -/
def killLaunch (s : State) (lid : Nat) : State :=
  match launchAt s lid with
  | none => s
  | some l =>
    let ts := s.teams.filterMap fun p => if p.2.any fun t => t.launch = lid then some p.1 else none
    let s := leaveDeadline s fun q => (quireAt s q).any fun x => x.launch = lid
    let s := cancelLaunch s lid
    let s := ts.foldl killTeam (clearTiles s l.ctx)
    putLaunch (dropLaunchWork s lid) lid (some { l with
      next := gridSize l, live := 0, status := if l.status = 3 then 3 else 4, ended := true })

/-- The quires whose saves or restores miss a page whose request has been refused in this move. -/
def quireRefused (s : State) (x : Quire) : Bool :=
  let write := x.phase != .saved
  (write == false || ((evictStart x.phase).isSome && allStopped s x)) &&
    x.members.any fun t => (saveMiss write s t).any fun p => pageRefused s p.1 p.2 write

/-- A save area whose page has been refused cannot keep its team (R363): the launch of each team that waits for such a page is
killed, as one is whose header fails (R353, R354). DESIGN CHOICE (log entry 178). -/
def refuseHomes (s : State) : State :=
  if s.refused.isEmpty then s
  else
    let lids := ((homeWants s).filter fun w => pageRefused s w.vdev w.page w.write).map (·.launch)
      ++ s.quires.filterMap fun q => q.2.bind fun x => if quireRefused s x then some x.launch else none
    lids.eraseDups.foldl (fun s l => if (launchAt s l).any fun x => !x.ended then killLaunch s l else s) s

/-- The launches that wait for a page of their `.sram` section which has been refused end (R363, R378). -/
def refuseImages (s : State) : State :=
  if s.refused.isEmpty then s
  else s.launches.foldl (fun s x => match x.2 with
    | some l => if placing l && l.image.isNone && (match imageOf s l with
        | .miss page => pageRefused s (vdevOf l.ctx) page false
        | _ => false) then failImage s x.1 else s
    | none => s) s

/-- A machine check kills its launch at once (R337, R354). -/
def killChecked (s : State) : State :=
  s.launches.foldl (fun s x =>
    if x.2.any fun l => l.status == 3 && !l.ended then killLaunch s x.1 else s) s

/-- Whether T2 has passed for a quire of a launch before its save completed (R347). -/
def killDue (s : State) (lid : Nat) : Bool :=
  s.quires.any fun q => q.2.any fun x =>
    x.launch = lid && match evictStart x.phase with
      | some t => decide (t2Cycles (quireRecord s x) ≤ s.clock.toNat - t)
      | none => false

/-- KILL_AND_RESET (R337, R347, R354). -/
def execKillAndReset (lid : Nat) (s : State) : Host.Outcome State Fault Refusal :=
  .next (match launchAt s lid with
    | none => s
    | some l => if !l.ended && (l.status = 3 || killDue s lid) then killLaunch s lid else s)

/-! Resuming. -/

/-- The level at which a saved team fits: the one it had, or the next lower one with room (R45, R46, R353). -/
def resumeLevel (s : State) (team : Team) : Option Nat :=
  (List.range 4).find? fun l => decide (team.level ≤ l) && decide (entriesAt team team.s l ≤ freeEntries s team.home)

/-- Where a saved team returns, if its place, range and resources are free (R353): the team place and the level. -/
def resumeRoom (s : State) (team : Team) : Option (Nat × Nat) :=
  let others := (coreTeams s team.home).flatMap fun p =>
    if p.2.ctx = team.ctx then [(p.2.base, p.2.base + p.2.size)]
    else (List.range (p.2.size / 4096)).filterMap fun i =>
      if p.2.moved.contains i then none else some (p.2.base + 4096 * i, p.2.base + 4096 * (i + 1))
  if decide (residentSlices s team.home + team.s ≤ Config.sliceSlots) && decide (barsUsed s team.home + team.bars ≤ Config.barrierSlots)
      && ctxFits s team.home team.ctx && (team.size == 0 || rangeFree others team.base team.size) then
    match freePlace s team.home, resumeLevel s team with
    | some p, some l => some (p, l)
    | _, _ => none
  else none

/-- Ungranted requests of teams that are back re-enter the tables, with a new age, as far as there is room (R251, R274). -/
def unparkReqs (s : State) : State :=
  { s with anvils := s.anvils.map fun v =>
    let back := (v.2.away.filter fun r => decide (r.owner / 32 < savedBase)).take (16 - v.2.resv.length)
    (v.1, { v.2 with
      resv := v.2.resv ++ back.map fun r => { r with issued := s.clock.toNat }
      away := v.2.away.filter fun r => !back.any fun b => b.id = r.id }) }

/-- Bring one saved team back (R353): the directory page and the pinned pages at once, the others when they are used. -/
def resumeTeam (s : State) (t : Nat) : Option State :=
  match teamAt s t with
  | none => some s
  | some team =>
    match resumeRoom s team with
    | none => none
    | some (p, level) =>
      let t' := teamKey team.home p
      let s := enterCtx s team.home team.ctx
      let pages := List.range (team.size / 4096)
      let now : Nat → Bool := fun i => i == 0 || (decide (i < 32) && team.pin.getLsbD i)
      let x := pagesIn s team.home team (pages.filter now)
      let s := putTeam x.1 t (some { x.2 with
        phase := .running
        order := s.serial
        moved := pages.filter fun i => !now i })
      let s := { s with serial := s.serial + 1 }
      let s := spillOut (unparkReqs (rekey s t t')) team.home
      let s := (sliceNums team).foldl (fun s j =>
        putSlice s (32 * t' + j) { sliceAt s (32 * t' + j) with since := s.clock.toNat, swapped := false }) s
      let s := if level = team.level then s else setLevel false s t' level
      some (remapTeam s t')

/-- Bring the teams of a quire back one after another. -/
def resumeAll : List Nat → State → Option State
  | [], s => some s
  | t :: ts, s =>
    match resumeTeam s t with
    | none => none
    | some s => resumeAll ts s

/-- Save and restore traffic that cannot go on now leaves the deadline queues, and joins again when it can: a restore whose
places are taken or whose cluster its partition no longer owns, a save for which none is free, and either where a page has gone
away (R365, R369). -/
def withdrawDeadlines (s : State) : State :=
  if s.deadlines.isEmpty then s
  else { s with deadlines := s.deadlines.filter fun d => (quireAt s d.quire).any fun x =>
    (x.members.all fun t => (saveMiss d.save s t).isNone) &&
      (if d.save then (freeSaved s).isSome
        else clusterUsable s (partOf (vdevOf (quireCtx s x))) x.cluster && (resumeAll x.members s).isSome) }

/-- The header of a saved team: missing, bad, or good. -/
def headerState (s : State) (t : Nat) : Option Bool :=
  match teamAt s t with
  | none => some true
  | some team => (headerLoc s team).map fun loc => headerGood s loc

/-- QUIRE_RESUME (R353): when every place is free and the restore traffic has its turn (R369); a header whose CRC fails kills
the context's launch. -/
def execQuireResume (q : Nat) (s : State) : Host.Outcome State Fault Refusal :=
  .next (match quireAt s q with
    | none => s
    | some x =>
      if x.phase ≠ .saved || !clusterUsable s (partOf (vdevOf (quireCtx s x))) x.cluster then s
      else if x.members.any fun t => headerState s t == some false then killLaunch s x.launch
      else match x.members.findSome? (saveMiss false s) with
      | some (v, page) => seekPage s v page false coreOfCc complexDie
      | none =>
        match resumeAll x.members s with
        | none => s
        | some s' =>
          if !deadlineTurn s q false then joinDeadline s q false (saveCtrls s x)
          else
          let s := leaveDeadline s' (· == q)
          let s := match quireAt s q with
            | some y => putQuire s q (some { y with phase := .running, drained := false, drainAt := none })
            | none => s
          match launchAt s x.launch with
          | some l => putLaunch s x.launch (some { l with quantum := aput 0 l.quantum x.cluster s.clock.toNat })
          | none => s)

/-! Folds for a team that cannot be placed, and the ladder. -/

/-- Whether a launch is kept from going on, as seen from a cluster (R345, R347): its next quire can be placed nowhere, or
an evicted quire of it cannot return to the cluster. -/
def blocked (s : State) (cluster lid : Nat) (l : Launch) : Bool :=
  (placing l && (chooseQuire s lid l).isNone)
    || s.quires.any fun q => q.2.any fun x =>
      x.launch = lid && x.cluster = cluster && x.phase == .saved && (resumeAll x.members s).isNone

/-- The waiting launch of highest PRIO that is kept from going on, of a context if one is named (R345). -/
def blockedWaiter (s : State) (cluster : Nat) (ctx : Option Nat) : Option (Nat × Launch) :=
  leastBy (fun x y => decide (ctxPrio s cluster y.2.ctx < ctxPrio s cluster x.2.ctx))
    ((waiters s cluster).filter fun x => ctx.all (fun c => x.2.ctx = c) && blocked s cluster x.1 x.2)

/-- What a waiting launch asks of a fold on one core. -/
def needOf (l : Launch) : FoldReq := ⟨0, (teamEntries l.hdr + 31) / 32, hdrScratch l.hdr / 4096, none⟩

/-- The cores of a cluster. -/
def clusterCores (cluster : Nat) : List Nat :=
  (List.range Config.coresPerCluster).map fun i => Config.coresPerCluster * cluster + i

/-- Fold the cores of a cluster one after another, with victims of PRIO below a bound, until a launch is no longer kept
from going on (R345). -/
def foldFor (s : State) (cluster lid : Nat) (l : Launch) (below : Nat) : State :=
  (clusterCores cluster).foldl (fun s c =>
    if blocked s cluster lid l then (foldCore s c (needOf l) below).1 else s) s

/-- The context of the first team that gives way on a cluster (R344, R347), of PRIO below a bound. -/
def yieldingCtx (s : State) (cluster below : Nat) : Option Nat :=
  let vs := (clusterCores cluster).flatMap fun c =>
    (coreTeams s c).filter fun p => decide (fld (ctxRecord s c p.2.ctx) 232 8 < below)
  ((sortBy (victimBefore s) vs.length vs).head?).map fun p => p.2.ctx

/-- The first two steps of the ladder for a launch that is kept from going on (R345, R347): folds, and where they do not
free enough, soft eviction of the first context that gives way. -/
def climb (s : State) (cluster lid : Nat) (l : Launch) : State :=
  let below := ctxPrio s cluster l.ctx
  let s := foldFor s cluster lid l below
  if blocked s cluster lid l then
    match yieldingCtx s cluster below with
    | some ctx => startEviction s ctx cluster
    | none => s
  else s

/-- FOLD_REQUEST (R345, R347): a fold by the command complex on one core, on behalf of a context whose team cannot be
placed, with victims of strictly lower PRIO, and then the other steps of the ladder while the team still cannot be. -/
def execFoldRequest (core : Nat) (req : BitVec 64) (s : State) : Host.Outcome State Fault Refusal :=
  let q := foldReqOf req.toNat
  let cluster := clusterOf core
  let ctx := q.ben.bind fun b => (aget CtxPlace.zero (coreAt s core).places b).ctx
  .next (if foldReqBad s core req.toNat then s
    else match blockedWaiter s cluster ctx with
    | none => s
    | some (lid, l) => climb (foldCore s core q (ctxPrio s cluster l.ctx)).1 cluster lid l)

/-- The ladder by itself, for the waiting launch of highest PRIO of a cluster (R347). -/
def autoClimb (cluster : Nat) (s : State) : Host.Outcome State Fault Refusal :=
  .next (match blockedWaiter s cluster none with
    | none => s
    | some (lid, l) => climb s cluster lid l)

/-- QUANTUM in cycles, by the record that governs the context on a cluster; 0 never ends (R338). -/
def quantumCycles (s : State) (cluster ctx : Nat) : Nat := Config.cyclesPerUs * fld (clusterRecord s cluster ctx) 384 32

/-- The launch of a context whose time slice has run out on a cluster (R347). -/
def quantumLaunch (s : State) (ctx cluster : Nat) : Option (Nat × Launch) :=
  s.launches.findSome? fun x =>
    match x.2 with
    | none => none
    | some l =>
      if l.ctx = ctx && !l.ended && quantumCycles s cluster ctx != 0
          && decide (quantumCycles s cluster ctx ≤ s.clock.toNat - aget 0 l.quantum cluster)
          && s.quires.any (fun q => q.2.any fun y => y.launch = x.1 && y.cluster = cluster && y.phase == .running)
      then some (x.1, l) else none

/-- The launches of other contexts, of equal or higher PRIO, that wait for a cluster on which a context's time slice is over
(R347). -/
def quantumWaiters (s : State) (ctx cluster : Nat) : List (Nat × Launch) :=
  (waiters s cluster).filter fun x => x.2.ctx != ctx && decide (ctxPrio s cluster ctx ≤ ctxPrio s cluster x.2.ctx)

/-- QUANTUM_EXPIRY (R347): with launches of other contexts of equal or higher PRIO waiting for the cluster, folds are tried at
once for each, and soft eviction follows where one of them still cannot go on. The next time slice on the cluster begins. -/
def execQuantumExpiry (ctx cluster : Nat) (s : State) : Host.Outcome State Fault Refusal :=
  .next (match quantumLaunch s ctx cluster with
    | none => s
    | some (lid, l) =>
      let ws := quantumWaiters s ctx cluster
      if ws.isEmpty then s
      else
        let s := ws.foldl (fun s w => foldFor s cluster w.1 w.2 (ctxPrio s cluster w.2.ctx)) s
        let s := putLaunch s lid (some { l with quantum := aput 0 l.quantum cluster s.clock.toNat })
        if ws.any fun w => blocked s cluster w.1 w.2 then startEviction s ctx cluster else s)

/-! Power. -/

/-- POWER_LIMIT (R16): the clusters whose issue is held back from now on; none lifts the throttle. DESIGN CHOICE: a throttle holds
back the teams of whole clusters, and neither trap contexts nor scribes and anvils (log entry 170). -/
def execPowerLimit (clusters : List Nat) (s : State) : Host.Outcome State Fault Refusal :=
  .next { s with throttled := clusters }

end Sys2Proof.Machine
end

