-- ==== Sys2Proof/Machine/Commands.lean ====
section
/-! DEFINITION. The command complex (R360, R363, R365, R367, R368, R372 to R382, R384, R387): doorbells, reading rings,
the packets and their work, launches, completion signals and interrupts, and the refill of token buckets. -/

namespace Sys2Proof.Machine

/-! Doorbells. -/

/-- Whether a write of a serial-number register is accepted (R373). -/
def accepts (old new : Word32) : Bool := serialLt 32 old.toNat new.toNat

/-- NSLOT of a ring. -/
def ringSlots (r : RingSt) : Nat := fld r.record 64 16

/-- DOORBELL_TAIL (R373): an accepted write that overruns the ring stops it, enabled or not. -/
def execDoorbellTail (v ring : Nat) (val : BitVec 32) (s : State) : Host.Outcome State Fault Refusal :=
  let r := ringAt s v ring
  .next (if ring < 4 && accepts r.tail val && decide (v ≤ Config.adminVdev) then
      if ringSlots r < (val - r.head).toNat then
        ringError (putRing s v ring { r with tail := val, en := false }) .none v ring 6 0 r.head
      else putRing s v ring { r with tail := val }
    else s)

/-- PRQCONS (R362, R373). -/
def execPrqcons (v : Nat) (val : BitVec 32) (s : State) : Host.Outcome State Fault Refusal :=
  let d := vdevSt s v
  .next (if accepts d.prqCons val && decide (v < Config.vdevs) then putVdev s v { d with prqCons := val } else s)

/-- EVCONS (R362, R384). -/
def execEvcons (val : BitVec 32) (s : State) : Host.Outcome State Fault Refusal :=
  .next (if accepts s.fabric.evCons val then { s with fabric := { s.fabric with evCons := val } } else s)

/-- A ring after its record is written (R372): HEAD and TAIL are 0. -/
def newRing (rec : BitVec 512) : RingSt :=
  ⟨BitVec.ofNat 512 (fld rec 0 81 + fld rec 128 128 * 2 ^ 128), 0, 0, bitAt rec.toNat 80⟩

/-- ADMIN_RING_RECORD (R402): ring 0 of the reserved virtual device. -/
def execAdminRingRecord (rec : BitVec 512) (s : State) : Host.Outcome State Fault Refusal :=
  .next (putRing s Config.adminVdev 0 (newRing rec))

/-! Reading rings. -/

/-- The valid byte of packet i of a ring (R374). -/
def slotLap (r : RingSt) : Byte := lapByte r.head.toNat (max 1 (ringSlots r))

/-- RING_PACKET_READ (R374, R379, R380): a published packet is copied, HEAD rises and is written, and the packet is
checked. The complex must be ready (R401). -/
def execRingPacketRead (v ring : Nat) (s : State) : Host.Outcome State Fault Refusal :=
  let r := ringAt s v ring
  let n := ringSlots r
  let loc := faLoc (fld r.record 0 64) + 256 * (r.head.toNat % (max 1 n))
  let place : Target := ⟨if loc < Config.hbmEnd then .hbm else .cxl, loc, none, 0, loc⟩
  .next (if bitAt s.boot.ready.toNat 146 && r.en && n != 0 && r.head != r.tail && targetReady s place
        && ringBase s (fld r.record 0 64) && readByte (seen s place 256) (loc + 255) == slotLap r then
      let p : Packet := {
        id := s.serial, vdev := v, ring := ring, seq := r.head
        bytes := BitVec.ofNat 2048 (seenVal s place 256)
        phase := .checking, caddrBad := false, park := none, refused := [], far := [], record := none }
      let s := putRing { s with serial := s.serial + 1, packets := s.packets ++ [p] } v ring { r with head := r.head + 1 }
      let s := post s (partOf v) (fld r.record 128 64) (valBytes 8 (r.head + 1).toNat)
      checkPkt s p
    else s)

/-! Order. -/

/-- Whether everything that a launch started has ended: its accesses, anvil requests, scribe programs, and what it has sent to
other nodes (R137). -/
def launchQuiet (s : State) (lid : Nat) : Bool :=
  !(s.flights.any (fun f => f.launch = lid)
    || s.anvils.any (fun v => v.2.resv.any (fun r => r.launch = lid) || v.2.away.any fun r => r.launch = lid)
    || s.scribes.any (fun b => b.2.ctxs.any (fun c => c.2.any fun p => p.launch = lid)
      || b.2.queues.any fun q => q.2.items.any fun p => p.launch = lid)
    || s.fabric.reqs.any fun r => r.launch = some lid)

/-- The status of a packet's launch once its teams have ended and its writes are globally performed (R137, R378). -/
def launchOver (s : State) (p : Packet) : Option Nat :=
  s.launches.findSome? fun x => x.2.bind fun l =>
    if l.packet = p.id && l.ended && launchQuiet s x.1 then some l.status else none

/-- Whether a packet has completed (R378). -/
def pktDone (s : State) (p : Packet) : Bool :=
  match p.phase with
  | .done _ => true
  | .signal => true
  | .started => pktType p == 1 && (launchOver s p).isSome
  | _ => false

/-- Whether a packet has started. -/
def pktBegun (p : Packet) : Bool :=
  match p.phase with
  | .checking => false
  | .read => false
  | _ => true

/-- The packets of its ring that a packet follows. -/
def pktsBefore (s : State) (p : Packet) : List Packet :=
  (s.packets.takeWhile fun q => q.id != p.id).filter fun q => q.vdev = p.vdev && q.ring = p.ring

/-- Whether a packet may start (R375). -/
def mayStart (s : State) (p : Packet) : Bool :=
  p.phase == .read && p.park.isNone &&
    match pktOrder p with
    | 0 => (pktsBefore s p).all fun q => pktDone s q
    | 1 => (pktsBefore s p).all pktBegun
    | _ => true

/-- A packet's work is done. -/
def donePkt (s : State) (p : Packet) (status : Nat) : State := putPkt s { p with phase := .done status, park := none }

/-- Start a packet of a type. Its XFENCE (R375) changes nothing that one memory shows (log entry 17). -/
def runPkt (s : State) (id typ : Nat) (f : State → Packet → State) : Host.Outcome State Fault Refusal :=
  .next (match pktAt s id with
    | some p => if pktType p = typ && mayStart s p then f s p else s
    | none => s)

/-- NOP (R377). -/
def execNopPacket (id : Nat) (s : State) : Host.Outcome State Fault Refusal := runPkt s id 0x00 fun s p => donePkt s p 0

/-- INVALID_PACKET (R379): a packet of reserved TYPE. -/
def execInvalidPacket (id : Nat) (s : State) : Host.Outcome State Fault Refusal :=
  .next (match pktAt s id with
    | some p =>
      if ([0x00, 0x01, 0x02, 0x03, 0x10, 0x11, 0x12] : List Nat).contains (pktType p) || !mayStart s p then s
      else donePkt s p 6
    | none => s)

/-! Accesses of the complex. -/

/-- Where an access of a packet leads: a target whose memory is ready and serves it (R368), or what stands in the way. -/
inductive CcPlace where
  | at (t : Target)
  | stop (s : State)
deriving DecidableEq, Repr

/-- Locate a checked address field of a packet when its work needs it. -/
def ccPlace (s : State) (p : Packet) (off align : Nat) (write : Bool) : CcPlace :=
  match vaCheck s p off align write with
  | .fault code => .stop (failCap s p code off)
  | .miss page w => .stop (parkPkt s p page w)
  | .ok =>
    let a := pfld p off 8
    match (if p.vdev = Config.adminVdev then adminTarget a else (tlbFind s p.vdev a).map fun l => leafTarget l a) with
    | none => .stop s
    | some t => if targetReady s t && served s p.vdev t then .at t else .stop s

/-- An access of a packet spends a token of its virtual device (R368). -/
def ccSpend (s : State) (p : Packet) (t : Target) : State := spendFor s (16 * p.vdev) [t]

/-- Whether a packet's request to another node waits for its answer. -/
def ccAwaits (s : State) (id : Nat) : Bool := s.fabric.reqs.any fun r => r.owner == .cc id

/-- Send a request of a packet in a class (R386). -/
def ccSend (s : State) (p : Packet) (dest tc : Nat) (m : Msg) : State :=
  sendRequest s (.cc p.id) (partOf p.vdev) (256 * partOf p.vdev + dest) tc m

/-- Whether the stream that an access of a packet needs takes it now (R388); a second copy goes in class 0 (R394). -/
def ccOpen (s : State) (p : Packet) (tc : Nat) (t : Target) : Bool :=
  let free : Nat → Nat → Bool := fun d tc => streamOpen s (256 * partOf p.vdev + d) tc
  if isRemote t then free (remoteDest t) tc else t.dup.all fun d => free d 0

/-- Store 8 bytes for a packet, here, with its second copy (R394), or elsewhere; whether an answer is awaited. -/
def ccStore (s : State) (p : Packet) (tc : Nat) (t : Target) (bs : List Byte) : State × Bool :=
  if isRemote t then (ccSend s p (remoteDest t) tc (writeMsg 2 t.loc bs (isClear t)), true)
  else
    let s := storeTo (ccSpend s p t) t bs
    match t.dup with
    | some d => (ccSend s p d 0 (writeMsg 2 t.loc bs (isClear t)), true)
    | none => (s, false)

/-- WAIT (R377): the packet starts to watch its word. -/
def execWaitPacket (id : Nat) (s : State) : Host.Outcome State Fault Refusal :=
  runPkt s id 0x02 fun s p => putPkt s { p with phase := .started }

/-- Whether a word meets a WAIT packet's condition (R377). -/
def waitMet (p : Packet) (x : Nat) : Bool :=
  let v := pfld p 32 4
  x == v || (bitAt (pfld p 36 1) 0 && serialLt 32 v x)

/-- WAIT_SATISFIED (R377): a read of the word that meets the condition completes the packet. A word on another module
is asked for. -/
def execWaitSatisfied (id : Nat) (s : State) : Host.Outcome State Fault Refusal :=
  .next (match pktAt s id with
    | none => s
    | some p =>
      if pktType p = 0x02 && p.phase == .started && p.park.isNone then
        match ccPlace s p 24 4 false with
        | .stop s' => s'
        | .at t =>
          if isRemote t then
            (if ccAwaits s id then s else ccSend s p (remoteDest t) 0 (readMsg 1 t.loc 4 (isClear t)))
          else if waitMet p (seenVal s t 4) then donePkt (ccSpend s p t) p 0 else s
      else s)

/-- WRITE (R377). -/
def execWritePacket (id : Nat) (s : State) : Host.Outcome State Fault Refusal :=
  runPkt s id 0x03 fun s p =>
    match ccPlace s p 24 8 true with
    | .stop s' => s'
    | .at t =>
      if !ccOpen s p 0 t then s
      else
      let r := ccStore s p 0 t (valBytes 8 (pfld p 32 8))
      if r.2 then putPkt r.1 { p with phase := .started } else donePkt r.1 p 0

/-- PAGE_RESPONSE (R363). -/
def execPageResponsePacket (id : Nat) (s : State) : Host.Outcome State Fault Refusal :=
  runPkt s id 0x11 fun s p =>
    answerRequest (donePkt s p 0) p.vdev (pfld p 24 4) (pfld p 28 2) (pfld p 30 1)

/-! Invalidation. -/

/-- The range of an INVALIDATE: a length of 0 means every address (R377). -/
def invalRange (p : Packet) : Nat × Nat :=
  if pfld p 32 8 = 0 then (0, 2 ^ 64) else (pfld p 24 8, pfld p 24 8 + pfld p 32 8)

/-- Whether a cached leaf covers part of a range. -/
def leafIn (v lo hi : Nat) (l : TlbLeaf) : Bool :=
  l.vdev == v && decide (l.va * 2 ^ l.bits < hi) && decide (lo < (l.va + 1) * 2 ^ l.bits)

/-- The virtual device in whose context an access in flight was translated: its launch's, also where its issuer has ended. -/
def flightVdev (s : State) (f : Flight) : Nat :=
  match launchAt s f.launch with
  | some l => vdevOf l.ctx
  | none => vdevOf (keyCtx s f.owner)

/-- Whether an access in flight used one of some leaves: it lies, by its address, in what the leaf maps. -/
def flightIn (s : State) (v : Nat) (leaves : List TlbLeaf) (f : Flight) : Bool :=
  flightVdev s f == v && f.lanes.any fun a =>
    let hit : Target → Bool := fun t => t.space != .sram && leaves.any fun l => t.va / 2 ^ l.bits == l.va
    hit a.tgt || hit a.dst

/-- What unfinished invalidations of a virtual device that meet a range still wait for: it used leaves of that range too. -/
def olderUsers (s : State) (v lo hi : Nat) : List Nat :=
  (s.invals.filter fun i => i.vdev == v && decide (i.lo < hi) && decide (lo < i.hi)).flatMap (·.flights)

/-- INVALIDATE (R360): the covered leaves are dropped, and the accesses that may have used them are noted, also those of an
earlier invalidation that still waits. -/
def execInvalidatePacket (id : Nat) (s : State) : Host.Outcome State Fault Refusal :=
  runPkt s id 0x12 fun s p =>
    let r := invalRange p
    let gone := (s.tlb ++ s.tlbGone).filter (leafIn p.vdev r.1 r.2)
    let users := (s.flights.filter (flightIn s p.vdev gone)).map (·.id)
      ++ (s.fabric.reqs.filter fun q => q.part = partOf p.vdev).map (·.id) ++ olderUsers s p.vdev r.1 r.2
    putPkt { s with
      tlb := s.tlb.filter fun l => !leafIn p.vdev r.1 r.2 l
      invals := s.invals ++ [⟨id, p.vdev, r.1, r.2, users⟩] } { p with phase := .started }

/-- INVALIDATION_COMPLETE (R360): every access that used a covered leaf is performed. -/
def execInvalidationComplete (id : Nat) (s : State) : Host.Outcome State Fault Refusal :=
  .next (match s.invals.find? fun i => i.packet = id, pktAt s id with
    | some i, some p =>
      if s.flights.any (fun f => i.flights.contains f.id) || s.fabric.reqs.any (fun q => i.flights.contains q.id) then s
      else donePkt { s with invals := s.invals.filter fun x => x.packet != id } p 0
    | _, _ => s)

/-! Configuration. -/

/-- The 64 bytes of a configured record. -/
def cfgRecord (p : Packet) : BitVec 512 := BitVec.ofNat 512 (pfld p 64 64)

/-- Run a CONFIG packet of a kind: one that is not in order completes with status 5 (R377). -/
def runCfg (s : State) (id kind : Nat) (f : State → Packet → Nat → State) : Host.Outcome State Fault Refusal :=
  runPkt s id 0x10 fun s p =>
    if !cfgOk s p then donePkt s p 5
    else if cfgKind p = kind then f s p ((cfgVdev s p).getD 0) else s

/-- Whether a context record is rejected (R338). -/
def ctxRecordBad (r : BitVec 512) : Bool :=
  fld r 262 2 != 0 || fld r 305 15 != 0 || fld r 416 96 != 0 || decide (32 < fld r 248 5 + fld r 253 6)

/-- CONTEXT_RECORD_CONFIG (R338). -/
def execContextRecordConfig (id : Nat) (s : State) : Host.Outcome State Fault Refusal :=
  runCfg s id 0 fun s p v =>
    let r := cfgRecord p
    if ctxRecordBad r then donePkt s p 5
    else donePkt (putVdev s v { vdevSt s v with ctxs := aput none (vdevSt s v).ctxs (cfgIndex p) (some r) }) p 0

/-- The writable fields of a virtual-device record (R4, R367). -/
def vdevFields (r : BitVec 512) : BitVec 512 :=
  BitVec.ofNat 512 (fld r 0 64 + fld r 80 8 * 2 ^ 80 + fld r 96 144 * 2 ^ 96 + fld r 288 48 * 2 ^ 288)

/-- VDEV_RECORD_CONFIG (R362, R367, R381): the page-request ring starts again, every MSI-X entry is masked, and the
buckets are full (R368). -/
def execVdevRecordConfig (id : Nat) (s : State) : Host.Outcome State Fault Refusal :=
  runCfg s id 1 fun s p v =>
    let s := putVdev s v { vdevSt s v with record := vdevFields (cfgRecord p), prqW := 0, prqCons := 0, msix := [] }
    donePkt { s with tokens := s.tokens.filter fun t => t.1 / 64 != v } p 0

/-- RING_RECORD_CONFIG (R372). -/
def execRingRecordConfig (id : Nat) (s : State) : Host.Outcome State Fault Refusal :=
  runCfg s id 2 fun s p v => donePkt (putRing s v (cfgIndex p) (newRing (cfgRecord p))) p 0

/-- The fields of a partition record without its reserved bits (R4, R365). -/
def partFields (r : BitVec 512) : BitVec 512 :=
  BitVec.ofNat 512 (fld r 0 3 + fld r 8 4 * 2 ^ 8 + fld r 16 16 * 2 ^ 16 + fld r 64 162 * 2 ^ 64 + fld r 256 256 * 2 ^ 256)

/-- The number of bits set in a field. -/
def countBits (r : BitVec 512) (lo len : Nat) : Nat := ((List.range len).filter fun i => r.getLsbD (lo + i)).length

/-- Whether any core holds a context of a partition. -/
def partResident (s : State) (part : Nat) : Bool :=
  s.cores.any fun c => c.2.places.any fun p => p.2.ctx.any fun x => partOf (vdevOf x) = part

/-- Whether a unit of a record is owned by another valid record (R365). -/
def partShares (s : State) (part : Nat) (r : BitVec 512) : Bool :=
  s.partitions.any fun q => q.1 != part && fld q.2 0 1 == 1
    && (fld r 64 162 &&& fld q.2 64 162 != 0 || fld r 256 256 &&& fld q.2 256 256 != 0)

/-- Whether a partition record is rejected (R365). -/
def partBad (s : State) (part : Nat) (r : BitVec 512) : Bool :=
  fld r 0 1 == 1 && (decide (countBits r 64 96 < 2) || fld r 160 48 == 0 || fld r 8 4 == 0 || decide (8 < fld r 8 4)
    || fld r 3 5 != 0 || fld r 12 4 != 0 || fld r 32 32 != 0 || fld r 226 30 != 0
    || partShares s part r || partResident s part)

/-- The launches that have an access parked on one of some page requests. -/
def parkedLaunches (s : State) (ids : List Nat) : List Nat :=
  let hit : Option Park → Bool := fun p => p.any fun k => k.req.any ids.contains
  ((s.slices.filterMap fun x => if hit x.2.park then some (keyLaunch s x.1) else none)
    ++ (s.anvils.flatMap fun v => (v.2.resv.filter fun r => hit r.park).map (·.launch))
    ++ s.scribes.flatMap fun b => b.2.ctxs.filterMap fun c => c.2.bind fun p => if hit p.park then some p.launch else none).eraseDups

/-- A handler whose fetch is parked on a page request that is abandoned takes a double fault (R321). -/
def failFetches (s : State) (ids : List Nat) : State :=
  s.cores.foldl (fun s c =>
    let sl := sliceAt s (trapBase + c.1)
    let lost : Bool := match sl.park with
      | some p => p.req.any ids.contains && p.page == sl.a.pc.toNat / 2 ^ 16
      | none => false
    if (coreAt s c.1).invoc && lost then doubleFault s c.1 else s) s

/-- A virtual device is reset or reassigned (R364): GEN rises and its outstanding requests are abandoned. The accesses parked
on them go with their teams, whose launches are killed (log entry 142), a handler that cannot be fetched takes a double fault
(R321), and what the device itself does fails. -/
def resetVdev (s : State) (v : Nat) : State :=
  let reqs := s.pageReqs.filter fun r => r.vdev = v
  let s := failFetches s (reqs.map (·.id))
  let d := vdevSt s v
  let s := putVdev s v { d with gen := d.gen + 1 }
  let s := { s with tlb := s.tlb.filter fun l => l.vdev != v }
  let s := (parkedLaunches s (reqs.map (·.id))).foldl killLaunch s
  reqs.foldl (fun s r => refusePage (dropPageReq s r.id) r) s

/-- The virtual devices of a partition. -/
def partVdevs (part : Nat) : List Nat := (List.range 8).map (8 * part + ·)

/-- A partition that is no longer valid owns no cluster, so nothing of it runs on (R365): its launches are killed (log entry
142). -/
def dropPartition (s : State) (part : Nat) : State :=
  if bitAt (partRec s part).toNat 0 then s
  else s.launches.foldl (fun s x =>
    if x.2.any fun l => !l.ended && partOf (vdevOf l.ctx) == part then killLaunch s x.1 else s) s

/-- PARTITION_RECORD_CONFIG (R364, R365): the partition's virtual devices are reassigned. -/
def execPartitionRecordConfig (id : Nat) (s : State) : Host.Outcome State Fault Refusal :=
  runCfg s id 3 fun s p _ =>
    let i := cfgIndex p
    if partBad s i (cfgRecord p) then donePkt s p 5
    else
      let s := { s with partitions := aput 0 s.partitions i (partFields (cfgRecord p)) }
      donePkt (dropPartition ((partVdevs i).foldl resetVdev s) i) p 0

/-- Whether a destination entry is rejected (R387). -/
def destBad (s : State) (part : Nat) (e : BitVec 256) : Bool :=
  fld e 13 3 != 0 || fld e 18 46 != 0 || ([0, 1, 2] : List Nat).any fun n =>
    let port := fld e (64 + 64 * n + 1) 5
    fld e (64 + 64 * n + 57) 7 != 0 || decide (17 < port)
      || (fld e (64 + 64 * n) 1 == 1 && fld (partRec s part) (208 + port) 1 == 0)

/-- DESTINATION_ENTRY_CONFIG (R387, R391): the routes are unfailed, and streams that waited for it go on. -/
def execDestinationEntryConfig (id : Nat) (s : State) : Host.Outcome State Fault Refusal :=
  runCfg s id 4 fun s p _ =>
    let i := cfgIndex p
    let e := BitVec.ofNat 256 (pfld p 64 32)
    if destBad s (i / 256) e then donePkt s p 5
    else donePkt (entryWritten (putDest s i ⟨e, 0⟩) i) p 0

/-- FABRIC_RECORD_CONFIG (R384): the event ring starts again. -/
def execFabricRecordConfig (id : Nat) (s : State) : Host.Outcome State Fault Refusal :=
  runCfg s id 5 fun s p _ =>
    let r := cfgRecord p
    if fld r 12 4 != 0 || fld r 160 352 != 0 then donePkt s p 5
    else donePkt { s with fabric := { s.fabric with record := r, evW := 0, evCons := 0, evLost := 0 } } p 0

/-! Interrupts. -/

/-- A masked entry with address and data 0 (R381). -/
def msixMasked : BitVec 128 := BitVec.ofNat 128 (2 ^ 96)

/-- An MSI-X entry. Entries that nothing has written since the virtual-device record are masked. -/
def msixEntry (s : State) (v e : Nat) : BitVec 128 := aget msixMasked (vdevSt s v).msix e

/-- Clear the pending completions of a vector (R382). -/
def clearCoal (s : State) (v e : Nat) : State :=
  putVdev s v { vdevSt s v with coal := aput (0, 0) (vdevSt s v).coal e (0, 0) }

/-- Send a vector's message, or set its pending bit while it is masked (R381, R382). -/
def sendMsi (s : State) (v e : Nat) : State :=
  let s := clearCoal s v e
  let x := msixEntry s v e
  if fld x 96 1 = 1 then
    putVdev s v { vdevSt s v with msixPend := (vdevSt s v).msixPend ||| BitVec.ofNat 64 (2 ^ e) }
  else post s (partOf v) (fld x 0 64) (valBytes 4 (fld x 64 32))

/-- Write one MSI-X entry; a pending message is sent when its vector is unmasked (R381). -/
def writeMsix (s : State) (v e : Nat) (x : BitVec 128) : State :=
  let x := BitVec.ofNat 128 (fld x 0 97)
  let s := putVdev s v { vdevSt s v with msix := aput msixMasked (vdevSt s v).msix e x }
  let d := vdevSt s v
  if fld x 96 1 = 0 && d.msixPend.getLsbD e then
    sendMsi (putVdev s v { d with msixPend := d.msixPend &&& ~~~(BitVec.ofNat 64 (2 ^ e)) }) v e
  else s

/-- MSIX_ENTRIES_CONFIG (R381). -/
def execMsixEntriesConfig (id : Nat) (s : State) : Host.Outcome State Fault Refusal :=
  runCfg s id 6 fun s p v =>
    donePkt (([0, 1, 2, 3] : List Nat).foldl (fun s j =>
      writeMsix s v (cfgIndex p + j) (BitVec.ofNat 128 (pfld p (64 + 16 * j) 16))) s) p 0

/-- COALUS in cycles and COALN (R367, R382). -/
def coalCycles (s : State) (v : Nat) : Nat := Config.cyclesPerUs * fld (vdevSt s v).record 320 8
def coalCount (s : State) (v : Nat) : Nat := max 1 (fld (vdevSt s v).record 328 8)

/-- One more completion of a vector is pending (R382). -/
def raiseIrq (s : State) (v e : Nat) : State :=
  let c := aget (0, 0) (vdevSt s v).coal e
  let n := c.1 + 1
  let first := if c.1 = 0 then s.clock.toNat else c.2
  if coalCount s v ≤ n || coalCycles s v = 0 then sendMsi s v e
  else putVdev s v { vdevSt s v with coal := aput (0, 0) (vdevSt s v).coal e (n, first) }

/-- COALESCING_TIMEOUT (R382). -/
def execCoalescingTimeout (v e : Nat) (s : State) : Host.Outcome State Fault Refusal :=
  let c := aget (0, 0) (vdevSt s v).coal e
  .next (if c.1 != 0 && decide (coalCycles s v ≤ s.clock.toNat - c.2) then sendMsi s v e else s)

/-! Completion. -/

/-- The status with which a packet has completed. -/
def pktStatus (s : State) (p : Packet) : Option Nat :=
  match p.phase with
  | .done n => some n
  | .started =>
    if pktType p = 1 then launchOver s p else none
  | _ => none

/-- A launch that has completed is forgotten. -/
def dropLaunch (s : State) (p : Packet) : State :=
  s.launches.foldl (fun s x => if x.2.any fun l => l.packet = p.id then putLaunch s x.1 none else s) s

/-- The end of a packet after its signal: the interrupt, if it asks for one (R376, R382). -/
def endPkt (s : State) (p : Packet) : State :=
  let s := dropPkt (dropLaunch s p) p.id
  if bitAt (pfld p 10 1) 0 then raiseIrq s p.vdev (pfld p 8 2 % 64) else s

/-- Whether the error record of a packet's capability fault is not written yet (R135, R380): it waits for its memory, or for its
answer from another node. -/
def recordPending (s : State) (p : Packet) : Bool :=
  (p.phase == .done 2 && ccAwaits s p.id) || p.record.any fun loc => s.posted.any fun x => x.1 == loc

/-- PACKET_COMPLETION (R378), after the error record of a capability fault (R380): the signal is written, in the management class
where it goes to another node (R386); where CADDR is 0 or has failed its check, there is neither signal nor interrupt. -/
def execPacketCompletion (id : Nat) (s : State) : Host.Outcome State Fault Refusal :=
  .next (match pktAt s id with
    | none => s
    | some p =>
      match pktStatus s p with
      | none => s
      | some n =>
        if recordPending s p then s
        else if pktCaddr p = 0 || p.caddrBad then dropPkt (dropLaunch s p) id
        else match vaCheck s p 0 8 true with
        | .fault _ => dropPkt (dropLaunch s p) id
        | .miss page w => if p.park.isSome then s else parkPkt s p page w
        | .ok =>
          match ccPlace s p 0 8 true with
          | .stop s' => s'
          | .at t =>
            if !ccOpen s p 3 t then s
            else
            let r := ccStore s p 3 t (valBytes 8 (n + p.seq.toNat * 2 ^ 32))
            if r.2 then putPkt r.1 { p with phase := .signal } else endPkt r.1 p)

/-! Launches. -/

/-- The length of an image (R154): its header, and its sections, each on a 64-byte boundary. -/
def imageBytes (h : BitVec 512) : Nat :=
  64 + (([192, 256, 320, 384] : List Nat).map fun b => (fld h b 32 + 63) / 64 * 64).sum

/-- Whether a section of an image lies in it (R154, R377; log entry 28): within the bytes that the header and its sections
take, and inside the paged region. -/
def sectionOk (img : Nat) (h : BitVec 512) (off len : Nat) : Bool :=
  decide (off + len ≤ imageBytes h) && (len == 0 || decide (img + off + len ≤ Config.sramBase))

/-- Whether an image header and a grid give a launch that may start (R18, R145, R377). -/
def headerOk (img : Nat) (h : BitVec 512) (x y z : Nat) : Bool :=
  fld h 0 32 == 0x494B5044 && fld h 32 16 == 1 && fld h 57 7 == 0 && fld h 144 16 == 0 && fld h 448 64 == 0
    && decide (1 ≤ hdrS h) && decide (hdrS h ≤ 32)
    && decide (16 ≤ hdrV h) && decide (hdrV h ≤ 256) && hdrV h % 8 == 0
    && decide (4 ≤ hdrA h) && decide (hdrA h ≤ 64) && hdrA h % 4 == 0
    && decide (hdrScratch h ≤ Config.scratchBytes) && hdrScratch h % 4096 == 0 && decide (hdrBars h ≤ 32)
    && decide (1 ≤ hdrPref h) && decide (hdrPref h ≤ 24) && decide (1 ≤ hdrFall h) && decide (hdrFall h ≤ hdrPref h)
    && decide (teamEntries h ≤ Config.regEntries)
    && decide (1 ≤ x) && decide (x < 2 ^ 31) && decide (1 ≤ y) && decide (y < 2 ^ 16) && decide (1 ≤ z) && decide (z < 2 ^ 16)
    && sectionOk img h (fld h 160 32) (fld h 192 32) && sectionOk img h (fld h 224 32) (fld h 256 32)
    && sectionOk img h (fld h 288 32) (fld h 320 32) && sectionOk img h (fld h 352 32) (fld h 384 32)

/-- A new launch (R18, R377). -/
def newLaunch (s : State) (p : Packet) (h : BitVec 512) : Launch where
  ctx := 16 * p.vdev + pfld p 40 1
  packet := p.id
  img := BitVec.ofNat 64 (pfld p 24 8)
  hdr := h
  gx := pfld p 32 4
  gy := pfld p 36 2
  gz := pfld p 38 2
  next := 0
  live := 0
  checked := bitAt (pfld p 41 1) 0 || fld h 56 1 == 1 || fld (partRec s (partOf p.vdev)) 1 1 == 1
  lastCluster := 0
  lastCore := []
  status := 0
  ended := false
  quantum := []
  far := []
  image := none

/-- Whether the partition's clusters, empty, could hold a quire of the fallback size (R18). -/
def quireFits (s : State) (p : Packet) (h : BitVec 512) : Bool :=
  fld (partRec s (partOf p.vdev)) 64 96 != 0 && decide (hdrFall h ≤ Config.coresPerCluster * emptyCoreTeams h)

/-- LAUNCH (R18, R377): the header is read as it stands, from another module by a request, and the launch starts or is rejected. -/
def execLaunchPacket (id : Nat) (s : State) : Host.Outcome State Fault Refusal :=
  runPkt s id 0x01 fun s p =>
    match ccPlace s p 24 64 false with
    | .stop s' => s'
    | .at t =>
      if isRemote t && p.far.isEmpty then
        (if ccAwaits s id || !ccOpen s p 0 t then s else ccSend s p (remoteDest t) 0 (readMsg 0 t.loc 64 (isClear t)))
      else
        let h := BitVec.ofNat 512 (if isRemote t then bytesVal p.far else seenVal s t 64)
        let s := ccSpend s p t
        if !headerOk (pfld p 24 8) h (pfld p 32 4) (pfld p 36 2) (pfld p 38 2) || !quireFits s p h then
          donePkt s p 1
        else
          let old : FarWord → Bool := fun w => w.vdev = p.vdev && !isTrapUnit w.unit
          let s := { s with serial := s.serial + 1, farCode := s.farCode.filter fun w => !old w }
          putPkt (putLaunch s (s.serial - 1) (some (newLaunch s p h))) { p with phase := .started }

/-! Token buckets. -/

/-- TOKEN_REFILL (R368): once for every 1024 cycles of CLOCK. -/
def execTokenRefill (s : State) : Host.Outcome State Fault Refusal :=
  .next (if s.refills < s.clock.toNat / 1024 then
      { s with
        refills := s.refills + 1
        tokens := s.tokens.filterMap fun t =>
          let n := t.2 - vdevRate s (t.1 / 64)
          if n = 0 || vdevRate s (t.1 / 64) = 0 then none else some (t.1, n) }
    else s)

end Sys2Proof.Machine
end

