-- ==== Sys2Proof/Machine/Signature.lean ====
section
/-! DEFINITION. The check of a firmware image's signature (R404): SHA-256, ECDSA on P-256, and the layout of an image. -/

namespace Sys2Proof.Machine

/-! SHA-256. Words are numbers below 2^32. Its constants are the first 32 bits of the fractional parts of roots of the first
primes, and its eight working variables are two histories of four words each, newest first: with each round one word enters
each history and the oldest leaves. -/

/-- The exclusive or of a word's rotations to the right. -/
def turned (x : Nat) (by_ : List Nat) : Nat := by_.foldl (fun y n => y ^^^ (x / 2 ^ n + x * 2 ^ (32 - n) % 2 ^ 32)) 0

/-- The largest number whose k-th power is at most n, from bit b - 1 down, above what is found. -/
def rootFrom (k n : Nat) : Nat → Nat → Nat
  | 0, found => found
  | b + 1, found => rootFrom k n b (if (found + 2 ^ b) ^ k ≤ n then found + 2 ^ b else found)

/-- The first 32 bits of the fractional part of the k-th root of p. -/
def rootBits (k p : Nat) : Nat := rootFrom k (p * 2 ^ (32 * k)) 35 0 % 2 ^ 32

/-- The first 64 primes. -/
def shaPrimes : List Nat := (List.range' 2 310).filter fun p => (List.range' 2 16).all fun d => p == d || p % d != 0

/-- The round constants: cube roots of the primes. -/
def shaK : List Nat := shaPrimes.map (rootBits 3)

/-- The two histories of a state. -/
structure Sha where
  near : List Nat
  far : List Nat
deriving DecidableEq, Repr

/-- The initial state: square roots of the first eight primes. -/
def Sha.first : Sha := ⟨(shaPrimes.take 4).map (rootBits 2), ((shaPrimes.drop 4).take 4).map (rootBits 2)⟩

/-- The message schedule, latest word first: n words more. -/
def shaSchedule : Nat → List Nat → List Nat
  | 0, ws => ws
  | n + 1, ws =>
    let word := fun i => ws.getD (i - 1) 0
    let mix := fun i by_ drop => turned (word i) by_ ^^^ word i / 2 ^ drop
    shaSchedule n ((word 16 + mix 15 [7, 18] 3 + word 7 + mix 2 [17, 19] 10) % 2 ^ 32 :: ws)

/-- One round, with the sum of its constant and its word. -/
def shaRound (v : Sha) (kw : Nat) : Sha :=
  let p := fun i => v.near.getD i 0
  let q := fun i => v.far.getD i 0
  let chosen := q 2 ^^^ (q 0 &&& (q 1 ^^^ q 2))
  let most := (p 0 &&& p 1) ||| (p 2 &&& (p 0 ||| p 1))
  let t := q 3 + turned (q 0) [6, 11, 25] + chosen + kw
  ⟨(t + turned (p 0) [2, 13, 22] + most) % 2 ^ 32 :: v.near.take 3, (p 3 + t) % 2 ^ 32 :: v.far.take 3⟩

/-- The number that bytes give, highest first. -/
def bigEndian (bs : List Byte) : Nat := bs.foldl (fun n b => 256 * n + b.toNat) 0

/-- The sums of words. -/
def addWords : List Nat → List Nat → List Nat := List.zipWith fun x y => (x + y) % 2 ^ 32

/-- One block of 64 bytes. -/
def shaBlock (v : Sha) (bs : List Byte) : Sha :=
  let ws := (List.range 16).map fun i => bigEndian ((bs.drop (4 * i)).take 4)
  let x := (addWords shaK (shaSchedule 48 ws.reverse).reverse).foldl shaRound v
  ⟨addWords v.near x.near, addWords v.far x.far⟩

/-- A message with the padding of SHA-256. -/
def shaPad (bs : List Byte) : List Byte :=
  let n := bs.length
  bs ++ 0x80 :: List.replicate ((119 - n % 64) % 64) 0 ++ (valBytes 8 (8 * n)).reverse

/-- SHA-256 of bytes, as a number. -/
def sha256 (bs : List Byte) : Nat :=
  let m := shaPad bs
  let v := (List.range (m.length / 64)).foldl (fun v i => shaBlock v ((m.drop (64 * i)).take 64)) Sha.first
  (v.near ++ v.far).foldl (fun n w => 2 ^ 32 * n + w) 0

/-! P-256. A point is X, Y, Z with x = X / Z² and y = Y / Z³; Z = 0 is the point at infinity. -/

/-- The field, the coefficient b, the order, and the base point of P-256. -/
def p256P : Nat := 0xffffffff00000001000000000000000000000000ffffffffffffffffffffffff
def p256B : Nat := 0x5ac635d8aa3a93e7b3ebbd55769886bc651d06b0cc53b0f63bce3c3e27d2604b
def p256N : Nat := 0xffffffff00000000ffffffffffffffffbce6faada7179e84f3b9cac2fc632551
def p256X : Nat := 0x6b17d1f2e12c4247f8bce6e563a440f277037d812deb33a0f4a13945d898c296
def p256Y : Nat := 0x4fe342e2fe1a7f9b8ee7eb4a7c0f9e162bce33576b315ececbb6406837bf51f5

/-- A point in these coordinates. -/
structure Pt where
  x : Nat
  y : Nat
  z : Nat
deriving DecidableEq, Repr

/-- The difference of two field elements. -/
def fsub (a b : Nat) : Nat := (a + p256P - b) % p256P

/-- The double of a point. -/
def ptDouble (p : Pt) : Pt :=
  if p.z = 0 || p.y = 0 then ⟨1, 1, 0⟩
  else
    let z2 := p.z * p.z % p256P
    let m := 3 * (fsub p.x z2 * (p.x + z2) % p256P) % p256P
    let y2 := p.y * p.y % p256P
    let s := 4 * p.x * y2 % p256P
    let x := fsub (m * m % p256P) (2 * s % p256P)
    ⟨x, fsub (m * fsub s x % p256P) (8 * (y2 * y2) % p256P), 2 * p.y * p.z % p256P⟩

/-- The sum of two points. -/
def ptAdd (p q : Pt) : Pt :=
  if p.z = 0 then q else if q.z = 0 then p
  else
    let z1 := p.z * p.z % p256P
    let z2 := q.z * q.z % p256P
    let u1 := p.x * z2 % p256P
    let u2 := q.x * z1 % p256P
    let s1 := p.y * (z2 * q.z % p256P) % p256P
    let s2 := q.y * (z1 * p.z % p256P) % p256P
    let h := fsub u2 u1
    let r := fsub s2 s1
    if h = 0 then (if r = 0 then ptDouble p else ⟨1, 1, 0⟩)
    else
      let h2 := h * h % p256P
      let h3 := h2 * h % p256P
      let v := u1 * h2 % p256P
      let x := fsub (fsub (r * r % p256P) h3) (2 * v % p256P)
      ⟨x, fsub (r * fsub v x % p256P) (s1 * h3 % p256P), h * (p.z * q.z % p256P) % p256P⟩

/-- u G + v Q, from bit n - 1 down, added to a point that is doubled on the way; `s` is G + Q. -/
def ptMul (u v : Nat) (q s : Pt) : Nat → Pt → Pt
  | 0, p => p
  | n + 1, p =>
    let d := ptDouble p
    ptMul u v q s n (match u.testBit n, v.testBit n with
      | false, false => d
      | true, false => ptAdd d ⟨p256X, p256Y, 1⟩
      | false, true => ptAdd d q
      | true, true => ptAdd d s)

/-- A power modulo m, by the bits of the exponent from bit n - 1 down. -/
def powMod (m a e : Nat) : Nat → Nat → Nat
  | 0, x => x
  | n + 1, x =>
    let y := x * x % m
    powMod m a e n (if e.testBit n then y * a % m else y)

/-- The inverse modulo a prime of 256 bits. -/
def invMod (m a : Nat) : Nat := powMod m a (m - 2) 256 1

/-- Whether x and y are a point of the curve. -/
def onCurve (x y : Nat) : Bool :=
  decide (x < p256P) && decide (y < p256P) && y * y % p256P == (fsub (x * x * x % p256P) (3 * x % p256P) + p256B) % p256P

/-- Whether (r, s) is an ECDSA signature of a hash under the public key (x, y). -/
def ecdsaOk (x y hash r s : Nat) : Bool :=
  onCurve x y && r != 0 && decide (r < p256N) && s != 0 && decide (s < p256N) &&
    let w := invMod p256N s
    let q : Pt := ⟨x, y, 1⟩
    let g : Pt := ⟨p256X, p256Y, 1⟩
    let t := ptMul (hash * w % p256N) (r * w % p256N) q (ptAdd g q) 256 ⟨1, 1, 0⟩
    t.z != 0 && (t.x * invMod p256P (t.z * t.z % p256P) % p256P) % p256N == r

/-- Whether the image of a slot verifies (R404): its last 64 bytes are the public key, whose hash the package holds, and the 64
before them the signature of what comes before (DESIGN CHOICE: the spec gives no layout; log entry 49). -/
def imageVerifies (fuse : BitVec 256) (img : List Byte) : Bool :=
  let n := img.length - 128
  let key := img.drop (n + 64)
  decide (128 ≤ img.length) && sha256 key == fuse.toNat &&
    ecdsaOk (bigEndian (key.take 32)) (bigEndian (key.drop 32)) (sha256 (img.take n))
      (bigEndian ((img.drop n).take 32)) (bigEndian ((img.drop (n + 32)).take 32))

end Sys2Proof.Machine
end

