-- ==== Sys2Proof/Machine/BringUp.lean ====
section
/-! DEFINITION. Bring-up (R400 to R410): cold and warm starts, the choice of a firmware slot, readiness, power loss,
retraining, frequency bins, and the registers of the service window. -/

namespace Sys2Proof.Machine

/-! Firmware. -/

/-- SEQ and SLOT of a marker copy (R404). -/
def markerSeq (m : BitVec 128) : Nat := fld m 0 32
def markerSlot (m : BitVec 128) : Bool := bitAt m.toNat 32

/-- Whether a marker copy is valid (R405): its CRC matches, its reserved bits are 0, and no power loss has interrupted
its write. -/
def markerValid (torn : Bool) (m : BitVec 128) : Bool :=
  !torn && fld m 33 63 == 0 && fld m 96 32 == crc32 (valBytes 12 (fld m 0 96))

/-- The valid copies, higher SEQ first; copy 0 first on a tie (R405). -/
def candidates (b : Boot) : List (BitVec 128) :=
  let c0 := if markerValid (b.torn.getLsbD 0) b.marker0 then [b.marker0] else []
  let c1 := if markerValid (b.torn.getLsbD 1) b.marker1 then [b.marker1] else []
  if serialLt 32 (markerSeq b.marker0) (markerSeq b.marker1) then c1 ++ c0 else c0 ++ c1

/-- Whether the image of a slot verifies (R404, R405). -/
def verifies (b : Boot) (slot : Bool) : Bool := imageVerifies b.fuse (if slot then b.slotB else b.slotA)

/-- A value of BOOTSTAT (R406). -/
def bootWord (slot fallback : Bool) (start err seq : Nat) : Word64 :=
  BitVec.ofNat 64 (slot.toNat + 2 * fallback.toNat + 4 * start + 256 * err + 2 ^ 32 * seq)

/-- The boot procedure of R405, as the BOOTSTAT it leaves. -/
def bootStat (b : Boot) (start : Nat) : Word64 :=
  let cs := candidates b
  let err := if cs.isEmpty then 1 else 0
  let fell : Bool → Bool := fun x => (cs.head?.map markerSlot) != some x
  match cs.find? fun c => verifies b (markerSlot c) with
  | some c => bootWord (markerSlot c) (fell (markerSlot c)) start err (markerSeq c)
  | none =>
    match [false, true].find? (verifies b) with
    | some x => bootWord x (fell x) start err 0
    | none => bootWord false false start 2 0

/-- Whether a boot has happened and has not halted. -/
def booted (b : Boot) : Bool := bits b.bootstat.toNat 2 2 != 0 && bits b.bootstat.toNat 8 8 != 2

/-! Starts. -/

/-- The bin that a margin plan gives a cluster; one above 3 says that it failed bin 3. -/
def planBin (plan : List (Nat × BitVec 3)) (c : Nat) : Nat :=
  ((plan.find? fun p => p.1 = c).map fun p => p.2.toNat).getD 0

/-- The frequency table after a start (R409, R410). -/
def startBins (plan : List (Nat × BitVec 3)) : Assoc (BitVec 8) :=
  (List.range Config.clusters).foldl (fun m c => aput 0 m c (BitVec.ofNat 8 (min 3 (planBin plan c)))) []

/-- The clusters that failed bin 3 at a start (R409). -/
def startFailed (plan : List (Nat × BitVec 3)) : BitVec 96 :=
  (List.range Config.clusters).foldl (fun m c =>
    if 4 ≤ planBin plan c then m ||| BitVec.ofNat 96 (2 ^ c) else m) 0

/-- Bring-up after a start: nothing ready, the firmware as it was found, and the boot made (R400, R403, R405). -/
def startBoot (b : Boot) (cold : Bool) (plan : List (Nat × BitVec 3)) : Boot :=
  { Boot.zero with
    bootstat := bootStat b (if cold then 1 else 2)
    bins := startBins plan
    slotA := b.slotA
    slotB := b.slotB
    fuse := b.fuse
    marker0 := b.marker0
    marker1 := b.marker1
    keys := if cold then b.keys + 1 else b.keys
    params := if cold then [] else b.params
    torn := b.torn
    failed := startFailed plan
    down := b.down }

/-- A cold start (R403): everything at its Reset value, memory cleared. The numbering of the model's own identifiers and
the schedule go on. -/
def coldState (plan : List (Nat × BitVec 3)) (s : State) : State :=
  { State.reset with sched := s.sched, serial := s.serial, boot := startBoot s.boot true plan }

/-- The cluster whose SRAM holds a window address (R102). -/
def sramCluster (a : Nat) : Nat :=
  let off := a - Config.sramBase
  12 * (off / 2 ^ 28) + off / 2 ^ 24 % 16

/-- Whether a warm start keeps an address (R365, R403): HBM, the second tier, and SRAM of partitions marked RETAIN. -/
def warmKeeps (s : State) (a : Nat) : Bool :=
  decide (a < Config.sramBase) || s.partitions.any fun p =>
    bitAt p.2.toNat 0 && bitAt p.2.toNat 2 && bitAt p.2.toNat (64 + sramCluster a)

/-- What a warm start keeps of a virtual device: its record, STALE, and a new generation (R364, R403). -/
def warmVdev (d : VDev) : VDev := { VDev.zero with record := d.record, gen := d.gen + 1, stale := d.stale }

/-- A warm start (R403). -/
def warmState (plan : List (Nat × BitVec 3)) (s : State) : State :=
  { State.reset with
    sched := s.sched
    serial := s.serial
    mem := s.mem.filter fun c => warmKeeps s c.1
    desc := s.desc
    keyed := s.keyed
    poison := s.poison.filter fun u => warmKeeps s (4 * u.1)
    partitions := s.partitions
    vdevs := (List.range Config.vdevs).foldl (fun m v => aput VDev.zero m v
      (if vdevSt s v = VDev.zero then VDev.zero else warmVdev (vdevSt s v))) []
    dests := s.dests.foldl (fun m d => aput DestEntry.zero m d.1 { d.2 with failed := 0 }) []
    boot := startBoot s.boot false plan }

/-- POWER_ON (R403): a cold start. -/
def execPowerOn (plan : List (Nat × BitVec 3)) (s : State) : Host.Outcome State Fault Refusal := .next (coldState plan s)

/-- COLD_START (R403). -/
def execColdStart (plan : List (Nat × BitVec 3)) (s : State) : Host.Outcome State Fault Refusal :=
  .next (coldState plan s)

/-- WARM_START (R403). -/
def execWarmStart (plan : List (Nat × BitVec 3)) (s : State) : Host.Outcome State Fault Refusal :=
  .next (warmState plan s)

/-- POWER_LOSS (R407): nothing volatile stays. A write of a slot that is interrupted leaves no image that verifies; an
interrupted marker copy is not valid (log entry 50). -/
def execPowerLoss (torn : Option Torn) (s : State) : Host.Outcome State Fault Refusal :=
  let b := s.boot
  let kept : Boot := { Boot.zero with
    slotA := b.slotA, slotB := b.slotB, fuse := b.fuse, marker0 := b.marker0, marker1 := b.marker1
    keys := b.keys, torn := b.torn, down := b.down, powered := false }
  let kept := match torn with
    | none => kept
    | some (.slot false) => { kept with slotA := [] }
    | some (.slot true) => { kept with slotB := [] }
    | some (.marker c) => { kept with torn := kept.torn ||| (if c then 2 else 1) }
  .next { State.reset with sched := s.sched, serial := s.serial, boot := kept }

/-! Readiness. -/

/-- Set a bit of READY (R400). -/
def setReady (s : State) (bit : Nat) : State :=
  { s with boot := { s.boot with ready := s.boot.ready ||| BitVec.ofNat 256 (2 ^ bit) } }

/-- Whether a unit may become ready (R400, R405, R409). -/
def mayBeReady (s : State) (bit : Nat) : Bool :=
  if bit < 24 then true
  else if bit < 120 then !s.boot.failed.getLsbD (bit - 24)
  else if bit = 146 then booted s.boot
  else decide (bit < 148)

/-- UNIT_READY (R400, R401, R403): a stack that is trained for the first time since a cold start has new parameters, and so has one
whose replay of the saved ones fails (log entry 167); streams that wait for a port go on. -/
def execUnitReady (bit : Nat) (s : State) : Host.Outcome State Fault Refusal :=
  .next (if mayBeReady s bit then
      let again := bitAt s.boot.ready.toNat bit
      let old := aget 0 s.boot.params bit
      let s := setReady s bit
      if bit < 24 then
        (if !again && (old == 0 || Config.replayFails s.serial bit) then
          { s with boot := { s.boot with params := aput 0 s.boot.params bit (old + 1) } } else s)
      else if 120 ≤ bit && bit < 138 then pumpAll s
      else s
    else s)

/-! Retraining. -/

/-- RETRAIN (R408): W1S; bits 31 to 24 name no stack. -/
def execRetrain (val : BitVec 32) (s : State) : Host.Outcome State Fault Refusal :=
  .next { s with boot := { s.boot with retrain := s.boot.retrain ||| (val &&& 0xFFFFFF) } }

/-- RETRAINING_START (R370): requested, of a ready stack whose deadline queues are empty. -/
def execRetrainingStart (stack : Nat) (s : State) : Host.Outcome State Fault Refusal :=
  .next (if s.boot.retrain.getLsbD stack && decide (stack < 24) && bitAt s.boot.ready.toNat stack
        && (deadlineDues s (2 * stack)).isEmpty && (deadlineDues s (2 * stack + 1)).isEmpty then
      { s with boot := { s.boot with training := s.boot.training ||| BitVec.ofNat 32 (2 ^ stack) } }
    else s)

/-- RETRAINING_END (R408): the new parameters are saved, and the stack takes requests again. -/
def execRetrainingEnd (stack : Nat) (s : State) : Host.Outcome State Fault Refusal :=
  .next (if s.boot.training.getLsbD stack then
      let keep : Word32 := ~~~(BitVec.ofNat 32 (2 ^ stack))
      { s with boot := { s.boot with
        retrain := s.boot.retrain &&& keep
        training := s.boot.training &&& keep
        params := aput 0 s.boot.params stack (aget 0 s.boot.params stack + 1) } }
    else s)

/-! Ageing. -/

/-- The bin of a cluster (R410). -/
def binOf (s : State) (c : Nat) : Nat := fld (aget 0 s.boot.bins c) 0 2

/-- Cycles of CLOCK in 24 hours (R2, R409). -/
def resolveCycles : Nat := 24 * 3600 * 1000000 * Config.cyclesPerUs

/-- MARGIN_RESOLVE (R409, R410): a bin is only lowered, to at most bin 3, and is then marked AGED. -/
def execMarginResolve (plan : List (Nat × BitVec 3)) (s : State) : Host.Outcome State Fault Refusal :=
  .next (if resolveCycles ≤ s.clock.toNat - s.boot.solved then
      { s with boot := { s.boot with
        solved := s.clock.toNat
        bins := (List.range Config.clusters).foldl (fun m c =>
          let b := min 3 (planBin plan c)
          if binOf s c < b then aput 0 m c (BitVec.ofNat 8 (b + 4)) else m) s.boot.bins } }
    else s)

/-! The service window. -/

/-- The plan that a start solves when a write of RESET requests it (R403, R409; log entry 26). -/
def solvedPlan (s : State) : List (Nat × BitVec 3) :=
  (List.range Config.clusters).map fun c => (c, Config.marginBin s.serial c)

/-- A write of RESET (R403). -/
def writeReset (s : State) (x : Nat) : State :=
  if x = 1 then coldState (solvedPlan s) s else if x = 2 then warmState (solvedPlan s) s else s

/-- The ring record of the administrative ring (R402), with EN as it stands (R373). -/
def adminRecord (s : State) : BitVec 512 :=
  let r := ringAt s Config.adminVdev 0
  setFld r.record 80 1 r.en.toNat

/-- The state that an event's meaning gives. -/
def nextOr (s : State) : Host.Outcome State Fault Refusal → State
  | .next s' => s'
  | _ => s

/-- Write n bytes of the service window. Registers that are read-only, and offsets that hold none, take no write. -/
def windowWrite (s : State) (off n val : Nat) : State :=
  if off = 0x028 then writeReset s val
  else if off = 0x030 then nextOr s (execRetrain (BitVec.ofNat 32 val) s)
  else if off = 0x038 then nextOr s (execEvcons (BitVec.ofNat 32 val) s)
  else if 0x080 ≤ off && off < 0x0C0 then
    nextOr s (execAdminRingRecord (setFld (adminRecord s) (8 * (off - 0x080)) (8 * n) val) s)
  else if off = 0x0C0 then nextOr s (execDoorbellTail Config.adminVdev 0 (BitVec.ofNat 32 val) s)
  else s

/-- Bytes 0 to 0x15F of the service window (R400 to R410). -/
def windowByte (s : State) (off : Nat) : Byte :=
  let n : Nat :=
    if off < 0x020 then bits s.boot.ready.toNat (8 * off) 8
    else if off < 0x028 then bits s.boot.bootstat.toNat (8 * (off - 0x020)) 8
    else if off < 0x030 then 0
    else if off < 0x034 then bits s.boot.retrain.toNat (8 * (off - 0x030)) 8
    else if off < 0x038 then 0
    else if off < 0x03C then bits s.fabric.evCons.toNat (8 * (off - 0x038)) 8
    else if off < 0x040 then bits s.fabric.evLost.toNat (8 * (off - 0x03C)) 8
    else if off < 0x080 then 0
    else if off < 0x0C0 then bits (adminRecord s).toNat (8 * (off - 0x080)) 8
    else if off < 0x0C4 then bits (ringAt s Config.adminVdev 0).tail.toNat (8 * (off - 0x0C0)) 8
    else if off < 0x100 then 0
    else if off < 0x160 then (aget 0 s.boot.bins (off - 0x100)).toNat
    else 0
  BitVec.ofNat 8 n

/-- An image with bytes written from an offset (R407). DESIGN CHOICE: a write from its first byte begins a new image, and what the
slot held beyond is gone (log entry 49). -/
def writeImage (img : List Byte) (off : Nat) (bs : List Byte) : List Byte :=
  if off = 0 then bs else (img ++ List.replicate (off - img.length) 0).take off ++ bs ++ img.drop (off + bs.length)

/-- REGISTER_WRITE (R3, R4, R404, R407): a firmware slot, a marker copy, or a register of the service window. -/
def execRegisterWrite (w : WindowWrite) (s : State) : Host.Outcome State Fault Refusal :=
  .next (match w with
    | .slot b off bs => { s with boot := if b then { s.boot with slotB := writeImage s.boot.slotB off bs }
        else { s.boot with slotA := writeImage s.boot.slotA off bs } }
    | .marker c x => { s with boot := if c
        then { s.boot with marker1 := x, torn := s.boot.torn &&& 1 }
        else { s.boot with marker0 := x, torn := s.boot.torn &&& 2 } }
    | .reg off x => windowWrite s off 8 x.toNat)

end Sys2Proof.Machine
end

