-- ==== Sys2Proof/Machine/Remote.lean ====
section
/-! DEFINITION. What arrives over the fabric (R385 to R393): flits and the messages they form, the requests that other
nodes make of this package and the answers to them, and the answers to this package's own requests. -/

namespace Sys2Proof.Machine

/-! Where a request leads. -/

/-- The first location of the service window, and the first above it (R383). -/
def windowBase : Nat := 0x3F00_0000_0000

/-- The partition that owns a port (R365). -/
def portOwner (s : State) (port : Nat) : Option Nat :=
  (s.partitions.find? fun p => bitAt p.2.toNat 0 && bitAt p.2.toNat (208 + port)).map (·.1)

/-- Whether a location lies in memory of a partition's units (R365, R393). -/
def ownsByte (s : State) (part loc : Nat) : Bool :=
  let r := (partRec s part).toNat
  if loc < Config.hbmEnd then bitAt r (160 + loc / 2 ^ 35)
  else decide (Config.cxlBase ≤ loc) && decide (loc < Config.cxlEnd)
    && bitAt r (256 + (loc - Config.cxlBase) / 2 ^ 36) && Config.cxlBacked ((loc - Config.cxlBase) / 2 ^ 36)

/-- What a request's location names. -/
inductive Place where
  | memory (t : Target)
  | doorbell (v off : Nat)
  | window (off : Nat)
  | rejected
deriving DecidableEq, Repr

/-- Bytes of a WIDTH code (R385). -/
def widthOf (w : Nat) : Nat := if w = 0 then 4 else if w = 1 then 8 else 64

/-- The location of a request: a block is aligned. -/
def reqLoc (m : Msg) : Nat := if m.width = 2 then m.loc / 64 * 64 else m.loc

/-- Where a request that arrived on a port leads (R393): the service window is exempt from the checks. -/
def placeOf (s : State) (port snode : Nat) (m : Msg) : Place :=
  let loc := reqLoc m
  if windowBase ≤ loc && loc < Config.doorbellBase then .window (loc - windowBase)
  else match portOwner s port with
  | none => .rejected
  | some part =>
    if (findDest s part snode).isNone then .rejected
    else if Config.doorbellBase ≤ loc then
      let v := (loc - Config.doorbellBase) / 0x1000
      if v / 8 = part then .doorbell v ((loc - Config.doorbellBase) % 0x1000) else .rejected
    else if ownsByte s part loc && ownsByte s part (loc + widthOf m.width - 1) then
      .memory ⟨if loc < Config.hbmEnd then .hbm else .cxl, loc, none, if m.clear then 0 else part + 1, loc⟩
    else .rejected

/-- Whether a request can be performed now: the memory behind it is ready (R401). -/
def placeReady (s : State) : Place → Bool
  | .memory t => targetReady s t
  | _ => true

/-! Performing a request. -/

/-- Write the bytes of a block that a mask names (R385). -/
def storeMasked (s : State) (key loc mask : Nat) (bs : List Byte) : State :=
  if mask = 0 then s
  else
    let merged := bs.zipIdx.map fun b => if bitAt mask b.2 then b.1 else readByte (underKey s key loc 64) (loc + b.2)
    let whole : Nat × Bool → Bool := fun u =>
      decide (loc ≤ 4 * u.1) && decide (4 * u.1 + 4 ≤ loc + 64) && bits mask (4 * u.1 - loc) 4 == 15
    { storeDesc s key loc merged 0 with poison := s.poison.filter fun u => !whole u }

/-- The byte-enable mask and the data of a block message (R385). -/
def blockMask (m : Msg) : Nat := bytesVal (m.payload.take 8)
def blockData (m : Msg) : List Byte := ((m.payload.drop 8).take 64) ++ List.replicate (64 - (m.payload.length - 8)) 0

/-- What a request gives: the state after it, and the bytes of the answer, or none where it fails. -/
structure Served where
  st : State
  answer : Option (List Byte)
deriving DecidableEq, Repr

/-- A request of memory (R385, R393). -/
def serveMemory (s : State) (m : Msg) (t : Target) : Served :=
  let n := widthOf m.width
  let loc := t.loc
  if m.op = 0 then (if poisoned s loc n then ⟨s, none⟩ else ⟨s, some (readList (seen s t n) loc n)⟩)
  else if m.op = 1 then
    (if n = 64 then ⟨storeMasked s t.key loc (blockMask m) (blockData m), some []⟩
     else ⟨storeTo s t (valBytes n (bytesVal (m.payload.take n))), some []⟩)
  else if m.op = 2 then ⟨s, some (valBytes 4 (descAt s loc).toNat)⟩
  else if m.op = 3 then ⟨setDesc s loc (BitVec.ofNat 16 (bytesVal (m.payload.take 2))), some []⟩
  else if 8 ≤ m.op && m.op < 20 then
    (if n = 64 || poisoned s loc n then ⟨s, none⟩
     else
      let old := seenVal s t n
      let new := atomicNew (m.op - 8) (8 * n) old (bytesVal (m.payload.take n)) (bytesVal ((m.payload.drop n).take n))
      ⟨storeTo s t (valBytes n new), some (valBytes n old)⟩)
  else if 0x18 ≤ m.op && m.op < 0x1D then
    (if n ≠ 64 || poisoned s loc 64 then ⟨s, none⟩
     else ⟨storeMasked s t.key loc (blockMask m) (reduceBytes (m.op - 0x18) (seen s t 64) loc (blockData m) 16), some []⟩)
  else ⟨s, none⟩

/-- Write one register of a doorbell page (R373). -/
def doorbellWrite (s : State) (v off x : Nat) : State :=
  if off < 0x020 && off % 8 = 0 then nextOr s (execDoorbellTail v (off / 8) (BitVec.ofNat 32 x) s)
  else if off = 0x020 then nextOr s (execPrqcons v (BitVec.ofNat 32 x) s)
  else s

/-- One byte of a doorbell page (R373). -/
def doorbellByte (s : State) (v off : Nat) : Byte :=
  if off < 0x020 && off % 8 < 4 then BitVec.ofNat 8 (bits (ringAt s v (off / 8)).tail.toNat (8 * (off % 8)) 8)
  else if 0x020 ≤ off && off < 0x024 then BitVec.ofNat 8 (bits (vdevSt s v).prqCons.toNat (8 * (off - 0x020)) 8)
  else 0

/-- The 4-byte units that a write message writes whole: offset and value. -/
def unitWrites (m : Msg) : List (Nat × Nat) :=
  if m.width = 2 then
    (List.range 16).filterMap fun i =>
      if bits (blockMask m) (4 * i) 4 = 15 then some (4 * i, bytesVal ((blockData m).drop (4 * i) |>.take 4)) else none
  else if m.width = 1 then [(0, bytesVal (m.payload.take 4)), (4, bytesVal ((m.payload.drop 4).take 4))]
  else [(0, bytesVal (m.payload.take 4))]

/-- The writes of the service window that a block write makes: unit by unit, but RESET, if all of it is written, as one (R403). -/
def blockWrites (off : Nat) (us : List (Nat × Nat)) : List (Nat × Nat × Nat) :=
  us.filterMap fun u =>
    let hi := us.find? fun v => v.1 = u.1 + 4
    if off + u.1 = 0x028 then some (match hi with
      | some h => (0x028, 8, u.2 + 2 ^ 32 * h.2)
      | none => (0x028, 4, u.2))
    else if off + u.1 = 0x02C && us.any (fun v => v.1 + 4 = u.1) then none
    else some (off + u.1, 4, u.2)

/-- A write to the service window: the administrative ring's record as one block, else unit by unit; RESET is taken whole where
all of it is written (R402, R403). -/
def windowWrites (s : State) (off : Nat) (m : Msg) : State :=
  if m.width = 2 && off = 0x080 && blockMask m = 2 ^ 64 - 1 then windowWrite s off 64 (bytesVal (blockData m))
  else if m.width = 1 then windowWrite s off 8 (bytesVal (m.payload.take 8))
  else (blockWrites off (unitWrites m)).foldl (fun s u => windowWrite s u.1 u.2.1 u.2.2) s

/-- Perform a request where it leads. Registers take reads and writes only. -/
def serve (s : State) (m : Msg) : Place → Served
  | .memory t => serveMemory s m t
  | .doorbell v off =>
    if m.op = 0 then ⟨s, some ((List.range (widthOf m.width)).map fun i => doorbellByte s v (off + i))⟩
    else if m.op = 1 then ⟨(unitWrites m).foldl (fun s u => doorbellWrite s v (off + u.1) u.2) s, some []⟩
    else ⟨s, none⟩
  | .window off =>
    if m.op = 0 then ⟨s, some ((List.range (widthOf m.width)).map fun i => windowByte s (off + i))⟩
    else if m.op = 1 then ⟨windowWrites s off m, some []⟩
    else ⟨s, none⟩
  | .rejected => ⟨s, none⟩

/-- The answer to a request of a class (R385): Completion, Read data or Failure, in class 1. A Failure makes the stream of the
request fail (R391). It takes the entry of the port's
partition that names the source, else the port itself. A start leaves nothing to answer. -/
def respond (s : State) (port snode tc : Nat) (m : Msg) (answer : Option (List Byte)) : State :=
  if s.boot.ready = 0 || (txAt s snode 1).failed.isSome then s
  else
    let entry := ((portOwner s port).bind fun p => findDest s p snode).getD (portEntry port)
    let body : Nat × List Byte := match answer with
      | none => (0x22, valBytes 4 2)
      | some [] => (0x20, [])
      | some bs => (0x21, bs)
    let s := if answer.isNone then putRx s snode tc { rxAt s snode tc with failed := true } else s
    sendOn s entry snode 1 ⟨2, 0, body.1, m.width, m.loc, m.clear, body.2⟩

/-- A complete request: checked, performed and answered (R393). A reserved WIDTH is answered with Failure. -/
def takeRequest (s : State) (port snode tc : Nat) (m : Msg) : State :=
  if m.width = 3 then respond s port snode tc m none
  else
    let r := serve s m (placeOf s port snode m)
    respond r.st port snode tc m r.answer

/-! Receiving. -/

/-- The message that flits make. -/
def msgOf (fs : List Flit) : Msg :=
  match fs with
  | [] => ⟨0, 0, 0, 0, 0, false, []⟩
  | f :: _ => ⟨f.typ.toNat, f.ord.toNat, f.op.toNat, f.width.toNat, f.addr.toNat, f.clear, fs.flatMap (·.payload)⟩

/-- Whether a flit is addressed to this node, or to the window of a node that has no number yet (R384, R400). -/
def flitForUs (s : State) (f : Flit) : Bool :=
  f.dnode.toNat == nodeId s
    || (s.fabric.record == 0 && f.dnode == 0xFFF && f.tc == 3 && f.typ == 1
      && decide (windowBase ≤ f.addr.toNat) && decide (f.addr.toNat < Config.doorbellBase))

/-- An ack flit of a stream (R385, R389): it carries E, and takes the way of an answer. -/
def ackFlit (s : State) (node tc : Nat) : Flit :=
  { typ := 3, tc := BitVec.ofNat 2 tc, width := 0, snode := BitVec.ofNat 12 (nodeId s), dnode := BitVec.ofNat 12 node,
    seq := 0, ack := (rxAt s node tc).e, fidx := 0, nflit := 0, ord := 0, op := 0, addr := 0, clear := false,
    payload := [] }

/-- Send an ack of a stream: over a usable route to its source, else out of the port that the flit came in by (R389). -/
def sendAck (s : State) (port node tc : Nat) : State :=
  let e := destAt s (((portOwner s port).bind fun p => findDest s p node).getD (portEntry port))
  let out := match pickRoute s e with
    | some r => routePort e r
    | none => port
  putRx s node tc { rxAt s node tc with ack := some (ackFlit s node tc, out) }

/-- Whether the controller behind an accepted request serves it now (R368, R369): one of the deadline class when none that
waits there is due earlier, any other when none of that class waits. -/
def placeServed (s : State) (tc due : Nat) : Place → Bool
  | .memory t =>
    let c := controllerOf t.loc
    if tc = 2 then earliestAt s due c else (deadlineDues s c).isEmpty
  | _ => true

/-- Perform the accepted requests of a stream in order, while their memory is ready and serves them (R369, R393, R401). -/
def serveHeld (node tc : Nat) : Nat → State → State
  | 0, s => s
  | n + 1, s =>
    match (rxAt s node tc).held with
    | [] => s
    | h :: rest =>
      let m := msgOf h.flits
      let p := placeOf s h.port node m
      let due := ((heldDues (h :: rest)).head?.map (·.2)).getD h.due
      if placeReady s p && placeServed s tc due p then
        serveHeld node tc n (takeRequest (putRx s node tc { rxAt s node tc with held := rest }) h.port node tc m)
      else s

/-- Perform what the received streams hold. -/
def serveAllHeld (s : State) : State :=
  s.fabric.rx.foldl (fun s p => if p.2.held.isEmpty then s else serveHeld (p.1 / 4) (p.1 % 4) p.2.held.length s) s

/-- Take a request or response flit in its stream (R388, R389): the next one is accepted, a duplicate is dropped and
acked again, and one ahead of a gap is dropped; one that no stream with 4096 flits in flight can send shows that the stream has
failed at its source (R391; log entry 164). A message takes effect once all of its flits are there. -/
def takeFlit (s : State) (port : Nat) (f : Flit) : State :=
  let node := f.snode.toNat
  let tc := f.tc.toNat
  let s := ackStream s node tc f.ack
  let x := rxAt s node tc
  let d := (x.e - f.seq).toNat
  if d = 0 then
    let parts := x.parts ++ [f]
    let whole := decide (f.nflit.toNat ≤ f.fidx.toNat)
    let held := if whole && f.typ == 1 then x.held ++ [⟨port, parts, Config.latestService s.serial⟩] else x.held
    let s := putRx { s with serial := s.serial + 1 } node tc
      { x with e := x.e + 1, parts := if whole then [] else parts, held := held }
    serveHeld node tc held.length (sendAck s port node tc)
  else if d ≤ 4096 then sendAck s port node tc
  else if d < 61440 then putRx s node tc { x with failed := true }
  else s

/-- FLIT_RECEIVE (R385, R389, R393). -/
def execFlitReceive (port : Nat) (f : Flit) (s : State) : Host.Outcome State Fault Refusal :=
  .next (if 18 ≤ port || !portLinked s port || !flitForUs s f then s
    else if f.typ = 3 then ackStream s f.snode.toNat f.tc.toNat f.ack
    else if f.typ = 1 || f.typ = 2 then takeFlit s port f
    else s)

/-! Answers. -/

/-- What an issuer learns: bytes, none for a completion, or the failure code of R391. -/
inductive Answer where
  | data (bs : List Byte)
  | done
  | failed (code : Nat)
deriving DecidableEq, Repr

/-- Whether the request of an access reads. -/
def flightReads (f : Flight) : Bool :=
  match f.kind with
  | .acp _ _ _ => !f.sent || f.lanes.any fun a => isRemote a.tgt && a.swap == 0
  | .store _ => false
  | .stdesc => false
  | _ => true

/-- An answer to a lane's request (R392). -/
def answerLane (f : Flight) (a : LaneAcc) : Answer → LaneAcc
  | .failed _ => { a with bad := true, swap := match f.kind with
      | .acp _ _ _ => 1
      | _ => a.swap }
  | .done => a
  | .data bs =>
    match f.kind with
    | .lddesc _ => { a with data := bytesVal (bs.take 2) }
    | .atomic _ n _ _ => { a with data := bytesVal (bs.take n) }
    | .acp n _ _ => { a with data := bytesVal (readPart a.tgt.loc n bs), swap := 1 }
    | _ => { a with data := bytesVal (readPart a.tgt.loc (flightBytes f) bs) }

/-- Whether the requests of an access that are out are reads that lanes share (R111). -/
def readPhase (f : Flight) : Bool :=
  isLoad f || match f.kind with
    | .acp _ _ _ => !f.sent
    | _ => false

/-- An answer to an access in flight. -/
def answerFlight (s : State) (id lane : Nat) (x : Answer) : State :=
  match flightAt s id with
  | none => s
  | some f => putFlight s { f with lanes := f.lanes.map fun a =>
      if a.lane = lane || (readPhase f && servedBy f a == lane) then answerLane f a x else a }

/-- The second copy of a duplicated write has an answer (R394). -/
def answerDup (s : State) (id lane : Nat) : Answer → State
  | .failed _ =>
    match flightAt s id with
    | none => s
    | some f => putFlight s { f with lanes := f.lanes.map fun a => if a.lane = lane then { a with bad := true } else a }
  | _ => s

/-- The word that a WAITADDR watches has been read elsewhere (R234). -/
def answerWait (s : State) (k : Nat) (x : Answer) : State :=
  let sl := sliceAt s k
  match sl.a.wait, envOf s k true with
  | .addr t n expect _ codes, some e =>
    if sl.held then s
    else match x with
    | .failed _ => failWatch s k ⟨codeUNCORRECTABLE, 0, BitVec.ofNat 64 t.va, lowMask (actLanes sl.a)⟩
    | .data bs =>
      if bytesVal (readPart t.loc n bs) = expect then s
      else yieldTeam (putSlice s k (wokenSlice s e (actLanes sl.a) codes sl)) (k / 32)
    | .done => s
  | _, _ => s

/-- An answer to a scribe program (R302, R392): a failure faults it. One that has halted, or that is being cancelled, only has
its requests answered (R126, R283). -/
def answerScribe (s : State) (n x tag va : Nat) (a : Answer) : State :=
  match progAt s n x with
  | none => s
  | some p =>
    let p := { p with remote := p.remote - 1 }
    match a with
    | .failed code =>
      if p.cancel || p.failed.isSome then settleProg (putProg s n x (some p)) n x
      else faultProg (putProg s n x (some p)) n x p ⟨6, code, va⟩
    | .data bs =>
      if p.failed.isSome then settleProg (putProg s n x (some p)) n x
      else putProg s n x (some { p with inbox := p.inbox ++ [(tag, bs)] })
    | .done => settleProg (putProg s n x (some p)) n x

/-- Requests made since a state go on behalf of a launch (R137). -/
def onBehalf (s0 s : State) (launch : Option Nat) : State :=
  { s with fabric := { s.fabric with reqs := s.fabric.reqs.map fun r =>
    if s0.serial ≤ r.id then { r with launch := r.launch.or launch } else r } }

/-- The home of a nibble has answered (R128, R294): with what was expected the nibble is written, and the block's descriptor
goes after it; else it is asked again with what the home holds. The program may have ended meanwhile. -/
def answerNibble (s : State) (launch : Option Nat) (n x entry loc : Nat) (clear : Bool) (va pos v : Nat) (expect : Word32)
    (d : BitVec 16) : Answer → State
  | .failed c => answerScribe s n x writeTag va (.failed c)
  | .done => answerScribe s n x writeTag va .done
  | .data bs =>
    let old := BitVec.ofNat 32 (bytesVal (bs.take 4))
    if old ≠ expect then onBehalf s (askNibble s n x (entry / 256) entry loc clear va pos v old d) launch
    else if d = 0 then answerScribe s n x writeTag va .done
    else
      let owner : RemoteOwner := if n = Config.scribes then .none else .scribe n x writeTag va
      onBehalf s (sendRequest s owner (entry / 256) entry 0 ⟨1, 0, 3, 0, loc / 64 * 64, clear, valBytes 4 d.toNat⟩) launch

/-- Requests that go on for an answered one are waited for as it was by the invalidations that noted it (R360). -/
def noteUsers (s0 : State) (id : Nat) (s : State) : State :=
  let more := (s.fabric.reqs.filter fun r => decide (s0.serial ≤ r.id)).map (·.id)
  { s with invals := s.invals.map fun i => if i.flights.contains id then { i with flights := i.flights ++ more } else i }

/-- An instruction word has come from another module, or has failed to: that is an uncorrectable error of the stream that
fetches, a double fault of a handler, and a fault of a scribe (R321, R392). -/
def answerCode (s : State) (u : Issuer) (va : Nat) (a : Answer) : State :=
  let mine : FarWord → Bool := fun w => w.unit == u && w.va == va && w.word.isNone
  match a with
  | .data bs =>
    { s with farCode := s.farCode.map fun w =>
      if mine w then { w with word := some (BitVec.ofNat 32 (bytesVal (bs.take 4))) } else w }
  | .done => s
  | .failed c =>
    if !s.farCode.any mine then s
    else
      let s := { s with farCode := s.farCode.filter fun w => !mine w }
      let f : FaultInfo := ⟨codeUNCORRECTABLE, 0, BitVec.ofNat 64 va, 0⟩
      match u with
      | .idle => s
      | .compute k => consumeError s k false f
      | .access k => consumeError s k true f
      | .trap core => doubleFault s core
      | .scribe n x => match progAt s n x with
        | some p => if p.failed.isSome then s else faultProg s n x p ⟨6, c, va⟩
        | none => s

/-- A step of a waiting record is answered (R412): one that fails discards it (log entry 137). -/
def answerRecord (s : State) (id : Nat) (a : Answer) : State :=
  match s.recWaits.find? fun w => w.id = id with
  | none => s
  | some w =>
    match a with
    | .failed _ => recordEnd s w none
    | .done => putRec s { w with out := w.out - 1 }
    | .data bs =>
      let nent := bytesVal ((bs.drop 4).take 2)
      if nentBad nent then recordEnd s w none else putRec s { w with step := .body (bytesVal (bs.take 4)) nent, out := 0 }

/-- The unit that a failed remote access of an anvil request names (R273). -/
def anvilUnit (kind : Nat) : Nat := if kind = 0 then 5 else if kind = 1 then 6 else if kind = 2 then 4 else 7

/-- An answer to an anvil request (R271, R392). A remote read that fails loads no block and leaves the slot of an MXLDT as it
was, and a write that fails has KSTEP as `afterSteps` gives it: DESIGN CHOICE (log entries 174, 160). -/
def answerAnvil (s : State) (n id tag va : Nat) (a : Answer) : State :=
  match (anvilAt s n).resv.find? fun r => r.id = id with
  | none => s
  | some r =>
    let r := { r with remote := r.remote - 1 }
    if r.ended then settleFail (putAnvil s n (putReq (anvilAt s n) r)) n id
    else match a with
    | .failed _ => failReq (putAnvil s n (putReq (anvilAt s n) r)) n r
        ⟨9, anvilUnit r.kind, va, if tag = anvilWriteTag then afterSteps r else 0⟩
    | .data bs => putAnvil s n (putReq (anvilAt s n) { r with inbox := r.inbox ++ [(tag, bs)] })
    | .done => putAnvil s n (putReq (anvilAt s n) r)

/-- An answer to the command complex (R378, R382, R392). -/
def answerPacket (s : State) (id : Nat) (a : Answer) : State :=
  match pktAt s id with
  | none => s
  | some p =>
    if p.phase == .signal then
      match a with
      | .failed _ => dropPkt (dropLaunch s p) p.id
      | _ => endPkt s p
    else if p.phase == .read then
      match a with
      | .failed _ => donePkt s p 6
      | .done => s
      | .data bs => putPkt s { p with far := bs }
    else if p.phase != .started then s
    else match a with
    | .failed _ => donePkt s p 6
    | .done => donePkt s p 0
    | .data bs => if waitMet p (bytesVal (readPart (pfld p 24 8 % 4) 4 bs)) then donePkt s p 0 else s

/-- A block of a launch's image has come from another module (R147). One that fails ends the launch with status 6 before any
team of it starts (R378; log entry 60). -/
def answerImage (s : State) (lid block : Nat) (a : Answer) : State :=
  match launchAt s lid with
  | none => s
  | some l =>
    if l.ended || l.status ≠ 0 then s
    else match a with
    | .data bs => putLaunch s lid (some { l with far := l.far ++ [(block, bs)] })
    | .done => s
    | .failed _ => failImage s lid

/-- Whether a request wants bytes. -/
def wantsData (s : State) : RemoteOwner → Bool
  | .flight id _ => (flightAt s id).any flightReads
  | .dup _ _ => false
  | .waitaddr _ => true
  | .scribe _ _ tag _ => tag != writeTag
  | .anvil _ _ tag _ => tag != anvilWriteTag
  | .cc id => (pktAt s id).any fun p => (p.phase == .started && pktType p == 2) || (p.phase == .read && pktType p == 1)
  | .image _ _ => true
  | .nibble _ _ _ _ _ _ _ _ _ _ => true
  | .record id => s.recWaits.any fun w => w.id = id && w.step == .header
  | .code _ _ => true
  | .none => false

/-- Whether an atomic asks for nothing back: Completion and Read data both end it. -/
def wantsNothing (s : State) : RemoteOwner → Bool
  | .flight id _ => (flightAt s id).any fun f =>
    match f.kind with
    | .atomic _ _ _ ret => !ret
    | _ => false
  | .record id => s.recWaits.any fun w => w.id = id && match w.step with
    | .last _ => true
    | _ => false
  | .none => true
  | _ => false

/-- What a reply says to the issuer of a request; none where it is no reply to it. A request that its stream has lost
fails whatever comes (R391). -/
def answerOf (s : State) (r : RemoteReq) (x : RemoteReply) : Option Answer :=
  match r.doomed with
  | some c => some (.failed c)
  | none =>
    match x with
    | .failure => some (.failed 2)
    | .completion => if wantsNothing s r.owner || !wantsData s r.owner then some .done else none
    | .readData bs => if wantsNothing s r.owner then some .done
        else if wantsData s r.owner then some (.data bs) else none

/-- REMOTE_RESPONSE (R391 to R393): the answer reaches the issuer. A Failure response makes the whole stream fail. -/
def execRemoteResponse (id : Nat) (x : RemoteReply) (s : State) : Host.Outcome State Fault Refusal :=
  .next (match s.fabric.reqs.find? fun r => r.id = id with
    | none => s
    | some r =>
      match answerOf s r x with
      | none => s
      | some a =>
        let s := { s with fabric := { s.fabric with reqs := s.fabric.reqs.filter fun q => q.id != id } }
        let s := if a == .failed 2 && r.doomed.isNone then failStream s r.node r.tc 2 else s
        match r.owner with
        | .flight i lane => answerFlight s i lane a
        | .dup i lane => answerDup s i lane a
        | .waitaddr k => answerWait s k a
        | .scribe n c tag va => answerScribe s n c tag va a
        | .anvil n i tag va => answerAnvil s n i tag va a
        | .cc p => answerPacket s p a
        | .nibble n x e l c va i v w d => noteUsers s id (answerNibble s r.launch n x e l c va i v w d a)
        | .image l b => answerImage s l b a
        | .record w => answerRecord s w a
        | .code u va => answerCode s u va a
        | .none => s)

end Sys2Proof.Machine
end

