-- ==== Sys2Proof/Machine/Issue.lean ====
section
/-! DEFINITION. What surrounds an instruction (R17, R33 to R36, R39, R154, R157, R321, R341): the passing of cycles with
the watchdog counters, which units may issue, the fetch and decoding of a unit's next instruction, the arbitration
among contexts and units, and what a move leaves for the next one. -/

namespace Sys2Proof.Machine

/-! Cycles. -/

/-- Cycles in which a cluster could issue up to a value of CLOCK (R409): its bin lowers 14 parts by one each. -/
def issueCycles (s : State) (core c : Nat) : Nat := c * (14 - binOf s (clusterOf core)) / 14

/-- Whether timing alone keeps the operands of a slice's unit, or of its access stream, from being ready in this move (R35;
log entry 129). -/
def isBusy (s : State) (k : Nat) (acc : Bool) : Bool :=
  s.busy.any fun u => match u with
    | .compute j => !acc && j / 32 == k / 32 && (sliceAt s j).unit == (sliceAt s k).unit
    | .access j => acc && j == k
    | _ => false

/-- Whether a mapped unit has an issue-eligible slice in either stream (R35). DESIGN CHOICE: a slice of a stroke is eligible in its
compute stream only where every slice of the unit is ready, since the unit issues whole (log entry 169). -/
def unitEligible (s : State) (t : Nat) (team : Team) (u : Nat) : Bool :=
  let js := unitSlices s t team u
  (js.any fun j => streamReady s (32 * t + j) true && !isBusy s (32 * t + j) true)
    || (!js.isEmpty && !isBusy s (32 * t + u) false && js.all fun j => streamReady s (32 * t + j) false)

/-- Whether a team has an issue-eligible slice, so that its watchdog counts, and none is held (R36, R332). -/
def watchdogRuns (s : State) (t : Nat) (team : Team) : Bool :=
  team.phase == .running && team.mapped.any (fun m => unitEligible s t team m.1) && heldMask s t team == 0

/-- Let the watchdog of every such team count the cycles since a value of CLOCK (R36, R332, R409), but for a last one that a
core's trap context takes (R320). -/
def countWatchdogs (s : State) (c dt : Nat) (taken : Option Nat) : State :=
  s.teams.foldl (fun s p =>
    match p.2 with
    | none => s
    | some team =>
      let n := issueCycles s (p.1 / 16) (c + dt) - issueCycles s (p.1 / 16) c - (taken == some (p.1 / 16)).toNat
      if p.1 < savedBase && watchdogRuns s p.1 team && n != 0 then
        putTeam s p.1 (some { team with wd := team.wd + n, wdClock := c + dt })
      else s) s

/-- The cycles of a move pass, and what its timing decides is at hand (R33, R35, R37, R333, R391). -/
def advance (s : State) (m : Move) (rest : List Move) : State :=
  let s := restartStreams s m.restarts
  { s with sched := rest, soft := m.soft, busy := m.busy, late := m.late, olds := m.olds, clock := s.clock + BitVec.ofNat 64 m.dt }

/-! Who may issue. -/

/-- Whether a team may issue: it runs, is not throttled, and its watchdog is not due, or came due in this very cycle, in
which a YIELD may still retire (R16, R35, R36). -/
def teamIssues (s : State) (t : Nat) (team : Team) : Bool :=
  team.phase == .running && !s.throttled.contains (clusterOf (t / 16)) && !watchdogDue s t team

/-- Whether a stream waits for nothing but its operands, and its ageing is done (R30, R40, R241). -/
def streamFree (st : Stream) : Bool := !st.exited && st.wait == .none && !ageingDue st

/-- Whether the compute unit of a slice may issue (R17, R35, R39): it is mapped, and none of its slices waits. -/
def computeIssues (s : State) (k : Nat) : Bool :=
  match teamAt s (k / 32) with
  | none => false
  | some team =>
    let u := (sliceAt s k).unit
    teamIssues s (k / 32) team && team.mapped.any (fun m => m.1 = u) && (issuing s k).contains (k % 32)
      && (unitSlices s (k / 32) team u).all fun j =>
        let sl := sliceAt s (32 * (k / 32) + j)
        sl.held || sl.c.exited || (streamFree sl.c && !sl.swapped && !sl.rollback)

/-- Whether the access stream of a slice may issue (R35, R39, R112). -/
def accessIssues (s : State) (k : Nat) : Bool :=
  match teamAt s (k / 32) with
  | none => false
  | some team =>
    let sl := sliceAt s k
    teamIssues s (k / 32) team && team.mapped.any (fun m => m.1 = sl.unit) && decide (k % 32 < team.s)
      && streamFree sl.a && !sl.held && !sl.swapped && !sl.rollback && sl.park.all fun p => p.refused

/-- Whether the trap context of a core may issue (R112, R320). -/
def trapIssues (s : State) (core : Nat) : Bool :=
  let sl := sliceAt s (trapBase + core)
  (coreAt s core).invoc && !sl.a.exited && sl.a.wait == .none && sl.park.all fun p => p.refused

/-- Whether a scribe context may issue (R281, R283, R296, R300, R365). -/
def scribeIssues (s : State) (n : Nat) (p : Prog) : Bool :=
  onOwned s n p && !p.ending && !p.cancel && p.failed.isNone && p.data.isNone && p.waitb.isNone && !p.res && p.park.all fun k => k.refused

/-- Whether a unit holds a program at all. -/
def unitPresent (s : State) : Issuer → Bool
  | .idle => true
  | .compute k => (envOf s k false).isSome && decide (k < trapBase)
  | .access k => (envOf s k true).isSome && decide (k < trapBase)
  | .trap core => (envOf s (trapBase + core) true).isSome
  | .scribe n x => (progAt s n x).isSome

/-! Fetch. -/

/-- What a unit finds at its PC. -/
inductive Fetched where
  /-- An instruction, or the event that stands for a fetch or a word that faults. -/
  | instr (i : Instr)
  /-- A word whose unused operand field is not 0xAE (R162): legal in the compute stream, or in the access stream. -/
  | unused (r : Streams)
  /-- A scribe program that begins past its section (R291). -/
  | range
  /-- The page is not translated: it parks the trap context, and a kernel's fetch waits for it (R112, R321). -/
  | miss (page : Nat)
  /-- The memory behind it is not ready, or its word is on its way from another module. -/
  | wait
  /-- It lies on another module, which is to be asked (R107). -/
  | far (va : Nat) (t : Target)
deriving DecidableEq, Repr

/-- A lane word, decoded (R177). -/
def fetchedLane (w : Word32) : Fetched :=
  match decodeLane w with
  | .ok i => .instr i
  | .error .unusedCompute => .unused .compute
  | .error .unusedAccess => .unused .access
  | .error _ => .instr .illegalOp

/-- A scribe word, decoded (R288). -/
def fetchedScribe (w : Word32) : Fetched :=
  match decodeScribe w with
  | .ok i => .instr i
  | .error _ => .instr .scribeIllegal

/-- The word at an offset of a launch's image, decoded; or what keeps it away. -/
def fetchImage (s : State) (ctx launch off : Nat) (dec : Word32 → Fetched) : Fetched :=
  match imageWord s ctx launch off with
  | some w => dec w
  | none => match wordWait s ctx launch off with
    | .miss page => .miss page
    | .wait => .wait
    | .far va t => .far va t

/-- The code section of a stream: first byte and length (R154). -/
def codeSection (hdr : BitVec 512) (acc : Bool) : Nat × Nat :=
  if acc then (fld hdr 160 32, fld hdr 192 32) else (fld hdr 224 32, fld hdr 256 32)

/-- Whether a stream may fetch at a PC (R157). -/
def inCode (hdr : BitVec 512) (acc : Bool) (pc : Nat) : Bool :=
  let x := codeSection hdr acc
  pc % 4 == 0 && decide (x.1 ≤ pc) && decide (pc + 4 ≤ x.1 + x.2)

/-- The next instruction of a stream of a slice (R157). -/
def fetchLane (s : State) (k : Nat) (acc : Bool) : Fetched :=
  match teamAt s (k / 32) with
  | none => .wait
  | some team =>
    match launchAt s team.launch with
    | none => .wait
    | some l =>
      let pc := (streamOf acc (sliceAt s k)).pc.toNat
      if inCode l.hdr acc pc then fetchImage s team.ctx team.launch pc fetchedLane else .instr .fetchRange

/-- The next instruction of the trap context (R321): its PC is a virtual address on a plain page. -/
def fetchTrap (s : State) (core : Nat) : Fetched :=
  let sl := sliceAt s (trapBase + core)
  let pc := sl.a.pc.toNat
  let ctx := keyCtx s (trapBase + core)
  if Config.sramBase ≤ pc || pc % 4 ≠ 0 then .instr .fetchRange
  else match tlbFind s (vdevOf ctx) pc with
  | none =>
    if sl.park.any (fun p => p.page = pc / 2 ^ 16 && p.refused) then .instr .fetchRange else .miss (pc / 2 ^ 16)
  | some leaf =>
    let t := leafTarget leaf pc
    if bitAt leaf.pte.toNat 3 then .instr .fetchRange
    else if isRemote t then
      match farWord s (some core) (vdevOf ctx) pc with
      | some w => fetchedLane w
      | none => .far pc t
    else if targetReady s t && served s (vdevOf ctx) t then fetchedLane (BitVec.ofNat 32 (seenVal s t 4))
    else .wait

/-- The next instruction of a scribe program (R276, R288, R301). -/
def fetchScribe (s : State) (p : Prog) : Fetched :=
  if 65536 ≤ p.count then .instr .scribeLong
  else if !inScribe s p.launch p.regs.pc then .range
  else fetchImage s p.ctx p.launch p.regs.pc fetchedScribe

/-- What a unit fetches. -/
def fetchUnit (s : State) : Issuer → Fetched
  | .idle => .wait
  | .compute k => fetchLane s k false
  | .access k => fetchLane s k true
  | .trap core => fetchTrap s core
  | .scribe n x => match progAt s n x with
    | some p => fetchScribe s p
    | none => .wait

/-- The context in which a unit fetches, the core that a page request for it names, and the die whose walker it takes (R359,
R361). -/
structure FetchPlace where
  ctx : Nat
  core : Nat
  die : Nat

/-- Where a unit fetches. -/
def fetchPlace (s : State) : Issuer → FetchPlace
  | .idle => ⟨0, 0, 0⟩
  | .compute k => ⟨keyCtx s k, coreOfKey k, dieOf (coreOfKey k)⟩
  | .access k => ⟨keyCtx s k, coreOfKey k, dieOf (coreOfKey k)⟩
  | .trap core => ⟨keyCtx s (trapBase + core), core, dieOf core⟩
  | .scribe n x => match progAt s n x with
    | some p => ⟨p.ctx, 0xFFF, scribeDie n⟩
    | none => ⟨0, 0xFFF, scribeDie n⟩

/-- A fetch that misses: the trap context parks, and every fetch has its page walked (R112, R321). -/
def missFetch (s : State) (u : Issuer) (page : Nat) : State :=
  match u with
  | .trap core => parkSlice s (trapBase + core) page false
  | u =>
    let x := fetchPlace s u
    seekPage s (vdevOf x.ctx) page false x.core x.die

/-- A fetch of a word that lies on another module asks for it (R107). -/
def farFetch (s : State) (u : Issuer) (va : Nat) (t : Target) : State := askWord s u (fetchPlace s u).ctx va t

/-- An operand field that an instruction does not use is not 0xAE (R162, R176). -/
def unusedOperand (r : Streams) (s : State) : Host.Outcome State Fault Refusal :=
  issueLane s r false fun _ _ => .fault (plainFault codeILLEGAL_OPERAND)

/-- A scribe program that begins past its section (R291). -/
def scribeOutside (s : State) : Host.Outcome State Fault Refusal :=
  runScribe s fun n x p => faultProg s n x p ⟨9, p.regs.pc, 0⟩

/-! Arbitration. -/

/-- The slices of a context's running teams on a core that have an issue-eligible unit for a port, each with its age,
by place and slice (R33, R341): for the compute port the lowest slice of each mapped unit. -/
def eligible (s : State) (core ctx : Nat) (acc : Bool) : List (Nat × Nat) :=
  (coreTeams s core).flatMap fun p =>
    if p.2.ctx ≠ ctx || !teamIssues s p.1 p.2 then []
    else (sliceNums p.2).filterMap fun j =>
      let k := 32 * p.1 + j
      let sl := sliceAt s k
      let ok := !isBusy s k acc && (if acc then accessIssues s k && !sl.a.stall
        else sl.unit == j && computeIssues s k
          && (unitSlices s p.1 p.2 j).all fun i => !(sliceAt s (32 * p.1 + i)).c.stall)
      if ok then some ((streamOf acc sl).age, k) else none

/-- The pass value of a place for a port (R341). -/
def passOf (acc : Bool) (p : CtxPlace) : Word32 := if acc then p.passA else p.passC

/-- Set the pass value of a place. -/
def setPass (acc : Bool) (p : CtxPlace) (x : Word32) : CtxPlace := if acc then { p with passA := x } else { p with passC := x }

/-- The context place that a port chooses: the least pass value, the lower place on a tie (R341). -/
def pickPlace (s : State) (core : Nat) (acc : Bool) : Option (Nat × CtxPlace) :=
  leastBy (fun x y => serialLt 32 (passOf acc x.2).toNat (passOf acc y.2).toNat)
    ((coreAt s core).places.filter fun p => p.2.ctx.any fun c => !(eligible s core c acc).isEmpty)

/-- The slice that a port issues: the oldest of the chosen context (R33). -/
def pickUnit (s : State) (core : Nat) (acc : Bool) : Option Nat :=
  (pickPlace s core acc).bind fun p => p.2.ctx.bind fun c =>
    (leastBy (fun x y => decide (x.1 < y.1)) (eligible s core c acc)).map (·.2)

/-- What the two ports of a core issue (R33, R320, R341): the trap context goes first on the access unit. -/
def corePicks (s : State) (core : Nat) : List Issuer :=
  let a := if trapIssues s core && !(sliceAt s (trapBase + core)).a.stall then [Issuer.trap core]
    else (pickUnit s core true).toList.map Issuer.access
  a ++ (pickUnit s core false).toList.map Issuer.compute

/-- The scribe contexts that may issue. -/
def scribePicks (s : State) : List Issuer :=
  s.scribes.flatMap fun b => ctxNums.filterMap fun x =>
    if (progAt s b.1 x).any (scribeIssues s b.1) then some (.scribe b.1 x) else none

/-- Whether the cycle that CLOCK stands at is one in which a cluster could issue (R409). -/
def cycleOpen (s : State) (core : Nat) : Bool :=
  let c := s.clock.toNat
  c == 0 || decide (issueCycles s core (c - 1) < issueCycles s core c)

/-- Whether a port of a core is free: it makes one issue a cycle of those that its cluster's bin leaves, and a unit in
pieces takes one for each piece (R10, R39, R409). -/
def portFree (s : State) (core : Nat) (acc : Bool) : Bool :=
  let c := coreAt s core
  cycleOpen s core && decide ((if acc then c.freeA else c.freeC) ≤ s.clock.toNat)

/-- A unit by its lowest slice, as the ports name it. -/
def unitName (s : State) : Issuer → Issuer
  | .compute k => .compute (32 * (k / 32) + (sliceAt s k).unit)
  | u => u

/-- Whether a port of a core is free and picks a unit. -/
def portPicks (s : State) (core : Nat) (acc : Bool) (u : Issuer) : Bool :=
  portFree s core acc && (corePicks s core).contains (unitName s u)

/-- Whether a unit may issue now: what R33, R320 and R341 choose on a free port, or a scribe context that runs. -/
def unitIssues (s : State) : Issuer → Bool
  | .idle => false
  | .compute k => computeIssues s k && portPicks s (coreOfKey k) false (.compute k)
  | .access k => accessIssues s k && portPicks s (coreOfKey k) true (.access k)
  | .trap core => trapIssues s core && portPicks s core true (.trap core)
  | .scribe n x => (progAt s n x).any (scribeIssues s n)

/-- What issues when the schedule says nothing: the picks of all free ports and the scribe contexts take turns. -/
def autoIssue (s : State) : Issuer :=
  let picks := (s.cores.flatMap (fun c => corePicks s c.1) ++ scribePicks s).filter (unitIssues s)
  picks.getD (s.clock.toNat % max 1 picks.length) .idle

/-- The stride of a context (R341). -/
def ctxStride (p : CtxPlace) : Word32 := BitVec.ofNat 32 (65536 / max 1 (fld p.record 224 8))

/-- A context was chosen, once or for each of several pieces: its pass value rises (R341). -/
def chargePass (s : State) (core ctx : Nat) (acc : Bool) (times : Nat) : State :=
  match ctxPlaceOf s core ctx with
  | none => s
  | some p =>
    let c := coreAt s core
    let x := setPass acc p.2 (passOf acc p.2 + BitVec.ofNat 32 times * ctxStride p.2)
    putCore s core { c with places := aput CtxPlace.zero c.places p.1 x }

/-- Raise the pass values of the places of a core whose contexts have become eligible for a port to the least of the
other eligible ones, and note which are eligible (R341). -/
def joinPort (s : State) (core : Nat) (acc : Bool) (places : Assoc CtxPlace) : Assoc CtxPlace :=
  let able : CtxPlace → Bool := fun p => p.ctx.any fun x => !(eligible s core x acc).isEmpty
  let was : CtxPlace → Bool := fun p => if acc then p.eligA else p.eligC
  let now := places.filter fun p => able p.2
  places.map fun x =>
    let p := x.2
    let on := now.any fun y => y.1 = x.1
    let least := leastBy (fun y z => serialLt 32 (passOf acc y.2).toNat (passOf acc z.2).toNat)
      (now.filter fun y => y.1 != x.1)
    let p := match least with
      | some o =>
        if on && !was p && serialLt 32 (passOf acc p).toNat (passOf acc o.2).toNat then setPass acc p (passOf acc o.2)
        else p
      | none => p
    (x.1, if acc then { p with eligA := on } else { p with eligC := on })

/-- Note which contexts are eligible (R341). -/
def joinPorts (s : State) : State :=
  s.cores.foldl (fun s c =>
    if c.2.places.any fun p => p.2.ctx.isSome then
      let places := (coreAt s c.1).places
      let places := joinPort s c.1 true (joinPort s c.1 false places)
      putCore s c.1 { coreAt s c.1 with places := places }
    else s) s

/-! The beginning of a move. -/

/-- The core whose trap context takes a cycle as a unit that goes first on its access unit (R320, R341). -/
def trapTakes (s : State) : Issuer → Option Nat
  | .trap core => if unitIssues s (.trap core) && (match fetchUnit s (.trap core) with
      | .instr _ => true
      | .unused _ => true
      | _ => false) then some core else none
  | _ => none

/-- What a move is about to issue. -/
def turnUnit : Turn → Issuer
  | .issue u => u
  | .event _ => .idle

/-- Whether a move makes ACP, scribe or anvil writes (R115). -/
def engineWrites : Turn → Bool
  | .event (.acpComplete _) => true
  | .event (.lineOperation _ _) => true
  | .event (.anvilRequestComplete _) => true
  | .issue (.scribe _ _) => true
  | _ => false

/-- Whether a reader in flight may see units as they are before what a move writes: it could read now, and the rules order
nothing between the two. An ordinary load is one event for each lane and races with the engines' writes alone (R115); an LDX,
an ACP, a scribe and an anvil read each 4-byte unit by an event of its own (R114, R117; log entry 134). -/
def mayRace (s : State) (w : Turn) : MemReader → Bool
  | .access id => (flightAt s id).any fun f => canPerform s f && match f.kind with
    | .load _ _ => engineWrites w
    | .ldx _ _ _ => true
    | .acp _ _ _ => !f.sent
    | _ => false
  | .program n x => (progAt s n x).any fun p => lineReady s n x p || unitIssues s (.scribe n x)
  | .request id => (reqAt s id).any fun q => q.2.granted && !q.2.committed && !q.2.ended && q.2.remote == 0

/-- Of the readers that a move lets see older values, those for which the rules allow it. -/
def raceOlds (s : State) (w : Turn) : State := { s with olds := s.olds.filter fun p => mayRace s w p.1 }

/-- A move begins: its cycles pass, the contexts that have become eligible join their ports (R341), and the readers that race
with what it writes are known. -/
def startMove (s : State) (m : Move) (rest : List Move) : State := raceOlds (joinPorts (advance s m rest)) m.turn

/-- Begin a move that the schedule gives: it starts, and the watchdogs count its cycles (R36). -/
def beginMove (s : State) (m : Move) (rest : List Move) : State :=
  let s1 := startMove s m rest
  countWatchdogs s1 s.clock.toNat m.dt (trapTakes s1 (turnUnit m.turn))

/-! After a move. -/

/-- Whether the last attempt of a unit to issue stalled: the stall of one slice stalls the unit (R29, R35). -/
def issueStalled (s : State) : Issuer → Bool
  | .compute k => (issuing s k).any fun j => (sliceAt s (32 * (k / 32) + j)).c.stall
  | .access k => (sliceAt s k).a.stall
  | .trap core => (sliceAt s (trapBase + core)).a.stall
  | _ => false

/-- The cycles for which an instruction holds the compute issue port for one stroke (R202): four for F64 arithmetic, DSQRT
and DRCP. -/
def strokeCycles : Instr → Nat
  | .dadd _ _ _ => 4
  | .dsub _ _ _ => 4
  | .dmul _ _ _ => 4
  | .dfma _ _ _ => 4
  | .dsqrt _ _ => 4
  | .drcp _ _ => 4
  | _ => 1

/-- The issue cycles that an instruction of a compute unit takes: those of one stroke for each piece of at most P slices, and
twice that in checked mode (R39, R202, R333). -/
def unitCycles (s : State) (k cost : Nat) : Nat :=
  match teamAt s (k / 32) with
  | none => cost
  | some team =>
    let p := physSlices s (k / 32) team
    ((issuing s k).length + p - 1) / p * (if team.checked then 2 * cost else cost)

/-- An issue takes its port for its cycles (R10). -/
def takePort (before : State) (cost : Nat) (s : State) : Issuer → State
  | .compute k =>
    let core := coreOfKey k
    putCore s core { coreAt s core with freeC := before.clock.toNat + unitCycles before k cost }
  | .access k =>
    let core := coreOfKey k
    putCore s core { coreAt s core with freeA := before.clock.toNat + 1 }
  | .trap core => putCore s core { coreAt s core with freeA := before.clock.toNat + 1 }
  | _ => s

/-- The access issue of a unit whose compute stream has exited counts for its mapping (R39). -/
def countAccess (before s : State) (k : Nat) : State :=
  let sl := sliceAt s k
  if sl.c.exited && (sliceAt before k).a.count != sl.a.count then countUnit s (k / 32) sl.unit else s

/-- Charge the context that an issue was chosen from, for each piece of it (R39, R341; log entry 89). -/
def chargeIssue (before s : State) : Issuer → State
  | .compute k => chargePass s (coreOfKey k) (keyCtx before k) false (unitCycles before k 1)
  | .access k => chargePass s (coreOfKey k) (keyCtx before k) true 1
  | _ => s

/-- Where a unit's next word lies: its context and its virtual address. -/
def codePlace (s : State) (u : Issuer) : Option (Nat × Nat) :=
  let ctx := (fetchPlace s u).ctx
  let inImage : Nat → Nat → Option (Nat × Nat) := fun launch off =>
    (launchAt s launch).map fun l => (ctx, wrap 64 ((l.img.toNat + off : Nat) : Int))
  match u with
  | .idle => none
  | .compute k => inImage (keyLaunch s k) (sliceAt s k).c.pc.toNat
  | .access k => inImage (keyLaunch s k) (sliceAt s k).a.pc.toNat
  | .trap core => some (ctx, (sliceAt s (trapBase + core)).a.pc.toNat)
  | .scribe n x => (progAt s n x).bind fun p => inImage p.launch p.regs.pc

/-- The fetch of an instruction that has issued spends a token (R368). DESIGN CHOICE: each word is a request for its block, with
no instruction cache (log entry 76). -/
def payFetch (before s : State) (u : Issuer) : State :=
  match codePlace before u with
  | some (ctx, va) => spendFor s ctx ((tlbFind before (vdevOf ctx) va).map fun l => leafTarget l va).toList
  | none => s

/-- The end of a move: no unit issues, and what its timing decided is past. -/
def endMove (s : State) : State := { s with issuer := .idle, soft := [], busy := [], late := [], olds := [] }

/-! Settling. After each move the flags that say which units are stalled are found afresh, by what an attempt of each to
issue would give. -/

/-- A stream with the stall flags of another. The registers that its instruction names stay noted once they are back, until
it has issued (R41). -/
def stalledAs (st x : Stream) : Stream :=
  { st with stall := x.stall, qstall := x.qstall, want := x.want, named := if x.want.isEmpty then st.named else x.named }

/-- The state in which a unit's attempt to issue is tried: its slices not yet known to stall, and in the register file. -/
def tryOut (s : State) (t : Nat) (js : List Nat) (acc : Bool) : State :=
  js.foldl (fun s j =>
    let sl := sliceAt s (32 * t + j)
    putSlice s (32 * t + j) { setStream acc sl (unstalled (streamOf acc sl)) with swapped := false }) s

/-- The slice whose access stream a unit issues. -/
def accessSlice : Issuer → Option Nat
  | .access k => some k
  | .trap core => some (trapBase + core)
  | _ => none

/-- The leaves through which the parked access of a unit has been translated in part (R112). -/
def unitParts (s : State) (u : Issuer) : List TlbLeaf :=
  match accessSlice u with
  | some k => (sliceAt s k).parts
  | none => []

/-- An instruction's meaning for a unit that issues it: what was translated before a park keeps its translation (R112). -/
def onUnit (f : State → Host.Outcome State Fault Refusal) (s : State) (u : Issuer) : Host.Outcome State Fault Refusal :=
  match f { s with issuer := u, tlb := unitParts s u ++ s.tlb } with
  | .next t => .next { t with tlb := t.tlb.drop (unitParts s u).length }
  | r => r

/-- The translated parts of an access that parks are kept, and those of one that completes or faults are not (R112). -/
def keepParts (before s : State) (u : Issuer) : State :=
  match accessSlice u with
  | none => s
  | some k =>
    let old := sliceAt before k
    let sl := sliceAt s k
    if sl.a.count != old.a.count || sl.held then
      (if sl.parts.isEmpty then s else putSlice s k { sl with parts := [] })
    else match (if sl.park = old.park then none else sl.park) with
    | none => s
    | some p =>
      let kept := (old.parts ++ before.tlb).filter fun l =>
        l.vdev = vdevOf (keyCtx s k) && l.va != p.page * 2 ^ 16 / 2 ^ l.bits
      putSlice s k { sl with parts := kept }

/-- The state that an attempt of a unit to issue leads to; none where its instruction is not there yet. -/
def attempt (exec : Instr → State → Host.Outcome State Fault Refusal) (s : State) (u : Issuer) : Option State :=
  match fetchUnit s u with
  | .instr i => match onUnit (exec i) s u with
    | .next t => some t
    | _ => some s
  | .unused _ => some s
  | .range => some s
  | .miss _ => none
  | .wait => none
  | .far _ _ => none

/-- The header that an SCSTART waits for, on another module, is asked for (R107, R278). -/
def seekHeader (s : State) (u : Issuer) (p : AReg) : State :=
  let sl := sliceAt s (accessKey u)
  let ctx := (fetchPlace s u).ctx
  let launch := keyLaunch s (accessKey u)
  let prog := (reqVals sl (actLanes sl.a) [p.toNat]).headD 0
  if actLanes sl.a = 0 || prog % 64 ≠ 0 || !inScribe s launch prog || (imageWord s ctx launch prog).isSome then s
  else match wordWait s ctx launch prog with
  | .far va t => farFetch s u va t
  | _ => s

/-- What a unit that cannot issue has to ask for: the page of a fetch that misses, unless a request for it is out, or a word
on another module (R107, R157, R359). -/
def seekCode (s : State) (u : Issuer) : State :=
  match fetchUnit s u with
  | .miss page =>
    let x := fetchPlace s u
    seekPage s (vdevOf x.ctx) page false x.core x.die
  | .far va t => farFetch s u va t
  | .instr (.scstart _ p _ _ _) => seekHeader s u p
  | _ => s

/-- Set the stall flags of the slices of a unit, or of one slice's access stream, by an attempt (R35). -/
def probeUnit (exec : Instr → State → Host.Outcome State Fault Refusal) (t : Nat) (js : List Nat) (acc : Bool) (u : Issuer)
    (s : State) : State :=
  let tried := attempt exec (tryOut s t js acc) u
  let s := seekCode s u
  js.foldl (fun s j =>
    let sl := sliceAt s (32 * t + j)
    let st := streamOf acc sl
    let flags := match tried with
      | some x => stalledAs st (streamOf acc (sliceAt x (32 * t + j)))
      | none => { unstalled st with stall := true, named := st.named }
    if flags = st then s else putSlice s (32 * t + j) (setStream acc sl flags)) s

/-- Whether a stream is at an instruction to be tried: it has not ended and waits for nothing but its operands. -/
def atInstr (sl : Slice) (acc : Bool) : Bool :=
  let st := streamOf acc sl
  !st.exited && st.wait == .none && !sl.held && !sl.rollback && (!acc || sl.park.all fun p => p.refused)

/-- The slices of a unit that an attempt of it to issue concerns, or none where one of them waits. -/
def triedSlices (s : State) (t : Nat) (team : Team) (u : Nat) : List Nat :=
  let js := (unitSlices s t team u).filter fun j =>
    let sl := sliceAt s (32 * t + j)
    !sl.held && !sl.c.exited
  if js.all fun j => atInstr (sliceAt s (32 * t + j)) false then js else []

/-- Find the stall flags of a running team's streams afresh (R35). -/
def probeTeam (exec : Instr → State → Host.Outcome State Fault Refusal) (s : State) (t : Nat) : State :=
  match teamAt s t with
  | none => s
  | some team =>
    if team.phase ≠ .running then s
    else
      let s := (sliceNums team).foldl (fun s j =>
        let js := triedSlices s t team j
        if js.isEmpty then s else probeUnit exec t js false (.compute (32 * t + js.headD 0)) s) s
      (sliceNums team).foldl (fun s j =>
        if atInstr (sliceAt s (32 * t + j)) true then probeUnit exec t [j] true (.access (32 * t + j)) s else s) s

/-- The stall flag of an open invocation's stream afresh; a fetch that misses parks when it issues (R112, R321). -/
def probeTrap (exec : Instr → State → Host.Outcome State Fault Refusal) (s : State) (core : Nat) : State :=
  let k := trapBase + core
  if trapIssues s core then
    match fetchUnit s (.trap core) with
    | .far va t => farFetch s (.trap core) va t
    | .miss _ => putSlice s k { sliceAt s k with a := unstalled (sliceAt s k).a }
    | _ => probeUnit exec (k / 32) [k % 32] true (.trap core) s
  else s

/-- What a move leaves for the residency of a slice (R37, R41): a change of level that its boundary has now reached, and
registers beyond its budgets, but for those that the instructions at hand name. -/
def settleSlice (before : State) (t : Nat) (s : State) (j : Nat) : State :=
  let k := 32 * t + j
  let s := match (sliceAt before k).levelDue, (sliceAt s k).levelDue with
    | some _, some d => if s.late.contains k then s else reachLevel d.1 t s j
    | _, _ => s
  let sl := sliceAt s k
  match teamAt s t with
  | some team =>
    if team.level = 0 || sl.levelDue.isSome then s
    else putSlice s k (trimSlice team team.level (spillRoom s (t / 16)) sl.c.named sl.a.named sl)
  | none => s

/-- The CLOCK since which a slice is stalled (R48). -/
def stampSlice (before : State) (t : Nat) (s : State) (j : Nat) : State :=
  let k := 32 * t + j
  let old := sliceAt before k
  let sl := sliceAt s k
  let ran := old.c.count != sl.c.count || old.a.count != sl.a.count
  if swapStalled sl && (ran || !swapStalled old) then putSlice s k { sl with since := s.clock.toNat } else s

/-- Note since when the slices of a team are stalled (R48). -/
def stampTeam (before s : State) (t : Nat) : State :=
  match teamAt s t with
  | some team => if team.phase = .saved then s else (sliceNums team).foldl (stampSlice before t) s
  | none => s

/-- A register of a slice that has gone to the HBM part is written there (R42, R83). -/
def spillRegs (before : State) (t : Nat) (team : Team) (s : State) (j : Nat) : State :=
  let k := 32 * t + j
  let gone : Bool → List Nat := fun acc => ((if acc then (sliceAt s k).arInfo else (sliceAt s k).vInfo).filter fun p =>
    p.2.loc == .hbm && (regInfo acc (sliceAt before k) p.1).loc != .hbm).map (·.1)
  let out : Bool → State → State := fun acc s =>
    (gone acc).foldl (fun s r => spillAt s (t / 16) team (registerHome team j acc r) (spillBytes acc)) s
  out true (out false s)

/-- The registers of a team that a move has removed to the HBM part go to its save area; those of a team that has come back
lie there already. -/
def spillTeam (before s : State) (t : Nat) : State :=
  match teamAt s t with
  | some team =>
    if (teamAt before t).any fun x => x.order = team.order then (sliceNums team).foldl (spillRegs before t team) s else s
  | none => s

/-- Whether a team has left a core. -/
def teamLeft (before after : State) (core : Nat) : Bool :=
  before.teams.any fun t =>
    t.2.isSome && decide (t.1 < savedBase) && t.1 / 16 == core && (teamAt after t.1).isNone

/-- Resources are free again on the cores that a team has left: folded teams expand there (R47, R345). -/
def expandFreed (before after : State) : State :=
  after.cores.foldl (fun s c => if teamLeft before after c.1 then expandCore s c.1 else s) after

/-- Settle the residency of a team after a move: its mapping fits, and its slices and registers are in their places. -/
def settleTeam (before s : State) (t : Nat) : State :=
  match teamAt s t with
  | none => s
  | some team =>
    if team.phase = .saved then s else (sliceNums team).foldl (settleSlice before t) (fitMapped s t team)

/-- What a move has removed from the register files and scratchpads goes to the spill areas (R42, R43), and FOLDCTLs retire
whose changes have all taken effect (R343). -/
def settleSpills (before s : State) : State :=
  let s := s.cores.foldl (fun s c => fitScratch before c.1 (heldSpill s c.1 / 16) s) s
  let s := flushSpills (s.teams.foldl (fun s p => if p.1 < savedBase then spillTeam before s p.1 else s) s)
  s.cores.foldl (fun s c => finishFold s c.1) s

/-- Whether the key id that a 4-byte unit was written under is the same as before, or there was none. -/
def unitKey (before s : State) (u : Nat) : Bool :=
  aget 0 before.keyed (u / 16) == 0 || aget 0 before.keyed (u / 16) == aget 0 s.keyed (u / 16)

/-- Whether a move has left a 4-byte unit as it was. -/
def unitSame (before s : State) (u : Nat) : Bool :=
  readBytes before.mem (4 * u) 4 == readBytes s.mem (4 * u) 4 && aget 0 before.keyed (u / 16) == aget 0 s.keyed (u / 16)

/-- The older values that a reader sees after a move: of units that the move has not written, those that it saw; of the units
chosen among those that it has written, what the reader saw before. A unit that held an uncorrectable error has no older
value. -/
def oldsAfter (before s : State) (picks : List Nat) (olds : List (Nat × Nat)) : List (Nat × Nat) :=
  olds.filter (fun o => unitSame before s o.1)
    ++ ((picks.eraseDups.filter fun u => !unitSame before s u && unitKey before s u && !poisoned before (4 * u) 4).map
      fun u => (u, readBytes (withOlds olds before).mem (4 * u) 4))

/-- The units chosen for a reader. -/
def unitsOf (olds : List (MemReader × Nat)) (r : MemReader) : List Nat := (olds.filter fun p => p.1 = r).map (·.2)

/-- The older values that a program sees after a move: its next instruction or line sees none. -/
def progOlds (picks : List (MemReader × Nat)) (before s : State) (n x : Nat) (p : Prog) : Prog :=
  { p with olds := if (progAt before n x).any fun q => q.vq = p.vq && q.seq = p.seq && q.count = p.count
        && q.data.map (·.next) = p.data.map (·.next)
      then oldsAfter before s (unitsOf picks (.program n x)) p.olds else [] }

/-- Keep for each reader in flight the older values that it sees (R114, R115, R117). -/
def keepOlds (picks : List (MemReader × Nat)) (before s : State) : State :=
  { s with
    flights := s.flights.map fun f => { f with olds := oldsAfter before s (unitsOf picks (.access f.id)) f.olds }
    anvils := s.anvils.map fun v => (v.1, { v.2 with
      resv := v.2.resv.map fun r => { r with olds := oldsAfter before s (unitsOf picks (.request r.id)) r.olds } })
    scribes := s.scribes.map fun c => (c.1, { c.2 with
      ctxs := c.2.ctxs.map fun y => (y.1, y.2.map (progOlds picks before s c.1 y.1)) }) }

/-- The units of a team that have given up their physical slices lose them, and the next ones take them (R39). -/
def remapRunning (s : State) (t : Nat) : State :=
  if (teamAt s t).any fun team => team.phase = .running then remapTeam s t else s

/-! Refused pages. A code fetch has no park, so its refusal acts as the move settles (R363; log entry 178). -/

/-- Whether the fetch of a unit misses a page whose request has been refused in this move. -/
def fetchRefused (s : State) (u : Issuer) : Bool :=
  match fetchUnit s u with
  | .miss page => pageRefused s (vdevOf (fetchPlace s u).ctx) page false
  | _ => false

/-- A fetch that its request's refusal fails: PAGE_FAULT at the word (R112, R363). -/
def failFetch (s : State) (u : Issuer) : State :=
  let va := (codePlace s u).elim 0 (·.2)
  match onUnit (fun s => issueLane s .both false fun e sl =>
      let f : FaultInfo := ⟨codePAGE_FAULT, 0, BitVec.ofNat 64 va, 0⟩
      if e.acc then failNow sl f else .fault f) s u with
  | .next t => t
  | _ => s

/-- The fetches of a running team that have been refused. -/
def refuseTeam (s : State) (t : Nat) : State :=
  match teamAt s t with
  | none => s
  | some team =>
    if team.phase ≠ .running then s
    else
      let s := (sliceNums team).foldl (fun s j =>
        let u := Issuer.compute (32 * t + (triedSlices s t team j).headD 0)
        if !(triedSlices s t team j).isEmpty && fetchRefused s u then failFetch s u else s) s
      (sliceNums team).foldl (fun s j =>
        let u := Issuer.access (32 * t + j)
        if atInstr (sliceAt s (32 * t + j)) true && fetchRefused s u then failFetch s u else s) s

/-- The fetches of scribe programs that have been refused fault ACCESS, with the DETAIL of PAGE_FAULT (R302). -/
def refuseProgs (s : State) : State :=
  s.scribes.foldl (fun s b => ctxNums.foldl (fun s x =>
    match progAt s b.1 x with
    | none => s
    | some p =>
      let u := Issuer.scribe b.1 x
      if scribeIssues s b.1 p && fetchRefused s u then
        faultProg s b.1 x p ⟨2, scribeDetail codePAGE_FAULT, (codePlace s u).elim 0 (·.2)⟩
      else s) s) s

/-- A fetch of the trap handler that has been refused is a double fault (R331). -/
def refuseTrap (s : State) (core : Nat) : State :=
  if trapIssues s core && fetchRefused s (.trap core) then failFetch s (.trap core) else s

/-- What the refusals of this move fail beside parked accesses: save areas, images and code (R363). -/
def refuseWaits (s : State) : State :=
  if s.refused.isEmpty then s
  else
    let s := refuseImages (refuseHomes s)
    let s := s.cores.foldl (fun s c => refuseTrap s c.1) (s.teams.foldl (fun s p => refuseTeam s p.1) s)
    let s := refuseProgs s
    { s with refused := [] }

/-! Who waits for tokens. -/

/-- A virtual device at the controller that an address of a context leads to. -/
def pressAt (s : State) (ctx a : Nat) : List (Nat × Nat) :=
  (((tlbFind s (vdevOf ctx) a).bind fun l => targetCtrl (leafTarget l a)).map fun c => (vdevOf ctx, c)).toList

/-- Addresses at which the next line operation of a data instruction begins. -/
def lineStarts (p : Prog) (o : DataOp) : List Nat :=
  match o.i with
  | .line d a _ => [kreg p a + 64 * o.next, kreg p d + 64 * o.next]
  | .reduce d a _ _ => [kreg p a + 64 * o.next, kreg p d + 64 * o.next]
  | .gather d a _ _ => [kreg p a, kreg p d]
  | .scatter _ a b _ => [kreg p a, kreg p b]
  | .convert gd gs _ => [gd, gs].flatMap fun g => ((genOf p g).map fun q => elemNibble q.record (orig q) / 2).toList
  | _ => []

/-- Addresses that a granted anvil request goes to in paged memory. -/
def reqStarts (r : AReq) : List Nat :=
  if r.ended || !r.granted || r.remote ≠ 0 then []
  else if r.kind ≠ 0 then [r.addr.toNat]
  else if r.committed then (r.out.head?.map (·.1)).toList
  else if (cmdOf r.cb).bias then [(cmdOf r.cb).biasaddr] else []

/-- The controller at which a packet waits with its work, or with its signal. -/
def pressPacket (s : State) (p : Packet) : List (Nat × Nat) :=
  let at_ : Nat → List (Nat × Nat) := fun off =>
    let a := pfld p off 8
    let t := if p.vdev = Config.adminVdev then adminTarget a else (tlbFind s p.vdev a).map fun l => leafTarget l a
    ((t.bind targetCtrl).map fun c => (p.vdev, c)).toList
  match p.phase with
  | .done _ => at_ 0
  | .read => if pktType p = 1 then at_ 24 else []
  | .started => if pktType p = 2 || pktType p = 3 then at_ 24 else []
  | _ => []

/-- Note which virtual devices wait at which controllers with accesses that are none of a lane's (R368). DESIGN CHOICE: a line
operation counts by the addresses at which it begins, and what issues by itself does not count (log entry 76). -/
def notePressing (s : State) : State :=
  if s.tokens.isEmpty then { s with pressing := [] }
  else { s with pressing := (
    (s.scribes.flatMap fun b => b.2.ctxs.flatMap fun c => match c.2 with
      | some p => p.data.toList.flatMap fun o => (lineStarts p o).flatMap (pressAt s p.ctx)
      | none => [])
    ++ (s.anvils.flatMap fun v => v.2.resv.flatMap fun r => (reqStarts r).flatMap (pressAt s r.ctx))
    ++ s.packets.flatMap (pressPacket s)
    ++ s.recWaits.flatMap fun w => if w.out = 0 then pressAt s w.ctx (recErrrec (ctxRecord s w.core w.ctx)) else []).eraseDups }

/-- Replaced leaves are forgotten once no access that used them can be in flight (R360). -/
def dropGone (s : State) : State :=
  if s.flights.isEmpty && s.fabric.reqs.isEmpty then { s with tlbGone := [] } else s

/-- Settle the machine after a move: readers keep the older values that they see (R114, R115), requests and posted writes whose memory is ready now are performed (R370, R393), records
that wait go on (R412), anvil requests set aside return (R274), refusals of pages act (R363), machine checks kill (R354), freed
resources expand (R47), barriers release (R136), residency settles, save areas have their pages walked (R359), the stall flags are
found afresh (R35), and units that have given up their physical slices make room for others (R39). -/
def settleMove (exec : Instr → State → Host.Outcome State Fault Refusal) (before s : State) : State :=
  let w := keepOlds before.olds before s
  let s := keepOlds [] w (unparkReqs (stepRecords (serveAllHeld (dateRequests (flushPosted w)))))
  let s := withdrawDeadlines (expandFreed before (killChecked (refuseWaits s)))
  let s := s.teams.foldl (fun s p => refreshDue (retryBars s p.1) p.1) s
  let s := s.teams.foldl (fun s p => settleTeam before s p.1) s
  let s := seekHomes (settleSpills before s)
  let s := s.teams.foldl (fun s p => probeTeam exec s p.1) s
  let s := s.teams.foldl (fun s p => stampTeam before s p.1) s
  let s := s.teams.foldl (fun s p => remapRunning s p.1) s
  endMove (notePressing (dropGone (noteDrains (s.cores.foldl (fun s c => probeTrap exec s c.1) s))))

/-- After an event. -/
def afterEvent (exec : Instr → State → Host.Outcome State Fault Refusal) (before s : State) : State :=
  settleMove exec before s

/-- After an issue: one that stalled leaves its port, its context's pass value and the tokens of its fetch alone. -/
def afterIssue (exec : Instr → State → Host.Outcome State Fault Refusal) (before : State) (u : Issuer) (cost : Nat)
    (s : State) : State :=
  let s := match u with
    | .access k => countAccess before s k
    | _ => s
  let s := keepParts before s u
  settleMove exec before (if issueStalled s u then s else payFetch before (chargeIssue before (takePort before cost s u) u) u)

/-- Go on with a next state; a stop stays a stop. -/
def mapNext (f : State → State) : Host.Outcome State Fault Refusal → Host.Outcome State Fault Refusal
  | .next s => .next (f s)
  | .fault r => .fault r
  | .refused r => .refused r

end Sys2Proof.Machine
end

