-- ==== Sys2Proof/Machine/Dispatch.lean ====
section
/-! DEFINITION. The dispatch: one arm for each constructor of Instr, each one direct call of its meaning. -/

namespace Sys2Proof.Machine

def exec (i : Instr) (s : State) : Host.Outcome State Fault Refusal :=
  match i with
  | .iadd d a b => Sys2Proof.Machine.execIadd d a b s
  | .isub d a b => Sys2Proof.Machine.execIsub d a b s
  | .iminS d a b => Sys2Proof.Machine.execIminS d a b s
  | .imaxS d a b => Sys2Proof.Machine.execImaxS d a b s
  | .imul d a b => Sys2Proof.Machine.execImul d a b s
  | .imulhS d a b => Sys2Proof.Machine.execImulhS d a b s
  | .imulhU d a b => Sys2Proof.Machine.execImulhU d a b s
  | .imad d a b => Sys2Proof.Machine.execImad d a b s
  | .iminU d a b => Sys2Proof.Machine.execIminU d a b s
  | .imaxU d a b => Sys2Proof.Machine.execImaxU d a b s
  | .iabsdU d a b => Sys2Proof.Machine.execIabsdU d a b s
  | .iavgU d a b => Sys2Proof.Machine.execIavgU d a b s
  | .band d a b => Sys2Proof.Machine.execBand d a b s
  | .bor d a b => Sys2Proof.Machine.execBor d a b s
  | .bxor d a b => Sys2Proof.Machine.execBxor d a b s
  | .bandn d a b => Sys2Proof.Machine.execBandn d a b s
  | .shl d a b => Sys2Proof.Machine.execShl d a b s
  | .shrU d a b => Sys2Proof.Machine.execShrU d a b s
  | .shrS d a b => Sys2Proof.Machine.execShrS d a b s
  | .shrrS d a b => Sys2Proof.Machine.execShrrS d a b s
  | .rotl d a b => Sys2Proof.Machine.execRotl d a b s
  | .bfeU d a b => Sys2Proof.Machine.execBfeU d a b s
  | .bfeS d a b => Sys2Proof.Machine.execBfeS d a b s
  | .bfi d a b => Sys2Proof.Machine.execBfi d a b s
  | .prmb d a b => Sys2Proof.Machine.execPrmb d a b s
  | .mulwU d a b => Sys2Proof.Machine.execMulwU d a b s
  | .mulwS d a b => Sys2Proof.Machine.execMulwS d a b s
  | .iadd64 d a b => Sys2Proof.Machine.execIadd64 d a b s
  | .mov d a => Sys2Proof.Machine.execMov d a s
  | .bnot d a => Sys2Proof.Machine.execBnot d a s
  | .ineg d a => Sys2Proof.Machine.execIneg d a s
  | .iabs d a => Sys2Proof.Machine.execIabs d a s
  | .popc d a => Sys2Proof.Machine.execPopc d a s
  | .clz d a => Sys2Proof.Machine.execClz d a s
  | .ctz d a => Sys2Proof.Machine.execCtz d a s
  | .brev d a => Sys2Proof.Machine.execBrev d a s
  | .sext8 d a => Sys2Proof.Machine.execSext8 d a s
  | .sext16 d a => Sys2Proof.Machine.execSext16 d a s
  | .zext8 d a => Sys2Proof.Machine.execZext8 d a s
  | .zext16 d a => Sys2Proof.Machine.execZext16 d a s
  | .bswap d a => Sys2Proof.Machine.execBswap d a s
  | .icmpEq p a b => Sys2Proof.Machine.execIcmpEq p a b s
  | .icmpNe p a b => Sys2Proof.Machine.execIcmpNe p a b s
  | .icmpLtS p a b => Sys2Proof.Machine.execIcmpLtS p a b s
  | .icmpLeS p a b => Sys2Proof.Machine.execIcmpLeS p a b s
  | .icmpLtU p a b => Sys2Proof.Machine.execIcmpLtU p a b s
  | .icmpLeU p a b => Sys2Proof.Machine.execIcmpLeU p a b s
  | .test p a b => Sys2Proof.Machine.execTest p a b s
  | .testz p a b => Sys2Proof.Machine.execTestz p a b s
  | .sel n d a b => Sys2Proof.Machine.execSel n d a b s
  | .dot2Sat d a b => Sys2Proof.Machine.execDot2Sat d a b s
  | .dot2Wrap d a b => Sys2Proof.Machine.execDot2Wrap d a b s
  | .add2Sat d a b => Sys2Proof.Machine.execAdd2Sat d a b s
  | .sub2Sat d a b => Sys2Proof.Machine.execSub2Sat d a b s
  | .mul2Lo d a b => Sys2Proof.Machine.execMul2Lo d a b s
  | .max2S d a b => Sys2Proof.Machine.execMax2S d a b s
  | .min2S d a b => Sys2Proof.Machine.execMin2S d a b s
  | .pack2 d a b => Sys2Proof.Machine.execPack2 d a b s
  | .dot4SSat d a b => Sys2Proof.Machine.execDot4SSat d a b s
  | .dot4USat d a b => Sys2Proof.Machine.execDot4USat d a b s
  | .add4USat d a b => Sys2Proof.Machine.execAdd4USat d a b s
  | .sub4USat d a b => Sys2Proof.Machine.execSub4USat d a b s
  | .shfl d a b => Sys2Proof.Machine.execShfl d a b s
  | .slidehDn d a b => Sys2Proof.Machine.execSlidehDn d a b s
  | .slidehUp d a b => Sys2Proof.Machine.execSlidehUp d a b s
  | .slidewDn d a b => Sys2Proof.Machine.execSlidewDn d a b s
  | .ballot d a => Sys2Proof.Machine.execBallot d a s
  | .redadd d a => Sys2Proof.Machine.execRedadd d a s
  | .redminS d a => Sys2Proof.Machine.execRedminS d a s
  | .redmaxS d a => Sys2Proof.Machine.execRedmaxS d a s
  | .fadd d a b => Sys2Proof.Machine.execFadd d a b s
  | .fsub d a b => Sys2Proof.Machine.execFsub d a b s
  | .fmul d a b => Sys2Proof.Machine.execFmul d a b s
  | .ffma d a b => Sys2Proof.Machine.execFfma d a b s
  | .fmin d a b => Sys2Proof.Machine.execFmin d a b s
  | .fmax d a b => Sys2Proof.Machine.execFmax d a b s
  | .fminn d a b => Sys2Proof.Machine.execFminn d a b s
  | .fmaxn d a b => Sys2Proof.Machine.execFmaxn d a b s
  | .fcmpEq p a b => Sys2Proof.Machine.execFcmpEq p a b s
  | .fcmpLt p a b => Sys2Proof.Machine.execFcmpLt p a b s
  | .fcmpLe p a b => Sys2Proof.Machine.execFcmpLe p a b s
  | .fcmpUnord p a b => Sys2Proof.Machine.execFcmpUnord p a b s
  | .dadd d a b => Sys2Proof.Machine.execDadd d a b s
  | .dsub d a b => Sys2Proof.Machine.execDsub d a b s
  | .dmul d a b => Sys2Proof.Machine.execDmul d a b s
  | .dfma d a b => Sys2Proof.Machine.execDfma d a b s
  | .badd2 d a b => Sys2Proof.Machine.execBadd2 d a b s
  | .bmul2 d a b => Sys2Proof.Machine.execBmul2 d a b s
  | .bfma2 d a b => Sys2Proof.Machine.execBfma2 d a b s
  | .bmax2 d a b => Sys2Proof.Machine.execBmax2 d a b s
  | .hadd2 d a b => Sys2Proof.Machine.execHadd2 d a b s
  | .hmul2 d a b => Sys2Proof.Machine.execHmul2 d a b s
  | .hfma2 d a b => Sys2Proof.Machine.execHfma2 d a b s
  | .hmax2 d a b => Sys2Proof.Machine.execHmax2 d a b s
  | .fdot2Bf d a b => Sys2Proof.Machine.execFdot2Bf d a b s
  | .fdot2H d a b => Sys2Proof.Machine.execFdot2H d a b s
  | .fdot4E4 d a b => Sys2Proof.Machine.execFdot4E4 d a b s
  | .fdot4E5 d a b => Sys2Proof.Machine.execFdot4E5 d a b s
  | .frcp d a => Sys2Proof.Machine.execFrcp d a s
  | .frsq d a => Sys2Proof.Machine.execFrsq d a s
  | .fsqrt d a => Sys2Proof.Machine.execFsqrt d a s
  | .fexp2 d a => Sys2Proof.Machine.execFexp2 d a s
  | .flog2 d a => Sys2Proof.Machine.execFlog2 d a s
  | .fsinpi d a => Sys2Proof.Machine.execFsinpi d a s
  | .fcospi d a => Sys2Proof.Machine.execFcospi d a s
  | .ftanh d a => Sys2Proof.Machine.execFtanh d a s
  | .fabs d a => Sys2Proof.Machine.execFabs d a s
  | .fneg d a => Sys2Proof.Machine.execFneg d a s
  | .ffloor d a => Sys2Proof.Machine.execFfloor d a s
  | .fceil d a => Sys2Proof.Machine.execFceil d a s
  | .ftrunc d a => Sys2Proof.Machine.execFtrunc d a s
  | .frint d a => Sys2Proof.Machine.execFrint d a s
  | .fclass d a => Sys2Proof.Machine.execFclass d a s
  | .dsqrt d a => Sys2Proof.Machine.execDsqrt d a s
  | .drcp d a => Sys2Proof.Machine.execDrcp d a s
  | .f2iS d a => Sys2Proof.Machine.execF2iS d a s
  | .f2iU d a => Sys2Proof.Machine.execF2iU d a s
  | .i2fS d a => Sys2Proof.Machine.execI2fS d a s
  | .i2fU d a => Sys2Proof.Machine.execI2fU d a s
  | .f2d d a => Sys2Proof.Machine.execF2d d a s
  | .d2f d a => Sys2Proof.Machine.execD2f d a s
  | .f2bf d a => Sys2Proof.Machine.execF2bf d a s
  | .bf2f d a => Sys2Proof.Machine.execBf2f d a s
  | .f2h d a => Sys2Proof.Machine.execF2h d a s
  | .h2f d a => Sys2Proof.Machine.execH2f d a s
  | .f2e4 d a => Sys2Proof.Machine.execF2e4 d a s
  | .f2e5 d a => Sys2Proof.Machine.execF2e5 d a s
  | .e42f d a => Sys2Proof.Machine.execE42f d a s
  | .e52f d a => Sys2Proof.Machine.execE52f d a s
  | .f2e2 d a => Sys2Proof.Machine.execF2e2 d a s
  | .e22f d a => Sys2Proof.Machine.execE22f d a s
  | .i2dS d a => Sys2Proof.Machine.execI2dS d a s
  | .i2dU d a => Sys2Proof.Machine.execI2dU d a s
  | .packbf d a b => Sys2Proof.Machine.execPackbf d a b s
  | .packh d a b => Sys2Proof.Machine.execPackh d a b s
  | .ins8E4 d a b => Sys2Proof.Machine.execIns8E4 d a b s
  | .ins4E2 d a b => Sys2Proof.Machine.execIns4E2 d a b s
  | .fscale d a b => Sys2Proof.Machine.execFscale d a b s
  | .fsignc d a b => Sys2Proof.Machine.execFsignc d a b s
  | .isatS16 d a => Sys2Proof.Machine.execIsatS16 d a s
  | .movi d imm => Sys2Proof.Machine.execMovi d imm s
  | .movhi d imm => Sys2Proof.Machine.execMovhi d imm s
  | .addi d imm => Sys2Proof.Machine.execAddi d imm s
  | .muli d imm => Sys2Proof.Machine.execMuli d imm s
  | .mfsr d r => Sys2Proof.Machine.execMfsr d r s
  | .mtsr y r => Sys2Proof.Machine.execMtsr y r s
  | .ifP p n => Sys2Proof.Machine.execIfP p n s
  | .elseP => Sys2Proof.Machine.execElseP s
  | .endif => Sys2Proof.Machine.execEndif s
  | .ld d b sc o w => Sys2Proof.Machine.execLd d b sc o w s
  | .ldBc d b sc o w => Sys2Proof.Machine.execLdBc d b sc o w s
  | .pref b sc w => Sys2Proof.Machine.execPref b sc w s
  | .st d b sc o w => Sys2Proof.Machine.execSt d b sc o w s
  | .stNt d b sc o w => Sys2Proof.Machine.execStNt d b sc o w s
  | .aadd d b sc o w nr => Sys2Proof.Machine.execAadd d b sc o w nr s
  | .aand d b sc o w nr => Sys2Proof.Machine.execAand d b sc o w nr s
  | .aor d b sc o w nr => Sys2Proof.Machine.execAor d b sc o w nr s
  | .axor d b sc o w nr => Sys2Proof.Machine.execAxor d b sc o w nr s
  | .aminS d b sc o w nr => Sys2Proof.Machine.execAminS d b sc o w nr s
  | .amaxS d b sc o w nr => Sys2Proof.Machine.execAmaxS d b sc o w nr s
  | .aminU d b sc o w nr => Sys2Proof.Machine.execAminU d b sc o w nr s
  | .amaxU d b sc o w nr => Sys2Proof.Machine.execAmaxU d b sc o w nr s
  | .axchg d b sc o w nr => Sys2Proof.Machine.execAxchg d b sc o w nr s
  | .acas d b sc o w nr => Sys2Proof.Machine.execAcas d b sc o w nr s
  | .afaddF32 d b sc o nr => Sys2Proof.Machine.execAfaddF32 d b sc o nr s
  | .afaddBf2 d b sc o nr => Sys2Proof.Machine.execAfaddBf2 d b sc o nr s
  | .acpG2s t src dst z arv => Sys2Proof.Machine.execAcpG2s t src dst z arv s
  | .acpS2g t src dst z arv => Sys2Proof.Machine.execAcpS2g t src dst z arv s
  | .acpS2s t src dst z arv => Sys2Proof.Machine.execAcpS2s t src dst z arv s
  | .ldx d b sc o w c => Sys2Proof.Machine.execLdx d b sc o w c s
  | .lddesc d b sc o => Sys2Proof.Machine.execLddesc d b sc o s
  | .stdesc d b sc o => Sys2Proof.Machine.execStdesc d b sc o s
  | .fence sc o => Sys2Proof.Machine.execFence sc o s
  | .xfence wm rm => Sys2Proof.Machine.execXfence wm rm s
  | .waitaddr d b sc o w => Sys2Proof.Machine.execWaitaddr d b sc o w s
  | .braAny p n o => Sys2Proof.Machine.execBraAny p n o s
  | .braAll p n o => Sys2Proof.Machine.execBraAll p n o s
  | .call o => Sys2Proof.Machine.execCall o s
  | .jmp o => Sys2Proof.Machine.execJmp o s
  | .ret => Sys2Proof.Machine.execRet s
  | .brx a => Sys2Proof.Machine.execBrx a s
  | .merge imm => Sys2Proof.Machine.execMerge imm s
  | .yield => Sys2Proof.Machine.execYield s
  | .bar y => Sys2Proof.Machine.execBar y s
  | .qbar y => Sys2Proof.Machine.execQbar y s
  | .arrive a c sc => Sys2Proof.Machine.execArrive a c sc s
  | .waitcnt l y c t => Sys2Proof.Machine.execWaitcnt l y c t s
  | .sleepuntil c => Sys2Proof.Machine.execSleepuntil c s
  | .sleepuntilBar c b => Sys2Proof.Machine.execSleepuntilBar c b s
  | .region => Sys2Proof.Machine.execRegion s
  | .trapOp c => Sys2Proof.Machine.execTrapOp c s
  | .exit => Sys2Proof.Machine.execExit s
  | .mxloop c => Sys2Proof.Machine.execMxloop c s
  | .mxldb w y c => Sys2Proof.Machine.execMxldb w y c s
  | .mxst t d => Sys2Proof.Machine.execMxst t d s
  | .mxldt t y => Sys2Proof.Machine.execMxldt t y s
  | .scstart h p a sel res => Sys2Proof.Machine.execScstart h p a sel res s
  | .scpoll d h => Sys2Proof.Machine.execScpoll d h s
  | .rflush r => Sys2Proof.Machine.execRflush r s
  | .sccancel h => Sys2Proof.Machine.execSccancel h s
  | .eret y => Sys2Proof.Machine.execEret y s
  | .rdsl d y => Sys2Proof.Machine.execRdsl d y s
  | .wrsl y r => Sys2Proof.Machine.execWrsl y r s
  | .foldctl d r => Sys2Proof.Machine.execFoldctl d r s
  | .hintImm imm => Sys2Proof.Machine.execHintImm imm s
  | .hintGuard p n l => Sys2Proof.Machine.execHintGuard p n l s
  | .hintMod r y la lb => Sys2Proof.Machine.execHintMod r y la lb s
  | .hintSched y => Sys2Proof.Machine.execHintSched y s
  | .kmovi d imm => Sys2Proof.Machine.execKmovi d imm s
  | .kmovhi d imm => Sys2Proof.Machine.execKmovhi d imm s
  | .kadd d a b => Sys2Proof.Machine.execKadd d a b s
  | .ksub d a b => Sys2Proof.Machine.execKsub d a b s
  | .kmul d a b => Sys2Proof.Machine.execKmul d a b s
  | .kshl d a b => Sys2Proof.Machine.execKshl d a b s
  | .kshr d a b => Sys2Proof.Machine.execKshr d a b s
  | .kand d a b => Sys2Proof.Machine.execKand d a b s
  | .kor d a b => Sys2Proof.Machine.execKor d a b s
  | .kaddi d a imm => Sys2Proof.Machine.execKaddi d a imm s
  | .kcmp d a b c => Sys2Proof.Machine.execKcmp d a b c s
  | .kld d a e => Sys2Proof.Machine.execKld d a e s
  | .kst a b e => Sys2Proof.Machine.execKst a b e s
  | .kbr o => Sys2Proof.Machine.execKbr o s
  | .kbrc d o => Sys2Proof.Machine.execKbrc d o s
  | .kloop n a imm => Sys2Proof.Machine.execKloop n a imm s
  | .kendloop n => Sys2Proof.Machine.execKendloop n s
  | .gset n a => Sys2Proof.Machine.execGset n a s
  | .gstep d n x => Sys2Proof.Machine.execGstep d n x s
  | .gaddr d n => Sys2Proof.Machine.execGaddr d n s
  | .line d a n => Sys2Proof.Machine.execLine d a n s
  | .gather d a g n => Sys2Proof.Machine.execGather d a g n s
  | .scatter g a b n => Sys2Proof.Machine.execScatter g a b n s
  | .reduce d a op n => Sys2Proof.Machine.execReduce d a op n s
  | .convert gd gs c => Sys2Proof.Machine.execConvert gd gs c s
  | .scribeArrive a b => Sys2Proof.Machine.execScribeArrive a b s
  | .waitb a b => Sys2Proof.Machine.execWaitb a b s
  | .sfence wm rm => Sys2Proof.Machine.execSfence wm rm s
  | .signal a b sc => Sys2Proof.Machine.execSignal a b sc s
  | .scribeRegion => Sys2Proof.Machine.execScribeRegion s
  | .scribeEnd => Sys2Proof.Machine.execScribeEnd s
  | .scribeProgramEnd n ctx => Sys2Proof.Machine.execScribeProgramEnd n ctx s
  | .scribeProgramStart n => Sys2Proof.Machine.execScribeProgramStart n s
  | .lineOperation n ctx => Sys2Proof.Machine.execLineOperation n ctx s
  | .scribeLong => Sys2Proof.Machine.execScribeLong s
  | .waitbWake n ctx => Sys2Proof.Machine.execWaitbWake n ctx s
  | .anvilGrant n => Sys2Proof.Machine.execAnvilGrant n s
  | .anvilPassCommit n => Sys2Proof.Machine.execAnvilPassCommit n s
  | .anvilRequestComplete n => Sys2Proof.Machine.execAnvilRequestComplete n s
  | .loadFill id => Sys2Proof.Machine.execLoadFill id s
  | .storePerformed id => Sys2Proof.Machine.execStorePerformed id s
  | .acpComplete id => Sys2Proof.Machine.execAcpComplete id s
  | .waitaddrWake k => Sys2Proof.Machine.execWaitaddrWake k s
  | .sleepuntilWake k => Sys2Proof.Machine.execSleepuntilWake k s
  | .trapInvocation core => Sys2Proof.Machine.execTrapInvocation core s
  | .streamDeadlock k => Sys2Proof.Machine.execStreamDeadlock k s
  | .barMismatch t => Sys2Proof.Machine.execBarMismatch t s
  | .watchdog t => Sys2Proof.Machine.execWatchdog t s
  | .pageWalk id => Sys2Proof.Machine.execPageWalk id s
  | .pageRequest id => Sys2Proof.Machine.execPageRequest id s
  | .pageRequestTimeout id => Sys2Proof.Machine.execPageRequestTimeout id s
  | .registerRefill k acc reg => Sys2Proof.Machine.execRegisterRefill k acc reg s
  | .scratchPageReturn t page => Sys2Proof.Machine.execScratchPageReturn t page s
  | .registerSwapOut k => Sys2Proof.Machine.execRegisterSwapOut k s
  | .registerSwapIn k => Sys2Proof.Machine.execRegisterSwapIn k s
  | .registerAgeing k acc => Sys2Proof.Machine.execRegisterAgeing k acc s
  | .unitRemap t => Sys2Proof.Machine.execUnitRemap t s
  | .residencyExpansion core => Sys2Proof.Machine.execResidencyExpansion core s
  | .foldRequest core req => Sys2Proof.Machine.execFoldRequest core req s
  | .teamPlacement l => Sys2Proof.Machine.execTeamPlacement l s
  | .quantumExpiry c cluster => Sys2Proof.Machine.execQuantumExpiry c cluster s
  | .forcedEviction q => Sys2Proof.Machine.execForcedEviction q s
  | .quireSave q => Sys2Proof.Machine.execQuireSave q s
  | .quireResume q => Sys2Proof.Machine.execQuireResume q s
  | .killAndReset l => Sys2Proof.Machine.execKillAndReset l s
  | .nopPacket p => Sys2Proof.Machine.execNopPacket p s
  | .launchPacket p => Sys2Proof.Machine.execLaunchPacket p s
  | .waitPacket p => Sys2Proof.Machine.execWaitPacket p s
  | .waitSatisfied p => Sys2Proof.Machine.execWaitSatisfied p s
  | .writePacket p => Sys2Proof.Machine.execWritePacket p s
  | .contextRecordConfig p => Sys2Proof.Machine.execContextRecordConfig p s
  | .vdevRecordConfig p => Sys2Proof.Machine.execVdevRecordConfig p s
  | .ringRecordConfig p => Sys2Proof.Machine.execRingRecordConfig p s
  | .partitionRecordConfig p => Sys2Proof.Machine.execPartitionRecordConfig p s
  | .destinationEntryConfig p => Sys2Proof.Machine.execDestinationEntryConfig p s
  | .fabricRecordConfig p => Sys2Proof.Machine.execFabricRecordConfig p s
  | .msixEntriesConfig p => Sys2Proof.Machine.execMsixEntriesConfig p s
  | .pageResponsePacket p => Sys2Proof.Machine.execPageResponsePacket p s
  | .invalidatePacket p => Sys2Proof.Machine.execInvalidatePacket p s
  | .invalidationComplete p => Sys2Proof.Machine.execInvalidationComplete p s
  | .invalidPacket p => Sys2Proof.Machine.execInvalidPacket p s
  | .ringPacketRead v ring => Sys2Proof.Machine.execRingPacketRead v ring s
  | .packetCompletion p => Sys2Proof.Machine.execPacketCompletion p s
  | .coalescingTimeout v vec => Sys2Proof.Machine.execCoalescingTimeout v vec s
  | .doorbellTail v ring val => Sys2Proof.Machine.execDoorbellTail v ring val s
  | .prqcons v val => Sys2Proof.Machine.execPrqcons v val s
  | .evcons val => Sys2Proof.Machine.execEvcons val s
  | .adminRingRecord rec => Sys2Proof.Machine.execAdminRingRecord rec s
  | .registerWrite w => Sys2Proof.Machine.execRegisterWrite w s
  | .tokenRefill => Sys2Proof.Machine.execTokenRefill s
  | .flitReceive port f => Sys2Proof.Machine.execFlitReceive port f s
  | .ackReceive node tc ack => Sys2Proof.Machine.execAckReceive node tc ack s
  | .remoteResponse id r => Sys2Proof.Machine.execRemoteResponse id r s
  | .linkDown port => Sys2Proof.Machine.execLinkDown port s
  | .ackTimeout part node tc => Sys2Proof.Machine.execAckTimeout part node tc s
  | .routeWaitTimeout part node tc => Sys2Proof.Machine.execRouteWaitTimeout part node tc s
  | .powerOn plan => Sys2Proof.Machine.execPowerOn plan s
  | .coldStart plan => Sys2Proof.Machine.execColdStart plan s
  | .warmStart plan => Sys2Proof.Machine.execWarmStart plan s
  | .unitReady bit => Sys2Proof.Machine.execUnitReady bit s
  | .retrain val => Sys2Proof.Machine.execRetrain val s
  | .retrainingStart stack => Sys2Proof.Machine.execRetrainingStart stack s
  | .retrainingEnd stack => Sys2Proof.Machine.execRetrainingEnd stack s
  | .marginResolve plan => Sys2Proof.Machine.execMarginResolve plan s
  | .fetchRange => Sys2Proof.Machine.execFetchRange s
  | .illegalOp => Sys2Proof.Machine.execIllegalOp s
  | .scribeIllegal => Sys2Proof.Machine.execScribeIllegal s
  | .uncorrectableError e => Sys2Proof.Machine.execUncorrectableError e s
  | .powerLoss torn => Sys2Proof.Machine.execPowerLoss torn s
  | .linkUp port => Sys2Proof.Machine.execLinkUp port s
  | .powerLimit clusters => Sys2Proof.Machine.execPowerLimit clusters s
  | .drainBoundExpiry q => Sys2Proof.Machine.execDrainBoundExpiry q s

end Sys2Proof.Machine
end

