-- ==== Sys2Proof/Machine/Auto.lean ====
section
/-! DEFINITION. What moves next when the schedule is empty (log entry 1): an event that is due and takes place, or an
issue. The manual fixes the arbitration among issuing units (R33, R341) and leaves the order of the events open. -/

namespace Sys2Proof.Machine

/-- An event as the meaning that takes place. -/
abbrev Happening := State → Host.Outcome State Fault Refusal

/-- Events of accesses in flight, of waits and of the fabric. -/
def autoAccess (s : State) : List Happening :=
  (s.fabric.reqs.filterMap fun r => if r.doomed.isSome then some (execRemoteResponse r.id .failure) else none)
  ++ (s.flights.flatMap fun f => [execLoadFill f.id, execStorePerformed f.id, execAcpComplete f.id])
  ++ (s.slices.filterMap fun x => match x.2.a.wait with
    | .addr _ _ _ _ _ => some (execWaitaddrWake x.1)
    | .sleep _ _ _ _ => some (execSleepuntilWake x.1)
    | _ => none)
  ++ (s.fabric.tx.flatMap fun x =>
    [execAckTimeout (x.2.entry / 256) (x.1 / 4) (x.1 % 4), execRouteWaitTimeout (x.2.entry / 256) (x.1 / 4) (x.1 % 4)])

/-- Events of slices, teams and cores. -/
def autoCores (s : State) : List Happening :=
  (s.cores.filterMap fun c => if c.2.invoc || c.2.pend.isEmpty then none else some (execTrapInvocation c.1))
  ++ (s.teams.flatMap fun t => [execWatchdog t.1, execBarMismatch t.1])
  ++ (s.slices.flatMap fun x =>
    [execStreamDeadlock x.1, execRegisterAgeing x.1 false, execRegisterAgeing x.1 true, execRegisterSwapIn x.1]
    ++ x.2.c.want.map (execRegisterRefill x.1 false) ++ x.2.a.want.map (execRegisterRefill x.1 true))
  ++ (s.teams.flatMap fun t => match t.2 with
    | some team => if s.flights.isEmpty && !(sliceNums team).any (fun j => (sliceAt s (32 * t.1 + j)).a.stall) then []
        else team.moved.map (execScratchPageReturn t.1)
    | none => [])

/-- Events of translation, anvils and scribes. -/
def autoUnits (s : State) : List Happening :=
  (s.walks.map fun w => execPageWalk w.id)
  ++ (s.pageReqs.flatMap fun r => [execPageRequest r.id, execPageRequestTimeout r.id])
  ++ (s.anvils.flatMap fun v => (v.2.resv.flatMap fun r => [execAnvilPassCommit r.id, execAnvilRequestComplete r.id])
    ++ [execAnvilGrant v.1])
  ++ (s.scribes.flatMap fun b => (ctxNums.flatMap fun x =>
      [execLineOperation b.1 x, execWaitbWake b.1 x, execScribeProgramEnd b.1 x])
    ++ [execScribeProgramStart b.1])

/-- Events of one packet. -/
def autoPacket (id : Nat) : List Happening :=
  [execNopPacket, execLaunchPacket, execWaitPacket, execWaitSatisfied, execWritePacket, execContextRecordConfig,
   execVdevRecordConfig, execRingRecordConfig, execPartitionRecordConfig, execDestinationEntryConfig,
   execFabricRecordConfig, execMsixEntriesConfig, execPageResponsePacket, execInvalidatePacket,
   execInvalidationComplete, execInvalidPacket, execPacketCompletion].map fun f => f id

/-- Events of the command complex and the dispatcher. -/
def autoComplex (s : State) : List Happening :=
  (s.packets.flatMap fun p => autoPacket p.id)
  ++ (s.vdevs.flatMap fun v => (v.2.rings.map fun r => execRingPacketRead v.1 r.1)
    ++ v.2.coal.map fun e => execCoalescingTimeout v.1 e.1)
  ++ (s.quires.flatMap fun q =>
    [execForcedEviction q.1, execDrainBoundExpiry q.1, execQuireSave q.1, execQuireResume q.1])
  ++ (s.launches.flatMap fun l => [execKillAndReset l.1, execTeamPlacement l.1])
  ++ (s.launches.flatMap fun l => match l.2 with
    | some x => ((s.quires.filterMap fun q => q.2.map fun y => y.cluster).eraseDups).map (execQuantumExpiry x.ctx)
    | none => [])
  ++ (((s.quires.filterMap fun q => q.2.map fun y => y.cluster).eraseDups).map autoClimb)
  ++ [execTokenRefill]

/-- Events of bring-up. -/
def autoBoot (s : State) : List Happening :=
  ((List.range 24).filterMap fun n => if s.boot.retrain.getLsbD n && !s.boot.training.getLsbD n
    then some (execRetrainingStart n) else none)
  ++ ((List.range 24).filterMap fun n => if s.boot.training.getLsbD n then some (execRetrainingEnd n) else none)
  ++ [execMarginResolve (solvedPlan s)]
  ++ (((List.range 120) ++ [146, 147]).filterMap fun b =>
    if s.boot.ready.getLsbD b || !mayBeReady s b then none else some (execUnitReady b))

/-- Every event that may be due. -/
def autoEvents (s : State) : List Happening :=
  autoAccess s ++ autoCores s ++ autoUnits s ++ autoComplex s ++ autoBoot s

/-- The remapping of each team's units (R39), which comes after the other events. -/
def autoRemaps (s : State) : List Happening := s.teams.map fun t => execUnitRemap t.1

/-- The state after the first event of a list that takes place: the first whose meaning changes the state. -/
def firstEvent (s : State) : List Happening → Option State
  | [] => none
  | f :: fs =>
    match f s with
    | .next t => if t = s then firstEvent s fs else some t
    | _ => firstEvent s fs

/-- One turn of a unit. -/
def runIssue (exec : Instr → Happening) (s : State) (u : Issuer) : Host.Outcome State Fault Refusal :=
  if !unitPresent s u then .fault .noAgent
  else if !unitIssues s u then .next (endMove s)
  else
    match fetchUnit s u with
    | .instr i => mapNext (afterIssue exec s u (strokeCycles i)) (onUnit (exec i) s u)
    | .unused r => mapNext (afterIssue exec s u 1) (onUnit (unusedOperand r) s u)
    | .range => mapNext (afterIssue exec s u 1) (onUnit scribeOutside s u)
    | .miss page => .next (endMove (missFetch s u page))
    | .far va t => .next (endMove (farFetch s u va t))
    | .wait => .next (endMove s)

/-- One turn that the schedule names. -/
def runTurn (exec : Instr → Happening) (s : State) : Turn → Host.Outcome State Fault Refusal
  | .event i => mapNext (afterEvent exec s) (exec i s)
  | .issue u => runIssue exec s u

/-- What moves by itself: events and issues take turns, and either goes where the other has nothing. -/
def runAuto (exec : Instr → Happening) (s : State) : Host.Outcome State Fault Refusal :=
  let s0 := startMove s ⟨1, .issue .idle, [], [], [], [], []⟩ []
  let u := autoIssue s0
  let issue : Unit → Host.Outcome State Fault Refusal := fun _ =>
    runIssue exec (countWatchdogs s0 s.clock.toNat 1 (trapTakes s0 u)) u
  let s1 := countWatchdogs s0 s.clock.toNat 1 none
  if s.clock.toNat % 2 = 1 && u != .idle then issue ()
  else match firstEvent s1 (autoEvents s1) with
  | some t => .next (afterEvent exec s1 t)
  | none =>
    match firstEvent s1 (autoRemaps s1) with
    | some t => .next (afterEvent exec s1 t)
    | none => issue ()

/-- Whether an event is power-on. -/
def isPowerOn : Turn → Bool
  | .event (.powerOn _) => true
  | _ => false

/-- One move. Without power only power-on acts, and CLOCK stands still (R403, R407). -/
def runMove (exec : Instr → Happening) (s : State) : Host.Outcome State Fault Refusal :=
  match s.sched with
  | m :: rest =>
    if s.boot.powered || isPowerOn m.turn then runTurn exec (beginMove s m rest) m.turn
    else .next { s with sched := rest }
  | [] =>
    if s.boot.powered then runAuto exec s else .next s

end Sys2Proof.Machine
end

