-- ==== Sys2Proof/Machine/Load.lean ====
section
/-! DEFINITION. How an instruction comes to be the next one that step fetches (log entry 27): a launch with one running
team on core 0, its image translated, and a unit that may run the instruction named by the schedule. -/

namespace Sys2Proof.Machine

/-- The virtual address of the image, and the offset in it of the placed instruction. -/
def loadVa : Nat := 0x10000
def loadOff : Nat := 64

/-- The unit of the placed program that may run a word, by its leading byte (R170): compute, access or trap context for
a lane word, a scribe context for a word that only a scribe has. -/
def loadUnit (w : Word32) : Issuer :=
  match decodeLane w with
  | .ok _ =>
    let m := (w.extractLsb' 24 8).toNat
    if 0xF8 ≤ m && m < 0xFC then .trap 0
    else if (0xC0 ≤ m && m < 0xE0) || m = 0xEB || m = 0xEC || (0xF0 ≤ m && m < 0xF8) then .access 0
    else .compute 0
  | .error _ => .scribe 0 0

/-- The header of the image (R154): MAGIC, VERSION 1, S = 1, V = 128, A = 64, 32 barrier slots, 4096 bytes of scratch,
quires of 1, and one section of 64 bytes at offset 64 that serves as access code, compute code and scribe programs. -/
def loadHeader : BitVec 512 :=
  0x40000000400000004000000040000000400000004000000101000010002040008000010001494b5044

/-- The launch of the placed program: one team. -/
def loadLaunch : Launch where
  ctx := 0
  packet := 0
  img := BitVec.ofNat 64 loadVa
  hdr := loadHeader
  gx := 1
  gy := 1
  gz := 1
  next := 1
  live := 1
  checked := false
  lastCluster := 1
  lastCore := []
  status := 0
  ended := false
  quantum := []
  far := []
  image := none

/-- The team of the placed program: one slice with every register, at full residency. -/
def loadTeam : Team where
  launch := 0
  ctx := 0
  home := 0
  s := 1
  v := 128
  a := 64
  base := 0
  size := 4096
  bars := 32
  tx := 0
  ty := 0
  tz := 0
  quire := 0
  qsize := 1
  qrank := 0
  level := 0
  epoch := 0
  pin := 0
  wd := 0
  wdClock := 0
  mapped := [(0, 0)]
  rr := 0
  moved := []
  order := 0
  phase := .running
  checked := false
  save := 0
  spill := []
  spillBad := []
  headerDue := false

/-- The slice of the placed program at its start (R23). -/
def loadSlice : Slice :=
  { Slice.zero with
    c := { Stream.zero with pc := BitVec.ofNat 64 loadOff }
    a := { Stream.zero with pc := BitVec.ofNat 64 loadOff } }

/-- The trap context that serves the placed team, for a privileged word (R320). -/
def loadTrap : Slice :=
  { Slice.zero with a := { Stream.zero with pc := BitVec.ofNat 64 (loadVa + loadOff), mask := 1 } }

/-- The scribe program for a scribe word (R275). -/
def loadProg : Prog where
  seq := 0
  vq := 0
  owner := 0
  core := 0
  ctx := 0
  launch := 0
  start := loadOff - 4
  args := 0
  res := false
  promise := 0
  fpmode := 0
  regs := ⟨loadOff, [], [], []⟩
  ck := ⟨loadOff, [], [], []⟩
  count := 0
  rolled := false
  data := none
  waitb := none
  ending := false
  cancel := false
  failed := none
  mark := 0
  park := none
  inbox := []
  remote := 0
  olds := []

/-- The context place of the placed program. -/
def loadPlace : CtxPlace := { CtxPlace.zero with ctx := some 0, wdlimit := 2 ^ 24 }

/-- The leaf that maps the image's page to the same location in HBM: present, a leaf, writable, under key id 0. -/
def loadLeaf : TlbLeaf := ⟨0, 1, 16, 0x17 + 0x10000⟩

/-- The partition of the placed program: valid, with cluster 0 (R365). -/
def loadPartition : BitVec 512 := 1 + 2 ^ 64

/-- The READY bits that the placed program needs: stack 0, cluster 0, the command complex, the keys. -/
def loadReady : BitVec 256 := 0xc000000000000000000000000000001000001

/-- Place a word as the next instruction that step fetches. -/
def placeWord (s : State) (w : Word32) : State :=
  let u := loadUnit w
  let trap := match u with
    | .trap _ => true
    | _ => false
  let s := { s with
    sched := [⟨0, .issue u, [], [], [], [], []⟩]
    mem := writeBytes s.mem (loadVa + loadOff) 4 w.toNat
    keyed := aput 0 s.keyed ((loadVa + loadOff) / 64) 0
    tlb := loadLeaf :: s.tlb
    throttled := []
    partitions := aput 0 s.partitions 0 loadPartition
    boot := { s.boot with ready := s.boot.ready ||| loadReady, training := 0, powered := true } }
  let s := putLaunch s 0 (some loadLaunch)
  let s := putQuire s 0 (some ⟨0, 0, 1, [0], .running, false, none⟩)
  let s := putTeam s 0 (some loadTeam)
  let s := putCore s 0 { Core.zero with places := [(0, loadPlace)], invoc := trap, theld := if trap then 1 else 0 }
  let s := putSlice s 0 { loadSlice with held := trap }
  let s := putSlice s trapBase (if trap then loadTrap else Slice.zero)
  putProg s 0 0 (match u with
    | .scribe _ _ => some loadProg
    | _ => none)

end Sys2Proof.Machine
end

