-- ==== Sys2Proof/Machine/Step.lean ====
section
/-! DEFINITION. One step of the machine: one move of the schedule, or of the machine itself (log entry 1), with the
meaning of each instruction from the dispatch. -/

namespace Sys2Proof.Machine

/-- One step. -/
def step (s : State) : Host.Outcome State Fault Refusal := runMove exec s

/-- The state with an instruction placed where step fetches its next one (log entry 27). A word has 32 bits, whatever
part of them the table gives. -/
def State.withFetchWord (s : State) (_nbits w : Nat) : State := placeWord s (BitVec.ofNat 32 w)

end Sys2Proof.Machine
end

