-- ==== Sys2Proof/Safety.lean ====
section
/-! DEFINITION. What the statements mean by a safe step, by a slice that issues alone, and by a well-kept state. -/

namespace Sys2Proof.Safety

open Sys2Proof.Machine

/-- An instruction or event answers a next state. -/
def Completes (i : Instr) (s : State) : Prop := ∃ t, exec i s = .next t

/-- A step answers a next state. -/
def StepsOn (s : State) : Prop := ∃ t, step s = .next t

/-- Memory and the descriptors are in canonical form: addresses strictly rising, no byte equal to what an unlisted
address reads as. -/
def MemoryKept (s : State) : Prop := Memory.wf s.mem = true ∧ awf (0 : BitVec 16) s.desc = true

/-- The blocks that n bytes touch read under a key id as they were written (R356). -/
def Plain (s : State) (key loc n : Nat) : Prop := ∀ b ∈ keyBlocks loc n, plainUnder s key b = true

/-- The issuer that a key and a stream name: a slice's compute or access stream, or a core's trap context. -/
def issuerOf (k : Nat) (acc : Bool) : Issuer :=
  if acc then (if trapBase ≤ k then .trap (k - trapBase) else .access k) else .compute k

/-- One stream issues an instruction on its own account: the environment `e` describes it, a compute stream issues
without other slices of its unit, and checked mode meets no mismatch (R17, R29, R333). -/
structure Solo (s : State) (k : Nat) (acc : Bool) (e : Env) : Prop where
  issuer : s.issuer = issuerOf k acc
  env : envOf s k acc = some e
  low : acc = false → k < trapBase
  alone : acc = false → issuing s k = [k % 32] ∧ (sliceAt s k).unit = k % 32
  sound : acc = false → mismatches s k = []

/-- The state after such an issue: the slice is `sl`, a compute issue counts for its mapped unit (R39) and writes its
s registers (R31), and a PINMASK write goes to the team (R43). Nothing else changes. -/
def issued (s : State) (k : Nat) (acc : Bool) (sl : Slice) (sw : SWrites) (pin : Option Word32) : State :=
  putPin (if acc then putSlice s k sl else putSlice (countUnit s (k / 32) (k % 32)) k (putS sw sl)) (k / 32) pin

/-! Arithmetic instructions. -/

/-- The operands of an arithmetic instruction are readable (R176, R42, R60, R230, R334): legal for the stream, in range,
not diverged, resident, without pending status words or stored errors, with entries to pop and room to push. Reading
them gives `vals`, in the order a, b, d, and leaves the slice `sl1`. -/
structure AluReady (m : AluForm) (d a b : Nat) (e : Env) (sl : Slice) (vals : List (Quad Nat)) (sl1 : Slice) : Prop where
  stream : streamFault m.streams e = none
  pred : m.pred = true → d ≤ 7
  mode : e.acc = false → m.rounds = .byMode → modRm (streamOf e.acc sl).hint ≠ some .rna
  legal : checkOperands e sl (actLanes (streamOf e.acc sl)) (aluOperands m d a b) false = none
  free : stallOperands e sl (actLanes (streamOf e.acc sl)) (aluOperands m d a b) = none
  good : aluBad e m sl (actLanes (streamOf e.acc sl)) d a b = 0
  read : readSrcs e (actLanes (streamOf e.acc sl)) (aluOperands m d a b).srcs sl = .got vals sl1

/-- The slice that an arithmetic instruction leaves, with the s registers it writes: the results go to the destination
or the predicate in the acting lanes, a compute stream collects their flags, and the instruction ends (R178, R200). -/
def aluEnd (m : AluForm) (d a b : Nat) (e : Env) (sl sl1 : Slice) (out : Nat → LaneOut) : Slice × SWrites :=
  let act := actLanes (streamOf e.acc sl)
  let r := if m.pred then (writePred e.acc act d (fun l => (out l).val != 0) sl1, [])
    else writeDst e act (kindWide m.d) d (qof fun l => (out l).val) sl1
  (finishLane e sl act (aluOperands m d a b) (some (kindWide m.a, a)) (m.b.map fun k => (kindWide k, b))
    (if e.acc then r.1 else putFlags act out r.1), r.2)

/-- An instruction with readable operands completes with the results that `op` gives for each lane. -/
def GivesAlu (i : Code → Code → Code → Instr) (m : AluForm) (op : OpIn → Nat → LaneOut) : Prop :=
  ∀ (s : State) (k : Nat) (acc : Bool) (e : Env) (d a b : Code) (vals : List (Quad Nat)) (sl1 : Slice),
    Solo s k acc e → AluReady m d.toNat a.toNat b.toNat e (sliceAt s k) vals sl1 →
    exec (i d a b) s = .next
      (let r := aluEnd m d.toNat a.toNat b.toNat e (sliceAt s k) sl1
        (op (opIn e m (sliceAt s k) (actLanes (streamOf e.acc (sliceAt s k))) vals))
       issued s k acc r.1 r.2 none)

/-- The same for an instruction with one source. -/
def GivesUnary (i : Code → Code → Instr) (m : AluForm) (op : OpIn → Nat → LaneOut) : Prop :=
  ∀ (s : State) (k : Nat) (acc : Bool) (e : Env) (d a : Code) (vals : List (Quad Nat)) (sl1 : Slice),
    Solo s k acc e → AluReady m d.toNat a.toNat 0 e (sliceAt s k) vals sl1 →
    exec (i d a) s = .next
      (let r := aluEnd m d.toNat a.toNat 0 e (sliceAt s k) sl1
        (op (opIn e m (sliceAt s k) (actLanes (streamOf e.acc (sliceAt s k))) vals))
       issued s k acc r.1 r.2 none)

/-- Integer instructions of two sources with the result in W bits of a and b (R183, R184, R185). -/
def intTable : List ((Code → Code → Code → Instr) × (Nat → Nat → Nat → Nat)) :=
  [(.iadd, fun _ x y => x + y),
   (.isub, fun w x y => wrap w ((x : Int) - y)),
   (.iminS, fun w x y => if sval w y < sval w x then y else x),
   (.imaxS, fun w x y => if sval w y ≤ sval w x then x else y),
   (.imul, fun _ x y => x * y),
   (.imulhS, fun w x y => wrap w (sval w x * sval w y / 2 ^ w)),
   (.imulhU, fun w x y => x * y / 2 ^ w),
   (.iminU, fun _ x y => if x ≤ y then x else y),
   (.imaxU, fun _ x y => if x ≤ y then y else x),
   (.iabsdU, fun _ x y => if x ≤ y then y - x else x - y),
   (.iavgU, fun _ x y => (x + y + 1) / 2),
   (.band, fun _ x y => x &&& y),
   (.bor, fun _ x y => x ||| y),
   (.bxor, fun _ x y => x ^^^ y),
   (.bandn, fun w x y => x &&& (2 ^ w - 1 - y % 2 ^ w)),
   (.shl, fun w x y => x * 2 ^ (y % w)),
   (.shrU, fun w x y => x / 2 ^ (y % w)),
   (.shrS, fun w x y => wrap w (sval w x / 2 ^ (y % w))),
   (.shrrS, fun w x y => if y % w = 0 then x else wrap w ((sval w x + 2 ^ (y % w - 1)) / 2 ^ (y % w))),
   (.rotl, fun w x y => x * 2 ^ (y % w) + x / 2 ^ (w - y % w))]

/-- A result in the W bits of the stream. -/
def inWidth (f : Nat → Nat → Nat → Nat) (i : OpIn) (l : Nat) : LaneOut :=
  plainOut (f i.w (qget i.a l) (qget i.b l) % 2 ^ i.w)

/-- Functions of one source (R188). -/
def unaryTable : List ((Code → Code → Instr) × (Nat → Nat → Nat)) :=
  [(.mov, fun _ x => x),
   (.bnot, fun w x => 2 ^ w - 1 - x % 2 ^ w),
   (.ineg, fun w x => wrap w (0 - (x : Int))),
   (.iabs, fun w x => (sval w x).natAbs),
   (.popc, fun w x => (List.range w).countP fun i => x.testBit i),
   (.clz, fun w x => w - bitLen x),
   (.ctz, fun w x => ((List.range w).takeWhile fun i => !x.testBit i).length),
   (.brev, fun w x => ((List.range w).map fun i => (x.testBit i).toNat * 2 ^ (w - 1 - i)).sum),
   (.sext8, fun w x => wrap w (sval 8 x)),
   (.sext16, fun w x => wrap w (sval 16 x)),
   (.zext8, fun _ x => x % 256),
   (.zext16, fun _ x => x % 65536),
   (.bswap, fun w x => ((List.range (w / 8)).map fun i => x / 256 ^ i % 256 * 256 ^ (w / 8 - 1 - i)).sum)]

/-- Compares of two integers (R189). -/
def compareTable : List ((Code → Code → Code → Instr) × (Nat → Nat → Nat → Bool)) :=
  [(.icmpEq, fun _ x y => decide (x = y)),
   (.icmpNe, fun _ x y => decide (x ≠ y)),
   (.icmpLtS, fun w x y => decide (sval w x < sval w y)),
   (.icmpLeS, fun w x y => decide (sval w x ≤ sval w y)),
   (.icmpLtU, fun _ x y => decide (x < y)),
   (.icmpLeU, fun _ x y => decide (x ≤ y)),
   (.test, fun _ x y => decide (x &&& y ≠ 0)),
   (.testz, fun _ x y => decide (x &&& y = 0))]

/-- The value b's field selects in BFE and BFI: position, and the length cut at bit W−1 (R185). -/
def cutField (w y : Nat) : Nat × Nat := (y % w, min (bits y 8 (if w = 64 then 6 else 5)) (w - y % w))

/-- Packed and dot-product instructions on signed halves and bytes (R191, R192): a sum is exact before it is clamped. -/
def halves (f : Int → Int → Int) (i : OpIn) (l j : Nat) : Int :=
  f (sval 16 (bits (qget i.a l) (16 * j) 16)) (sval 16 (bits (qget i.b l) (16 * j) 16))

/-- The products of the n elements of w bits of a and b, summed, signed or unsigned. -/
def dotProduct (signed : Bool) (w n : Nat) (i : OpIn) (l : Nat) : Int :=
  ((List.range n).map fun j =>
    let x := bits (qget i.a l) (w * j) w
    let y := bits (qget i.b l) (w * j) w
    if signed then sval w x * sval w y else ((x * y : Nat) : Int)).sum

/-- A clamped element of w bits: its pattern, and whether it clamps (R72). -/
def satElem (signed : Bool) (w : Nat) (x : Int) : LaneOut :=
  let r := if signed then satS w x else satU w x
  ⟨wrap w r.1, 0, r.2⟩

/-! Immediates. -/

/-- The value k of an FI instruction (R161): the immediate with the IMM hint's 24 bits above it when one is pending. -/
def fiConstant (h : Hint) (imm : BitVec 16) : Int :=
  if h.immv then sval 40 (h.immp.toNat * 65536 + imm.toNat) else sval 16 imm.toNat

/-- The operands of an FI instruction (R158, R181). -/
def fiOperands (readsD : Bool) (d : Nat) : Operands := ⟨if readsD then [(.int, d)] else [], some (false, d)⟩

/-- An operand list is legal, free and sound, and reads as `vals`, leaving `sl1` (R176, R60, R334). -/
structure Readable (o : Operands) (act : BitVec 4) (e : Env) (sl : Slice) (vals : List (Quad Nat)) (sl1 : Slice) :
    Prop where
  legal : checkOperands e sl act o false = none
  free : stallOperands e sl act o = none
  good : badSrc e sl act o = false
  read : readSrcs e act o.srcs sl = .got vals sl1

/-- An immediate instruction completes with the result that f gives from W, k and d (R197). -/
def GivesImmediate (i : Code → BitVec 16 → Instr) (readsD : Bool) (f : Nat → Int → Nat → Nat) : Prop :=
  ∀ (s : State) (k : Nat) (acc : Bool) (e : Env) (d : Code) (imm : BitVec 16) (vals : List (Quad Nat)) (sl1 : Slice),
    Solo s k acc e →
    Readable (fiOperands readsD d.toNat) (actLanes (streamOf e.acc (sliceAt s k))) e (sliceAt s k) vals sl1 →
    exec (i d imm) s = .next
      (let sl := sliceAt s k
       let act := actLanes (streamOf e.acc sl)
       let w := if e.acc then 64 else 32
       let r := writeDst e act false d.toNat (qof fun l =>
         f w (fiConstant (streamOf e.acc sl).hint imm) (qget (vals.headD (qfill 0)) l) % 2 ^ w) sl1
       issued s k acc (finishLane e sl act (fiOperands readsD d.toNat) none none r.1) r.2 none)

/-! Floating point. -/

/-- RoundFmt of a result in the instruction's mode, without saturation (R86, R203). -/
def rounded (f : Fmt) (i : OpIn) (x : XVal × Nat) : LaneOut :=
  let r := roundWith f i.mode false i.ftz x
  ⟨r.1, r.2, false⟩

/-- RoundFmt with the saturation of SATN or the MOD hint (R90). -/
def roundedSat (f : Fmt) (i : OpIn) (x : XVal) : LaneOut :=
  let r := roundFmt f i.mode i.sat i.ftz x
  ⟨r.1, r.2, false⟩

/-- The four arithmetic operations of R203 on patterns of one format. -/
def fltTable (f : Fmt) (o : FOp) (i : OpIn) (x y z : Nat) : LaneOut :=
  let a := decodeF f i.ftz x
  let b := decodeF f i.ftz y
  match o with
  | .add => rounded f i (xDot i.mode [] [a, b])
  | .sub => rounded f i (xDot i.mode [] [a, xNeg b])
  | .mul => rounded f i ((xMul a b).1, if (xMul a b).2 then flagNV else 0)
  | .fma => rounded f i (xDot i.mode [(a, b)] [decodeF f i.ftz z])
  | .max => plainOut (fminmax f i.ftz true false x y)

/-- Scalar floating-point instructions with their formats (R203, R206). -/
def scalarTable : List ((Code → Code → Code → Instr) × Fmt × FOp × Bool) :=
  [(.fadd, .f32, .add, false), (.fsub, .f32, .sub, false), (.fmul, .f32, .mul, false), (.ffma, .f32, .fma, true),
   (.dadd, .f64, .add, false), (.dsub, .f64, .sub, false), (.dmul, .f64, .mul, false), (.dfma, .f64, .fma, true)]

/-- Packed floating-point instructions with their formats (R207), and whether they round and read d. -/
def pairTable : List ((Code → Code → Code → Instr) × Fmt × FOp × Rounds × Bool) :=
  [(.badd2, .bf16, .add, .byMode, false), (.bmul2, .bf16, .mul, .byMode, false), (.bfma2, .bf16, .fma, .byMode, true),
   (.bmax2, .bf16, .max, .no, false), (.hadd2, .f16, .add, .byMode, false), (.hmul2, .f16, .mul, .byMode, false),
   (.hfma2, .f16, .fma, .byMode, true), (.hmax2, .f16, .max, .no, false)]

/-- Functions of one operand that round in the mode (R209, R210, R212). -/
def functionTable : List ((Code → Code → Instr) × Fmt × UnaryFn) :=
  [(.frcp, .f32, .rcp), (.frsq, .f32, .rsq), (.fsqrt, .f32, .sqrt), (.fexp2, .f32, .exp2), (.flog2, .f32, .log2),
   (.fsinpi, .f32, .sinpi), (.fcospi, .f32, .cospi), (.ftanh, .f32, .tanh), (.frint, .f32, .rint),
   (.dsqrt, .f64, .sqrt), (.drcp, .f64, .rcp)]

/-- Widening conversions, which are exact and set no flag (R91): source and result format. -/
def widenTable : List ((Code → Code → Instr) × Fmt × Fmt) :=
  [(.f2d, .f32, .f64), (.bf2f, .bf16, .f32), (.h2f, .f16, .f32), (.e42f, .e4m3, .f32), (.e52f, .e5m2, .f32),
   (.e22f, .e2m1, .f32)]

/-- Narrow conversions from F32 into the low bits of an integer register (R90). -/
def narrowTable : List ((Code → Code → Instr) × Fmt) :=
  [(.f2bf, .bf16), (.f2h, .f16), (.f2e4, .e4m3), (.f2e5, .e5m2), (.f2e2, .e2m1)]

/-- The form of a floating-point instruction of two sources in one format. -/
def fltForm (f : Fmt) (readsD : Bool) (r : Rounds) : AluForm := ⟨.compute, .flt f, .flt f, some (.flt f), readsD, false, r, false⟩

/-- The form of a conversion. -/
def cvtForm (d a : Kind) (r : Rounds) : AluForm := ⟨.compute, d, a, none, false, false, r, false⟩

/-! Control and memory instructions. -/

/-- The state after an issue that starts an access: the access stands last in the list under a fresh number. -/
def started (s : State) (k : Nat) (acc : Bool) (sl : Slice) (fl : Flight) : State :=
  addFlight (if acc then putSlice s k sl else putSlice (countUnit s (k / 32) (k % 32)) k sl) fl

/-- The state after a TRAP, a slice's own fault on purpose: the PC lies past it, and the fault is taken (R248, R322). -/
def trapped (s : State) (k : Nat) (acc : Bool) (sl : Slice) (f : FaultInfo) : State :=
  takeFault (putSlice (if acc then s else countUnit s (k / 32) (k % 32)) k sl) k acc f

/-- A slice whose stream `acc` has been replaced. -/
def withStream (sl : Slice) (acc : Bool) (f : Stream → Stream) : Slice := setStream acc sl (f (streamOf acc sl))

/-- The active lanes in which predicate p, or its complement, holds (R49, R236). -/
def holds (st : Stream) (p : BitVec 3) (n : Bool) : BitVec 4 := st.mask &&& maskOf fun l => predOf st p.toNat l != n

/-- A stream that waits at the instruction it stands at. -/
def waiting (st : Stream) (w : Wait) : Stream := { st with wait := w, stall := false, want := [], named := [] }

/-- A stream that waits at a barrier: the accesses started before it are told by their numbers (R136). -/
def arriving (s : State) (st : Stream) (w : Wait) : Stream := { waiting st w with mark := s.serial }

/-- An FM instruction of an access stream may go on (R158, R218, R176): operands legal, free and sound. -/
def FmReady (e : Env) (sl : Slice) (src : Bool) (d base : Nat) : Prop :=
  fmCheck e sl (actLanes sl.a) src d base false = none

/-- The addresses of the acting lanes (R101). -/
def laneAddrs (sl : Slice) (base : Nat) : List (Nat × Nat) :=
  (maskLanes (actLanes sl.a)).map fun l => (l, laneAddr sl base l)

/-- No earlier access or counter holds back a load of n entries into `d` (R25, R135, R218). -/
structure LoadFree (s : State) (e : Env) (sl : Slice) (d n : Nat) : Prop where
  act : actLanes sl.a ≠ 0
  room : d = 0xAE ∨ ldqRoom sl n = true
  count : sl.nld ≠ 63
  order : acqPending s e.key = false

/-- The slice after a load of n entries into `d` has issued: the entries are reserved, LD counts it, and `fin` ends the
instruction (R219, R221). -/
def loadEnd (sl : Slice) (d n : Nat) (fin : Slice → Slice) : Slice :=
  let x := fin (reserve sl sl.a.pc .reserved (if d = 0xAE then 0 else n))
  { x with nld := x.nld + 1 }

/-- The reservations of a load of n entries into `d`. -/
def loadSeqs (sl : Slice) (d n : Nat) : List Nat := seqsFrom sl (if d = 0xAE then 0 else n)

/-- No earlier access, failure or counter holds back a write; one with `ret` entries also needs their room (R61, R135). -/
structure WriteFree (s : State) (e : Env) (sl : Slice) (ret : Option Nat) : Prop where
  act : actLanes sl.a ≠ 0
  room : ∀ n, ret = some n → ldqRoom sl n = true ∧ sl.nld ≠ 63
  checked : sl.check = none
  count : sl.nst ≠ 63
  order : acqPending s e.key = false

/-- The slice after a store or atomic has issued: ST counts it, and LD as well where it returns a value (R221). -/
def writeEnd (sl sl1 : Slice) (ret : Option Nat) (fin : Slice → Slice) : Slice :=
  let x := fin (reserve sl1 sl.a.pc .reserved (ret.getD 0))
  { x with nst := x.nst + 1, nld := if ret.isSome then x.nld + 1 else x.nld }

/-- The atomics with their numbers (R225, R226). -/
def atomicTable : List ((Code → AReg → Scope → Order → Width → Bool → Instr) × Nat) :=
  [(.aadd, 0), (.aand, 1), (.aor, 2), (.axor, 3), (.aminS, 4), (.amaxS, 5), (.aminU, 6), (.amaxU, 7), (.axchg, 8),
   (.acas, 9), (fun d b sc o _ nr => .afaddF32 d b sc o nr, 10), (fun d b sc o _ nr => .afaddBf2 d b sc o nr, 11)]

/-- The width of an atomic: the floating-point ones have 32 bits. -/
def atomicWidth (op : Nat) (w : Width) : Width := if 10 ≤ op then .w32 else w

/-- The lane copies with the spaces of their source and destination (R230). -/
def copyTable : List ((AReg → AReg → AReg → CopySize → Bool → Instr) × SpaceRule × SpaceRule) :=
  [(.acpG2s, .paged codeACP_SPACE, .sram codeACP_SPACE), (.acpS2g, .sram codeACP_SPACE, .paged codeACP_SPACE),
   (.acpS2s, .sram codeACP_SPACE, .sram codeACP_SPACE)]

/-! Requests to anvils and scribes. -/

/-- An anvil request may enter the reservation table of its quad's anvil (R61, R135, R250, R251, R271). -/
structure RequestFree (s : State) (e : Env) (sl : Slice) : Prop where
  act : actLanes sl.a ≠ 0
  checked : sl.check = none
  error : sl.anvErr = none
  count : sl.ntl ≠ 63
  room : (anvilAt s (anvilOf e.core)).resv.length < 16
  order : acqPending s e.key = false

/-- The operands of an instruction are legal, free and sound (R176, R60, R334). -/
structure Fit (o : Operands) (act : BitVec 4) (e : Env) (sl : Slice) : Prop where
  legal : checkOperands e sl act o false = none
  free : stallOperands e sl act o = none
  good : badSrc e sl act o = false

/-- The same for a request, which reads the lowest acting lane alone (R250, R277). -/
structure RequestFit (o : Operands) (act : BitVec 4) (e : Env) (sl : Slice) : Prop where
  legal : checkOperands e sl act o false = none
  free : stallOperands e sl act o = none
  good : badSrc e sl (lowMask act) o = false

/-- The operands of a request that reads registers. -/
def regOperands (rs : List Nat) : Operands := ⟨rs.map fun r => (.int, r), none⟩

/-- The slice after a request of an access stream that names registers has issued. -/
def requestEnd (e : Env) (sl : Slice) (o : Operands) (sl1 : Slice) : Slice :=
  { finishLane e sl (actLanes sl.a) o none none sl1 with park := none }

/-- The state after an anvil request has issued: TL counts it, and it stands last in the table. -/
def requested (s : State) (k : Nat) (e : Env) (sl : Slice) (o : Operands) (r : AReq) : State :=
  let x := requestEnd e sl o sl
  let s1 := putSlice s k { x with ntl := x.ntl + 1 }
  let v := anvilAt s (anvilOf e.core)
  { putAnvil s1 (anvilOf e.core) { v with resv := v.resv ++ [r] } with serial := s.serial + 1 }

/-- A scribe request may be made: its sources are legal and sound, no register that it names is away, its
destinations exist, nothing earlier is unchecked, and `count` leaves room in CP (R61, R135, R176, R277). -/
structure ScribeFree (s : State) (e : Env) (sl : Slice) (rs ds : List Nat) (count : Bool) : Prop where
  act : actLanes sl.a ≠ 0
  dest : ds.any (fun d => decide (e.a ≤ d)) = false
  legal : checkOperands e sl (actLanes sl.a) (regOperands rs) false = none
  free : stallOperands e sl (actLanes sl.a) (regOperands (rs ++ ds)) = none
  good : badSrc e sl (lowMask (actLanes sl.a)) (regOperands rs) = false
  checked : sl.check = none
  room : count = true → sl.ncp ≠ 63
  order : acqPending s e.key = false

/-- The slice with a value in register d in the acting lanes. -/
def setActing (act : BitVec 4) (sl : Slice) (d x : Nat) : Slice := (maskLanes act).foldl (fun y l => setReg true y d l x) sl

/-- The slice after a scribe request has issued with results in its destinations. -/
def scribeEnd (e : Env) (sl : Slice) (rs ds : List Nat) (sl1 : Slice) : Slice :=
  requestEnd e sl (regOperands (rs ++ ds)) sl1

/-! The trap context. -/

/-- The trap context of a core issues a privileged instruction whose sources are fit, in its one lane (R320, R327). -/
structure Privileged (s : State) (core : Nat) (e : Env) (rs : List Nat) (d : Option Nat) : Prop where
  issuer : s.issuer = .trap core
  env : envOf s (trapBase + core) true = some e
  key : e.key = trapBase + core
  fit : Fit ⟨rs.map fun r => (.int, r), d.map fun r => (false, r)⟩ (actLanes (sliceAt s e.key).a) e (sliceAt s e.key)
  act : actLanes (sliceAt s e.key).a ≠ 0

/-- The value of a register of the trap context. -/
def trapReg (s : State) (core r : Nat) : Nat := regVal true (sliceAt s (trapBase + core)) r 0

/-- The trap context past a privileged instruction, with a result in register d or none. -/
def privilegedEnd (e : Env) (sl : Slice) (rs : List Nat) (d : Option (Nat × Nat)) : Slice :=
  let act := actLanes sl.a
  finishLane e sl act ⟨rs.map fun r => (.int, r), d.map fun p => (false, p.1)⟩ none none
    (match d with
     | some p => (writeDst e act false p.1 (qfill p.2) sl).1
     | none => sl)

/-! Scribe programs. -/

/-- A scribe context runs a program. -/
structure Runs (s : State) (n x : Nat) (p : Prog) : Prop where
  issuer : s.issuer = .scribe n x
  prog : progAt s n x = some p

/-- The state after a program has become another. -/
def becomes (s : State) (n x : Nat) (p : Prog) : State := putProg s n x (some p)

/-- A range lies here, behind one checked target: in SRAM in place or in ready memory whose controller serves the program (R106,
R368, R401, R411). -/
structure Reach (s : State) (p : Prog) (r : Span) (t : Target) : Prop where
  good : chkSpan s p r = ([(t, r.bytes)], none)
  here : isRemote t = false
  ready : targetReady s t = true
  place : sramInPlace s p.ctx t r.bytes = true
  serves : served s (vdevOf p.ctx) t = true

/-- Such a range that is sound where it is read (R334). -/
structure Here (s : State) (p : Prog) (r : Span) (t : Target) : Prop extends Reach s p r t where
  sound : r.write = false → poisoned s t.loc r.bytes = false

/-- A range that a program may write here, without a copy elsewhere: no save of its scratch is about to begin, or holds it at the
scratchpad's entry, and no earlier read of the starting slice still has to find what it overwrites (R105, R127, R307, R350,
R394). -/
structure Takes (s : State) (p : Prog) (r : Span) (t : Target) : Prop extends Here s p r t where
  may : mayWrite s p.ctx t = true
  single : t.dup = none
  runs : suspended s p t = false
  entry : entryHeld s p.ctx t = false
  last : readsFirst s p.owner p.mark t r.bytes = false

/-- The k instructions on two registers with their results (R289). -/
def kTable : List ((KReg → KReg → KReg → Instr) × (Nat → Nat → Nat)) :=
  [(.kadd, fun a b => (a + b) % 2 ^ 64),
   (.ksub, fun a b => (a + 2 ^ 64 - b) % 2 ^ 64),
   (.kmul, fun a b => a * b % 2 ^ 64),
   (.kshl, fun a b => a * 2 ^ (b % 64) % 2 ^ 64),
   (.kshr, fun a b => a / 2 ^ (b % 64)),
   (.kand, fun a b => a &&& b),
   (.kor, fun a b => a ||| b),
   (fun d a b => .kcmp d a b .eq, fun a b => if a = b then 1 else 0),
   (fun d a b => .kcmp d a b .ne, fun a b => if a = b then 0 else 1),
   (fun d a b => .kcmp d a b .ltS, fun a b => if sval 64 a < sval 64 b then 1 else 0),
   (fun d a b => .kcmp d a b .leS, fun a b => if sval 64 a ≤ sval 64 b then 1 else 0),
   (fun d a b => .kcmp d a b .ltU, fun a b => if a < b then 1 else 0),
   (fun d a b => .kcmp d a b .leU, fun a b => if a ≤ b then 1 else 0)]

/-- The PC of a branch target. -/
def atPc (p : Prog) (pc : Nat) : Prog := { retireProg p with regs := { p.regs with pc := pc } }

/-- A branch target lies in the scribe section and is aligned (R291). -/
def Inside (s : State) (p : Prog) (pc : Nat) : Prop := inScribe s p.launch pc = true ∧ pc % 4 = 0

/-! The stream rules. -/

/-- The streams in which a lane instruction is legal, where the table of R170 does not admit both. -/
def streamsOf : Instr → Option Streams
  | .sel _ _ _ _ | .dot2Sat _ _ _ | .dot2Wrap _ _ _ | .add2Sat _ _ _ | .sub2Sat _ _ _ | .mul2Lo _ _ _ | .max2S _ _ _
  | .min2S _ _ _ | .pack2 _ _ _ | .dot4SSat _ _ _ | .dot4USat _ _ _ | .add4USat _ _ _ | .sub4USat _ _ _
  | .shfl _ _ _ | .slidehDn _ _ _ | .slidehUp _ _ _ | .slidewDn _ _ _ | .ballot _ _ | .redadd _ _ | .redminS _ _
  | .redmaxS _ _ | .fadd _ _ _ | .fsub _ _ _ | .fmul _ _ _ | .ffma _ _ _ | .fmin _ _ _ | .fmax _ _ _ | .fminn _ _ _
  | .fmaxn _ _ _ | .fcmpEq _ _ _ | .fcmpLt _ _ _ | .fcmpLe _ _ _ | .fcmpUnord _ _ _ | .dadd _ _ _ | .dsub _ _ _
  | .dmul _ _ _ | .dfma _ _ _ | .badd2 _ _ _ | .bmul2 _ _ _ | .bfma2 _ _ _ | .bmax2 _ _ _ | .hadd2 _ _ _
  | .hmul2 _ _ _ | .hfma2 _ _ _ | .hmax2 _ _ _ | .fdot2Bf _ _ _ | .fdot2H _ _ _ | .fdot4E4 _ _ _ | .fdot4E5 _ _ _
  | .frcp _ _ | .frsq _ _ | .fsqrt _ _ | .fexp2 _ _ | .flog2 _ _ | .fsinpi _ _ | .fcospi _ _ | .ftanh _ _
  | .fabs _ _ | .fneg _ _ | .ffloor _ _ | .fceil _ _ | .ftrunc _ _ | .frint _ _ | .fclass _ _ | .dsqrt _ _
  | .drcp _ _ | .f2iS _ _ | .f2iU _ _ | .i2fS _ _ | .i2fU _ _ | .f2d _ _ | .d2f _ _ | .f2bf _ _ | .bf2f _ _
  | .f2h _ _ | .h2f _ _ | .f2e4 _ _ | .f2e5 _ _ | .e42f _ _ | .e52f _ _ | .f2e2 _ _ | .e22f _ _ | .i2dS _ _
  | .i2dU _ _ | .packbf _ _ _ | .packh _ _ _ | .ins8E4 _ _ _ | .ins4E2 _ _ _ | .fscale _ _ _ | .fsignc _ _ _
  | .isatS16 _ _ => some .compute
  | .ld _ _ _ _ _ | .ldBc _ _ _ _ _ | .pref _ _ _ | .st _ _ _ _ _ | .stNt _ _ _ _ _ | .aadd _ _ _ _ _ _
  | .aand _ _ _ _ _ _ | .aor _ _ _ _ _ _ | .axor _ _ _ _ _ _ | .aminS _ _ _ _ _ _ | .amaxS _ _ _ _ _ _
  | .aminU _ _ _ _ _ _ | .amaxU _ _ _ _ _ _ | .axchg _ _ _ _ _ _ | .acas _ _ _ _ _ _ | .afaddF32 _ _ _ _ _
  | .afaddBf2 _ _ _ _ _ | .acpG2s _ _ _ _ _ | .acpS2g _ _ _ _ _ | .acpS2s _ _ _ _ _ | .ldx _ _ _ _ _ _
  | .lddesc _ _ _ _ | .stdesc _ _ _ _ | .fence _ _ | .xfence _ _ | .waitaddr _ _ _ _ _ | .waitcnt _ _ _ _
  | .sleepuntil _ | .sleepuntilBar _ _ | .mxloop _ | .mxldb _ _ _ | .mxst _ _ | .mxldt _ _ | .scstart _ _ _ _ _
  | .scpoll _ _ | .rflush _ | .sccancel _ => some .access
  | .eret _ | .rdsl _ _ | .wrsl _ _ | .foldctl _ _ => some .privileged
  | _ => none

/-! Accesses in flight. -/

/-- An access of this package's own memory may be performed now, and its slice is not rolling back (R134, R335). -/
structure Due (s : State) (id : Nat) (f : Flight) : Prop where
  flight : flightAt s id = some f
  free : canPerform s f = true
  here : ∀ a ∈ f.lanes, isRemote a.tgt = false ∧ isRemote a.dst = false
  fresh : f.sent = false
  good : ∀ a ∈ f.lanes, a.bad = false
  settled : (sliceAt s f.owner).rollback = false

/-- Its destinations may be written, and have no copy elsewhere (R105, R394). -/
def Writable (s : State) (f : Flight) (dst : LaneAcc → Target) : Prop :=
  ∀ a ∈ f.lanes, mayWrite s (keyCtx s f.owner) (dst a) = true ∧ (dst a).dup = none

/-- Targets under one key id, each of whose blocks of n bytes reads as it was written under it (R356). -/
def OneKey (s : State) (n : Nat) (ts : List Target) : Prop := ∃ key, ∀ t ∈ ts, t.key = key ∧ Plain s key t.loc n

/-- The state after an access has ended: it has left, its tokens are spent (R368), and its slice is `sl`. -/
def ended (s : State) (f : Flight) (ts : List Target) (sl : Slice) : State :=
  putSlice (spendFor (dropFlight s f.id) (keyCtx s f.owner) ts) f.owner sl

/-- The same after an atomic, each lane of which spends a token (R368). -/
def endedEach (s : State) (f : Flight) (ts : List Target) (sl : Slice) : State :=
  putSlice (spendEach (dropFlight s f.id) (keyCtx s f.owner) ts) f.owner sl

/-- The lanes of an atomic in ascending order: each reads what the lanes before it have written (R111, R225). -/
def atomicLanes (op n : Nat) : List LaneAcc → State → State × List (Nat × Nat)
  | [], s => (s, [])
  | a :: as, s =>
    let old := seenVal s a.tgt n
    let r := atomicLanes op n as (storeTo s a.tgt (valBytes n (atomicNew op (8 * n) old a.data a.swap)))
    (r.1, (a.lane, old) :: r.2)

/-! Packets. -/

/-- A packet of a type may start (R375). -/
structure Starts (s : State) (id typ : Nat) (p : Packet) : Prop where
  packet : pktAt s id = some p
  type : pktType p = typ
  order : mayStart s p = true

/-- An address field of a packet leads to ready memory of this package, without a copy elsewhere. -/
structure Leads (s : State) (p : Packet) (off align : Nat) (write : Bool) (t : Target) : Prop where
  place : ccPlace s p off align write = .at t
  here : isRemote t = false
  single : t.dup = none

/-- A CONFIG packet of a kind, in order, for a virtual device (R377). -/
structure Configures (s : State) (id kind : Nat) (p : Packet) (v : Nat) : Prop extends Starts s id 0x10 p where
  ok : cfgOk s p = true
  kind : cfgKind p = kind
  vdev : (cfgVdev s p).getD 0 = v

/-! Operand roles. -/

/-- The source codes that R53 makes faults in the access stream. -/
def accessSourceFaults (c : Nat) : Bool := (0x40 ≤ c && decide (c < 0xA8)) || (0xAF ≤ c && decide (c < 0xC0))

/-- The destination codes that R53 makes faults in the access stream. -/
def accessDestFaults (c : Nat) : Bool := 0x40 ≤ c && c != 0xA8 && c != 0xAE

/-! Frames. -/

/-- Arithmetic instructions of two sources, with their forms. -/
def aluTable : List ((Code → Code → Code → Instr) × AluForm) :=
  (intTable.map fun p => (p.1, int3)) ++ (compareTable.map fun p => (p.1, intCmp)) ++
    (scalarTable.map fun p => (p.1, fltForm p.2.1 p.2.2.2 .byMode)) ++
    (pairTable.map fun p => (p.1, fltForm p.2.1 p.2.2.2.2 p.2.2.2.1))

/-- Whether a code names a queue. -/
def namesQueue (c : Nat) : Bool := c = 0xA8 || c = 0xA9

/-- Register r of a lane is one that an arithmetic instruction may change: its destination in an acting lane, or an
operand that a last-use mark ends (R63). -/
def aluWrites (m : AluForm) (d a b : Nat) (e : Env) (sl : Slice) (r l : Nat) : Bool :=
  let st := streamOf e.acc sl
  (actLanes st).getLsbD l &&
    ((!m.pred && (laneRegs e sl (kindWide m.d) d l).contains r) ||
      (st.hint.modv && st.hint.lasta && (laneRegs e sl (kindWide m.a) a l).contains r) ||
      (st.hint.modv && st.hint.lastb && m.b.any fun k => (laneRegs e sl (kindWide k) b l).contains r))

/-- What an arithmetic instruction leaves of its slice: its other stream, the other bank, every register, predicate and
index register that is not its own, and everything else but what is kept about registers, the queues that it names and
its flags, which it only adds to. -/
structure AluFrame (m : AluForm) (d a b : Nat) (e : Env) (was now : Slice) : Prop where
  rest : { now with
    c := was.c, a := was.a, v := was.v, vInfo := was.vInfo, ar := was.ar, arInfo := was.arInfo, s := was.s
    sdiv := was.sdiv, x := was.x, fpmodeA := was.fpmodeA, fpflags := was.fpflags, satflag := was.satflag
    ldq := was.ldq, ldqNext := was.ldqNext, sdq := was.sdq, cq := was.cq, check := was.check } = was
  otherStream : streamOf (!e.acc) now = streamOf (!e.acc) was
  stream : { streamOf e.acc now with
    pc := (streamOf e.acc was).pc, prev := (streamOf e.acc was).prev, hint := (streamOf e.acc was).hint
    count := (streamOf e.acc was).count, preds := (streamOf e.acc was).preds, stall := (streamOf e.acc was).stall
    want := (streamOf e.acc was).want, named := (streamOf e.acc was).named } = streamOf e.acc was
  bank : ∀ r l, regVal (!e.acc) now r l = regVal (!e.acc) was r l
  regs : ∀ r l, l < 4 → aluWrites m d a b e was r l = false → regVal e.acc now r l = regVal e.acc was r l
  preds : ∀ p l, l < 4 → p < 8 → (m.pred = false ∨ p ≠ d ∨ p = 0 ∨ (actLanes (streamOf e.acc was)).getLsbD l = false) →
    predOf (streamOf e.acc now) p l = predOf (streamOf e.acc was) p l
  sregs : ∀ r, (e.acc = true ∨ m.pred = true ∨ (d ≠ 0x80 + r ∧ (kindWide m.d = false ∨ d + 1 ≠ 0x80 + r))) →
    aget 0 now.s r = aget 0 was.s r
  xregs : ∀ i, (∀ c ∈ [a, b, d], isIncr e.acc c = true → c % 4 ≠ i) →
    aget ⟨0, 0, 0, 0⟩ now.x i = aget ⟨0, 0, 0, 0⟩ was.x i
  queues : namesQueue a = false → namesQueue b = false → namesQueue d = false →
    now.ldq = was.ldq ∧ now.sdq = was.sdq ∧ now.cq = was.cq ∧ now.check = was.check ∧ now.fpmodeA = was.fpmodeA
  flags : ∀ l, l < 4 → (qget now.fpflags l ||| qget was.fpflags l) = qget now.fpflags l ∧
    (qget now.satflag l ||| qget was.satflag l) = qget now.satflag l ∧
    (e.acc = true ∨ (actLanes (streamOf e.acc was)).getLsbD l = false →
      qget now.fpflags l = qget was.fpflags l ∧ qget now.satflag l = qget was.satflag l)

/-- What an issue of one slice leaves of the machine: every other slice, every team but for its issue counts, and all
that is no slice and no team: every byte of memory, descriptors, accesses in flight, other units. -/
structure IssueFrame (s t : State) (k : Nat) : Prop where
  rest : { t with slices := s.slices, teams := s.teams } = s
  slices : ∀ j, j ≠ k → sliceAt t j = sliceAt s j
  teams : ∀ i, (teamAt t i).map (fun x => { x with mapped := [] }) = (teamAt s i).map fun x => { x with mapped := [] }

end Sys2Proof.Safety
end

