-- ==== Sys2Proof/Certificates/Slice0/Obligations.lean ====
section
/-! DEFINITION. The statements about the machine, for proof. Each formalises rules of the manual or says what an
instruction does when it completes, in the terms of Safety.lean. -/

open Sys2Proof Sys2Proof.Machine Sys2Proof.Safety

/-! Reset, decoding and the step. -/

/-- R365, R367, R372, R384, R387, R400, R406: right after reset every record and register that the manual gives a reset
value has it: CLOCK is 0, nothing is READY, no partition, virtual device, ring, destination entry or launch is set,
nothing runs and no access is in flight. That CLOCK is 0, and that memory, descriptors and anvils read 0 before a start
clears them (R253, R403), is the model's choice (log entries 2 and 31). -/
def Obligations.ResetState : Prop :=
  let s := State.reset
  s.clock = 0 ∧ s.boot.ready = 0 ∧ s.boot.bootstat = 0 ∧ s.fabric.record = 0 ∧ s.fabric.reqs = [] ∧
  (∀ p, partRec s p = 0) ∧ (∀ v, vdevSt s v = VDev.zero) ∧ (∀ v n, ringAt s v n = RingSt.zero) ∧
  (∀ i < 2 ^ 16, destAt s i = DestEntry.zero) ∧ (∀ t, teamAt s t = none) ∧ (∀ l, launchAt s l = none) ∧
  (∀ a, readByte s.mem a = 0) ∧ (∀ a, descAt s a = 0) ∧ (∀ n, anvilAt s n = Anvil.zero) ∧
  (∀ k r l acc, regVal acc (sliceAt s k) r l = 0) ∧ (∀ n x, progAt s n x = none) ∧ s.flights = []

/-- The state right after reset keeps memory and descriptors in canonical form. -/
def Obligations.ResetKept : Prop := MemoryKept State.reset

/-- R171 to R174, R158 to R166, R288: words written out from the manual's encodings decode to the instructions they stand
for, one or more of each format, of lane streams, of the trap context and of scribe programs. -/
def Obligations.WordsDecode : Prop :=
  decodeLane 0x22_02_01_C0#32 = .ok (.icmpLtS 0x02 0x01 0xC0) ∧
  decodeLane 0x13_06_06_D0#32 = .ok (.shrrS 0x06 0x06 0xD0) ∧
  decodeLane 0x43_05_0C_81#32 = .ok (.ffma 0x05 0x0C 0x81) ∧
  decodeLane 0x60_03_07_0A#32 = .ok (.f2e4 0x03 0x07) ∧
  decodeLane 0x1C_03_07_00#32 = .ok (.mov 0x03 0x07) ∧
  decodeLane 0x78_40_00_00#32 = .ok (.ifP 2 false) ∧ decodeLane 0x78_50_00_00#32 = .ok (.ifP 2 true) ∧
  decodeLane 0x79_00_00_00#32 = .ok .elseP ∧ decodeLane 0x7A_00_00_00#32 = .ok .endif ∧
  decodeLane 0xE0_4F_FF_FD#32 = .ok (.braAny 2 false 0xFFFFD) ∧
  decodeLane 0xE4_00_00_00#32 = .ok .ret ∧ decodeLane 0xE7_00_00_00#32 = .ok .yield ∧
  decodeLane 0xE8_00_00_03#32 = .ok (.bar 3) ∧ decodeLane 0xED_00_00_00#32 = .ok .region ∧
  decodeLane 0xEE_00_00_42#32 = .ok (.trapOp 0x42) ∧ decodeLane 0xEF_00_00_00#32 = .ok .exit ∧
  decodeLane 0xF8_0C_00_00#32 = .ok (.eret 3) ∧ decodeLane 0xF9_08_10_00#32 = .ok (.rdsl 2 1) ∧
  decodeLane 0xFA_04_20_00#32 = .ok (.wrsl 1 2) ∧
  decodeLane 0xC5_A8_0C_0C#32 = .ok (.stNt 0xA8 3 .team .rlx .w64) ∧
  decodeLane 0xD9_A8_10_04#32 = .ok (.lddesc 0xA8 4 .team .rlx) ∧
  decodeLane 0xD4_28_20_E8#32 = .ok (.acpG2s 10 2 3 .s16 true) ∧
  decodeLane 0xDE_09_16_28#32 = .ok (.waitaddr 0x09 5 .dev .acq .w32) ∧
  decodeScribe 0b000011_0011_0001_0010_00000000000000#32 = .ok (.kadd 3 1 2) ∧
  decodeScribe 0b100000_0100_0101_0000_00000000001000#32 = .ok (.line 4 5 8) ∧
  decodeScribe 0b110001_00000000000000000000000000#32 = .ok .scribeEnd

/-- R158, R170 to R174, R288: every well-formed instruction that has a word is what its word decodes to, in a lane stream
or in a scribe program: no bit of an encoding is dropped. -/
def Obligations.DecodeEncode : Prop :=
  ∀ (i : Instr) (w : Word32), wellFormed i = true → encode i = some w →
    if isScribe i then decodeScribe w = .ok i else decodeLane w = .ok i

/-- R112, R157, R176, R177, R202, R276, R288, R321, R368: where the schedule names a unit that may issue, a step runs the instruction that the
word at its PC decodes to, in a stream of a slice, in the trap context and in a scribe program, with the translations that the
unit's earlier attempts have kept (R112), and then does what follows an issue, which holds the unit's port for the cycles that
the instruction takes (R202) and spends the token of its fetch (R368); an event of the schedule runs as itself. A PC outside its code section and a word that decodes
to nothing run as the faults FETCH_RANGE and ILLEGAL_OP. That each word fetched is a request for its block is the model's choice
(log entry 76). -/
def Obligations.StepRunsDecoded : Prop :=
  ∀ (s : State) (m : Move) (rest : List Move), s.sched = m :: rest → s.boot.powered = true →
    let s0 := beginMove s m rest
    (∀ i, m.turn = .event i → step s = mapNext (afterEvent exec s0) (exec i s0)) ∧
    ∀ u, m.turn = .issue u → unitPresent s0 u = true → unitIssues s0 u = true →
      let runs := fun (i : Instr) => step s = mapNext (afterIssue exec s0 u (strokeCycles i)) (onUnit (exec i) s0 u)
      (∀ k acc team l, u = (if acc then .access k else .compute k) → teamAt s0 (k / 32) = some team →
        launchAt s0 team.launch = some l →
        let pc := (streamOf acc (sliceAt s0 k)).pc.toNat
        (inCode l.hdr acc pc = false → runs .fetchRange) ∧
        ∀ w, inCode l.hdr acc pc = true → imageWord s0 team.ctx team.launch pc = some w →
          (∀ i, decodeLane w = .ok i → runs i) ∧ (decodeLane w = .error .illegalOp → runs .illegalOp)) ∧
      (∀ core leaf, u = .trap core →
        let pc := (sliceAt s0 (trapBase + core)).a.pc.toNat
        let t := leafTarget leaf pc
        pc < Config.sramBase → pc % 4 = 0 → tlbFind s0 (vdevOf (keyCtx s0 (trapBase + core))) pc = some leaf →
        bitAt leaf.pte.toNat 3 = false → isRemote t = false → targetReady s0 t = true →
        served s0 (vdevOf (keyCtx s0 (trapBase + core))) t = true →
        ∀ i, decodeLane (BitVec.ofNat 32 (seenVal s0 t 4)) = .ok i → runs i) ∧
      ∀ n x p w, u = .scribe n x → progAt s0 n x = some p → p.count < 65536 → inScribe s0 p.launch p.regs.pc = true →
        imageWord s0 p.ctx p.launch p.regs.pc = some w →
        (∀ i, decodeScribe w = .ok i → runs i) ∧ ∀ r, decodeScribe w = .error r → runs .scribeIllegal

/-- Every step keeps memory and descriptors in canonical form, whatever moves: an instruction, an event, or the machine
by itself. -/
def Obligations.StepKeepsMemory : Prop :=
  ∀ s t : State, MemoryKept s → step s = .next t → MemoryKept t

/-- R175: an instruction in a stream that its column of R170 excludes raises ILLEGAL_IN_STREAM, and one of major 0x3E outside
the trap context PRIVILEGED, as precise faults; in the trap context all that the access stream may run is legal, with
major 0x3E. In the access stream MERGE retires with no effect, and an operand role that R53 marks as a fault raises
ILLEGAL_OPERAND. The premise on the accesses in flight is an invariant: each has a lane. -/
def Obligations.StreamRules : Prop :=
  (∀ (s : State) (k : Nat) (acc : Bool) (e : Env) (i : Instr), Solo s k acc e → (∀ f ∈ s.flights, f.lanes ≠ []) →
    let faults := fun (code : Nat) => exec i s = .next
      (takeFault (if acc then s else countUnit s (k / 32) (k % 32)) k acc (plainFault code))
    (streamsOf i = some .compute → acc = true → faults codeILLEGAL_IN_STREAM) ∧
    (streamsOf i = some .access → acc = false → faults codeILLEGAL_IN_STREAM) ∧
    (streamsOf i = some .privileged → e.trap = false → faults codePRIVILEGED)) ∧
  (∀ e r, e.acc = true → e.trap = true → (streamFault r e = none ↔ r ≠ .compute)) ∧
  (∀ (s : State) (k : Nat) (e : Env) (n : BitVec 16), Solo s k true e →
    exec (.merge n) s = .next (issued s k true (withStream (sliceAt s k) true retire) [] none)) ∧
  (∀ (e : Env) sl act (o : Operands) x, e.acc = true →
    (o.srcs.any (fun p => accessSourceFaults p.2) || o.dst.any (fun p => accessDestFaults p.2)) = true →
    checkOperands e sl act o x = some (.fault (plainFault codeILLEGAL_OPERAND))) ∧
  ∀ p ∈ intTable, ∀ (s : State) (k : Nat) (e : Env) (d a b : Code), Solo s k true e →
    (accessSourceFaults a.toNat = true ∨ accessSourceFaults b.toNat = true ∨ accessDestFaults d.toNat = true) →
    exec (p.1 d a b) s = .next (takeFault s k true (plainFault codeILLEGAL_OPERAND))

/-! Addresses. -/

/-- R102, R104: the regions of the 56-bit space: paged memory, which alone is translated; the SRAM window with its fields
DIE, CLUSTER, CORE and OFFSET; the local alias, which names the same bytes as the window address of its core; and the
rest, where an access fails with SRAM_RANGE, as it does where CLUSTER is 12 to 15 or CORE 24 to 31. -/
def Obligations.AddressRules : Prop :=
  (∀ core a, a < 0x00FF_0000_0000_0000 → regionOf core a = .paged) ∧
  (∀ core die cl co off, die < 8 → cl < 16 → co < 32 → off < 2 ^ 19 →
    regionOf core (0x00FF_0000_0000_0000 + die * 2 ^ 28 + cl * 2 ^ 24 + co * 2 ^ 19 + off) =
      if cl < 12 ∧ co < 24 then .sram (288 * die + 24 * cl + co) off else .unused) ∧
  (∀ core off, off < 2 ^ 19 → regionOf core (0x00FF_0001_0000_0000 + off) = .sram core off) ∧
  (∀ core a, (0x00FF_0000_8000_0000 ≤ a ∧ a < 0x00FF_0001_0000_0000) ∨ 0x00FF_0001_0008_0000 ≤ a →
    regionOf core a = .unused) ∧
  (∀ s q refused a, a < 2 ^ 56 → a % q.align = 0 → regionOf q.core a = .unused →
    checkAddr s q refused a = .bad codeSRAM_RANGE) ∧
  (∀ s q refused a tlb, regionOf q.core a ≠ .paged → checkAddr { s with tlb := tlb } q refused a = checkAddr s q refused a) ∧
  (∀ s q refused off t, off < 2 ^ 19 → q.core < 2304 → 2 ^ 19 % q.align = 0 →
    checkAddr s q refused (Config.aliasBase + off) = .ok t →
    ∃ u, checkAddr s q refused (sramAddr q.core off) = .ok u ∧ u.space = .sram ∧ t.space = .sram ∧ u.loc = t.loc) ∧
  sramAddr (288 * 2 + 24 * 5 + 17) 0x12340 = 0x00FF_0000_2589_2340

/-- R105, R411: an access to SRAM succeeds only where every byte it touches lies in the allotment of a team of the accessing
context on the core whose scratchpad it is, and a byte of that scratchpad that no such team holds, running there or saved from
there, fails it with SRAM_ACCESS, after the failures that come first. -/
def Obligations.ScratchRules : Prop :=
  ∀ (s : State) (q : AccSpec) (refused : Nat → Bool) (a core off : Nat), regionOf q.core a = .sram core off →
    (∀ t, checkAddr s q refused a = .ok t → t.loc = sramAddr core off ∧ ∀ i < q.bytes, ∃ k team, (k, some team) ∈ s.teams ∧
      k / 16 = core ∧ team.phase ≠ .saved ∧ team.ctx = q.ctx ∧ team.base ≤ off + i ∧ off + i < team.base + team.size) ∧
    ∀ i < q.bytes, (∀ k team, (k, some team) ∈ s.teams → k / 16 = core ∨ team.phase = .saved ∧ team.home = core →
        team.ctx = q.ctx → off + i < team.base ∨ team.base + team.size ≤ off + i) →
      a < 2 ^ 56 → a % q.align = 0 → (∀ c, q.space ≠ .paged c) → q.conv = false →
      checkAddr s q refused a = .bad codeSRAM_ACCESS

/-! Integer lane instructions. -/

/-- R183 to R187: the integer instructions of two sources, and those that read d, complete with the table's result in
every acting lane; nothing else of the machine changes. The products of 32 bits give 64, and IADD64 adds modulo 2^64. -/
def Obligations.IntegerResults : Prop :=
  (∀ p ∈ intTable, GivesAlu p.1 int3 (inWidth p.2)) ∧
  GivesAlu .imad int3d (fun i l => plainOut ((qget i.a l * qget i.b l + qget i.d l) % 2 ^ i.w)) ∧
  GivesAlu .bfeU int3 (inWidth fun w x y => x / 2 ^ (cutField w y).1 % 2 ^ (cutField w y).2) ∧
  GivesAlu .bfeS int3 (inWidth fun w x y =>
    if (cutField w y).2 = 0 then 0 else wrap w (sval (cutField w y).2 (x / 2 ^ (cutField w y).1))) ∧
  GivesAlu .bfi int3d (fun i l =>
    let f := cutField i.w (qget i.b l)
    plainOut ((qget i.d l - qget i.d l / 2 ^ f.1 % 2 ^ f.2 * 2 ^ f.1 + qget i.a l % 2 ^ f.2 * 2 ^ f.1) % 2 ^ i.w)) ∧
  GivesAlu .prmb int3 (fun i l => plainOut ((List.range (i.w / 8)).map fun j =>
    let t := bits (qget i.b l) (4 * j) 4
    let byte := bits (qget i.a l) (8 * (t % (if i.acc then 8 else 4))) 8
    (if i.acc = false ∧ 4 ≤ t % 8 then 0
      else if 8 ≤ t then (if 128 ≤ byte then 255 else 0) else byte) * 256 ^ j).sum) ∧
  GivesAlu .mulwU mulwForm (fun i l => plainOut (qget i.a l % 2 ^ 32 * (qget i.b l % 2 ^ 32))) ∧
  GivesAlu .mulwS mulwForm (fun i l => plainOut (wrap 64 (sval 32 (qget i.a l) * sval 32 (qget i.b l)))) ∧
  GivesAlu .iadd64 ⟨.both, .wide, .wide, some .wide, false, false, .no, false⟩
    (fun i l => plainOut ((qget i.a l + qget i.b l) % 2 ^ 64))

/-- R188: the functions of one source complete with the table's result in every acting lane. R189, R190: the compares
have the words of R189 and write predicate d of the stream's bank in the acting lanes alone, nothing where d is p0; SEL
has a word for each of p1 to p4, is for the compute stream alone, and picks a or b by the predicate, having read both. -/
def Obligations.SelectionResults : Prop :=
  (∀ p ∈ unaryTable, GivesUnary p.1 int2 (fun i l => plainOut (p.2 i.w (qget i.a l) % 2 ^ i.w))) ∧
  (∀ p ∈ compareTable, GivesAlu p.1 intCmp (fun i l => plainOut (p.2 i.w (qget i.a l) (qget i.b l)).toNat)) ∧
  (∀ (m : Fin 8) (d a b : Code),
    decodeLane (BitVec.ofNat 8 (0x20 + m) ++ d ++ a ++ b) = .ok ((compareTable[m]).1 d a b)) ∧
  (∀ acc act (p : Nat) f sl q l, q < 8 → l < 4 → predOf (streamOf acc (writePred acc act p f sl)) q l =
    if q = p ∧ p ≠ 0 ∧ act.getLsbD l = true then f l else predOf (streamOf acc sl) q l) ∧
  (∀ n : BitVec 2, GivesAlu (.sel n) ⟨.compute, .int, .int, some .int, false, false, .no, false⟩
    (fun i l => plainOut (if i.pred (n.toNat + 1) l then qget i.a l else qget i.b l))) ∧
  ∀ (n : BitVec 2) (d a b : Code), decodeLane (BitVec.ofNat 8 (0x28 + n.toNat) ++ d ++ a ++ b) = .ok (.sel n d a b)

/-- R191, R192: packed sums, differences, products and dot products, clamped where their mnemonic says so. -/
def Obligations.PackedResults : Prop :=
  GivesAlu .dot2Sat (packForm 16 true) (fun i l => satElem true 32 (sval 32 (qget i.d l) + dotProduct true 16 2 i l)) ∧
  GivesAlu .dot2Wrap (packForm 16 true) (fun i l =>
    plainOut (wrap 32 (sval 32 (qget i.d l) + dotProduct true 16 2 i l))) ∧
  (∀ p ∈ ([(.add2Sat, (· + ·)), (.sub2Sat, (· - ·))] : List ((Code → Code → Code → Instr) × (Int → Int → Int))),
    GivesAlu p.1 (packForm 16 false) (fun i l =>
      let r := fun j => satElem true 16 (halves p.2 i l j)
      ⟨(r 0).val + 2 ^ 16 * (r 1).val, 0, (r 0).clamp || (r 1).clamp⟩)) ∧
  (∀ p ∈ ([(.mul2Lo, (· * ·)), (.max2S, max), (.min2S, min)] : List ((Code → Code → Code → Instr) × (Int → Int → Int))),
    GivesAlu p.1 (packForm 16 false) (fun i l =>
      plainOut (wrap 16 (halves p.2 i l 0) + 2 ^ 16 * wrap 16 (halves p.2 i l 1)))) ∧
  GivesAlu .pack2 ⟨.compute, .int, .int, some .int, false, false, .no, false⟩
    (fun i l => plainOut (qget i.a l % 2 ^ 16 + 2 ^ 16 * (qget i.b l % 2 ^ 16))) ∧
  GivesUnary .isatS16 ⟨.compute, .int, .int, none, false, false, .no, false⟩
    (fun i l => ⟨wrap 32 (satS 16 (sval 32 (qget i.a l))).1, 0, (satS 16 (sval 32 (qget i.a l))).2⟩) ∧
  GivesAlu .dot4SSat (packForm 8 true) (fun i l => satElem true 32 (sval 32 (qget i.d l) + dotProduct true 8 4 i l)) ∧
  GivesAlu .dot4USat (packForm 8 true) (fun i l => satElem false 32 (((qget i.d l : Nat) : Int) + dotProduct false 8 4 i l)) ∧
  ∀ p ∈ ([(.add4USat, (· + ·)), (.sub4USat, (· - ·))] : List ((Code → Code → Code → Instr) × (Int → Int → Int))),
    GivesAlu p.1 (packForm 8 false) (fun i l =>
      let r := fun j => satElem false 8 (p.2 (bits (qget i.a l) (8 * j) 8) (bits (qget i.b l) (8 * j) 8))
      ⟨(r 0).val + 2 ^ 8 * (r 1).val + 2 ^ 16 * (r 2).val + 2 ^ 24 * (r 3).val, 0,
        (r 0).clamp || (r 1).clamp || (r 2).clamp || (r 3).clamp⟩)

/-- R194 to R196: the exchanges within a slice read the values of other lanes, acting or not; BALLOT and the
reductions combine the acting lanes. What a lane with an index out of range supplies is a free value (log entry 12). -/
def Obligations.ExchangeResults : Prop :=
  GivesAlu .shfl exch3 (fun i l => plainOut (qget i.a (qget i.b l % 4))) ∧
  GivesAlu .slidewDn exch3 (fun i l => plainOut (if l = 3 then qget i.b 3 else qget i.a (l + 1))) ∧
  GivesAlu .slidehDn exch3 (fun i l => plainOut
    (bits (qget i.a l) 16 16 + 2 ^ 16 * (if l = 3 then qget i.b 3 % 2 ^ 16 else bits (qget i.a (l + 1)) 0 16))) ∧
  GivesAlu .slidehUp exch3 (fun i l => plainOut
    ((if l = 0 then qget i.b 0 % 2 ^ 16 else bits (qget i.a (l - 1)) 16 16) + 2 ^ 16 * bits (qget i.a l) 0 16)) ∧
  GivesUnary .ballot exch2 (fun i _ => plainOut
    ((laneNums.map fun j => if i.act.getLsbD j ∧ qget i.a j ≠ 0 then 2 ^ j else 0).sum)) ∧
  GivesUnary .redadd exch2 (fun i _ => plainOut
    ((laneNums.map fun j => if i.act.getLsbD j then qget i.a j else 0).sum % 2 ^ 32)) ∧
  GivesUnary .redminS exch2 (fun i _ => plainOut (reduceS (fun x y => decide (x < y)) i)) ∧
  GivesUnary .redmaxS exch2 (fun i _ => plainOut (reduceS (fun x y => decide (y < x)) i))

/-- R197: the immediate instructions complete with a value built from k of R161. -/
def Obligations.ImmediateResults : Prop :=
  GivesImmediate .movi false (fun w k _ => wrap w k) ∧
  GivesImmediate .movhi true (fun _ k x => wrap 40 k * 2 ^ 16 + x % 2 ^ 16) ∧
  GivesImmediate .addi true (fun w k x => wrap w ((x : Int) + k)) ∧
  GivesImmediate .muli true (fun w k x => wrap w ((x : Int) * k))

/-! Floating-point lane instructions. -/

/-- R203 to R206: the scalar operations round once in the mode; minima and maxima round nothing; the compares write a
predicate. R207, R208: the packed operations act on each half on its own, and the dot products round their exact sum
once. NV of a dot product with a NaN and both infinities is the model's reading (log entry 7). -/
def Obligations.FloatResults : Prop :=
  (∀ p ∈ scalarTable, GivesAlu p.1 (fltForm p.2.1 p.2.2.2 .byMode)
    (fun i l => fltTable p.2.1 p.2.2.1 i (qget i.a l) (qget i.b l) (qget i.d l))) ∧
  (∀ p ∈ ([(.fmin, false, false), (.fmax, true, false), (.fminn, false, true), (.fmaxn, true, true)] :
      List ((Code → Code → Code → Instr) × Bool × Bool)),
    GivesAlu p.1 (fltForm .f32 false .no)
      (fun i l => plainOut (fminmax .f32 i.ftz p.2.1 p.2.2 (qget i.a l) (qget i.b l)))) ∧
  (∀ p ∈ ([(.fcmpEq, fun x y => decide (x = y)), (.fcmpLt, fun x y => decide (x < y)),
      (.fcmpLe, fun x y => decide (x ≤ y))] : List ((Code → Code → Code → Instr) × (Int → Int → Bool))),
    GivesAlu p.1 { fltForm .f32 false .no with pred := true } (fun i l =>
      let x := flushIn .f32 i.ftz (qget i.a l)
      let y := flushIn .f32 i.ftz (qget i.b l)
      plainOut (!xIsNan (decodeF .f32 false x) && !xIsNan (decodeF .f32 false y)
        && p.2 (valueKey .f32 x) (valueKey .f32 y)).toNat)) ∧
  GivesAlu .fcmpUnord { fltForm .f32 false .no with pred := true } (fun i l => plainOut
    (xIsNan (decodeF .f32 false (qget i.a l)) || xIsNan (decodeF .f32 false (qget i.b l))).toNat) ∧
  (∀ p ∈ pairTable, GivesAlu p.1 (fltForm p.2.1 p.2.2.2.2 p.2.2.2.1) (fun i l =>
    let r := fun j => fltTable p.2.1 p.2.2.1 i (bits (qget i.a l) (16 * j) 16) (bits (qget i.b l) (16 * j) 16)
      (bits (qget i.d l) (16 * j) 16)
    ⟨(r 0).val % 2 ^ 16 + 2 ^ 16 * ((r 1).val % 2 ^ 16), (r 0).flags ||| (r 1).flags, false⟩)) ∧
  ∀ p ∈ ([(.fdot2Bf, .bf16, 2), (.fdot2H, .f16, 2), (.fdot4E4, .e4m3, 4), (.fdot4E5, .e5m2, 4)] :
      List ((Code → Code → Code → Instr) × Fmt × Nat)),
    GivesAlu p.1 ⟨.compute, .flt .f32, .flt p.2.1, some (.flt p.2.1), true, false, .byMode, false⟩ (fun i l =>
      let w := fmtWidth p.2.1
      let x := fun (q : Quad Nat) j => decodeF p.2.1 i.ftz (bits (qget q l) (w * j) w)
      rounded .f32 i (xDot i.mode ((List.range p.2.2).map fun j => (x i.a j, x i.b j))
        [decodeF .f32 i.ftz (qget i.d l)]))

/-- R209 to R212: the functions of one operand round their exact result once; FABS, FNEG and FCLASS act on the pattern;
FFLOOR, FCEIL and FTRUNC round to an integer in their own direction and set no flag. -/
def Obligations.FunctionResults : Prop :=
  (∀ p ∈ functionTable, GivesUnary p.1 (cvtForm (.flt p.2.1) (.flt p.2.1) .byMode)
    (fun i l => rounded p.2.1 i (unaryFn p.2.2 i.mode (decodeF p.2.1 i.ftz (qget i.a l))))) ∧
  GivesUnary .fabs (cvtForm (.flt .f32) (.flt .f32) .no) (fun i l => plainOut (qget i.a l % 0x80000000)) ∧
  GivesUnary .fneg (cvtForm (.flt .f32) (.flt .f32) .no) (fun i l => plainOut (qget i.a l ^^^ 0x80000000)) ∧
  GivesUnary .fclass (cvtForm .int (.flt .f32) .no) (fun i l => plainOut (fclassOf (qget i.a l))) ∧
  ∀ p ∈ ([(.ffloor, .rd), (.fceil, .ru), (.ftrunc, .rz)] : List ((Code → Code → Instr) × RMode)),
    GivesUnary p.1 (cvtForm (.flt .f32) (.flt .f32) .no) (fun i l =>
      plainOut (roundFmt .f32 .rn false i.ftz (unaryFn .rint p.2 (decodeF .f32 i.ftz (qget i.a l))).1).1)

/-- R90 to R92, R213 to R217: conversions, packing and insertion complete with their rounded results. -/
def Obligations.ConversionResults : Prop :=
  (∀ p ∈ widenTable, GivesUnary p.1 (cvtForm (.flt p.2.2) (.flt p.2.1) .no) (fun i l =>
    plainOut (roundFmt p.2.2 .rn false false (decodeF p.2.1 i.ftz (bits (qget i.a l) 0 (fmtWidth p.2.1)))).1)) ∧
  (∀ p ∈ narrowTable, GivesUnary p.1 (cvtForm .int (.flt .f32) .byMode)
    (fun i l => roundedSat p.2 i (decodeF .f32 i.ftz (qget i.a l)))) ∧
  GivesUnary .d2f (cvtForm (.flt .f32) (.flt .f64) .byMode)
    (fun i l => rounded .f32 i (decodeF .f64 i.ftz (bits (qget i.a l) 0 64), 0)) ∧
  (∀ p ∈ ([(.f2iS, true), (.f2iU, false)] : List ((Code → Code → Instr) × Bool)),
    GivesUnary p.1 (cvtForm .int (.flt .f32) .byMode) (fun i l =>
      let r := floatToInt p.2 32 i.mode (decodeF .f32 i.ftz (qget i.a l))
      ⟨r.1, r.2, false⟩)) ∧
  GivesUnary .i2fS (cvtForm (.flt .f32) .int .byMode) (fun i l => rounded .f32 i (xInt (sval 32 (qget i.a l)), 0)) ∧
  GivesUnary .i2fU (cvtForm (.flt .f32) .int .byMode) (fun i l => rounded .f32 i (xInt ((qget i.a l : Nat) : Int), 0)) ∧
  GivesUnary .i2dS (cvtForm (.flt .f64) .int .no)
    (fun i l => plainOut (roundFmt .f64 .rn false false (xInt (sval 32 (qget i.a l)))).1) ∧
  GivesUnary .i2dU (cvtForm (.flt .f64) .int .no)
    (fun i l => plainOut (roundFmt .f64 .rn false false (xInt ((qget i.a l : Nat) : Int))).1) ∧
  (∀ p ∈ ([(.packbf, .bf16), (.packh, .f16)] : List ((Code → Code → Code → Instr) × Fmt)),
    GivesAlu p.1 ⟨.compute, .int, .flt .f32, some (.flt .f32), false, false, .byMode, false⟩ (fun i l =>
      let r := fun x => roundedSat p.2 i (decodeF .f32 i.ftz x)
      ⟨(r (qget i.a l)).val % 2 ^ 16 + 2 ^ 16 * ((r (qget i.b l)).val % 2 ^ 16),
        (r (qget i.a l)).flags ||| (r (qget i.b l)).flags, false⟩)) ∧
  (∀ p ∈ ([(.ins8E4, .e4m3, 4), (.ins4E2, .e2m1, 8)] : List ((Code → Code → Code → Instr) × Fmt × Nat)),
    GivesAlu p.1 ⟨.compute, .int, .flt .f32, some .int, true, false, .byRna, false⟩ (fun i l =>
      let w := fmtWidth p.2.1
      let at_ := w * (qget i.b l % p.2.2)
      let r := roundedSat p.2.1 i (decodeF .f32 i.ftz (qget i.a l))
      ⟨qget i.d l - bits (qget i.d l) at_ w * 2 ^ at_ + r.val * 2 ^ at_, r.flags, false⟩)) ∧
  GivesAlu .fscale ⟨.compute, .flt .f32, .flt .f32, some .int, false, false, .byMode, false⟩
    (fun i l => rounded .f32 i (xScale (sval 32 (qget i.b l)) (decodeF .f32 i.ftz (qget i.a l)), 0)) ∧
  GivesAlu .fsignc (fltForm .f32 false .no)
    (fun i l => plainOut (qget i.a l % 0x80000000 + (if bitAt (qget i.b l) 31 then 0x80000000 else 0)))

/-! Special registers, hints and control flow. -/

/-- R66, R67, R198: MFSR delivers the register's value to each acting lane; in the compute stream the upper half of a
64-bit register goes to HIGH, the model's choice where no lane acts (log entry 144). -/
def Obligations.MfsrResults : Prop :=
  ∀ (s : State) (k : Nat) (acc : Bool) (e : Env) (d : Code) (r : BitVec 16),
    Solo s k acc e → srFault e r.toNat = none →
    Readable ⟨[], some (false, d.toNat)⟩ (actLanes (streamOf e.acc (sliceAt s k))) e (sliceAt s k) [] (sliceAt s k) →
    exec (.mfsr d r) s = .next
      (let sl := sliceAt s k
       let act := actLanes (streamOf e.acc sl)
       let x := writeDst e act false d.toNat (qof fun l => readSr s e sl r.toNat l) sl
       let y := if e.acc = false ∧ srWide r.toNat = true
         then { x.1 with high := BitVec.ofNat 32 (readSr s e sl r.toNat 0 / 2 ^ 32) } else x.1
       issued s k acc (finishLane e sl act ⟨[], some (false, d.toNat)⟩ none none y) x.2 none)

/-- R66, R68, R198, R321: MTSR writes a register that the stream may write, from the lowest acting lane or lane by lane, and
retires without effect on the others; PINMASK goes to the team, and in the trap context to the bound team, and WDLIMIT to
the bound team's context. That the trap context reaches the bound team, and has its own copy of what a slice or a stream
holds, is the model's reading (log entries 13 and 149). -/
def Obligations.MtsrResults : Prop :=
  (∀ (s : State) (k : Nat) (acc : Bool) (e : Env) (a : Code) (r : BitVec 16) (l : Nat) (vals : List (Quad Nat)) (sl1 : Slice),
    Solo s k acc e → e.trap = false → srFault e r.toNat = none →
    Readable ⟨[(.int, a.toNat)], none⟩ (actLanes (streamOf e.acc (sliceAt s k))) e (sliceAt s k) vals sl1 →
    lowestLane (actLanes (streamOf e.acc (sliceAt s k))) = some l →
    (srUse e.acc e.trap r.toNat = .rw → srValueFault s e r.toNat (qget (vals.headD (qfill 0)) l) = none) →
    exec (.mtsr a r) s = .next
      (let sl := sliceAt s k
       let act := actLanes (streamOf e.acc sl)
       let q := vals.headD (qfill 0)
       let writes := decide (srUse e.acc e.trap r.toNat = .rw)
       let y := if writes then writeSr r.toNat act q (qget q l) sl1 else sl1
       issued s k acc (finishLane e sl act ⟨[(.int, a.toNat)], none⟩ (some (false, a.toNat)) none y) []
         (if writes ∧ r.toNat = 0x24 then some (BitVec.ofNat 32 (qget q l)) else none))) ∧
  ∀ (s : State) (core : Nat) (e : Env) (a : Code) (r : BitVec 16) (vals : List (Quad Nat)) (sl1 : Slice),
    Solo s (trapBase + core) true e → e.trap = true → srFault e r.toNat = none →
    let sl := sliceAt s (trapBase + core)
    let act := actLanes sl.a
    let q := vals.headD (qfill 0)
    Readable ⟨[(.int, a.toNat)], none⟩ act e sl vals sl1 → act.getLsbD 0 = true →
    (srUse true true r.toNat = .rw → srValueFault s e r.toNat (qget q 0) = none) →
    exec (.mtsr a r) s = .next
      (let writes := decide (srUse true true r.toNat = .rw)
       let y := if writes then writeSr r.toNat act q (qget q 0) sl1 else sl1
       let word := BitVec.ofNat 32 (qget q 0)
       let t := issued s (trapBase + core) true (finishLane e sl act ⟨[(.int, a.toNat)], none⟩ (some (false, a.toNat)) none y) []
         (if writes ∧ r.toNat = 0x24 then some word else none)
       if r = 0x104 then putWdlimit t core (boundCtx s core) (qget q 0)
       else if r = 0x24 then putPin t (teamKey core (coreAt s core).tteam) (some word)
       else t)

/-- R163 to R167: a hint only goes to the pending state, which the next instruction consumes. -/
def Obligations.HintsPend : Prop :=
  ∀ (s : State) (k : Nat) (acc : Bool) (e : Env), Solo s k acc e →
    let pend := fun (f : Hint → Hint) => Host.Outcome.next (φ := Fault) (ρ := Refusal)
      (issued s k acc (withStream (sliceAt s k) e.acc fun st => retireHint st (f st.hint)) [] none)
    (∀ i, exec (.hintImm i) s = pend fun h => { h with immp := i, immv := true }) ∧
    (∀ p n (l : BitVec 4), exec (.hintGuard p n l) s =
      pend fun h => { h with gpred := p, gneg := n, gleft := if l = 0 then 16 else l.toNat }) ∧
    (∀ (r : BitVec 3) x la lb, r.toNat ≤ 5 → exec (.hintMod r x la lb) s =
      pend fun h => { h with modrm := r, modsat := x, lasta := la, lastb := lb, modv := true }) ∧
    (∀ i, exec (.hintSched i) s = pend id)

/-- R28, R199: IF saves the mask and narrows it, ELSE takes the saved lanes that the mask leaves out, ENDIF restores. -/
def Obligations.MaskStackResults : Prop :=
  ∀ (s : State) (k : Nat) (acc : Bool) (e : Env), Solo s k acc e →
    let st := streamOf e.acc (sliceAt s k)
    let goes := fun (f : Stream → Stream) => Host.Outcome.next (φ := Fault) (ρ := Refusal)
      (issued s k acc (withStream (sliceAt s k) e.acc f) [] none)
    (∀ p n, st.mstk.depth ≠ 8 → exec (.ifP p n) s = goes fun st =>
      { retire st with mask := holds st p n, mstk := ⟨st.mstk.depth + 1, aput 0 st.mstk.ents st.mstk.depth st.mask⟩ }) ∧
    (st.mstk.depth ≠ 0 → exec .elseP s = goes fun st =>
      { retire st with mask := aget 0 st.mstk.ents (st.mstk.depth - 1) &&& ~~~st.mask }) ∧
    (st.mstk.depth ≠ 0 → exec .endif s = goes fun st =>
      { retire st with
        mask := aget 0 st.mstk.ents (st.mstk.depth - 1), mstk := ⟨st.mstk.depth - 1, st.mstk.ents⟩ })

/-- R46, R160, R236, R237, R238: where the branches, calls and returns go; CALL pushes the following PC and RET pops it; BRX
takes the value of its lowest active lane. A RET at the call depth at which a notice was taken returns from it: to NRET, with the
mask, the mask stack and the pending hints that the notice saved. That an access-stream BRX pops one entry, zero-extended, is the
model's reading (log entry 172). -/
def Obligations.ControlFlowResults : Prop :=
  (∀ (s : State) (k : Nat) (acc : Bool) (e : Env), Solo s k acc e →
    let st := streamOf e.acc (sliceAt s k)
    let goes := fun (f : Stream → Stream) => Host.Outcome.next (φ := Fault) (ρ := Refusal)
      (issued s k acc (withStream (sliceAt s k) e.acc f) [] none)
    let dest := fun (o : BitVec 20) => st.pc + BitVec.ofNat 64 (wrap 64 (4 * sval 20 o.toNat))
    (∀ p n o, exec (.braAny p n o) s = goes fun st => if holds st p n ≠ 0 then retireTo st (dest o) else retire st) ∧
    (∀ p n o, exec (.braAll p n o) s = goes fun st =>
      if st.mask ≠ 0 ∧ holds st p n = st.mask then retireTo st (dest o) else retire st) ∧
    (∀ o, exec (.jmp o) s = goes fun st => retireTo st (dest o)) ∧
    (∀ o, st.rstk.depth ≠ 16 → exec (.call o) s = goes fun st =>
      { retireTo st (dest o) with rstk := ⟨st.rstk.depth + 1, aput 0 st.rstk.ents st.rstk.depth (st.pc + 4)⟩ }) ∧
    (st.rstk.depth ≠ 0 → (e.acc = true ∨ ∀ v, (sliceAt s k).notice = some v → st.rstk.depth ≠ v.depth) → exec .ret s = goes fun st =>
      { retireTo st (aget 0 st.rstk.ents (st.rstk.depth - 1)) with rstk := ⟨st.rstk.depth - 1, st.rstk.ents⟩ }) ∧
    (∀ (a : Code) vals sl1 l, Readable ⟨[(.int, a.toNat)], none⟩ st.mask e (sliceAt s k) vals sl1 →
      lowestLane st.mask = some l → exec (.brx a) s = .next (issued s k acc
        (withStream (finishLane e (sliceAt s k) st.mask ⟨[(.int, a.toNat)], none⟩ (some (false, a.toNat)) none sl1) e.acc
          fun x => { x with pc := BitVec.ofNat 64 (qget (vals.headD (qfill 0)) l) }) [] none))) ∧
  ∀ (s : State) (k : Nat) (e : Env) (v : NoticeSave), Solo s k false e → (sliceAt s k).notice = some v →
    (sliceAt s k).c.rstk.depth = v.depth →
    exec .ret s = .next (issued s k false { sliceAt s k with
      notice := none
      c := { retireTo (sliceAt s k).c (BitVec.ofNat 64 (sliceAt s k).nret.toNat) with
        mask := v.mask, mstk := v.mstk, hint := v.hint } } [] none)

/-- R30, R33, R46, R135, R136, R240, R241: MERGE makes the compute stream wait, and BAR and QBAR either stream, once an acquiring
read before them is complete; each releases whoever waits with it, a barrier only with the accesses before it performed. A
YIELD sets the age and the watchdog; a MERGE of the access stream retires. That the trap context, which is no participant,
retires at a barrier is the model's reading (log entry 16). -/
def Obligations.JoinResults : Prop :=
  ∀ (s : State) (k : Nat) (acc : Bool) (e : Env), Solo s k acc e →
    let sl := sliceAt s k
    let retires := issued s k acc (withStream sl acc retire) [] none
    (∀ i, exec (.merge i) s = .next (if acc then issued s k acc (withStream sl true retire) [] none
      else tryMerge (issued s k acc (withStream sl false fun st => waiting st (.merge i)) [] none) (k / 32) (k % 32 / 8))) ∧
    exec .yield s = .next
      (let x := withStream sl acc fun st => { retire st with age := s.clock.toNat }
       let s1 := issued s k acc (if acc then x else takeNotice x) [] none
       if trapBase ≤ k then s1 else yieldTeam (if acc = false then spendUnits s1 (k / 32) [k % 32]
         else if sl.c.exited = true then spendUnit s1 (k / 32) sl.unit else s1) (k / 32)) ∧
    (∀ n : BitVec 5, n.toNat < barCount s e → trapBase ≤ k → exec (.bar n) s = .next retires ∧ exec (.qbar n) s = .next retires) ∧
    (∀ n : BitVec 5, n.toNat < barCount s e → k < trapBase → (acc = true → acqPending s e.key = false) → exec (.bar n) s = .next
      (tryBar (issued s k acc (withStream sl acc fun st => arriving s st (.bar n.toNat)) [] none) (k / 32) acc n.toNat)) ∧
    (∀ (n : BitVec 5) team, n.toNat < barCount s e → k < trapBase → (acc = true → acqPending s e.key = false) →
      teamAt s (k / 32) = some team → exec (.qbar n) s = .next
      (tryQbar (issued s k acc (withStream sl acc fun st => arriving s st (.qbar n.toNat)) [] none) team.quire acc n.toNat))

/-- R247 to R249, R334: REGION records the PC, the mask and the stacks and clears the strike count; TRAP takes its
trap with the PC past it, in the trap context at it; EXIT ends the stream, in the access stream once its counters are 0.
That TRAP consumes no hint, and that EXIT in the trap context ends nothing but its stream, is the model's reading (log
entries 42 and 46). -/
def Obligations.RegionTrapExitResults : Prop :=
  ∀ (s : State) (k : Nat) (acc : Bool) (e : Env), Solo s k acc e →
    let sl := sliceAt s k
    ((acc = true → sl.check = none) → exec .region s = .next (issued s k acc { withStream sl acc (fun st =>
      { retire st with region := st.pc, regSave := ⟨st.mask, st.mstk, st.rstk⟩ }) with strikes := 0, rolled := false } [] none)) ∧
    (∀ c : BitVec 16, exec (.trapOp c) s = .next (if trapBase ≤ k then takeFault s k acc ⟨codeTRAP, c.toNat, 0, 0⟩
      else trapped s k acc (withStream sl acc fun st => { st with pc := st.pc + 4, prev := st.pc }) ⟨codeTRAP, c.toNat, 0, 0⟩)) ∧
    ((acc = true → sl.check = none ∧ sl.nld = 0 ∧ sl.nst = 0 ∧ sl.ncp = 0 ∧ sl.ntl = 0 ∧ sl.anvErr = none ∧ sl.scbErr = none) →
      exec .exit s = .next
        (let t := issued s k acc (withStream sl acc fun st => { retire st with exited := true, hint := Hint.none }) [] none
         if trapBase ≤ k then t else afterExit t k acc))

/-! Memory instructions. -/

/-- R83, R219, R223, R227, R228: a load whose lanes pass their checks starts: its entries are reserved in program order and LD
counts it; PREF only retires. An LDDESC or STDESC of an address in the SRAM windows passes its check whatever lies there, since no
descriptor does. An LDX pops its esize as a source of the width it reads, the model's choice (log entry
127). -/
def Obligations.LoadsStart : Prop :=
  ∀ (s : State) (k : Nat) (e : Env) (b : AReg) (sc : Scope) (o : Order) (w : Width), Solo s k true e →
    let sl := sliceAt s k
    let act := actLanes sl.a
    let fl := fun (kind : FlightKind) (ls : List LaneAcc) => (⟨0, e.key, kind, ls, isAcq o, false, false, sl.a.pc, 0, []⟩ : Flight)
    (∀ (d : Code) ts, FmReady e sl false d.toNat b.toNat → LoadFree s e sl d.toNat (widthEntries w) →
      checkLanes s (laneSpec e (widthBytes w) false false) sl (laneAddrs sl b.toNat) = .ok ts →
      exec (.ld d b sc o w) s = .next (started s k true
        (loadEnd sl d.toNat (widthEntries w) (fmFinish e act false d.toNat b.toNat))
        (fl (.load (widthBytes w) (loadSeqs sl d.toNat (widthEntries w))) (loadAccs ts)))) ∧
    (∀ (d : Code) l0 t, FmReady e sl false d.toNat b.toNat → LoadFree s e sl d.toNat (widthEntries w) →
      lowestLane act = some l0 →
      checkLanes s (laneSpec e (widthBytes w) false false) sl [(l0, laneAddr sl b.toNat l0)] = .ok [(l0, t)] →
      exec (.ldBc d b sc o w) s = .next (started s k true
        (loadEnd sl d.toNat (widthEntries w) (fmFinish e act false d.toNat b.toNat))
        (fl (.load (widthBytes w) (loadSeqs sl d.toNat (widthEntries w)))
          ((maskLanes act).map fun l => ⟨l, t, t, 0, 0, false⟩)))) ∧
    (∀ write refused a core off, a < 2 ^ 56 → regionOf e.core a = .sram core off →
      descCheck s e write refused a = .ok ⟨.sram, sramAddr core off, none, 0, a⟩ ∧
      ∀ val, stdescCheck s e refused val a = .ok ⟨.sram, sramAddr core off, none, 0, a⟩) ∧
    (FmReady e sl true 0xAE b.toNat →
      exec (.pref b sc w) s = .next (issued s k true (fmFinish e act true 0xAE b.toNat sl) [] none)) ∧
    (∀ (d : Code) ts, FmReady e sl false d.toNat b.toNat → LoadFree s e sl d.toNat 1 →
      joinChks ((maskLanes act).map fun l => ⟨l, laneAddr sl b.toNat l,
        descCheck s e false (refusedOf sl) (laneAddr sl b.toNat l)⟩) = .ok ts →
      exec (.lddesc d b sc o) s = .next (started s k true
        (loadEnd sl d.toNat 1 (fmFinish e act false d.toNat b.toNat))
        (fl (.lddesc (loadSeqs sl d.toNat 1)) (loadAccs ts)))) ∧
    (∀ (d : Code) (c : BitVec 2) q x ts, e.trap = false →
      FmReady e sl true d.toNat b.toNat → LoadFree s e sl 0xA8 (widthEntries w) →
      readData e act (widthEntries w) d.toNat sl = .got q x →
      (let raw := ldxRaw w act q
       joinChks ((maskLanes act).map fun l => ⟨l, laneAddr sl b.toNat l,
         ldxChk s c.toNat raw (checkAddr s (laneSpec e (widthBytes w) false true) (refusedOf sl) (laneAddr sl b.toNat l))⟩)
         = .ok ts →
       exec (.ldx d b sc o w c) s = .next (started s k true
        (loadEnd sl 0xA8 (widthEntries w) fun y => match readData e act (widthEntries w) d.toNat y with
          | .got _ z => fmFinish e act true d.toNat b.toNat z
          | _ => fmFinish e act true d.toNat b.toNat y)
        (fl (.ldx (widthBytes w) (loadSeqs sl 0xA8 (widthEntries w)) c.toNat) (ts.map fun p =>
          ⟨p.1, p.2, p.2, if c.toNat = 0 then 2 else (tileNibbles s (p.2.loc / 4096 * 4096) raw).getD 2, 0, false⟩)))))

/-- R224 to R226, R228: a store, an atomic or an STDESC whose lanes pass their checks starts with the data it has read:
ST counts it, and an atomic that returns reserves its entries and counts in LD. -/
def Obligations.WritesStart : Prop :=
  ∀ (s : State) (k : Nat) (e : Env) (d : Code) (b : AReg) (sc : Scope) (o : Order) (w : Width) (q : Quad Nat) (sl1 : Slice)
    (ts : List (Nat × Target)), Solo s k true e → FmReady e (sliceAt s k) true d.toNat b.toNat →
    let sl := sliceAt s k
    let act := actLanes sl.a
    let fin := fmFinish e act true d.toNat b.toNat
    (∀ i ∈ ([.st, .stNt] : List (Code → AReg → Scope → Order → Width → Instr)), WriteFree s e sl none →
      readData e act (widthEntries w) d.toNat sl = .got q sl1 →
      checkLanes s (laneSpec e (widthBytes w) true false) sl (laneAddrs sl b.toNat) = .ok ts →
      exec (i d b sc o w) s = .next (started s k true (writeEnd sl sl1 none fin)
        ⟨0, e.key, .store (widthBytes w), ts.map fun p => ⟨p.1, p.2, p.2, qget q p.1 % 256 ^ widthBytes w, 0, false⟩,
          isAcq o, isRel o, false, sl.a.pc, 0, []⟩)) ∧
    (WriteFree s e sl none → readData e act 1 d.toNat sl = .got q sl1 →
      joinChks ((maskLanes act).map fun l => ⟨l, laneAddr sl b.toNat l,
        stdescCheck s e (refusedOf sl) (qget q l) (laneAddr sl b.toNat l)⟩) = .ok ts →
      exec (.stdesc d b sc o) s = .next (started s k true (writeEnd sl sl1 none fin)
        ⟨0, e.key, .stdesc, ts.map fun p => ⟨p.1, p.2, p.2, qget q p.1 % 2 ^ 16, 0, false⟩, isAcq o, isRel o, false,
          sl.a.pc, 0, []⟩)) ∧
    (∀ p ∈ atomicTable, ∀ (nr : Bool) (x : Quad Nat) (sl2 : Slice), (e.trap = true → nr = true ∧ p.2 ≠ 9) →
      let v := atomicWidth p.2 w
      let ret := if nr then none else some (widthEntries v)
      WriteFree s e sl ret → readData e act (widthEntries v) d.toNat sl = .got q sl1 →
      (if p.2 = 9 then readData e act (widthEntries v) 0xA8 sl1 = .got x sl2 else x = qfill 0 ∧ sl2 = sl1) →
      checkLanes s (laneSpec e (widthBytes v) true false) sl (laneAddrs sl b.toNat) = .ok ts →
      exec (p.1 d b sc o w nr) s = .next (started s k true (writeEnd sl sl2 ret fin)
        ⟨0, e.key, .atomic p.2 (widthBytes v) (seqsFrom sl (ret.getD 0)) !nr,
          ts.map fun t => ⟨t.1, t.2, t.2, qget q t.1 % 256 ^ widthBytes v, qget x t.1 % 256 ^ widthBytes v, false⟩,
          isAcq o, isRel o, false, sl.a.pc, 0, []⟩))

/-- R229 to R231: a lane copy whose source, destination and barrier pass their checks starts: CP counts it and its STAT
register waits for the status words; without acting lanes it only retires, or makes its arrival at issue. -/
def Obligations.CopiesStart : Prop :=
  ∀ p ∈ copyTable, ∀ (s : State) (k : Nat) (e : Env) (t sr ds : AReg) (z : CopySize) (arv : Bool) (ts : List (Nat × Target)),
    Solo s k true e →
    let sl := sliceAt s k
    let act := actLanes sl.a
    let n := copyBytes z
    let o : Operands := ⟨[(.int, t.toNat), (.int, sr.toNat), (.int, ds.toNat)], none⟩
    let fin : Slice := { finishLane e sl act o none none sl with park := none }
    let bar := checkAddr s (barrierSpec e) (refusedOf sl) (regVal true sl t.toNat ((lowestLane act).getD 0))
    checkOperands e sl act o false = none → stallOperands e sl act o = none → badSrc e sl act o = false →
    (∀ f ∈ s.flights, f.id < s.serial ∧ f.lanes ≠ []) →
    (act ≠ 0 → sl.check = none → sl.ncp ≠ 63 → acqPending s e.key = false →
      joinChks ((maskLanes act).map fun l =>
        ⟨l, copyAddr s e sl p.2.1 n (regVal true sl sr.toNat l) (regVal true sl ds.toNat l),
          copyChk s e sl p.2.1 p.2.2 n (regVal true sl sr.toNat l) (regVal true sl ds.toNat l)⟩) = .ok ts →
      (arv = true → ∃ b, bar = .ok b) →
      exec (p.1 t sr ds z arv) s = .next (started s k true
        { fin with ncp := fin.ncp + 1, statPend := fin.statPend ++ [(t.toNat, act)] }
        ⟨0, e.key, .acp n t.toNat (if arv then chkTarget bar else none), (maskLanes act).map fun l =>
          ⟨l, copyTarget s e sl n false (regVal true sl sr.toNat l), copyTarget s e sl n true (regVal true sl ds.toNat l),
            0, 0, false⟩, false, false, false, sl.a.pc, 0, []⟩)) ∧
    (act = 0 → arv = false → exec (p.1 t sr ds z arv) s = .next (issued s k true fin [] none)) ∧
    (∀ b, act = 0 → arv = true → sl.check = none → acqPending s e.key = false → bar = .ok b →
      exec (p.1 t sr ds z arv) s = .next (arriveAt { putSlice s k fin with serial := s.serial + 1 } b.loc 1))

/-- R232, R233, R245: the fences and WAITCNT retire once what they wait for is done; a releasing FENCE marks the
later writes of the slice, and WAITCNT meets no pending error. That a FENCE waits at its own issue is the model's
reading (log entry 123). -/
def Obligations.FencesRetire : Prop :=
  ∀ (s : State) (k : Nat) (e : Env), Solo s k true e →
    let sl := sliceAt s k
    let mine := s.flights.filter fun f => f.owner = e.key
    let goes := fun (x : Slice) => Host.Outcome.next (φ := Fault) (ρ := Refusal) (issued s k true (withStream x true retire) [] none)
    (∀ sc o, actLanes sl.a ≠ 0 → sl.check = none → (isRel o = true → mine.any isLaneWrite = false) →
      (isAcq o = true → mine.any isLaneRead = false) →
      exec (.fence sc o) s = goes (if isRel o then { sl with relMark := s.serial } else sl)) ∧
    (∀ wm rm : BitVec 6, actLanes sl.a ≠ 0 → sl.check = none → (wm.getLsbD 0 = true → mine.any isLaneWrite = false) →
      (wm.getLsbD 1 = true → mine.any isCopy = false) → exec (.xfence wm rm) s = goes sl) ∧
    (∀ l st c t : BitVec 6, (l.toNat < 63 → sl.check = none) → sl.nld ≤ l.toNat → sl.nst ≤ st.toNat →
      sl.ncp ≤ c.toNat → sl.ntl ≤ t.toNat → (t.toNat < 63 → sl.anvErr = none) → (c.toNat < 63 → sl.scbErr = none) →
      exec (.waitcnt l st c t) s = goes sl)

/-- R61, R234, R235, R246, R368: a WAITADDR goes on at once where the word differs from the value it was given, and else waits
there, without a read where the memory does not serve its virtual device yet, with the stream and the entries that it has popped
kept for a check that fails (R61, R220); a SLEEPUNTIL goes on once CLOCK has reached its value, with a barrier only where the phase is the promised one,
and else sleeps. Each counts as a YIELD, of a team's own streams. -/
def Obligations.WaitResults : Prop :=
  (∀ (s : State) (k : Nat) (e : Env) (d : Code) (b : AReg) (sc : Scope) (o : Order) (w : Width) (q : Quad Nat) (sl1 : Slice)
    (l : Nat) (t : Target), Solo s k true e → FmReady e (sliceAt s k) true d.toNat b.toNat →
    let yields := fun (t : State) => if trapBase ≤ k then t else yieldTeam t (k / 32)
    let reads := fun (ts : List Target) (t : State) => if trapBase ≤ k then t else spendFor t (keyCtx s k) ts
    let sl := sliceAt s k
    let act := actLanes sl.a
    let n := widthBytes w
    let x := qget q l % 256 ^ n
    readData e act (widthEntries w) d.toNat sl = .got q sl1 → lowestLane act = some l →
    checkLanes s (laneSpec e n false false) sl [(l, laneAddr sl b.toNat l)] = .ok [(l, t)] → acqPending s e.key = false →
    let parked := issued s k true { sl1 with
      park := none, watch := some (watchPoint s sl sl1), a := waiting sl1.a (.addr t n x (isAcq o) [d.toNat, b.toNat]) } [] none
    (servedFree s (vdevOf e.ctx) t = true → probe s e.key t n x = .go → exec (.waitaddr d b sc o w) s = .next (yields
      (reads [t] (issued s k true (wokenSlice s e act [d.toNat, b.toNat] sl1) [] none)))) ∧
    (servedFree s (vdevOf e.ctx) t = true → probe s e.key t n x = .wait →
      exec (.waitaddr d b sc o w) s = .next (yields (reads [t] parked))) ∧
    (servedFree s (vdevOf e.ctx) t = false → exec (.waitaddr d b sc o w) s = .next (yields (reads [] parked)))) ∧
  ∀ (s : State) (k : Nat) (e : Env) (c b : AReg), Solo s k true e →
    let yields := fun (t : State) => if trapBase ≤ k then t else yieldTeam t (k / 32)
    let sl := sliceAt s k
    let l := (lowestLane sl.a.mask).getD 0
    let clk := regVal true sl c.toNat l
    let x := regVal true sl b.toNat l
    let ends := fun (codes : List Nat) => yields (issued s k true (wokenSlice s e sl.a.mask codes sl) [] none)
    let sleeps := fun (v : Option Word64) (codes : List Nat) =>
      yields (issued s k true { sl with a := waiting sl.a (.sleep (BitVec.ofNat 64 clk) v l codes) } [] none)
    let plain : Operands := ⟨[(.int, c.toNat)], none⟩
    let both : Operands := ⟨[(.int, c.toNat), (.int, b.toNat)], none⟩
    (checkOperands e sl sl.a.mask plain false = none → stallOperands e sl sl.a.mask plain = none →
      badSrc e sl sl.a.mask plain = false →
      exec (.sleepuntil c) s = .next (if s.clock.toNat < clk then sleeps none [c.toNat] else ends [c.toNat])) ∧
    (∀ t, checkOperands e sl sl.a.mask both false = none → stallOperands e sl sl.a.mask both = none →
      badSrc e sl sl.a.mask both = false → checkAddr s (barrierSpec e) (fun _ => false) (x - x % 2) = .ok t →
      (s.clock.toNat < clk → exec (.sleepuntilBar c b) s = .next (sleeps (some (BitVec.ofNat 64 x)) [c.toNat, b.toNat])) ∧
      (clk ≤ s.clock.toNat → acqPending s e.key = false → (s.flights.any fun f => f.owner = e.key && touches f t.loc 16) = false →
        promiseKept s (BitVec.ofNat 64 x) t.loc = true → exec (.sleepuntilBar c b) s = .next (ends [c.toNat, b.toNat])))

/-- R243, R244: ARRIVE starts one arrival of its count: at an address of its own in the access stream, where ST
counts it, and at an offset into the team's allotment in the compute stream, which waits for it. That ADDR from a
queue takes two entries, and pops before COUNT, is the model's reading (log entries 29 and 45), and so are that ST rises for
an ARRIVE without an active lane (log entry 151) and that the compute stream waits with its PC past the ARRIVE (log entry
106). -/
def Obligations.ArriveStarts : Prop :=
  ∀ (s : State) (k : Nat) (acc : Bool) (e : Env) (a c : Code) (sc : Scope) (vals : List (Quad Nat)) (sl1 : Slice),
    Solo s k acc e →
    let sl := sliceAt s k
    let st := streamOf acc sl
    let l := (lowestLane st.mask).getD 0
    let addr := (arriveValues acc a.toNat l vals).1
    let count := (arriveValues acc a.toNat l vals).2
    let fin := arriveEnd e sl a.toNat c.toNat sl1
    Readable (arriveOperands acc a.toNat c.toNat) st.mask e sl vals sl1 →
    (∀ t, acc = true → checkAddr s (barrierSpec e) (fun _ => false) addr = .ok t → sl.check = none → sl.nst ≠ 63 →
      acqPending s e.key = false → exec (.arrive a c sc) s = .next (started s k acc { fin with nst := fin.nst + 1 }
        ⟨0, e.key, .arrive false, [⟨l, t, t, count % 2 ^ 32, 0, false⟩], false, true, false, sl.a.pc, 0, []⟩)) ∧
    (∀ team, acc = false → teamAt s (k / 32) = some team → addr % 16 = 0 → addr + 16 ≤ team.size →
      sramWaits team (team.base + addr) 16 = false →
      let t : Target := ⟨.sram, sramAddr e.core (team.base + addr), none, 0, Config.aliasBase + addr⟩
      exec (.arrive a c sc) s = .next (started s k acc { fin with c := { fin.c with wait := .arrive } }
        ⟨0, e.key, .arrive true, [⟨l, t, t, count % 2 ^ 32, 0, false⟩], false, true, false, sl.c.pc, 0, []⟩))

/-! Requests to anvils and scribes, and the trap context. -/

/-- R250, R255, R268, R269: an anvil request enters the reservation table with what it captures, and TL counts it; MXLOOP
captures its command block; without acting lanes a request only retires. -/
def Obligations.AnvilRequestsIssue : Prop :=
  ∀ (s : State) (k : Nat) (e : Env), Solo s k true e →
    let sl := sliceAt s k
    let act := actLanes sl.a
    let val := fun (r : AReg) => regVal true sl r.toNat ((lowestLane act).getD 0)
    let idles := fun (o : Operands) => Host.Outcome.next (φ := Fault) (ρ := Refusal)
      (issued s k true (requestEnd e sl o sl) [] none)
    (∀ c t, let o := regOperands [c.toNat]
      RequestFit o act e sl →
      (RequestFree s e sl → checkAddr s (cbSpec e) (fun _ => false) (val c) = .ok t →
        (s.flights.any fun f => f.owner = e.key && isLaneWrite f && touches f t.loc 64) = false →
        poisoned s t.loc 64 = false → exec (.mxloop c) s = .next (requested s k e sl o
          (let cb := BitVec.ofNat 512 (readBytes s.mem t.loc 64)
           newReq s e sl 0 cb (val c) 0 0 (cmdOf cb).tile))) ∧
      (act = 0 → exec (.mxloop c) s = idles o)) ∧
    (∀ w src c, let o := regOperands [w.toNat, src.toNat, c.toNat]
      RequestFit o act e sl →
      (RequestFree s e sl → exec (.mxldb w src c) s =
        .next (requested s k e sl o (newReq s e sl 1 0 (val src) (val w) (val c) 0))) ∧
      (act = 0 → exec (.mxldb w src c) s = idles o)) ∧
    ∀ p ∈ ([(.mxst, 2), (.mxldt, 3)] : List ((BitVec 3 → AReg → Instr) × Nat)), ∀ (n : BitVec 3) r,
      let o := regOperands [r.toNat]
      RequestFit o act e sl →
      (RequestFree s e sl → exec (p.1 n r) s = .next (requested s k e sl o (newReq s e sl p.2 0 (val r) 0 0 n.toNat))) ∧
      (act = 0 → exec (p.1 n r) s = idles o)

/-- R278 to R280, R282, R283, R287: SCSTART delivers a handle and a promise and queues the program, SCPOLL delivers the
status word, RFLUSH drops record copies, and SCCANCEL ends a program that has nothing in flight. -/
def Obligations.ScribeRequestsIssue : Prop :=
  ∀ (s : State) (k : Nat) (e : Env), Solo s k true e →
    let sl := sliceAt s k
    let act := actLanes sl.a
    let val := fun (r : AReg) => regVal true sl r.toNat ((lowestLane act).getD 0)
    (∀ h p a sel res budget, let n := pickScribe s e.core (vdevOf e.ctx % 8) sel
      let q := queueAt s n (vdevOf e.ctx % 8)
      ScribeFree s e sl [p.toNat, a.toNat] [h.toNat, h.toNat + 1] true → q.items.length < 16 →
      headerOf s e.ctx (launchOf s e) (val p) = some budget →
      exec (.scstart h p a sel res) s = .next (enqueue (putSlice s k
        (let x := scribeEnd e sl [p.toNat, a.toNat] [h.toNat, h.toNat + 1]
           (setActing act (setActing act sl h.toNat (handleOf n (vdevOf e.ctx % 8) q.next)) (h.toNat + 1) (promiseOf s q budget))
         { x with ncp := x.ncp + 1 })) n (newProg s e k q (val p) (val a) res))) ∧
    (∀ d h, ScribeFree s e sl [h.toNat] [d.toNat] false → handleBad s e (val h) = false →
      exec (.scpoll d h) s = .next (issued s k true
        (scribeEnd e sl [h.toNat] [d.toNat] (setActing act sl d.toNat (statusWord s (val h)))) [] none)) ∧
    (∀ r, ScribeFree s e sl [r.toNat] [] false → sl.held = false → exec (.rflush r) s = .next
      (flushRecords (issued s k true (scribeEnd e sl [r.toNat] [] sl) [] none) (keyCtx s k) (coreOfKey k) (val r))) ∧
    (∀ h, ScribeFree s e sl [h.toNat] [] false → handleBad s e (val h) = false → handleBusy s (val h) = false →
      exec (.sccancel h) s = .next
        (cancelHandle (issued s k true (scribeEnd e sl [h.toNat] [] sl) [] none) (val h)))

/-- R328 to R330, R343: what the privileged instructions of the trap context do with the bound team: ERET resumes a
held slice, RDSL reads an item, WRSL writes one of a held slice, FOLDCTL folds and tells what it has freed, and waits where a
level change or the save area is still due. Which
items WRSL may write, and the bits of entries that nothing has filled, are the model's (log entries 21 and 22). -/
def Obligations.PrivilegedResults : Prop :=
  ∀ (s : State) (core : Nat) (e : Env) (team : Team), boundTeam s core = some team →
    let sl := sliceAt s (trapBase + core)
    let base := 32 * teamKey core (coreAt s core).tteam
    (∀ r, Privileged s core e [r.toNat] none → trapReg s core r.toNat < team.s →
      exec (.eret r) s = .next
        (let s1 := resumeSlice s core (trapReg s core r.toNat)
         if (coreAt s1 core).invoc then putSlice s1 (trapBase + core) (privilegedEnd e sl [r.toNat] none) else s1)) ∧
    (∀ d r, let q := selectorOf (trapReg s core r.toNat)
      Privileged s core e [r.toNat] (some d.toNat) → (coreAt s core).invoc = true →
      selectorBad team (trapReg s core r.toNat) = false → itemBad (sliceAt s (base + q.slice)) q = false →
      exec (.rdsl d r) s = .next (putSlice s (trapBase + core)
        (privilegedEnd e sl [r.toNat] (some (d.toNat, readItem s (base + q.slice) q))))) ∧
    (∀ r x, let q := selectorOf (trapReg s core r.toNat)
      let held := (sliceAt s (base + q.slice)).held
      Privileged s core e [r.toNat, x.toNat] none → (coreAt s core).invoc = true →
      selectorBad team (trapReg s core r.toNat) = false →
      (held = true → itemFault team q (trapReg s core x.toNat) = none) →
      exec (.wrsl r x) s = .next (putSlice
        (let s := if held = true ∧ q.cls = 6 ∧ q.index = 0 ∧ q.acc = true then forgetWait s (base + q.slice) else s
          if held = false then s
          else if q.cls = 5 ∧ q.index = 0x24 then putTeam s (teamKey core (coreAt s core).tteam)
            (some { team with pin := BitVec.ofNat 32 (trapReg s core x.toNat) })
          else putSlice s (base + q.slice) (writeItem q (trapReg s core x.toNat) (sliceAt s (base + q.slice))))
        (trapBase + core) (privilegedEnd e sl [r.toNat, x.toNat] none))) ∧
    (∀ d r, let q := foldReqOf (trapReg s core r.toNat)
      let x := foldCore s core q 256
      Privileged s core e [r.toNat] (some d.toNat) → foldReqBad s core (trapReg s core r.toNat) = false →
      (levelsDue x.1 core = false → foldHeld s x.1 core = false → (coreAt x.1 core).invoc = true →
        exec (.foldctl d r) s = .next (putSlice x.1 (trapBase + core)
          (privilegedEnd e sl [r.toNat] (some (d.toNat, foldResult x.1 core q x.2))))) ∧
      (levelsDue x.1 core = true ∨ foldHeld s x.1 core = true → exec (.foldctl d r) s = .next
        (let y := sliceAt x.1 (trapBase + core)
         putSlice x.1 (trapBase + core) { y with a := { y.a with wait := .fold d.toNat (trapReg s core r.toNat) x.2 } })))

/-! Scribe programs. -/

/-- R289, R291: the k instructions write kD modulo 2^64 and count; at the last word of the section they fault instead. -/
def Obligations.ScribeArithmetic : Prop :=
  ∀ (s : State) (n x : Nat) (p : Prog), Runs s n x p →
    let gives := fun (i : Instr) (d : KReg) (v : Nat) =>
      (runsOut s p = false → exec i s = .next (becomes s n x (retireProg (setK p d v)))) ∧
      (runsOut s p = true → exec i s = .next (faultProg s n x p ⟨9, p.regs.pc + 4, 0⟩))
    (∀ q ∈ kTable, ∀ d a b, gives (q.1 d a b) d (q.2 (kreg p a) (kreg p b))) ∧
    (∀ d i, gives (.kmovi d i) d (wrap 64 (sval 14 i.toNat))) ∧
    (∀ d i, gives (.kmovhi d i) d (kreg p d * 2 ^ 14 % 2 ^ 64 + i.toNat)) ∧
    (∀ d a i, gives (.kaddi d a i) d (wrap 64 ((kreg p a : Int) + sval 14 i.toNat)))

/-- R275, R287, R289, R291 to R293: where BR, BRC, LOOP and ENDLOOP go, and what they leave in the loop's count and start; a target
outside the scribe section, or not aligned, faults, and so do a LOOP count of 2^32 or more and an ENDLOOP of a loop that is
not active, as ILLEGAL with their word. GSET binds a generator to the record it reads, GSTEP advances its origin and GADDR
gives its address, but for an odd nibble; an unbound generator is ILLEGAL. A record may show 4-byte units as they were before a
write that races with its read (R115, R117; which ones do is the model's reading, log entry 134). A GSET that finds a copy takes
each unit of it old or new, which one a free value, and the copy whole where its record cannot be read at once, the model's choice
(log entry 175). -/
def Obligations.ScribeControl : Prop :=
  ∀ (s : State) (n x : Nat) (p : Prog), Runs s n x p →
    let gives := fun (i : Instr) (q : Prog) =>
      (runsOut s p = false → exec i s = .next (becomes s n x (retireProg q))) ∧
      (runsOut s p = true → exec i s = .next (faultProg s n x p ⟨9, p.regs.pc + 4, 0⟩))
    let goes := fun (i : Instr) (q : Prog) (pc : Nat) =>
      (Inside s p pc → exec i s = .next (becomes s n x (atPc q pc))) ∧
      (¬Inside s p pc → exec i s = .next (faultProg s n x q ⟨9, pc, 0⟩))
    let illegal := fun (i : Instr) => ∀ w, encode i = some w → exec i s = .next (faultProg s n x p ⟨1, w.toNat, 0⟩)
    let loops := fun (l : KReg) (c : Nat × Nat) => { p with regs := { p.regs with l := aput (0, 0) p.regs.l l.toNat c } }
    (∀ o, goes (.kbr o) p (wrap 32 ((p.regs.pc : Int) + 4 * sval 26 o.toNat))) ∧
    (∀ d o,
      (kreg p d ≠ 0 → goes (.kbrc d o) p (wrap 32 ((p.regs.pc : Int) + 4 * sval 22 o.toNat))) ∧
      (kreg p d = 0 → gives (.kbrc d o) p)) ∧
    (∀ l a i, let c := kreg p a
      (c = 0 → goes (.kloop l a i) p (p.regs.pc + 4 * i.toNat + 4)) ∧
      (c ≠ 0 → c < 2 ^ 32 → gives (.kloop l a i) (loops l (c, p.regs.pc + 4))) ∧
      (2 ^ 32 ≤ c → illegal (.kloop l a i))) ∧
    (∀ l, let c := aget (0, 0) p.regs.l l.toNat
      (c.1 = 0 → illegal (.kendloop l)) ∧
      (c.1 = 1 → gives (.kendloop l) (loops l (0, c.2))) ∧
      (1 < c.1 → goes (.kendloop l) (loops l (c.1 - 1, c.2)) c.2)) ∧
    (∀ g a q r, recordPlace s p (plainSpan (kreg p a) 192 64 false) = some q → cachedRec s n p.ctx (kreg p a) q = some r →
      let now := heldRec s n x p (plainSpan (kreg p a) 192 64 false) r
      (recordBad now = none → gives (.gset g a) (setG p g ⟨BitVec.ofNat 64 (kreg p a), now, []⟩)) ∧
      (∀ d, recordBad now = some d → exec (.gset g a) s = .next (faultProg s n x p ⟨3, d, 0⟩))) ∧
    (∀ old new i, i < 48 → heldUnit p old new i = fld old (32 * i) 32 ∨ heldUnit p old new i = fld new (32 * i) 32) ∧
    (∀ g a t, let r := BitVec.ofNat 1536 (seenVal (withOlds p.olds s) t 192)
      cachedRec s n p.ctx (kreg p a) (placeOfTarget t) = none → Here s p (plainSpan (kreg p a) 192 64 false) t →
      recordBad r = none → runsOut s p = false → exec (.gset g a) s = .next (becomes
        (cacheRec (spendFor s p.ctx (blocksOf t 192)) n p.ctx (kreg p a) (placeOfTarget t) r) n x
        (retireProg (setG p g ⟨BitVec.ofNat 64 (kreg p a), r, []⟩)))) ∧
    (∀ d g (i : BitVec 3),
      (∀ q, genOf p g = some q → i.toNat < recNdim q.record →
        gives (.gstep d g i) (setK (setG p g { q with o := (carry q.record 6 i.toNat q.o).1 }) d
          (carry q.record 6 i.toNat q.o).2.toNat)) ∧
      ((∀ q, genOf p g = some q → recNdim q.record ≤ i.toNat) → illegal (.gstep d g i))) ∧
    (∀ d g,
      (∀ q, genOf p g = some q → elemNibble q.record (orig q) % 2 = 0 →
        gives (.gaddr d g) (setK p d (elemNibble q.record (orig q) / 2))) ∧
      (∀ q, genOf p g = some q → elemNibble q.record (orig q) % 2 = 1 →
        exec (.gaddr d g) s = .next (faultProg s n x p ⟨2, 4, elemNibble q.record (orig q) / 2⟩)) ∧
      (genOf p g = none → illegal (.gaddr d g)))

/-- R127, R290, R300, R301, R304: loads, stores and the synchronisation instructions of a program on memory of this package; the
releases and the fence wait until the program has no remote writes without an answer, and the releases until the reads that its
slice had issued before it are bound. A WAITB consumes PHASE alone, whose stored error rolls the program back. A load may see 4-byte units as they were
before a write that races with it (R115, R117; which ones do is the model's reading, log entry 134). -/
def Obligations.ScribeMemory : Prop :=
  ∀ (s : State) (n x : Nat) (p : Prog) (t : Target), Runs s n x p →
    let step := fun (s1 : State) (q : Prog) => Host.Outcome.next (φ := Fault) (ρ := Refusal) (becomes s1 n x (retireProg q))
    (∀ d a e, Here s p (plainSpan (kaddr p a e) 8 8 false) t → runsOut s p = false →
      exec (.kld d a e) s = step (spendFor s p.ctx (blocksOf t 8)) (setK p d (seenVal (withOlds p.olds s) t 8))) ∧
    (∀ a b e, Takes s p (plainSpan (kaddr p a e) 8 8 true) t → runsOut s p = false →
      exec (.kst a b e) s = step (spendFor (storeTo s t (valBytes 8 (kreg p b))) p.ctx (blocksOf t 8)) p) ∧
    (∀ a b, Takes s p (barSpan (kreg p a) true) t → p.remote = 0 → readsOpen s p.owner p.mark = false →
      poisoned s t.loc 9 = false → runsOut s p = false → exec (.scribeArrive a b) s = step (arriveAt s t.loc (kreg p b % 2 ^ 32)) p) ∧
    (∀ a b, Reach s p (barSpan (kreg p a) false) t → poisoned s (t.loc + 8) 1 = true →
      exec (.waitb a b) s = .next (rollbackProg s n x p 1 (kreg p a))) ∧
    (∀ a b, Reach s p (barSpan (kreg p a) false) t → poisoned s (t.loc + 8) 1 = false →
      let met := bitAt (readByte s.mem (t.loc + 8)).toNat 0 = bitAt (kreg p b) 0
      (met → runsOut s p = false → exec (.waitb a b) s = step s { p with waitb := none }) ∧
      (¬met → exec (.waitb a b) s = .next (becomes s n x
        { p with waitb := some (BitVec.ofNat 64 (kreg p a), bitAt (kreg p b) 0), park := none }))) ∧
    (∀ wm rm, (wm = 0 ∨ p.remote = 0) → runsOut s p = false → exec (.sfence wm rm) s = step s p) ∧
    (∀ a b sc, Takes s p (plainSpan (kreg p a) 4 4 true) t → p.remote = 0 → readsOpen s p.owner p.mark = false →
      runsOut s p = false → exec (.signal a b sc) s = step (spendFor (storeTo s t (valBytes 4 (kreg p b))) p.ctx (blocksOf t 4)) p) ∧
    (p.remote = 0 → runsOut s p = false → exec .scribeRegion s = .next (becomes s n x
      { retireProg p with ck := (retireProg p).regs, count := 0, rolled := false })) ∧
    exec .scribeEnd s = .next (becomes s n x { p with ending := true })

/-- R294 to R298: a data instruction whose generators are bound and fit starts its line operations; one with an unfit
record faults. -/
def Obligations.ScribeDataStarts : Prop :=
  ∀ (s : State) (n x : Nat) (p : Prog), Runs s n x p →
    let starts := fun (i : Instr) (total : Nat) =>
      exec i s = .next (becomes s n x { p with data := some ⟨i, 0, total, [], none⟩ })
    (∀ d a c, starts (.line d a c) c.toNat) ∧
    (∀ d a op c, starts (.reduce d a op c) c.toNat) ∧
    (∀ d a g (c : BitVec 14) q, genOf p g = some q →
      (rowsBad q.record = none → starts (.gather d a g c) (c.toNat * rowOps q.record)) ∧
      (∀ o, rowsBad q.record = some o → exec (.gather d a g c) s = .next (faultProg s n x p ⟨3, o, 0⟩))) ∧
    (∀ g a b (c : BitVec 14) q, genOf p g = some q →
      (rowsBad q.record = none → starts (.scatter g a b c) (c.toNat * rowOps q.record)) ∧
      (∀ o, rowsBad q.record = some o → exec (.scatter g a b c) s = .next (faultProg s n x p ⟨3, o, 0⟩))) ∧
    (∀ gd gs (c : BitVec 8) d q, genOf p gd = some d → genOf p gs = some q → recFmt d.record ∈ [4, 5, 6, 0x10, 0x11, 0x12] →
      recConv d.record = 0 → tileCount d.record = sourceCount q.record →
      (if codeScaled (recFmt d.record) then c.toNat ≠ 0 ∧ c.toNat ≠ 0xFF else c.toNat = 0) →
      starts (.convert gd gs c) ((tileCount d.record * recNibbles d.record + 127) / 128))

/-- R281, R283, R291, R296, R297, R300 to R302: the events of a program: its start from the queue in the lowest
free context, while programs that are to resume wait for their records, a line of LINE or
REDUCE, the wake of a WAITB, its end, a faulted one's too once its record is written, and the faults of a reserved word
and of the 65,537th instruction. A line's source may show 4-byte units as they were before a write that races with it (R115, R117;
which ones do is the model's reading, log entry 134). -/
def Obligations.ScribeEvents : Prop :=
  ∀ (s : State) (n x : Nat) (p : Prog),
    (∀ vq q rest, x ∈ ctxNums → progAt s n x = none → (∀ y < x, progAt s n y ≠ none) →
      (∀ y ∈ ctxNums, ∀ r, progAt s n y = some r → r.res = true → ∃ k, r.park = some k ∧ k.refused = false) →
      nextQueue s n = some (vq, q) → q.items = p :: rest →
      exec (.scribeProgramStart n) s = .next (becomes (putQueue s n vq
        { q with items := rest, pass := q.pass + BitVec.ofNat 32 (queueStride s (vdevOf p.ctx)) }) n x p)) ∧
    (progAt s n x = some p →
      let moved := fun (s1 : State) (o : DataOp) => Host.Outcome.next (φ := Fault) (ρ := Refusal) (becomes s1 n x
        (if o.next + 1 < o.total then { p with park := none, inbox := [], data := some { o with next := o.next + 1, dst := [] } }
          else retireProg { p with data := none }))
      (∀ (d a : KReg) c o src dst, p.data = some o → o.i = .line d a c → lineReady s n x p = true → p.cancel = false →
        (o.next + 1 < o.total ∨ runsOut s p = false) →
        Here s p (plainSpan (wrap 64 ((kreg p a : Int) + 64 * o.next)) 64 64 false) src →
        Takes s p (plainSpan (wrap 64 ((kreg p d : Int) + 64 * o.next)) 64 64 true) dst →
        exec (.lineOperation n x) s = moved (spendFor (storeTo s dst (readList (seen (withOlds p.olds s) src 64) src.loc 64)) p.ctx (blocksOf src 64 ++ blocksOf dst 64)) o) ∧
      (∀ (d a : KReg) op c o src dst, p.data = some o → o.i = .reduce d a op c → lineReady s n x p = true → p.cancel = false →
        (o.next + 1 < o.total ∨ runsOut s p = false) →
        Here s p (plainSpan (wrap 64 ((kreg p a : Int) + 64 * o.next)) 64 64 false) src →
        Takes s p (plainSpan (wrap 64 ((kreg p d : Int) + 64 * o.next)) 64 64 true) dst → poisoned s dst.loc 64 = false →
        exec (.lineOperation n x) s = moved (spendFor (storeTo s dst
          (reduceBytes (reduceNum op) (seen s dst 64) dst.loc
            (readList (seen (withOlds p.olds s) src 64) src.loc 64) 16)) p.ctx
          (blocksOf src 64 ++ blocksOf dst 64)) o) ∧
      (∀ a ph t, p.waitb = some (a, ph) → p.cancel = false → p.failed = none → p.park = none → onOwned s n p = true →
        Reach s p (barSpan a.toNat false) t → poisoned s (t.loc + 8) 1 = false →
        bitAt (readByte s.mem (t.loc + 8)).toNat 0 = ph → runsOut s p = false →
        exec (.waitbWake n x) s = .next (becomes s n x (retireProg { p with waitb := none }))) ∧
      (p.remote = 0 → p.failed = none → p.cancel = true →
        exec (.scribeProgramEnd n x) s = .next (endProg s n x (2 ^ 29) none)) ∧
      (p.remote = 0 → p.failed = none → p.cancel = false → p.ending = true →
        exec (.scribeProgramEnd n x) s = .next (endProg s n x (2 ^ 31) none)) ∧
      (∀ c, p.remote = 0 → p.failed = some c → recordWaits s (.scribe n x) = false →
        exec (.scribeProgramEnd n x) s = .next (endProg s n x (2 ^ 30 + c) (some c))) ∧
      (s.issuer = .scribe n x → exec .scribeLong s = .next (faultProg s n x p ⟨7, 0, 0⟩)) ∧
      (s.issuer = .scribe n x → exec .scribeIllegal s = .next
        (faultProg s n x p ⟨1, ((imageWord s p.ctx p.launch p.regs.pc).getD 0).toNat, 0⟩)))

/-! Events of accesses and waits. -/

/-- R111, R219, R223, R227, R228, R334, R368: a load that is performed fills the entries it reserved, at once and in program
order, with what its lanes read, each 4-byte unit old or new where a write races with it (R114, R115), or poisons them where a
lane's data holds an uncorrectable error; LD falls by one. Which writes race is the model's reading (log entry 134). That a
read of scratch whose team has ended poisons them too is the model's choice (log entry 133), and so is that a converting read
takes its tile's bytes as they are then, under the size code that it was issued with (log entry 35), and a token for each block
of the tile (log entry 76). -/
def Obligations.LoadsFill : Prop :=
  ∀ (s : State) (id : Nat) (f : Flight), Due s id f →
    let sl := sliceAt s f.owner
    let fills := fun (seqs : List Nat) (g : Nat → LdState) => Host.Outcome.next (φ := Fault) (ρ := Refusal)
      (ended s f (laneBlocks f) { fillEntries sl seqs g with nld := sl.nld - 1 })
    let gone := goneLanes s f
    (∀ n seqs, f.kind = .load n seqs → gone = [] →
      let bad := f.lanes.filter fun a => poisoned s a.tgt.loc n
      (bad = [] → exec (.loadFill id) s =
        fills seqs (entryOf (f.lanes.map fun a => (a.lane, seenVal (withOlds f.olds s) a.tgt n)))) ∧
      (bad ≠ [] → exec (.loadFill id) s = fills seqs fun _ => .poisoned (errorFault bad))) ∧
    (∀ seqs, f.kind = .lddesc seqs → exec (.loadFill id) s =
      fills seqs (entryOf (f.lanes.map fun a => (a.lane, (descAt s a.tgt.loc).toNat)))) ∧
    (∀ n seqs conv, f.kind = .ldx n seqs conv → gone = [] → (∀ a ∈ f.lanes, localBad s f a = false) →
      exec (.loadFill id) s = fills seqs (entryOf (f.lanes.map fun a =>
        let tile := a.tgt.loc / 4096 * 4096
        (a.lane, tileValue (underKey (withOlds f.olds s) a.tgt.key tile 4096) tile conv a.data (2 * n) (2 * (a.tgt.loc % 4096)))))) ∧
    ∀ a as, isLoad f = true → gone = a :: as → exec (.loadFill id) s = fills (flightSeqs f) fun _ =>
      .poisoned ⟨codeSRAM_ACCESS, 0, BitVec.ofNat 64 a.tgt.va, maskOf fun l => gone.any fun x => x.lane = l⟩

/-- R111, R134, R224 to R226, R228, R243, R244: a write that is performed stores its lanes in ascending order; an
atomic reads and writes lane by lane and fills its entries with the old values; ST, and LD for a returning atomic,
fall. That LD and ST of a returning atomic fall together is the model's reading (log entry 44). -/
def Obligations.StoresPerform : Prop :=
  ∀ (s : State) (id : Nat) (f : Flight), Due s id f → Writable s f (·.tgt) →
    let sl := sliceAt s f.owner
    let ends := fun (x : State) (sl : Slice) => exec (.storePerformed id) s = .next (ended x f (f.lanes.map (·.tgt)) sl)
    (∀ n, f.kind = .store n →
      ends (f.lanes.foldl (fun x a => storeTo x a.tgt (valBytes n a.data)) s) { sl with nst := sl.nst - 1 }) ∧
    (f.kind = .stdesc →
      ends (f.lanes.foldl (fun x a => setDesc x a.tgt.loc (BitVec.ofNat 16 a.data)) s) { sl with nst := sl.nst - 1 }) ∧
    (∀ op n seqs ret, f.kind = .atomic op n seqs ret → (∀ a ∈ f.lanes, poisoned s a.tgt.loc n = false) →
      let r := atomicLanes op n f.lanes s
      exec (.storePerformed id) s = .next (endedEach r.1 f (f.lanes.map (·.tgt)) (if ret then { fillEntries sl seqs (entryOf r.2) with nld := sl.nld - 1, nst := sl.nst - 1 }
        else { sl with nst := sl.nst - 1 }))) ∧
    (∀ c a, f.kind = .arrive c → f.lanes = [a] → poisoned s a.tgt.loc 9 = false →
      ends (arriveAt s a.tgt.loc a.data)
        (if c then { sl with c := { sl.c with wait := if sl.c.wait = .arrive then .none else sl.c.wait } } else { sl with nst := sl.nst - 1 }))

/-- R230, R231, R243: a lane copy that is performed copies each lane's bytes, each 4-byte unit old or new where a write
races with it (R115, R117; which ones do is the model's reading, log entry 134), writes the lane's status word to its STAT
register, and to the checkpoint's where one is held (R62), makes its arrival where it has one, and CP falls. -/
def Obligations.CopiesComplete : Prop :=
  ∀ (s : State) (id : Nat) (f : Flight) (n stat : Nat) (arv : Option Target), Due s id f →
    f.kind = .acp n stat arv → Writable s f (·.dst) → arvReady s f.owner f.id arv = true → copyMayWrite s f = true →
    (∀ a ∈ f.lanes, mayWrite s (keyCtx s f.owner) a.tgt = true ∧ poisoned s a.tgt.loc n = false) →
    (∀ t, arv = some t → mayWrite s (keyCtx s f.owner) t = true) →
    let words := fun sl => f.lanes.foldl (fun x a => setReg true x stat a.lane (2 ^ 31 + n)) sl
    let sl := words (sliceAt s f.owner)
    let kept := fun (c : Checkpoint) =>
      let x := words { sl with ar := c.ar, arInfo := c.arInfo }
      { c with ar := x.ar, arInfo := x.arInfo }
    let copied := f.lanes.foldl (fun x a => storeTo x a.dst (valBytes n (seenVal (withOlds f.olds s) a.tgt n))) s
    let t := ended copied f (f.lanes.map (·.tgt) ++ f.lanes.map (·.dst)) { sl with
      check := sl.check.map kept
      ncp := sl.ncp - 1
      statPend := sl.statPend.erase (stat, maskOf fun l => f.lanes.any fun a => a.lane = l) }
    exec (.acpComplete id) s = .next (match arv with
      | some b => arriveAt t b.loc 1
      | none => t)

/-- R61, R108, R112, R220, R234, R246, R368: a WAITADDR reads its word again by an access like its first, which may park on a miss,
and goes on once the word differs; where the access fails its check the stream and the entries that it had popped are as before the
WAITADDR, and the slice's oldest failed access raises its fault, as at a SLEEPUNTIL whose barrier fails its check; a SLEEPUNTIL goes on once CLOCK has reached its value, with PROMISE_MISSED where its
barrier's phase is not the promised one. -/
def Obligations.WaitsEnd : Prop :=
  ∀ (s : State) (k : Nat), (sliceAt s k).held = false →
    let sl := sliceAt s k
    let wakes := fun (e : Env) (codes : List Nat) => Host.Outcome.next (φ := Fault) (ρ := Refusal)
      (yieldTeam (putSlice s k (wokenSlice s e sl.a.mask codes sl)) (k / 32))
    (∀ e t0 n x acq codes, sl.a.wait = .addr t0 n x acq codes → envOf s k true = some e → (sl.park.all fun p => p.refused) = true →
      let chk := checkAddr s (laneSpec e n false false) (refusedOf sl) t0.va
      (∀ page, chk = .miss page → exec (.waitaddrWake k) s = .next (parkSlice s k page false)) ∧
      (∀ c, chk = .bad c → exec (.waitaddrWake k) s = .next
        (let back := forgetWait (putSlice s k (backOut sl)) k
         commitOne back k (failNow (sliceAt back k) ⟨c, 0, BitVec.ofNat 64 t0.va, lowMask (actLanes sl.a)⟩))) ∧
      (∀ t, chk = .ok t → isRemote t = false → served s (vdevOf e.ctx) t = true →
        let now : Slice := { sl with park := none, a := { sl.a with wait := .addr t n x acq codes } }
        let read := spendFor (putSlice s k now) e.ctx [t]
        probe (putSlice s k now) k t n x = .go → exec (.waitaddrWake k) s = .next
          (yieldTeam (putSlice read k (wokenSlice read e (actLanes sl.a) codes now)) (k / 32)))) ∧
    (∀ e clk l codes, sl.a.wait = .sleep clk none l codes → clk.toNat ≤ s.clock.toNat → envOf s k true = some e →
      exec (.sleepuntilWake k) s = wakes e codes) ∧
    (∀ clk b l codes e, sl.a.wait = .sleep clk (some b) l codes → clk.toNat ≤ s.clock.toNat → envOf s k true = some e →
      let addr := b.toNat - b.toNat % 2
      let chk := checkAddr s (barrierSpec e) (fun _ => false) addr
      (∀ c, chk = .bad c → exec (.sleepuntilWake k) s = .next (if sl.check = none
        then takeFault s k true ⟨c, 0, BitVec.ofNat 64 addr, BitVec.ofNat 4 (2 ^ l)⟩ else raiseHeld s k)) ∧
      ∀ t, chk = .ok t → acqPending s k = false → (s.flights.any fun f => f.owner = k && touches f t.loc 16) = false →
        poisoned s (t.loc + 8) 1 = false → exec (.sleepuntilWake k) s = if promiseKept s b t.loc then wakes e codes
          else .next (takeFault s k true (plainFault codePROMISE_MISSED)))

/-! Frames. -/

/-- What the arithmetic instructions of two sources leave as it was: every byte of memory, every other slice, unit and
record, and in their own slice every register, predicate and special register but the destination in the acting
lanes, the registers that a last-use mark ends, the index registers that `++` advances, the queues that the
instruction names, and flags, which are only added to. -/
def Obligations.ArithmeticFrame : Prop :=
  ∀ p ∈ aluTable, ∀ (s : State) (k : Nat) (acc : Bool) (e : Env) (d a b : Code) (vals : List (Quad Nat)) (sl1 : Slice),
    Solo s k acc e → AluReady p.2 d.toNat a.toNat b.toNat e (sliceAt s k) vals sl1 →
    ∃ t, exec (p.1 d a b) s = .next t ∧ IssueFrame s t k ∧
      AluFrame p.2 d.toNat a.toNat b.toNat e (sliceAt s k) (sliceAt t k)

/-- What a write leaves as it was when it is performed: every byte outside the bytes that its lanes name, at the address
of each lane's target or copy destination, every register of its slice, and every other slice; the highest lane's
bytes read back as written. A load that is performed leaves all of memory. That a block that a write takes over from another
key id shows its other bytes under the new one is the model's choice (log entry 124): the blocks that no lane touches stay as
they are whatever the key ids, and every byte outside the lanes' own does where the blocks are under the writing pages' key
id. -/
def Obligations.MemoryFrame : Prop :=
  ∀ (s : State) (id : Nat) (f : Flight), Due s id f →
    let keepsMem := fun (t : State) (n : Nat) (at_ : LaneAcc → Target) =>
      (∀ a, (∀ x ∈ f.lanes, a / 64 ∉ keyBlocks (at_ x).loc n) → readByte t.mem a = readByte s.mem a) ∧
      (OneKey s n (f.lanes.map at_) → ∀ a, (∀ x ∈ f.lanes, a < (at_ x).loc ∨ (at_ x).loc + n ≤ a) →
        readByte t.mem a = readByte s.mem a)
    let keeps := fun (t : State) => (∀ j, j ≠ f.owner → sliceAt t j = sliceAt s j) ∧
      (sliceAt t f.owner).v = (sliceAt s f.owner).v ∧ (sliceAt t f.owner).s = (sliceAt s f.owner).s ∧
      (sliceAt t f.owner).x = (sliceAt s f.owner).x ∧ t.teams = s.teams ∧ t.cores = s.cores ∧ t.tlb = s.tlb
    (∀ n, f.kind = .store n → Writable s f (·.tgt) → ∃ t, exec (.storePerformed id) s = .next t ∧ keeps t ∧
      (sliceAt t f.owner).ar = (sliceAt s f.owner).ar ∧ keepsMem t n (·.tgt) ∧
      ∀ x, f.lanes.getLast? = some x → seenVal t x.tgt n = x.data % 256 ^ n) ∧
    (∀ op n seqs ret, f.kind = .atomic op n seqs ret → Writable s f (·.tgt) →
      (∀ x ∈ f.lanes, poisoned s x.tgt.loc n = false) → ∃ t, exec (.storePerformed id) s = .next t ∧ keeps t ∧
      (sliceAt t f.owner).ar = (sliceAt s f.owner).ar ∧ keepsMem t n (·.tgt)) ∧
    (∀ n stat, f.kind = .acp n stat none → Writable s f (·.dst) → copyMayWrite s f = true →
      (∀ x ∈ f.lanes, poisoned s x.tgt.loc n = false) →
      ∃ t, exec (.acpComplete id) s = .next t ∧ keeps t ∧ keepsMem t n (·.dst) ∧
      ∀ r, r ≠ stat → ∀ l, regVal true (sliceAt t f.owner) r l = regVal true (sliceAt s f.owner) r l) ∧
    ∀ n seqs, f.kind = .load n seqs → ∃ t, exec (.loadFill id) s = .next t ∧ keeps t ∧ t.mem = s.mem ∧
      (sliceAt t f.owner).ar = (sliceAt s f.owner).ar

/-! Traps. -/

/-- R322: a slice that raises a precise fault becomes held, with both PCs, its registers, queues, counters and pending
hints as they were; its record goes to the error-record area, and no other slice of the team is held. -/
def Obligations.FaultHoldsSlice : Prop :=
  ∀ (s : State) (k : Nat) (acc : Bool) (f : FaultInfo) (team : Team) (s1 : State) (a : Nat),
    k < trapBase → teamAt s (k / 32) = some team →
    tryRecord s team.ctx (k / 512) (fun _ => false) (sliceRecord s 1 k acc.toNat 0 f) = .written s1 a →
    let was := sliceAt s k
    let t := takeFault s k acc f
    let now := sliceAt t k
    now.held = true ∧ now.unit = k % 32 ∧ now.c.pc = was.c.pc ∧ now.a.pc = was.a.pc ∧
      now.c.hint = was.c.hint ∧ now.a.hint = was.a.hint ∧ now.v = was.v ∧ now.ar = was.ar ∧ now.s = was.s ∧
      now.ldq = was.ldq ∧ now.sdq = was.sdq ∧ now.cq = was.cq ∧
      now.nld = was.nld ∧ now.nst = was.nst ∧ now.ncp = was.ncp ∧ now.ntl = was.ntl ∧ t.flights = s.flights ∧
      t.mem = s1.mem ∧ ∀ j, j ≠ k → (sliceAt t j).held = (sliceAt s j).held

/-- R27, R242, R332: STREAM_DEADLOCK is raised in the stalled compute stream, or in the access stream once compute has
ended; BAR_MISMATCH holds every live slice of the stream; a watchdog that runs out holds the whole team and is 0. R157,
R177: FETCH_RANGE and ILLEGAL_OP are faults of the stream that met them; FETCH_RANGE tells the address that could not
be fetched and the PC of the instruction that led there. -/
def Obligations.TeamTraps : Prop :=
  (∀ (s : State) (t : Nat) (team : Team), 32 * t + 32 ≤ trapBase → teamAt s t = some team → team.s ≤ 32 →
    (∀ j, j < 32 → deadlocked (sliceAt s (32 * t + j)) = true → exec (.streamDeadlock (32 * t + j)) s =
      .next (takeFault s (32 * t + j) (sliceAt s (32 * t + j)).c.exited (plainFault codeSTREAM_DEADLOCK))) ∧
    (∀ acc, barMismatched s t team acc = true → ∃ x, exec (.barMismatch t) s = .next x ∧
      ∀ j ∈ liveSlices s t team acc, (sliceAt x (32 * t + j)).held = true) ∧
    (team.phase = .running → watchdogLimit s t team ≤ team.wd → heldMask s t team = 0 →
      ∃ x, exec (.watchdog t) s = .next x ∧ (∀ j < team.s, (sliceAt x (32 * t + j)).held = true) ∧
        ∃ y, teamAt x t = some y ∧ y.wd = 0)) ∧
  ∀ (s : State) (k : Nat) (acc : Bool) (e : Env), Solo s k acc e →
    let st := streamOf acc (sliceAt s k)
    let faults := fun (f : FaultInfo) => Host.Outcome.next (φ := Fault) (ρ := Refusal)
      (takeFault (if acc then s else countUnit s (k / 32) (k % 32)) k acc f)
    exec .illegalOp s = faults (plainFault codeILLEGAL_OP) ∧
    exec .fetchRange s = faults ⟨codeFETCH_RANGE, st.prev.toNat, st.pc, 0⟩

/-- R320, R323: an invocation of the oldest pending record binds its team, sets TCAUSE, THELD and TTEAM, and begins at
TVEC in one lane with the record's address in a0, its slice in a1 and 0 in every other register. That it takes every record
of its team that is pending, so that none of them stays in the queue, is the model's reading (log entry 93). -/
def Obligations.InvocationOpens : Prop :=
  ∀ (s : State) (core : Nat) (p : PendRec) (team : Team), (coreAt s core).invoc = false →
    (coreAt s core).pend.find? (fun q => (teamAt s q.team).any fun t => t.phase != .saved) = some p →
    teamAt s p.team = some team →
    let tvec := recTvec (ctxRecord s core team.ctx)
    tvec ≠ 0 → ∃ t, exec (.trapInvocation core) s = .next t ∧ t.mem = s.mem ∧
      let c := coreAt t core
      let sl := sliceAt t (trapBase + core)
      c.invoc = true ∧ c.tcause = p.addr ∧ c.theld = heldMask s p.team team ∧ c.tteam = p.team % 16 ∧
      (∀ q ∈ c.pend, q.team ≠ p.team) ∧ sl.a.pc = BitVec.ofNat 64 tvec ∧ sl.a.mask = 1 ∧
      regVal true sl 0 0 = p.addr.toNat ∧ regVal true sl 1 0 = p.slice % 2 ^ 64 ∧
      (∀ r l, 1 < r → regVal true sl r l = 0) ∧ ∀ k, k ≠ trapBase + core → sliceAt t k = sliceAt s k

/-! Translation. -/

/-- R112, R358 to R363: a walk that finds a usable leaf caches it, and one that finds none asks for the page; a page
request's record goes into the ring and the write index rises, and its timeout begins once the memory has taken it (log entry
165); a request without an answer in time is refused. -/
def Obligations.PagingEvents : Prop :=
  ∀ (s : State) (id : Nat),
    (∀ w, s.walks.find? (fun w => w.id = id) = some w →
      ((s.walks.takeWhile fun x => x.id != id).filter fun x => x.die = w.die).length < 4096 →
      walkReady s w.vdev (w.page * 2 ^ 16) = true →
      let s1 := { s with walks := s.walks.filter fun x => x.id != w.id }
      (∀ reason, walkAddr s w.vdev (w.page * 2 ^ 16) = .none reason →
        exec (.pageWalk id) s = .next (requestPage s1 w reason)) ∧
      (∀ b e, walkAddr s w.vdev (w.page * 2 ^ 16) = .leaf b e → bitAt e 2 = true → ∃ t, exec (.pageWalk id) s = .next t ∧
        ⟨w.vdev, w.page * 2 ^ 16 / 2 ^ b, b, BitVec.ofNat 64 e⟩ ∈ t.tlb ∧
        (awf Slice.zero s.slices = true → ∀ k p, (sliceAt s k).park = some p → vdevOf (keyCtx s k) = w.vdev →
          p.page = w.page → p.refused = false → (sliceAt t k).park = none))) ∧
    (∀ r, s.pageReqs.find? (fun r => r.id = id) = some r → r.written = none → r.place = none →
      let v := vdevSt s r.vdev
      ringFull v.prqW v.prqCons (prqLen s r.vdev) = false →
      let fa := prqBase s r.vdev + 32 * (v.prqW.toNat % prqLen s r.vdev)
      let t := post (putVdev s r.vdev { v with prqW := v.prqW + 1 }) (partOf r.vdev) fa
        (prqRecord r (lapByte v.prqW.toNat (prqLen s r.vdev)))
      let held := postedAt t fa
      exec (.pageRequest id) s = .next { t with pageReqs := t.pageReqs.map fun x => if x.id = id then
        { x with place := held, written := if held = none then some t.clock.toNat else none } else x }) ∧
    ∀ r t, s.pageReqs.find? (fun r => r.id = id) = some r → r.written = some t →
      prTimeout s r.vdev ≤ s.clock.toNat - t →
      exec (.pageRequestTimeout id) s = .next (refusePage { s with pageReqs := s.pageReqs.filter fun x => x.id != id } r)

/-! Residency. -/

/-- R40 to R43, R48, R83, R106, R370, R401: ageing counts one round; a refilled register is resident with age 0; a scratch page comes back
with its bytes, which may send spilled registers to the HBM part; the slice that has been stalled longest, for more than
4096 cycles, is swapped out, which writes its save area, and returns once there is room. What comes from the save area
waits until the memory there may be used. The model's choices are the layout and the size of the save area and of what is written
there, a moved page's bytes being kept in the team's own field (log entry 20), that a write to it waits after the registers have
left (log entry 112), and which stalls count for a swap (log entry 131). -/
def Obligations.RegisterEvents : Prop :=
  ∀ (s : State) (t : Nat) (team : Team), teamAt s t = some team → 32 * t + 32 ≤ trapBase →
    (∀ j < 32, ∀ acc, let k := 32 * t + j
      let st := streamOf acc (sliceAt s k)
      (st.aged < st.count / 1024 → exec (.registerAgeing k acc) s =
        .next (putSlice s k (setStream acc (sliceAt s k) { st with aged := st.aged + 1 }))) ∧
      (∀ r, r ∈ st.want → (regInfo acc (sliceAt s k) r).loc = .scratch ∨ ((regInfo acc (sliceAt s k) r).loc = .hbm ∧
          homeReady s team (registerHome team j acc r) (spillBytes acc) = true) → ∃ x, exec (.registerRefill k acc r) s = .next x ∧
        (regInfo acc (sliceAt x k) r).loc = .resident ∧ regAge acc (sliceAt x k) r = 0 ∧
        (∀ q l, regVal acc (sliceAt x k) q l = regVal acc (sliceAt s k) q l) ∧ x.mem = s.mem)) ∧
    (∀ page, page ∈ team.moved → pageTaken s t team page = false → team.phase ≠ .saved →
      homeReady s team (pageHome team page) 4096 = true →
      let lo := sramAddr (t / 16) (team.base + 4096 * page)
      ∃ x, exec (.scratchPageReturn t page) s = .next x ∧
        (∀ i < 4096, readByte x.mem (lo + i) = aget 0 team.spill (4096 * page + i)) ∧
        (∀ a, a < lo ∨ lo + 4096 ≤ a → readByte x.mem a = readByte s.mem a) ∧
        ∀ k, { sliceAt x k with vInfo := (sliceAt s k).vInfo, arInfo := (sliceAt s k).arInfo } = sliceAt s k) ∧
    ∀ j < 32, let k := 32 * t + j
      let sl := sliceAt s k
      (sl.swapped = false → swapStalled sl = true → 4096 < s.clock.toNat - sl.since → heldMask s t team = 0 →
        stalledLonger s (k / 512) sl.since = false → swappedOn s (k / 512) < 64 → exec (.registerSwapOut k) s = .next
          (spillAt (putSlice s k { sl with swapped := true }) (k / 512) team (registerHome team j false 0) (16 * team.v + 32 * team.a))) ∧
      (sl.swapped = true → swapStalled sl = false → entriesAt team 1 team.level ≤ freeEntries s (k / 512) →
        residentSlices s (k / 512) < 64 → homeReady s team (registerHome team j false 0) (16 * team.v + 32 * team.a) = true →
        exec (.registerSwapIn k) s = .next (putSlice s k { sl with swapped := false, since := s.clock.toNat }))

/-- R39, R47, R344, R345: a remap keeps units of fewer than 64 issues that have not stalled; an expansion only lowers
levels; a fold leaves every context but the beneficiary its slices outside SMASK, or its highest slice where it would
have none left. A request for a fold with no launch that cannot go on does nothing, and the launch that it is for is the one
that waits, with that launch's PRIO as the bound of what may be folded, which are the model's choices (log entries 71 and 72);
where the fold frees enough nothing more is done. -/
def Obligations.FoldEvents : Prop :=
  ∀ (s : State),
    (∀ t team, teamAt s t = some team → ∃ x y, exec (.unitRemap t) s = .next x ∧ teamAt x t = some y ∧
      (∀ m ∈ team.mapped, unitKeeps s t team m = true → m ∈ y.mapped) ∧ x.slices = s.slices ∧ x.mem = s.mem) ∧
    (∀ core, ∃ x, exec (.residencyExpansion core) s = .next x ∧ x.mem = s.mem ∧
      ∀ t team, teamAt s t = some team → ∃ y, teamAt x t = some y ∧ y.level ≤ team.level) ∧
    ∀ core (req : BitVec 64), foldReqBad s core req.toNat = false →
      let q := foldReqOf req.toNat
      let ctx := q.ben.bind fun b => (aget CtxPlace.zero (coreAt s core).places b).ctx
      (∀ below, awf CtxPlace.zero (coreAt s core).places = true →
        let x := (foldCore s core q below).1
        ∀ p c, (aget CtxPlace.zero (coreAt s core).places p).ctx = some c → q.ben ≠ some p →
          let was := (aget CtxPlace.zero (coreAt s core).places p).pset
          (aget CtxPlace.zero (coreAt x core).places p).pset =
            if was &&& ~~~q.smask = 0 then highBit was else was &&& ~~~q.smask) ∧
      (blockedWaiter s (clusterOf core) ctx = none → exec (.foldRequest core req) s = .next s) ∧
      ∀ lid l, blockedWaiter s (clusterOf core) ctx = some (lid, l) →
        let x := (foldCore s core q (ctxPrio s (clusterOf core) l.ctx)).1
        blocked x (clusterOf core) lid l = false → exec (.foldRequest core req) s = .next x

/-! Dispatch and the ladder. -/

/-- R19, R20, R22, R23, R340: a launch that still has teams to place, where a cluster can hold its next quire, gets that
quire, and the slices of a team start at the entries of their code sections in the state that a start gives them. -/
def Obligations.TeamsStart : Prop :=
  (∀ (s : State) (lid : Nat) (l : Launch) (c n : Nat), launchAt s lid = some l → placing l = true →
    chooseQuire s lid l = some (c, n) → exec (.teamPlacement lid) s = .next (placeQuire s lid l c n)) ∧
  (∀ (s : State) (lid : Nat) (l : Launch) (core base save q size rank : Nat),
    let t := newTeam s lid l core base save q size rank
    t.tx.toNat = l.next % l.gx % 2 ^ 32 ∧ t.level = 0 ∧ t.epoch = 0 ∧ t.pin = 0 ∧ t.wd = 0 ∧ t.s = hdrS l.hdr ∧
      t.size = hdrScratch l.hdr) ∧
  ∀ (s : State) (t : Nat) (team : Team) (l : Launch) (j : Nat), j < team.s →
    let sl := sliceAt (startSlices s t team l) (32 * t + j)
    sl.a.pc = BitVec.ofNat 64 (fld l.hdr 160 32) ∧ sl.c.pc = BitVec.ofNat 64 (fld l.hdr 224 32) ∧
      (∀ r i, regVal true sl r i = 0 ∧ regVal false sl r i = 0) ∧ (∀ r, aget 0 sl.s r = 0) ∧
      sl.c.mask = 15 ∧ sl.a.mask = 15 ∧ sl.c.mstk.depth = 0 ∧ sl.a.mstk.depth = 0 ∧
      sl.c.hint = Hint.none ∧ sl.a.hint = Hint.none ∧
      sl.ldq = [] ∧ sl.sdq = [] ∧ sl.cq = [] ∧ sl.nld = 0 ∧ sl.nst = 0 ∧ sl.ncp = 0 ∧ sl.ntl = 0 ∧
      sl.slip = 32 ∧ sl.noticepc = 0 ∧ (∀ r i, qget (aget ⟨0, 0, 0, 0⟩ sl.x r) i = 0) ∧
      sl.c.preds = ⟨0, 0, 0, 0⟩ ∧ sl.a.preds = ⟨0, 0, 0, 0⟩

/-- R16, R347 to R350, R353, R354: what each step of the ladder does to a quire: forced eviction stops its running teams,
the drain bound lets its save go on, a save and a resume take their turn among the deadline requests (R369) and change its
phase, a kill ends its launch; a power limit holds back clusters. The model's choices are that a save or resume first joins the
queue by an event of its own (log entry 75) with the latest-service value of log entry 141, that the drain bound is counted
from the moment at which every team has stopped (log entry 74), that a throttle holds back the teams of whole clusters (log entry
170), and what the end of a time slice does: a fold for each launch that waits, with
its PRIO as the bound (log entry 72). -/
def Obligations.LadderEvents : Prop :=
  ∀ (s : State) (q : Nat) (x : Quire), quireAt s q = some x →
    (∀ t, x.phase = .soft t → t1Cycles (quireRecord s x) ≤ s.clock.toNat - t →
      x.members.any (fun m => (teamAt s m).any fun team => team.phase == .running) = true →
      ∃ y, exec (.forcedEviction q) s = .next y ∧ ∀ m ∈ x.members, ∀ team, teamAt y m = some team → team.phase ≠ .running) ∧
    (∀ t, (evictStart x.phase).isSome = true → x.drainAt = some t → allStopped s x = true →
      2 * Config.cyclesPerUs ≤ s.clock.toNat - t →
      exec (.drainBoundExpiry q) s = .next (putQuire s q (some { x with drained := true }))) ∧
    ((evictStart x.phase).isSome = true → allStopped s x = true → x.members.any (teamBusy s) = false →
      (x.drained = true ∨ x.members.any (scratchBusy s) = false) → x.members.findSome? (saveMiss true s) = none →
      freeSaved s ≠ none →
      (deadlineTurn s q true = false → exec (.quireSave q) s = .next (joinDeadline s q true (saveCtrls s x))) ∧
      (deadlineTurn s q true = true →
        ∃ y, exec (.quireSave q) s = .next y ∧ ∀ z, quireAt y q = some z → z.phase = .saved)) ∧
    (x.phase = .saved → clusterUsable s (partOf (vdevOf (quireCtx s x))) x.cluster = true →
      x.members.any (fun t => headerState s t == some false) = false → x.members.findSome? (saveMiss false s) = none →
      (resumeAll x.members s).isSome = true →
      (deadlineTurn s q false = false → exec (.quireResume q) s = .next (joinDeadline s q false (saveCtrls s x))) ∧
      (deadlineTurn s q false = true →
        ∃ y, exec (.quireResume q) s = .next y ∧ ∀ z, quireAt y q = some z → z.phase = .running ∧ z.drained = false)) ∧
    (∀ l, launchAt s x.launch = some l → l.ended = false → (l.status = 3 ∨ killDue s x.launch = true) →
      ∃ y z, exec (.killAndReset x.launch) s = .next y ∧ launchAt y x.launch = some z ∧ z.ended = true ∧
        z.status = if l.status = 3 then 3 else 4) ∧
    (∀ ctx cluster lid l, quantumLaunch s ctx cluster = some (lid, l) → quantumWaiters s ctx cluster ≠ [] →
      ∃ y z, exec (.quantumExpiry ctx cluster) s = .next y ∧ launchAt y lid = some z ∧
        aget 0 z.quantum cluster = s.clock.toNat ∧
        ((∀ w ∈ quantumWaiters s ctx cluster, blocked y cluster w.1 w.2 = false) ∨
          ∀ i u v, quireAt y i = some u → u.cluster = cluster → launchAt y u.launch = some v → v.ctx = ctx →
            u.phase ≠ .running)) ∧
    ∀ cs, exec (.powerLimit cs) s = .next { s with throttled := cs }

/-! The command complex. -/

/-- R18, R107, R360, R363, R368, R377, R379: what each packet does when it starts, and what a watched word or a completed
invalidation does for a packet that has started. The header of a LAUNCH is read where it lies, from another module by a
request. The model's choices are that a LAUNCH drops the instruction words of its virtual device that other modules have sent
(log entry 138), and that an invalidation also waits for the requests of the partition to other modules that were out when it
came (log entry 79). -/
def Obligations.PacketResults : Prop :=
  ∀ (s : State) (id : Nat) (p : Packet),
    let completes := fun (t : State) (n : Nat) => Host.Outcome.next (φ := Fault) (ρ := Refusal)
      (putPkt t { p with phase := .done n, park := none })
    let begins := fun (t : State) => Host.Outcome.next (φ := Fault) (ρ := Refusal) (putPkt t { p with phase := .started })
    (Starts s id 0x00 p → exec (.nopPacket id) s = completes s 0) ∧
    (∀ n, Starts s id n p → n ∉ [0x00, 0x01, 0x02, 0x03, 0x10, 0x11, 0x12] → exec (.invalidPacket id) s = completes s 6) ∧
    (∀ t, Starts s id 0x01 p → ccPlace s p 24 64 false = .at t →
      let h := BitVec.ofNat 512 (if isRemote t = true then bytesVal p.far else seenVal s t 64)
      let ok := headerOk (pfld p 24 8) h (pfld p 32 4) (pfld p 36 2) (pfld p 38 2) && quireFits s p h
      let u := ccSpend s p t
      (isRemote t = true → p.far = [] → ccAwaits s id = false → ccOpen s p 0 t = true → exec (.launchPacket id) s =
        .next (ccSend s p (remoteDest t) 0 (readMsg 0 t.loc 64 (isClear t)))) ∧
      (isRemote t = false ∨ p.far ≠ [] → exec (.launchPacket id) s = if ok = true
        then begins (putLaunch { u with
            serial := u.serial + 1, farCode := u.farCode.filter fun w => !(w.vdev = p.vdev && !isTrapUnit w.unit) }
          u.serial (some (newLaunch { u with
            serial := u.serial + 1, farCode := u.farCode.filter fun w => !(w.vdev = p.vdev && !isTrapUnit w.unit) } p h)))
        else completes u 1)) ∧
    (Starts s id 0x02 p → exec (.waitPacket id) s = begins s) ∧
    (∀ t, pktAt s id = some p → pktType p = 0x02 → p.phase = .started → p.park = none → Leads s p 24 4 false t →
      let x := seenVal s t 4
      let met := x = pfld p 32 4 ∨ (bitAt (pfld p 36 1) 0 = true ∧ serialLt 32 (pfld p 32 4) x = true)
      (met → exec (.waitSatisfied id) s = completes (ccSpend s p t) 0) ∧ (¬met → exec (.waitSatisfied id) s = .next s)) ∧
    (∀ t, Starts s id 0x03 p → Leads s p 24 8 true t →
      exec (.writePacket id) s = completes (storeTo (ccSpend s p t) t (valBytes 8 (pfld p 32 8))) 0) ∧
    (Starts s id 0x11 p → exec (.pageResponsePacket id) s = .next
      (let t := putPkt s { p with phase := .done 0, park := none }
       let d := vdevSt s p.vdev
       if pfld p 28 2 ≠ d.gen.toNat then
         putVdev t p.vdev { d with stale := if d.stale = 0xFFFFFFFF then d.stale else d.stale + 1 }
       else match s.pageReqs.find? fun r => r.vdev = p.vdev && r.id % 2 ^ 32 = pfld p 24 4 with
       | none => t
       | some r =>
         let u := { t with pageReqs := s.pageReqs.filter fun x => x.id != r.id }
         if pfld p 30 1 = 1 ∨ requestOverdue s r = true then refusePage u r
           else joinWalk u p.vdev r.page r.writer r.core r.die)) ∧
    (Starts s id 0x12 p → ∃ t, exec (.invalidatePacket id) s = .next t ∧ t.mem = s.mem ∧
      let r := if pfld p 32 8 = 0 then (0, 2 ^ 64) else (pfld p 24 8, pfld p 24 8 + pfld p 32 8)
      let gone := (s.tlb ++ s.tlbGone).filter (leafIn p.vdev r.1 r.2)
      t.tlb = s.tlb.filter (fun l => !leafIn p.vdev r.1 r.2 l) ∧
      ∃ i ∈ t.invals, i.packet = id ∧ (∀ f ∈ s.flights, flightIn s p.vdev gone f = true → f.id ∈ i.flights) ∧
        ∀ q ∈ s.fabric.reqs, q.part = partOf p.vdev → q.id ∈ i.flights) ∧
    ∀ i, s.invals.find? (fun i => i.packet = id) = some i → pktAt s id = some p →
      (s.flights.any fun f => i.flights.contains f.id) = false →
      (s.fabric.reqs.any fun q => i.flights.contains q.id) = false →
      exec (.invalidationComplete id) s = completes { s with invals := s.invals.filter fun x => x.packet != id } 0

/-- R338, R362, R364, R365, R367, R372, R377, R381, R384, R387: what each CONFIG packet writes where its record is
good, and that a bad record completes it with status 5 and changes nothing else. The status and the rise of GEN are
the model's readings (log entries 69 and 70), and so is that a partition record kills the launches whose accesses wait on the
requests it abandons (log entry 142). -/
def Obligations.ConfigResults : Prop :=
  ∀ (s : State) (id v : Nat) (p : Packet),
    let completes := fun (t : State) (n : Nat) => Host.Outcome.next (φ := Fault) (ρ := Refusal)
      (putPkt t { p with phase := .done n, park := none })
    let i := pfld p 25 2
    let r := BitVec.ofNat 512 (pfld p 64 64)
    let e := BitVec.ofNat 256 (pfld p 64 32)
    let d := vdevSt s v
    (Configures s id 0 p v → exec (.contextRecordConfig id) s = if ctxRecordBad r then completes s 5
      else completes (putVdev s v { d with ctxs := aput none d.ctxs i (some r) }) 0) ∧
    (Configures s id 1 p v → exec (.vdevRecordConfig id) s = completes
      { putVdev s v { d with record := vdevFields r, prqW := 0, prqCons := 0, msix := [] } with
        tokens := s.tokens.filter fun t => t.1 / 64 != v } 0) ∧
    (Configures s id 2 p v → exec (.ringRecordConfig id) s = completes (putRing s v i (newRing r)) 0) ∧
    (Configures s id 3 p v → exec (.partitionRecordConfig id) s = if partBad s i r then completes s 5
      else completes (dropPartition (([0, 1, 2, 3, 4, 5, 6, 7].map (8 * i + ·)).foldl resetVdev
        { s with partitions := aput 0 s.partitions i (partFields r) }) i) 0) ∧
    (Configures s id 4 p v → exec (.destinationEntryConfig id) s = if destBad s (i / 256) e then completes s 5
      else completes (entryWritten { s with dests := aput DestEntry.zero s.dests i ⟨e, 0⟩ } i) 0) ∧
    (Configures s id 5 p v → exec (.fabricRecordConfig id) s =
      if fld r 12 4 ≠ 0 ∨ fld r 160 352 ≠ 0 then completes s 5
      else completes { s with fabric := { s.fabric with record := r, evW := 0, evCons := 0, evLost := 0 } } 0) ∧
    (Configures s id 6 p v → exec (.msixEntriesConfig id) s = completes ([0, 1, 2, 3].foldl (fun x j =>
      writeMsix x v (i + j) (BitVec.ofNat 128 (pfld p (64 + 16 * j) 16))) s) 0) ∧
    (Starts s id 0x10 p → cfgOk s p = false → ∀ f ∈ [Instr.contextRecordConfig, .vdevRecordConfig, .ringRecordConfig,
      .partitionRecordConfig, .destinationEntryConfig, .fabricRecordConfig, .msixEntriesConfig],
      exec (f id) s = completes s 5)

/-- R362, R373, R374, R376, R378, R381, R382, R386, R402: a published packet is copied, HEAD rises and is written to its
mirror, and the packet is checked; an accepted doorbell sets TAIL, and one that overruns its ring stops it with a CODE 6
record; the consumer registers take what they accept; the administrative ring's record sets its ring; a completion writes
its signal, after the error record of its packet (R380), in class 3 where that goes to another node, and raises its interrupt; a coalescing timeout sends the message,
or notes it pending while its vector is masked. The model's choices are that a ring's slot is read under no key (log entry
124), and that a signal in this package is written in the event that completes its packet (log entry 118). -/
def Obligations.RingEvents : Prop :=
  ∀ (s : State) (v n : Nat),
    let r := ringAt s v n
    let slots := fld r.record 64 16
    let loc := faLoc (fld r.record 0 64) + 256 * (r.head.toNat % (max 1 slots))
    let place : Target := ⟨if loc < Config.hbmEnd then .hbm else .cxl, loc, none, 0, loc⟩
    let p : Packet := ⟨s.serial, v, n, r.head, BitVec.ofNat 2048 (seenVal s place 256), .checking, false, none, [], [], none⟩
    (bitAt s.boot.ready.toNat 146 = true → r.en = true → slots ≠ 0 → r.head ≠ r.tail → targetReady s place = true →
      ringBase s (fld r.record 0 64) = true → readByte (seen s place 256) (loc + 255) = lapByte r.head.toNat slots →
      exec (.ringPacketRead v n) s = .next (checkPkt (post
        (putRing { s with serial := s.serial + 1, packets := s.packets ++ [p] } v n { r with head := r.head + 1 })
        (partOf v) (fld r.record 128 64) (valBytes 8 (r.head + 1).toNat)) p) ∧
      ((∀ q ∈ s.packets, q.id < s.serial) → ∃ t q, exec (.ringPacketRead v n) s = .next t ∧
        (ringAt t v n).head = r.head + 1 ∧ pktAt t s.serial = some q ∧ q.seq = r.head ∧ q.bytes = p.bytes)) ∧
    (∀ val : BitVec 32, n < 4 → v ≤ Config.adminVdev → serialLt 32 r.tail.toNat val.toNat = true →
      ((val - r.head).toNat ≤ slots → exec (.doorbellTail v n val) s = .next (putRing s v n { r with tail := val })) ∧
      (slots < (val - r.head).toNat → exec (.doorbellTail v n val) s =
        .next (ringError (putRing s v n { r with tail := val, en := false }) .none v n 6 0 r.head))) ∧
    (∀ val : BitVec 32, serialLt 32 r.tail.toNat val.toNat = false → exec (.doorbellTail v n val) s = .next s) ∧
    (∀ val : BitVec 32, v < Config.vdevs → exec (.prqcons v val) s = .next
      (if serialLt 32 (vdevSt s v).prqCons.toNat val.toNat then putVdev s v { vdevSt s v with prqCons := val } else s)) ∧
    (∀ val : BitVec 32, exec (.evcons val) s = .next
      (if serialLt 32 s.fabric.evCons.toNat val.toNat then { s with fabric := { s.fabric with evCons := val } } else s)) ∧
    (∀ rec : BitVec 512, exec (.adminRingRecord rec) s = .next (putRing s Config.adminVdev 0
      ⟨BitVec.ofNat 512 (fld rec 0 81 + fld rec 128 128 * 2 ^ 128), 0, 0, bitAt rec.toNat 80⟩)) ∧
    (∀ id p k t, pktAt s id = some p → pktStatus s p = some k → pktCaddr p ≠ 0 → p.caddrBad = false →
      recordPending s p = false →
      let word := valBytes 8 (k + p.seq.toNat * 2 ^ 32)
      (Leads s p 0 8 true t → exec (.packetCompletion id) s = .next (endPkt (storeTo (ccSpend s p t) t word) p)) ∧
      (ccPlace s p 0 8 true = .at t → isRemote t = true → ccOpen s p 3 t = true → exec (.packetCompletion id) s =
        .next (putPkt (ccSend s p (remoteDest t) 3 (writeMsg 2 t.loc word (isClear t))) { p with phase := .signal }))) ∧
    (∀ id p k, pktAt s id = some p → pktStatus s p = some k → pktCaddr p = 0 ∨ p.caddrBad = true →
      recordPending s p = false →
      exec (.packetCompletion id) s = .next (dropPkt (dropLaunch s p) id)) ∧
    ∀ e, (aget (0, 0) (vdevSt s v).coal e).1 ≠ 0 → coalCycles s v ≤ s.clock.toNat - (aget (0, 0) (vdevSt s v).coal e).2 →
      let x := msixEntry s v e
      (fld x 96 1 = 0 → exec (.coalescingTimeout v e) s =
        .next (post (clearCoal s v e) (partOf v) (fld x 0 64) (valBytes 4 (fld x 64 32)))) ∧
      ∃ t, exec (.coalescingTimeout v e) s = .next t ∧ (aget (0, 0) (vdevSt t v).coal e).1 = 0 ∧
        (fld x 96 1 = 1 → e < 64 → (vdevSt t v).msixPend.getLsbD e = true)

/-! The fabric. -/

/-- R385 to R389, R393: what an arriving flit does: an ack goes to its stream, a flit ahead of a gap is dropped after
its ack, a duplicate is dropped and acked again, the next flit is accepted and acked, a message that is not over waits for
its rest, and a request of memory that is ready and serves it, of a doorbell or of the window is performed and answered,
while one whose memory is not ready is kept, accepted and acknowledged, which is the model's reading (log entry 101); a flit
that no stream with 4096 flits in flight sends shows that its stream has failed (log entry 164). That the content of an answer comes with REMOTE_RESPONSE, and that addresses
need no alignment, is the model's (log entries 100 and 103), and so is the latest-service value of a collective request
(log entry 141). -/
def Obligations.FlitResults : Prop :=
  ∀ (s : State) (port : Nat) (f : Flit), port < 18 → portLinked s port = true → flitForUs s f = true →
    let n := f.snode.toNat
    let c := f.tc.toNat
    let t := ackStream s n c f.ack
    let x := rxAt t n c
    let got := fun (parts : List Flit) (held : List Held) => sendAck
      (putRx { t with serial := t.serial + 1 } n c { x with e := x.e + 1, parts := parts, held := held }) port n c
    let ahead := (x.e - f.seq).toNat
    (f.typ = 3 → exec (.flitReceive port f) s = .next t) ∧
    (f.typ = 1 ∨ f.typ = 2 →
      (4096 < ahead → exec (.flitReceive port f) s =
        .next (if ahead < 61440 then putRx t n c { x with failed := true } else t)) ∧
      (0 < ahead → ahead ≤ 4096 → exec (.flitReceive port f) s = .next (sendAck t port n c)) ∧
      (x.e = f.seq → f.fidx.toNat < f.nflit.toNat → exec (.flitReceive port f) s =
        .next (serveHeld n c x.held.length (got (x.parts ++ [f]) x.held)))) ∧
    (f.typ = 2 → x.e = f.seq → f.nflit.toNat ≤ f.fidx.toNat → exec (.flitReceive port f) s =
      .next (serveHeld n c x.held.length (got [] x.held))) ∧
    (f.typ = 1 → x.e = f.seq → f.nflit.toNat ≤ f.fidx.toNat →
      let m := msgOf (x.parts ++ [f])
      let due := Config.latestService t.serial
      let held := x.held ++ [⟨port, x.parts ++ [f], due⟩]
      let g := got [] held
      let p := placeOf g port n m
      (exec (.flitReceive port f) s = .next (serveHeld n c held.length g)) ∧
      (x.held = [] → placeReady g p = false ∨ placeServed g c due p = false → exec (.flitReceive port f) s = .next g) ∧
      (x.held = [] → placeReady g p = true → placeServed g c due p = true → m.width ≠ 3 →
        let u := putRx g n c { rxAt g n c with held := [] }
        let r := serve u m (placeOf u port n m)
        exec (.flitReceive port f) s = .next (respond r.st port n c m r.answer)))

/-- R388, R390 to R392: an ack empties the retry buffer of what it covers, and what waits to be sent again; a link that goes down, or an ack that does not
come, marks routes failed; a stream without a route for TROUTE fails, with its requests; an answer ends its request and
reaches every lane that shares it, and a Failure response fails its stream. -/
def Obligations.FabricEvents : Prop :=
  ∀ (s : State),
    (∀ node tc (ack : BitVec 16), let x := txAt s node tc
      tc < 4 → x.failed = none → (x.sent - ack).toNat ≤ 8192 → ∃ t, exec (.ackReceive node tc ack) s = .next t ∧
        (∀ u ∈ (txAt t node tc).unacked, (ack - u.flit.seq).toNat = 0 ∨ 4096 < (ack - u.flit.seq).toNat) ∧
        ∀ u ∈ (txAt t node tc).queue, (ack - u.1.seq).toNat = 0 ∨ 4096 < (ack - u.1.seq).toNat) ∧
    (∀ port, port < 18 → ∃ t, exec (.linkDown port) s = .next t ∧ t.boot.down.getLsbD port = true ∧
      ∀ i < 2 ^ 16, ∀ n < 3, bitAt (destAt s i).record.toNat (64 + 64 * n) = true → routePort (destAt s i) n = port →
        (destAt t i).failed.getLsbD n = true) ∧
    (∀ port, port < 18 → ∃ t, exec (.linkUp port) s = .next t ∧ t.boot.down.getLsbD port = false ∧ t.dests = s.dests) ∧
    (∀ node tc u, (txAt s node tc).unacked.head? = some u → ackOverdue s node tc = true → u.entry < 2 ^ 16 → u.route < 3 →
      ∃ t, exec (.ackTimeout (u.entry / 256) node tc) s = .next t ∧ (destAt t u.entry).failed.getLsbD u.route = true) ∧
    (∀ node tc, let x := txAt s node tc
      routeOverdue s node tc = true → x.failed = none → tc < 4 → ∃ t,
        exec (.routeWaitTimeout (waitEntry x / 256) node tc) s = .next t ∧ (txAt t node tc).failed = some 1 ∧
        ∀ r ∈ s.fabric.reqs, r.node = node → r.tc = tc → ∃ u ∈ t.fabric.reqs, u.id = r.id ∧ u.doomed.isSome = true) ∧
    ∀ id r x a, s.fabric.reqs.find? (fun r => r.id = id) = some r → answerOf s r x = some a →
      let u := { s with fabric := { s.fabric with reqs := s.fabric.reqs.filter fun q => q.id != id } }
      let t := if a = .failed 2 ∧ r.doomed = none then failStream u r.node r.tc 2 else u
      (r.owner = .none → exec (.remoteResponse id x) s = .next t) ∧
      (∀ i lane f, r.owner = .flight i lane → flightAt s i = some f → exec (.remoteResponse id x) s = .next
        (putFlight t { f with lanes := f.lanes.map fun l =>
          if l.lane = lane ∨ (readPhase f = true ∧ servedBy f l = lane) then answerLane f l a else l }))

/-! Bring-up and the service window. -/

/-- R403, R405, R407: a power-on or cold start clears everything and boots; a warm start keeps HBM and the second tier and
raises every generation in use; a power loss leaves nothing volatile. That CLOCK is 0 after a start, that POWER_ON of a powered
machine is a cold start, and that a warm start raises GEN are the model's choices (log entries 2, 34 and 69). -/
def Obligations.StartEvents : Prop :=
  ∀ (s : State) (plan : List (Nat × BitVec 3)),
    (∀ i ∈ [Instr.powerOn plan, .coldStart plan], ∃ t, exec i s = .next t ∧ t.clock = 0 ∧ t.mem = [] ∧ t.desc = [] ∧
      t.keyed = [] ∧ t.slices = [] ∧ t.teams = [] ∧ t.vdevs = [] ∧ t.partitions = [] ∧ t.boot.ready = 0 ∧
      t.boot.bootstat = bootStat s.boot 1 ∧ t.boot.powered = true) ∧
    (∃ t, exec (.warmStart plan) s = .next t ∧ t.clock = 0 ∧ t.slices = [] ∧ t.teams = [] ∧ t.flights = [] ∧
      t.partitions = s.partitions ∧ t.desc = s.desc ∧ t.keyed = s.keyed ∧ t.boot.ready = 0 ∧ t.boot.bootstat = bootStat s.boot 2 ∧
      (∀ a < Config.sramBase, readByte t.mem a = readByte s.mem a) ∧
      ∀ v < Config.vdevs, vdevSt s v ≠ VDev.zero →
        (vdevSt t v).gen = (vdevSt s v).gen + 1 ∧ (vdevSt t v).record = (vdevSt s v).record) ∧
    ∀ torn, ∃ t, exec (.powerLoss torn) s = .next t ∧ t.mem = [] ∧ t.slices = [] ∧ t.vdevs = [] ∧ t.boot.ready = 0 ∧
      t.boot.powered = false ∧ t.boot.marker0 = s.boot.marker0 ∧ t.boot.marker1 = s.boot.marker1

/-- R4, R9, R334, R368, R370, R400, R402 to R404, R407 to R410: a unit that may be ready gets its READY bit; a retraining is
requested, under way and over; a margin solution never lowers a cluster's bin number; the token buckets of every virtual
device refill together; a write to the service window puts bytes into a firmware slot, replaces a marker copy, or writes the
register at its offset, where RESET takes 1 and 2 alone; an error event marks the unit that it names as uncorrectable, in memory,
in an anvil or in a register. The model's choices are how an image lies in its slot and that a write from its first byte begins a new one (log entry 49), that a marker copy whose
write was interrupted is torn until it is written again (log entry 50), and that errors are stored by 4-byte unit of memory (log
entry 9). -/
def Obligations.ServiceEvents : Prop :=
  ∀ (s : State),
    (∀ bit < 148, mayBeReady s bit = true → ∃ t, exec (.unitReady bit) s = .next t ∧ t.boot.ready.getLsbD bit = true ∧
      t.mem = s.mem) ∧
    (∀ val : BitVec 32, exec (.retrain val) s =
      .next { s with boot := { s.boot with retrain := s.boot.retrain ||| (val &&& 0xFFFFFF) } }) ∧
    (∀ n < 24, s.boot.retrain.getLsbD n = true → s.boot.ready.getLsbD n = true →
      deadlineDues s (2 * n) = [] → deadlineDues s (2 * n + 1) = [] → ∃ t,
        exec (.retrainingStart n) s = .next t ∧ t.boot.training.getLsbD n = true) ∧
    (∀ n < 24, s.boot.training.getLsbD n = true → ∃ t, exec (.retrainingEnd n) s = .next t ∧
      t.boot.training.getLsbD n = false ∧ t.boot.retrain.getLsbD n = false ∧
      aget 0 t.boot.params n = aget 0 s.boot.params n + 1) ∧
    (∀ plan, resolveCycles ≤ s.clock.toNat - s.boot.solved → ∃ t, exec (.marginResolve plan) s = .next t ∧
      t.boot.solved = s.clock.toNat ∧ ∀ c < Config.clusters, binOf s c ≤ binOf t c) ∧
    (s.refills < s.clock.toNat / 1024 → ∃ t, exec .tokenRefill s = .next t ∧ t.refills = s.refills + 1 ∧
      (awf 0 s.tokens = true → ∀ b, aget 0 t.tokens b =
        if vdevRate s (b / 64) = 0 then 0 else aget 0 s.tokens b - vdevRate s (b / 64))) ∧
    (∀ b off bs, ∃ t, exec (.registerWrite (.slot b off bs)) s = .next t ∧
      let image := fun (u : State) (slot : Bool) => if slot then u.boot.slotB else u.boot.slotA
      (∀ i < bs.length, (image t b)[off + i]? = bs[i]?) ∧ image t (!b) = image s (!b) ∧
      (off = 0 → image t b = bs) ∧
      (off ≠ 0 → ∀ i, i < off ∨ off + bs.length ≤ i → i < (image s b).length → (image t b)[i]? = (image s b)[i]?) ∧
      t.mem = s.mem ∧ t.boot.marker0 = s.boot.marker0 ∧ t.boot.marker1 = s.boot.marker1) ∧
    (∀ c x, ∃ t, exec (.registerWrite (.marker c x)) s = .next t ∧
      (if c then t.boot.marker1 else t.boot.marker0) = x ∧ t.boot.torn.getLsbD c.toNat = false) ∧
    (∀ u, ∃ t, exec (.uncorrectableError (.mem u)) s = .next t ∧ aget false t.poison u = true ∧ t.mem = s.mem) ∧
    (∀ n x, n < 576 → x < 8 → ∃ t, exec (.uncorrectableError (.tile n x)) s = .next t ∧ x ∈ (anvilAt t n).badTile) ∧
    (∀ n x, n < 576 → x < 8 → ∃ t, exec (.uncorrectableError (.table n x)) s = .next t ∧ x ∈ (anvilAt t n).badTab) ∧
    (∀ n b, n < 576 → b < 32768 → ∃ t, exec (.uncorrectableError (.weight n b)) s = .next t ∧ b ∈ (anvilAt t n).badWb) ∧
    (∀ x : BitVec 64, x ≠ 1 → x ≠ 2 → exec (.registerWrite (.reg 0x028 x)) s = .next s) ∧
    (∀ x : BitVec 64, exec (.registerWrite (.reg 0x030 x)) s = exec (.retrain (BitVec.ofNat 32 x.toNat)) s) ∧
    (∀ x : BitVec 64, exec (.registerWrite (.reg 0x038 x)) s = exec (.evcons (BitVec.ofNat 32 x.toNat)) s) ∧
    ∀ k r team lanes, teamAt s (k / 32) = some team → k % 32 < team.s →
      (r < team.v → ∃ t, exec (.uncorrectableError (.vreg k r lanes)) s = .next t ∧
        (regInfo false (sliceAt t k) r).bad = (regInfo false (sliceAt s k) r).bad ||| lanes) ∧
      (r < team.a → ∃ t, exec (.uncorrectableError (.areg k r lanes)) s = .next t ∧
        (regInfo true (sliceAt t k) r).bad = (regInfo true (sliceAt s k) r).bad ||| lanes)

/-! The anvil. -/

/-- R251, R252, R254, R257, R263, R266 to R270: an anvil's first request in grant order is granted, and a pass reads its
bias then; a pass commits its tile; the loads and stores of a granted request are made, and TL falls. -/
def Obligations.AnvilEvents : Prop :=
  ∀ (s : State) (n : Nat) (r : AReq),
    let v := anvilAt s n
    let g := grantOf s r.core r.ctx
    let leaves := fun (t : State) (x : Anvil) => Host.Outcome.next (φ := Fault) (ρ := Refusal)
      (lowerTl (putAnvil t n { x with resv := x.resv.filter fun q => q.id != r.id }) r.owner 1)
    (leastBy grantBefore (v.resv.filter fun q => !q.granted) = some r → mustWait s v r = false → judgeReq s n r = none →
      let q := { r with granted := true }
      let t := putAnvil s n (putReq v q)
      let c := cmdOf r.cb
      (r.kind ≠ 0 ∨ c.bias = false → exec (.anvilGrant n) s = .next t) ∧
      (∀ bs, r.kind = 0 → c.bias = true → fetchBlocks t n q 5 c.biasaddr 4 = .got bs → exec (.anvilGrant n) s = .next
        (let x := spendFor t r.ctx (chkBlocks t q false c.biasaddr 4).1
         putAnvil x n (putReq (anvilAt x n) { q with bias := bs.flatMap (·.1), inbox := [], park := none })))) ∧
    (∀ rows, reqAt s r.id = some (n, r) → r.kind = 0 → r.granted = true → r.committed = false → r.ended = false →
      ((cmdOf r.cb).bias = true → r.bias ≠ []) → runPass s n r (cmdOf r.cb) = .ok rows →
      (r.checked = true → anvilMismatch s n = none) →
      ∃ t, exec (.anvilPassCommit r.id) s = .next t ∧ t.mem = s.mem ∧
        (anvilAt t n).tiles = putTile v.tiles (cmdOf r.cb).tile rows ∧
        (anvilAt t n).invalid.getLsbD (cmdOf r.cb).tile = false ∧ (cmdOf r.cb).tile ∉ (anvilAt t n).badTile ∧
        (anvilAt t n).wb = v.wb ∧ (anvilAt t n).tabs = v.tabs) ∧
    (reqAt s r.id = some (n, r) → r.granted = true → r.remote = 0 → r.ended = false →
      (∀ bs, r.kind = 1 → fetchBlocks s n r 6 r.addr.toNat (bits r.r2.toNat 0 16) = .got bs →
        let c := r.r2.toNat
        let band : BitVec 16 := if bitAt c 32 then BitVec.ofNat 16 (bits c 16 16) else 0x3F80
        exec (.anvilRequestComplete r.id) s = leaves
          (spendFor s r.ctx (chkBlocks s r false r.addr.toNat (bits c 0 16)).1)
          (loadBlocks v (g.2.1 + bits r.r1.toNat 0 21) band bs)) ∧
      (∀ bs, r.kind = 3 → fetchBlocks s n r 7 r.addr.toNat 8 = .got bs → exec (.anvilRequestComplete r.id) s = leaves
        (spendFor s r.ctx (chkBlocks s r false r.addr.toNat 8).1)
        { v with
          tabs := writeList v.tabs (512 * r.tile) (bs.flatMap (·.1))
          tabOk := v.tabOk ||| BitVec.ofNat 8 (2 ^ r.tile)
          badTab := v.badTab.filter fun t => t != r.tile }) ∧
      (∀ outs, (r.kind = 0 ∧ r.committed = true ∨ r.kind = 2 ∧ v.badTile.contains r.tile = false) → r.done ≠ 1 →
        chkOut s r (reqOut s n r) = (outs, none) →
        (∀ o ∈ outs, isRemote o.1 = false ∧ outWaits s r o.1 = false ∧ mayWrite s r.ctx o.1 = true ∧ o.1.dup = none) →
        exec (.anvilRequestComplete r.id) s = leaves (outs.foldl (fun x o => storeDesc x o.1.key o.1.loc o.2.1 o.2.2)
          (spendFor s r.ctx (outs.map (·.1)))) v))
end

