-- ==== Sys2Proof/Laws/Assoc.lean ====
section
/-! SUPPORT. Association lists: what reading sees after a write, and the canonical form that every write keeps. -/

namespace Sys2Proof.Laws
open Sys2Proof.Machine

theorem aget_ainsert_self {α} (d : α) (m : Assoc α) (k : Nat) (x : α) (h : ∀ p ∈ m, p.1 ≠ k) :
    aget d (ainsert m k x) k = x := by
  induction m with
  | nil => simp [ainsert, aget]
  | cons p m ih =>
    obtain ⟨j, y⟩ := p
    have hj : j ≠ k := h (j, y) (by simp)
    by_cases hlt : k < j
    · simp [ainsert, hlt, aget]
    · simp [ainsert, hlt, aget, hj, ih (fun p hp => h p (by simp [hp]))]

theorem aget_ainsert_ne {α} (d : α) (m : Assoc α) (k j : Nat) (x : α) (h : j ≠ k) :
    aget d (ainsert m k x) j = aget d m j := by
  induction m with
  | nil => simp [ainsert, aget, Ne.symm h]
  | cons p m ih =>
    obtain ⟨i, y⟩ := p
    by_cases hlt : k < i
    · simp [ainsert, hlt, aget, Ne.symm h]
    · simp [ainsert, hlt, aget, ih]

theorem not_mem_aerase {α} (m : Assoc α) (k : Nat) : ∀ p ∈ aerase m k, p.1 ≠ k := by
  induction m with
  | nil => simp [aerase]
  | cons p m ih =>
    obtain ⟨j, y⟩ := p
    by_cases hj : j = k
    · simpa [aerase, hj] using ih
    · simp only [aerase, hj, if_false]
      intro q hq
      rcases List.mem_cons.mp hq with rfl | hq
      · exact hj
      · exact ih q hq

theorem aget_aerase_ne {α} (d : α) (m : Assoc α) (k j : Nat) (h : j ≠ k) : aget d (aerase m k) j = aget d m j := by
  induction m with
  | nil => rfl
  | cons p m ih =>
    obtain ⟨i, y⟩ := p
    by_cases hi : i = k
    · subst hi; simp [aerase, aget, ih, Ne.symm h]
    · simp [aerase, hi, aget, ih]

theorem aget_absent {α} (d : α) (m : Assoc α) (k : Nat) (h : ∀ p ∈ m, p.1 ≠ k) : aget d m k = d := by
  induction m with
  | nil => rfl
  | cons p m ih =>
    obtain ⟨i, y⟩ := p
    have hi : i ≠ k := h (i, y) (by simp)
    simp [aget, hi, ih (fun p hp => h p (by simp [hp]))]

@[simp] theorem aget_aput_self {α} [DecidableEq α] (d : α) (m : Assoc α) (k : Nat) (x : α) :
    aget d (aput d m k x) k = x := by
  unfold aput
  split
  · next h => rw [aget_absent _ _ _ (not_mem_aerase m k), h]
  · exact aget_ainsert_self _ _ _ _ (not_mem_aerase m k)

theorem aget_aput_ne {α} [DecidableEq α] (d : α) (m : Assoc α) (k j : Nat) (x : α) (h : j ≠ k) :
    aget d (aput d m k x) j = aget d m j := by
  unfold aput
  split
  · exact aget_aerase_ne _ _ _ _ h
  · rw [aget_ainsert_ne _ _ _ _ _ h, aget_aerase_ne _ _ _ _ h]

/-! The canonical form. -/

theorem awf_cons {α} [DecidableEq α] {d : α} {k : Nat} {x : α} {m : Assoc α} :
    awf d ((k, x) :: m) = true ↔ x ≠ d ∧ (∀ p ∈ m, k < p.1) ∧ awf d m = true := by
  simp [awf, List.all_eq_true, and_assoc]

theorem mem_aerase {α} {m : Assoc α} {k : Nat} {p : Nat × α} (h : p ∈ aerase m k) : p ∈ m := by
  induction m with
  | nil => exact h
  | cons q m ih =>
    obtain ⟨j, y⟩ := q
    by_cases hj : j = k
    · exact List.mem_cons_of_mem _ (ih (by simpa [aerase, hj] using h))
    · simp only [aerase, hj, if_false] at h
      rcases List.mem_cons.mp h with rfl | h
      · exact List.mem_cons_self ..
      · exact List.mem_cons_of_mem _ (ih h)

/-- Erasing a key keeps the canonical form. -/
theorem awf_aerase {α} [DecidableEq α] {d : α} {m : Assoc α} {k : Nat} (h : awf d m = true) :
    awf d (aerase m k) = true := by
  induction m with
  | nil => rfl
  | cons q m ih =>
    obtain ⟨j, y⟩ := q
    obtain ⟨hy, hlt, hm⟩ := awf_cons.mp h
    by_cases hj : j = k
    · simpa [aerase, hj] using ih hm
    · simp only [aerase, hj, if_false]
      exact awf_cons.mpr ⟨hy, fun p hp => hlt p (mem_aerase hp), ih hm⟩

theorem mem_ainsert {α} {m : Assoc α} {k : Nat} {x : α} {p : Nat × α} (h : p ∈ ainsert m k x) : p = (k, x) ∨ p ∈ m := by
  induction m with
  | nil => exact .inl (List.mem_singleton.mp h)
  | cons q m ih =>
    obtain ⟨j, y⟩ := q
    by_cases hlt : k < j
    · simp only [ainsert, hlt, if_true] at h
      exact List.mem_cons.mp h
    · simp only [ainsert, hlt, if_false] at h
      rcases List.mem_cons.mp h with rfl | h
      · exact .inr (List.mem_cons_self ..)
      · exact (ih h).imp id (List.mem_cons_of_mem _)

/-- Inserting a new key with a value that is no default keeps the canonical form. -/
theorem awf_ainsert {α} [DecidableEq α] {d : α} {m : Assoc α} {k : Nat} {x : α} (hx : x ≠ d)
    (h : awf d m = true) (hk : ∀ p ∈ m, p.1 ≠ k) : awf d (ainsert m k x) = true := by
  induction m with
  | nil => simp [ainsert, awf, hx]
  | cons q m ih =>
    obtain ⟨j, y⟩ := q
    obtain ⟨hy, hlt, hm⟩ := awf_cons.mp h
    by_cases hkj : k < j
    · simp only [ainsert, hkj, if_true]
      refine awf_cons.mpr ⟨hx, fun p hp => ?_, h⟩
      rcases List.mem_cons.mp hp with rfl | hp
      · exact hkj
      · exact hkj.trans (hlt p hp)
    · simp only [ainsert, hkj, if_false]
      refine awf_cons.mpr ⟨hy, fun p hp => ?_, ih hm fun p hp => hk p (List.mem_cons_of_mem _ hp)⟩
      rcases mem_ainsert hp with rfl | hp
      · have := hk (j, y) (List.mem_cons_self ..)
        exact Nat.lt_of_le_of_ne (Nat.not_lt.mp hkj) this
      · exact hlt p hp

/-- Every write keeps the canonical form. -/
theorem awf_aput {α} [DecidableEq α] {d : α} {m : Assoc α} (k : Nat) (x : α) (h : awf d m = true) :
    awf d (aput d m k x) = true := by
  unfold aput
  split
  · exact awf_aerase h
  · next hx => exact awf_ainsert hx (awf_aerase h) (not_mem_aerase m k)

/-- Filtering keeps the canonical form. -/
theorem awf_filter {α} [DecidableEq α] {d : α} {m : Assoc α} (f : Nat × α → Bool) (h : awf d m = true) :
    awf d (m.filter f) = true := by
  induction m with
  | nil => rfl
  | cons q m ih =>
    obtain ⟨j, y⟩ := q
    obtain ⟨hy, hlt, hm⟩ := awf_cons.mp h
    rw [List.filter_cons]
    split
    · exact awf_cons.mpr ⟨hy, fun p hp => hlt p (List.mem_filter.mp hp).1, ih hm⟩
    · exact ih hm

/-! Memory. -/

/-- A byte that has been written reads as written. -/
@[simp] theorem readByte_writeByte_self (m : Memory) (a : Nat) (b : Byte) : readByte (writeByte m a b) a = b :=
  aget_aput_self _ _ _ _

/-- Writing one byte leaves every other byte as it was. -/
theorem readByte_writeByte_ne (m : Memory) {a c : Nat} (b : Byte) (h : c ≠ a) :
    readByte (writeByte m a b) c = readByte m c := aget_aput_ne _ _ _ _ _ h

/-- Writing one byte keeps the canonical form. -/
theorem wf_writeByte {m : Memory} (a : Nat) (b : Byte) (h : m.wf = true) : Memory.wf (writeByte m a b) = true :=
  awf_aput a b h

/-- Writing bytes keeps the canonical form. -/
theorem wf_writeList {m : Memory} (a : Nat) (bs : List Byte) (h : m.wf = true) : Memory.wf (writeList m a bs) = true := by
  induction bs generalizing m a with
  | nil => exact h
  | cons b bs ih => exact ih (a + 1) (wf_writeByte a b h)

/-- Writing a number keeps the canonical form. -/
theorem wf_writeBytes {m : Memory} (a n x : Nat) (h : m.wf = true) : Memory.wf (writeBytes m a n x) = true := by
  induction n generalizing m a x with
  | zero => exact h
  | succ n ih => exact ih (a + 1) (x / 256) (wf_writeByte a _ h)

/-- Bytes outside a written list read as before. -/
theorem readByte_writeList_out (m : Memory) (a c : Nat) (bs : List Byte) (h : c < a ∨ a + bs.length ≤ c) :
    readByte (writeList m a bs) c = readByte m c := by
  induction bs generalizing m a with
  | nil => rfl
  | cons b bs ih =>
    have hc : c ≠ a := by rw [List.length_cons] at h; omega
    rw [writeList, ih, readByte_writeByte_ne _ _ hc]
    rcases h with h | h
    · exact .inl (by omega)
    · exact .inr (by rw [List.length_cons] at h; omega)

/-- A byte inside a written list reads as written. -/
theorem readByte_writeList_in (m : Memory) (a i : Nat) (bs : List Byte) (h : i < bs.length) :
    readByte (writeList m a bs) (a + i) = bs[i] := by
  induction bs generalizing m a i with
  | nil => exact absurd h (Nat.not_lt_zero _)
  | cons b bs ih =>
    rw [writeList]
    cases i with
    | zero => rw [readByte_writeList_out _ _ _ _ (.inl (by omega))]; exact readByte_writeByte_self ..
    | succ i =>
      have := ih (writeByte m a b) (a + 1) i (by simpa using h)
      rwa [show a + (i + 1) = a + 1 + i by omega]

end Sys2Proof.Laws
end

