-- ==== Sys2Proof/Laws/Issue.lean ====
section
/-! SUPPORT. Issuing a lane instruction: what the whole issue does when the one slice that issues completes. -/

namespace Sys2Proof.Laws

open Sys2Proof.Machine Sys2Proof.Safety

theorem sliceAt_countUnit (s : State) (t u k : Nat) : sliceAt (countUnit s t u) k = sliceAt s k := by
  unfold countUnit
  split
  · rfl
  · split <;> rfl

theorem checked_sound {s k v} (h : mismatches s k = []) : checkedVerdict s k v = v := by
  unfold checkedVerdict
  split
  · split
    · next hv => rw [h]; cases v <;> simp [strike, struck, isDone] at hv ⊢
    · rfl
  · rfl

theorem key_split (k : Nat) : 32 * (k / 32) + k % 32 = k := by omega

theorem putPin_slices (s : State) (t : Nat) (p : Option Word32) : (putPin s t p).slices = s.slices := by
  unfold putPin
  split <;> rfl

theorem partUnit_one (s : State) (t j : Nat) : partUnit s t j [j] = s := by
  unfold partUnit
  split
  · rfl
  · simp [groupOf]

theorem sliceAt_putSlice (s : State) (k : Nat) (sl : Slice) : sliceAt (putSlice s k sl) k = sl :=
  aget_aput_self _ _ _ _

theorem putS_unit (sw : SWrites) (sl : Slice) : (putS sw sl).unit = sl.unit := by
  unfold putS
  induction sw generalizing sl with
  | nil => rfl
  | cons w ws ih => rw [List.foldl_cons, ih]

theorem issuerOf_trap (c : Nat) : issuerOf (trapBase + c) true = .trap c := by
  unfold issuerOf
  rw [if_pos rfl, if_pos (Nat.le_add_right _ _), Nat.add_sub_cancel_left]

theorem issueLane_access {s : State} {k : Nat} {e : Env} {r : Streams} {cmp : Bool} {f : Env → Slice → Verdict}
    (hi : s.issuer = issuerOf k true) (he : envOf s k true = some e) (hr : streamFault r e = none) :
    issueLane s r cmp f = .next (commitOne s k (f e (sliceAt s k))) := by
  by_cases hk : trapBase ≤ k
  · obtain ⟨c, rfl⟩ := Nat.exists_eq_add_of_le hk
    rw [issuerOf_trap] at hi
    unfold issueLane
    rw [hi]
    simp only [he, hr]
  · have hi' : s.issuer = .access k := by rw [hi]; unfold issuerOf; rw [if_pos rfl, if_neg hk]
    unfold issueLane
    rw [hi']
    simp only [he, hr]

theorem commit_done {s : State} {k : Nat} {sl : Slice} {sw : SWrites} {pin : Option Word32}
    (hu : sl.unit = k % 32) (hb : (sliceAt s k).unit = k % 32) :
    commitIssue s (k / 32) (sliceAt s k).unit [(k % 32, .done sl sw pin)] = issued s k false sl sw pin := by
  have hw : ((([(k % 32, Verdict.done sl sw pin)].map fun v => verdictWrites v.2).find? fun w => !w.isEmpty).getD []) = sw := by
    cases sw <;> rfl
  unfold commitIssue
  simp only [List.any_cons, List.any_nil, isStall, Bool.or_false, Bool.false_eq_true, if_false]
  rw [hw]
  simp only [List.foldl_cons, List.foldl_nil, writeDone, actOn, key_split, List.filter_cons, List.filter_nil, isDone, if_true,
    List.map_cons, List.map_nil, List.findSome?_cons, List.findSome?_nil, verdictPin, hb]
  have : (sliceAt (putPin (putSlice (countUnit s (k / 32) (k % 32)) k (putS sw sl)) (k / 32) pin) k).unit = k % 32 := by
    unfold sliceAt
    rw [putPin_slices]
    show (sliceAt (putSlice _ k _) k).unit = _
    rw [sliceAt_putSlice, putS_unit, hu]
  cases pin <;> simp only [this, partUnit_one, issued, Bool.false_eq_true, if_false]

theorem issueLane_compute {s : State} {k : Nat} {e : Env} {r : Streams} {cmp : Bool} {f : Env → Slice → Verdict}
    (h : Solo s k false e) (hr : streamFault r e = none) :
    issueLane s r cmp f = .next (commitIssue s (k / 32) (sliceAt s k).unit [(k % 32, f e (sliceAt s k))]) := by
  have hk := h.low rfl
  obtain ⟨ha, -⟩ := h.alone rfl
  have hs := h.sound rfl
  have hi : s.issuer = .compute k := h.issuer
  unfold issueLane
  rw [hi]
  simp only [h.env, ha, Nat.not_le.mpr hk, if_false, List.map_cons, List.map_nil, key_split, hr]
  cases cmp
  · simp only [Bool.false_eq_true, if_false]
  · simp only [if_true, checked_sound hs]

theorem issueLane_done {s : State} {k : Nat} {acc : Bool} {e : Env} {r : Streams} {cmp : Bool} {f : Env → Slice → Verdict}
    {sl : Slice} {sw : SWrites} {pin : Option Word32} (h : Solo s k acc e) (hr : streamFault r e = none)
    (hf : f e (sliceAt s k) = .done sl sw pin) (hu : sl.unit = (sliceAt s k).unit) :
    issueLane s r cmp f = .next (issued s k acc sl sw pin) := by
  cases acc with
  | true => rw [issueLane_access h.issuer h.env hr, hf]; simp only [commitOne, issued, if_true]
  | false =>
    have hb := (h.alone rfl).2
    rw [issueLane_compute h hr, hf, commit_done (hu.trans hb) hb]

theorem env_acc {s : State} {k : Nat} {acc : Bool} {e : Env} (h : envOf s k acc = some e) : e.acc = acc := by
  unfold envOf at h
  dsimp only at h
  repeat' split at h
  all_goals first
    | contradiction
    | (obtain rfl := Option.some.inj h; first | rfl | simp_all)

theorem env_key {s : State} {k : Nat} {acc : Bool} {e : Env} (h : envOf s k acc = some e) : e.key = k := by
  unfold envOf at h
  dsimp only at h
  repeat' split at h
  all_goals simp only [Option.some.injEq, reduceCtorEq] at h
  all_goals rw [← h]

theorem stream_access {s : State} {k : Nat} {e : Env} (h : Solo s k true e) : streamFault .access e = none := by
  unfold streamFault
  rw [env_acc h.env]
  rfl

theorem accessKey_issuer {s : State} {k : Nat} {e : Env} (h : Solo s k true e) : accessKey s.issuer = k := by
  rw [h.issuer]
  unfold issuerOf accessKey
  rw [if_pos rfl]
  by_cases hk : trapBase ≤ k
  · rw [if_pos hk]
    dsimp only
    omega
  · rw [if_neg hk]

/-! Readers that race with writes (R114, R115, R117): what a move keeps for them changes no memory, and a reader with no older
values sees memory as it stands. -/

@[simp] theorem withOlds_nil (s : State) : withOlds [] s = s := rfl
@[simp] theorem withOlds_keyed (olds : List (Nat × Nat)) (s : State) : (withOlds olds s).keyed = s.keyed := rfl
@[simp] theorem withOlds_poison (olds : List (Nat × Nat)) (s : State) : (withOlds olds s).poison = s.poison := rfl
@[simp] theorem keepOlds_mem (picks : List (MemReader × Nat)) (b s : State) : (keepOlds picks b s).mem = s.mem := rfl
@[simp] theorem keepOlds_desc (picks : List (MemReader × Nat)) (b s : State) : (keepOlds picks b s).desc = s.desc := rfl
@[simp] theorem keepOlds_slices (picks : List (MemReader × Nat)) (b s : State) : (keepOlds picks b s).slices = s.slices := rfl
@[simp] theorem raceOlds_mem (s : State) (w : Turn) : (raceOlds s w).mem = s.mem := rfl
@[simp] theorem raceOlds_desc (s : State) (w : Turn) : (raceOlds s w).desc = s.desc := rfl

/-- Without a unit chosen, a reader that sees no older value goes on seeing none. -/
theorem oldsAfter_nil (b s : State) : oldsAfter b s [] [] = [] := rfl

/-- An older value that a reader sees after a move was its own before, of a unit that the move has not written, or is what it
saw before of a unit chosen and written. -/
theorem mem_oldsAfter {b s : State} {picks : List Nat} {olds : List (Nat × Nat)} {o : Nat × Nat}
    (h : o ∈ oldsAfter b s picks olds) :
    (o ∈ olds ∧ unitSame b s o.1 = true) ∨
    (o.1 ∈ picks ∧ unitSame b s o.1 = false ∧ o.2 = readBytes (withOlds olds b).mem (4 * o.1) 4) := by
  simp only [oldsAfter, List.mem_append, List.mem_filter, List.mem_map, List.mem_eraseDups, Bool.and_eq_true,
    Bool.not_eq_true'] at h
  rcases h with h | ⟨u, ⟨hu, ⟨hn, -⟩, -⟩, rfl⟩
  · exact .inl h
  · exact .inr ⟨hu, hn, rfl⟩

end Sys2Proof.Laws
end

