-- ==== Sys2Proof/Laws/Lane.lean ====
section
/-! SUPPORT. Arithmetic instructions: reading operands and writing results keep the unit of the slice, and an instruction
with readable operands completes. -/

namespace Sys2Proof.Laws
open Sys2Proof.Machine Sys2Proof.Safety

theorem foldl_keeps {α β γ} (g : α → γ) (f : α → β → α) (h : ∀ x y, g (f x y) = g x) (l : List β) (x : α) :
    g (l.foldl f x) = g x := by
  induction l generalizing x with
  | nil => rfl
  | cons y ys ih => rw [List.foldl_cons, ih, h]

@[simp] theorem setStream_unit (acc : Bool) (sl : Slice) (x : Stream) : (setStream acc sl x).unit = sl.unit := by
  cases acc <;> rfl

@[simp] theorem putInfo_unit (acc : Bool) (sl : Slice) (r : Nat) (x : RegInfo) : (putInfo acc sl r x).unit = sl.unit := by
  cases acc <;> rfl

@[simp] theorem setReg_unit (acc : Bool) (sl : Slice) (r l x : Nat) : (setReg acc sl r l x).unit = sl.unit := by
  cases acc <;> rfl

@[simp] theorem killReg_unit (acc : Bool) (sl : Slice) (r l : Nat) : (killReg acc sl r l).unit = sl.unit := by
  simp [killReg]

@[simp] theorem lastUse_unit (e : Env) (b : Slice) (act : BitVec 4) (w : Bool) (c : Nat) (wr : Nat → List Nat) (sl : Slice) :
    (lastUse e b act w c wr sl).unit = sl.unit := by
  unfold lastUse
  exact foldl_keeps _ _ (fun x y => foldl_keeps Slice.unit _ (fun _ _ => killReg_unit ..) _ x) _ _

@[simp] theorem touchRegs_unit (acc : Bool) (rs : List Nat) (sl : Slice) : (touchRegs acc rs sl).unit = sl.unit := by
  unfold touchRegs
  exact foldl_keeps _ _ (fun _ _ => putInfo_unit ..) _ _

/-- What does not depend on what is kept about registers is the same after registers are removed (R41). -/
theorem trimBank_keeps {α : Type} {acc : Bool} (g : Slice → α) (h : ∀ sl r x, g (putInfo acc sl r x) = g sl)
    (n budget : Nat) (keep : List Nat) (f room : Nat) (sl : Slice) : g (trimBank acc n budget keep f room sl) = g sl := by
  induction f generalizing room sl with
  | zero => rfl
  | succ f ih =>
    unfold trimBank
    split
    · split
      · rfl
      · dsimp only; rw [ih, h]
    · rfl

/-- What does not depend on what is kept about registers is the same after room is made for new ones (R41). -/
theorem trimNew_keeps {α : Type} {e : Env} (g : Slice → α) (h : ∀ sl r x, g (putInfo e.acc sl r x) = g sl) (keep : List Nat)
    (sl : Slice) : g (trimNew e keep sl) = g sl := by
  unfold trimNew
  split
  · rfl
  · exact trimBank_keeps g h ..

@[simp] theorem trimNew_unit (e : Env) (keep : List Nat) (sl : Slice) : (trimNew e keep sl).unit = sl.unit :=
  trimNew_keeps Slice.unit (fun _ _ _ => putInfo_unit ..) keep sl

@[simp] theorem bumpAll_unit (e : Env) (act : BitVec 4) (cs : List Nat) (sl : Slice) : (bumpAll e act cs sl).unit = sl.unit := by
  unfold bumpAll
  refine foldl_keeps _ _ (fun x y => ?_) _ _
  split <;> rfl

@[simp] theorem finishLane_unit (e : Env) (b : Slice) (act : BitVec 4) (o : Operands) (x y : Option (Bool × Nat)) (sl : Slice) :
    (finishLane e b act o x y sl).unit = sl.unit := by
  unfold finishLane
  simp only [setStream_unit, trimNew_unit, touchRegs_unit, bumpAll_unit]
  cases x <;> cases y <;> (repeat' split) <;> simp only [lastUse_unit]

@[simp] theorem putFlags_unit (act : BitVec 4) (out : Nat → LaneOut) (sl : Slice) : (putFlags act out sl).unit = sl.unit := rfl

@[simp] theorem writePred_unit (acc : Bool) (act : BitVec 4) (p : Nat) (f : Nat → Bool) (sl : Slice) :
    (writePred acc act p f sl).unit = sl.unit := by
  unfold writePred
  split
  · rfl
  · simp

@[simp] theorem pushLdq_unit (apc : Word64) (ws : List (Quad Word32)) (sl : Slice) : (pushLdq sl apc ws).unit = sl.unit := by
  induction ws generalizing sl with
  | nil => rfl
  | cons w ws ih => rw [pushLdq, ih]

@[simp] theorem writeDst_unit (e : Env) (act : BitVec 4) (w : Bool) (c : Nat) (v : Quad Nat) (sl : Slice) :
    (writeDst e act w c v sl).1.unit = sl.unit := by
  have hr : ∀ (f : Nat → Nat), ((maskLanes act).foldl (fun sl l =>
      let x := qget v l
      if (w && !e.acc) = true then setReg e.acc (setReg e.acc sl (f l) l (x % 2 ^ 32)) (f l + 1) l (x / 2 ^ 32)
      else setReg e.acc sl (f l) l x) sl).unit = sl.unit := by
    intro f
    refine foldl_keeps _ _ (fun x y => ?_) _ _
    dsimp only; split <;> simp
  unfold writeDst
  dsimp only
  split
  · split
    · simp
    · split <;> rfl
  · split
    · exact hr _
    · split
      · split <;> rfl
      · split
        · exact hr _
        · rfl

@[simp] theorem seeMode_unit (x : QEntry) (sl : Slice) : (seeMode x sl).unit = sl.unit := by
  unfold seeMode
  split <;> rfl

theorem popN_unit (q n : Nat) (sl sl' : Slice) (xs : List (Quad Word32)) (h : popN q n sl = .got xs sl') : sl'.unit = sl.unit := by
  induction n generalizing sl xs with
  | zero => simp only [popN, Pop.got.injEq] at h; rw [h.2]
  | succ n ih =>
    unfold popN at h
    repeat' split at h
    all_goals first
      | contradiction
      | (next h' => exact absurd h (h' _ _))
      | (next h' =>
         obtain ⟨-, rfl⟩ := Pop.got.inj h
         have := ih _ _ h'
         first | exact this | exact this.trans (seeMode_unit ..))

theorem readSrc_unit (e : Env) (act : BitVec 4) (k : Kind) (c : Nat) (sl sl' : Slice) (q : Quad Nat)
    (h : readSrc e act k c sl = .got q sl') : sl'.unit = sl.unit := by
  unfold readSrc at h
  dsimp only at h
  split at h
  · simp only [Src.got.injEq] at h; rw [h.2]
  · split at h
    · next h' => simp only [Src.got.injEq] at h; rw [← h.2]; exact popN_unit _ _ _ _ _ h'
    · contradiction
    · contradiction

theorem readSrcs_unit (e : Env) (act : BitVec 4) (ps : List (Kind × Nat)) (sl sl' : Slice) (qs : List (Quad Nat))
    (h : readSrcs e act ps sl = .got qs sl') : sl'.unit = sl.unit := by
  induction ps generalizing sl qs with
  | nil => simp only [readSrcs, Srcs.got.injEq] at h; rw [h.2]
  | cons p ps ih =>
    unfold readSrcs at h
    split at h
    · contradiction
    · contradiction
    · next h1 =>
      split at h
      · next h2 =>
        obtain ⟨-, rfl⟩ := Srcs.got.inj h
        rw [ih _ _ h2, readSrc_unit _ _ _ _ _ _ _ h1]
      · next h2 => exact absurd h (h2 _ _)

theorem runAlu_done {s : State} {k : Nat} {acc : Bool} {e : Env} {m : AluForm} {d a b : Code} {vals : List (Quad Nat)}
    {sl1 : Slice} (op : OpIn → Nat → LaneOut) (h : Solo s k acc e)
    (ho : AluReady m d.toNat a.toNat b.toNat e (sliceAt s k) vals sl1) :
    runAlu m op d a b s = .next
      (let r := aluEnd m d.toNat a.toNat b.toNat e (sliceAt s k) sl1
        (op (opIn e m (sliceAt s k) (actLanes (streamOf e.acc (sliceAt s k))) vals))
       issued s k acc r.1 r.2 none) := by
  have hill : ((m.pred && decide (7 < d.toNat)) || (!e.acc && m.rounds = .byMode && modRm (streamOf e.acc (sliceAt s k)).hint = some .rna)) = false := by
    have h1 := ho.pred
    have h2 := ho.mode
    cases hp : m.pred <;> cases ha : e.acc <;> simp_all
  refine issueLane_done h ho.stream (sl := _) (sw := _) (pin := none) ?_ ?_
  · unfold aluSlice
    dsimp only
    rw [hill, ho.legal]
    dsimp only
    rw [ho.free]
    dsimp only
    rw [ho.good, ho.read]
    rfl
  · have hu := readSrcs_unit _ _ _ _ _ _ ho.read
    unfold aluEnd
    dsimp only
    rw [finishLane_unit]
    split
    · split <;> simp [hu]
    · split <;> simp [hu]
end Sys2Proof.Laws
end

