-- ==== Sys2Proof/Laws/State.lean ====
section
/-! SUPPORT. What the updates of State and of a slice leave as it was, one lemma for each field, and what they write. -/

namespace Sys2Proof.Laws

open Sys2Proof.Machine

/-! putSlice. -/

@[simp] theorem putSlice_clock (s : State) (k : Nat) (x : Slice) : (putSlice s k x).clock = s.clock := rfl
@[simp] theorem putSlice_sched (s : State) (k : Nat) (x : Slice) : (putSlice s k x).sched = s.sched := rfl
@[simp] theorem putSlice_issuer (s : State) (k : Nat) (x : Slice) : (putSlice s k x).issuer = s.issuer := rfl
@[simp] theorem putSlice_soft (s : State) (k : Nat) (x : Slice) : (putSlice s k x).soft = s.soft := rfl
@[simp] theorem putSlice_busy (s : State) (k : Nat) (x : Slice) : (putSlice s k x).busy = s.busy := rfl
@[simp] theorem putSlice_late (s : State) (k : Nat) (x : Slice) : (putSlice s k x).late = s.late := rfl
@[simp] theorem putSlice_olds (s : State) (k : Nat) (x : Slice) : (putSlice s k x).olds = s.olds := rfl
@[simp] theorem putSlice_serial (s : State) (k : Nat) (x : Slice) : (putSlice s k x).serial = s.serial := rfl
@[simp] theorem putSlice_mem (s : State) (k : Nat) (x : Slice) : (putSlice s k x).mem = s.mem := rfl
@[simp] theorem putSlice_desc (s : State) (k : Nat) (x : Slice) : (putSlice s k x).desc = s.desc := rfl
@[simp] theorem putSlice_keyed (s : State) (k : Nat) (x : Slice) : (putSlice s k x).keyed = s.keyed := rfl
@[simp] theorem putSlice_poison (s : State) (k : Nat) (x : Slice) : (putSlice s k x).poison = s.poison := rfl
@[simp] theorem putSlice_teams (s : State) (k : Nat) (x : Slice) : (putSlice s k x).teams = s.teams := rfl
@[simp] theorem putSlice_cores (s : State) (k : Nat) (x : Slice) : (putSlice s k x).cores = s.cores := rfl
@[simp] theorem putSlice_anvils (s : State) (k : Nat) (x : Slice) : (putSlice s k x).anvils = s.anvils := rfl
@[simp] theorem putSlice_scribes (s : State) (k : Nat) (x : Slice) : (putSlice s k x).scribes = s.scribes := rfl
@[simp] theorem putSlice_recCache (s : State) (k : Nat) (x : Slice) : (putSlice s k x).recCache = s.recCache := rfl
@[simp] theorem putSlice_quires (s : State) (k : Nat) (x : Slice) : (putSlice s k x).quires = s.quires := rfl
@[simp] theorem putSlice_launches (s : State) (k : Nat) (x : Slice) : (putSlice s k x).launches = s.launches := rfl
@[simp] theorem putSlice_flights (s : State) (k : Nat) (x : Slice) : (putSlice s k x).flights = s.flights := rfl
@[simp] theorem putSlice_tlb (s : State) (k : Nat) (x : Slice) : (putSlice s k x).tlb = s.tlb := rfl
@[simp] theorem putSlice_tlbGone (s : State) (k : Nat) (x : Slice) : (putSlice s k x).tlbGone = s.tlbGone := rfl
@[simp] theorem putSlice_refused (s : State) (k : Nat) (x : Slice) : (putSlice s k x).refused = s.refused := rfl
@[simp] theorem putSlice_pressing (s : State) (k : Nat) (x : Slice) : (putSlice s k x).pressing = s.pressing := rfl
@[simp] theorem putSlice_walks (s : State) (k : Nat) (x : Slice) : (putSlice s k x).walks = s.walks := rfl
@[simp] theorem putSlice_pageReqs (s : State) (k : Nat) (x : Slice) : (putSlice s k x).pageReqs = s.pageReqs := rfl
@[simp] theorem putSlice_recWaits (s : State) (k : Nat) (x : Slice) : (putSlice s k x).recWaits = s.recWaits := rfl
@[simp] theorem putSlice_deadlines (s : State) (k : Nat) (x : Slice) : (putSlice s k x).deadlines = s.deadlines := rfl
@[simp] theorem putSlice_posted (s : State) (k : Nat) (x : Slice) : (putSlice s k x).posted = s.posted := rfl
@[simp] theorem putSlice_spills (s : State) (k : Nat) (x : Slice) : (putSlice s k x).spills = s.spills := rfl
@[simp] theorem putSlice_farCode (s : State) (k : Nat) (x : Slice) : (putSlice s k x).farCode = s.farCode := rfl
@[simp] theorem putSlice_partitions (s : State) (k : Nat) (x : Slice) : (putSlice s k x).partitions = s.partitions := rfl
@[simp] theorem putSlice_vdevs (s : State) (k : Nat) (x : Slice) : (putSlice s k x).vdevs = s.vdevs := rfl
@[simp] theorem putSlice_dests (s : State) (k : Nat) (x : Slice) : (putSlice s k x).dests = s.dests := rfl
@[simp] theorem putSlice_packets (s : State) (k : Nat) (x : Slice) : (putSlice s k x).packets = s.packets := rfl
@[simp] theorem putSlice_invals (s : State) (k : Nat) (x : Slice) : (putSlice s k x).invals = s.invals := rfl
@[simp] theorem putSlice_fabric (s : State) (k : Nat) (x : Slice) : (putSlice s k x).fabric = s.fabric := rfl
@[simp] theorem putSlice_boot (s : State) (k : Nat) (x : Slice) : (putSlice s k x).boot = s.boot := rfl
@[simp] theorem putSlice_tokens (s : State) (k : Nat) (x : Slice) : (putSlice s k x).tokens = s.tokens := rfl
@[simp] theorem putSlice_refills (s : State) (k : Nat) (x : Slice) : (putSlice s k x).refills = s.refills := rfl
@[simp] theorem putSlice_throttled (s : State) (k : Nat) (x : Slice) : (putSlice s k x).throttled = s.throttled := rfl

/-! putCore. -/

@[simp] theorem putCore_clock (s : State) (c : Nat) (x : Core) : (putCore s c x).clock = s.clock := rfl
@[simp] theorem putCore_sched (s : State) (c : Nat) (x : Core) : (putCore s c x).sched = s.sched := rfl
@[simp] theorem putCore_issuer (s : State) (c : Nat) (x : Core) : (putCore s c x).issuer = s.issuer := rfl
@[simp] theorem putCore_soft (s : State) (c : Nat) (x : Core) : (putCore s c x).soft = s.soft := rfl
@[simp] theorem putCore_busy (s : State) (c : Nat) (x : Core) : (putCore s c x).busy = s.busy := rfl
@[simp] theorem putCore_late (s : State) (c : Nat) (x : Core) : (putCore s c x).late = s.late := rfl
@[simp] theorem putCore_olds (s : State) (c : Nat) (x : Core) : (putCore s c x).olds = s.olds := rfl
@[simp] theorem putCore_serial (s : State) (c : Nat) (x : Core) : (putCore s c x).serial = s.serial := rfl
@[simp] theorem putCore_mem (s : State) (c : Nat) (x : Core) : (putCore s c x).mem = s.mem := rfl
@[simp] theorem putCore_desc (s : State) (c : Nat) (x : Core) : (putCore s c x).desc = s.desc := rfl
@[simp] theorem putCore_keyed (s : State) (c : Nat) (x : Core) : (putCore s c x).keyed = s.keyed := rfl
@[simp] theorem putCore_poison (s : State) (c : Nat) (x : Core) : (putCore s c x).poison = s.poison := rfl
@[simp] theorem putCore_slices (s : State) (c : Nat) (x : Core) : (putCore s c x).slices = s.slices := rfl
@[simp] theorem putCore_teams (s : State) (c : Nat) (x : Core) : (putCore s c x).teams = s.teams := rfl
@[simp] theorem putCore_anvils (s : State) (c : Nat) (x : Core) : (putCore s c x).anvils = s.anvils := rfl
@[simp] theorem putCore_scribes (s : State) (c : Nat) (x : Core) : (putCore s c x).scribes = s.scribes := rfl
@[simp] theorem putCore_recCache (s : State) (c : Nat) (x : Core) : (putCore s c x).recCache = s.recCache := rfl
@[simp] theorem putCore_quires (s : State) (c : Nat) (x : Core) : (putCore s c x).quires = s.quires := rfl
@[simp] theorem putCore_launches (s : State) (c : Nat) (x : Core) : (putCore s c x).launches = s.launches := rfl
@[simp] theorem putCore_flights (s : State) (c : Nat) (x : Core) : (putCore s c x).flights = s.flights := rfl
@[simp] theorem putCore_tlb (s : State) (c : Nat) (x : Core) : (putCore s c x).tlb = s.tlb := rfl
@[simp] theorem putCore_tlbGone (s : State) (c : Nat) (x : Core) : (putCore s c x).tlbGone = s.tlbGone := rfl
@[simp] theorem putCore_refused (s : State) (c : Nat) (x : Core) : (putCore s c x).refused = s.refused := rfl
@[simp] theorem putCore_pressing (s : State) (c : Nat) (x : Core) : (putCore s c x).pressing = s.pressing := rfl
@[simp] theorem putCore_walks (s : State) (c : Nat) (x : Core) : (putCore s c x).walks = s.walks := rfl
@[simp] theorem putCore_pageReqs (s : State) (c : Nat) (x : Core) : (putCore s c x).pageReqs = s.pageReqs := rfl
@[simp] theorem putCore_recWaits (s : State) (c : Nat) (x : Core) : (putCore s c x).recWaits = s.recWaits := rfl
@[simp] theorem putCore_deadlines (s : State) (c : Nat) (x : Core) : (putCore s c x).deadlines = s.deadlines := rfl
@[simp] theorem putCore_posted (s : State) (c : Nat) (x : Core) : (putCore s c x).posted = s.posted := rfl
@[simp] theorem putCore_spills (s : State) (c : Nat) (x : Core) : (putCore s c x).spills = s.spills := rfl
@[simp] theorem putCore_farCode (s : State) (c : Nat) (x : Core) : (putCore s c x).farCode = s.farCode := rfl
@[simp] theorem putCore_partitions (s : State) (c : Nat) (x : Core) : (putCore s c x).partitions = s.partitions := rfl
@[simp] theorem putCore_vdevs (s : State) (c : Nat) (x : Core) : (putCore s c x).vdevs = s.vdevs := rfl
@[simp] theorem putCore_dests (s : State) (c : Nat) (x : Core) : (putCore s c x).dests = s.dests := rfl
@[simp] theorem putCore_packets (s : State) (c : Nat) (x : Core) : (putCore s c x).packets = s.packets := rfl
@[simp] theorem putCore_invals (s : State) (c : Nat) (x : Core) : (putCore s c x).invals = s.invals := rfl
@[simp] theorem putCore_fabric (s : State) (c : Nat) (x : Core) : (putCore s c x).fabric = s.fabric := rfl
@[simp] theorem putCore_boot (s : State) (c : Nat) (x : Core) : (putCore s c x).boot = s.boot := rfl
@[simp] theorem putCore_tokens (s : State) (c : Nat) (x : Core) : (putCore s c x).tokens = s.tokens := rfl
@[simp] theorem putCore_refills (s : State) (c : Nat) (x : Core) : (putCore s c x).refills = s.refills := rfl
@[simp] theorem putCore_throttled (s : State) (c : Nat) (x : Core) : (putCore s c x).throttled = s.throttled := rfl

/-! putTeam. -/

@[simp] theorem putTeam_clock (s : State) (t : Nat) (x : Option Team) : (putTeam s t x).clock = s.clock := rfl
@[simp] theorem putTeam_sched (s : State) (t : Nat) (x : Option Team) : (putTeam s t x).sched = s.sched := rfl
@[simp] theorem putTeam_issuer (s : State) (t : Nat) (x : Option Team) : (putTeam s t x).issuer = s.issuer := rfl
@[simp] theorem putTeam_soft (s : State) (t : Nat) (x : Option Team) : (putTeam s t x).soft = s.soft := rfl
@[simp] theorem putTeam_busy (s : State) (t : Nat) (x : Option Team) : (putTeam s t x).busy = s.busy := rfl
@[simp] theorem putTeam_late (s : State) (t : Nat) (x : Option Team) : (putTeam s t x).late = s.late := rfl
@[simp] theorem putTeam_olds (s : State) (t : Nat) (x : Option Team) : (putTeam s t x).olds = s.olds := rfl
@[simp] theorem putTeam_serial (s : State) (t : Nat) (x : Option Team) : (putTeam s t x).serial = s.serial := rfl
@[simp] theorem putTeam_mem (s : State) (t : Nat) (x : Option Team) : (putTeam s t x).mem = s.mem := rfl
@[simp] theorem putTeam_desc (s : State) (t : Nat) (x : Option Team) : (putTeam s t x).desc = s.desc := rfl
@[simp] theorem putTeam_keyed (s : State) (t : Nat) (x : Option Team) : (putTeam s t x).keyed = s.keyed := rfl
@[simp] theorem putTeam_poison (s : State) (t : Nat) (x : Option Team) : (putTeam s t x).poison = s.poison := rfl
@[simp] theorem putTeam_slices (s : State) (t : Nat) (x : Option Team) : (putTeam s t x).slices = s.slices := rfl
@[simp] theorem putTeam_cores (s : State) (t : Nat) (x : Option Team) : (putTeam s t x).cores = s.cores := rfl
@[simp] theorem putTeam_anvils (s : State) (t : Nat) (x : Option Team) : (putTeam s t x).anvils = s.anvils := rfl
@[simp] theorem putTeam_scribes (s : State) (t : Nat) (x : Option Team) : (putTeam s t x).scribes = s.scribes := rfl
@[simp] theorem putTeam_recCache (s : State) (t : Nat) (x : Option Team) : (putTeam s t x).recCache = s.recCache := rfl
@[simp] theorem putTeam_quires (s : State) (t : Nat) (x : Option Team) : (putTeam s t x).quires = s.quires := rfl
@[simp] theorem putTeam_launches (s : State) (t : Nat) (x : Option Team) : (putTeam s t x).launches = s.launches := rfl
@[simp] theorem putTeam_flights (s : State) (t : Nat) (x : Option Team) : (putTeam s t x).flights = s.flights := rfl
@[simp] theorem putTeam_tlb (s : State) (t : Nat) (x : Option Team) : (putTeam s t x).tlb = s.tlb := rfl
@[simp] theorem putTeam_tlbGone (s : State) (t : Nat) (x : Option Team) : (putTeam s t x).tlbGone = s.tlbGone := rfl
@[simp] theorem putTeam_refused (s : State) (t : Nat) (x : Option Team) : (putTeam s t x).refused = s.refused := rfl
@[simp] theorem putTeam_pressing (s : State) (t : Nat) (x : Option Team) : (putTeam s t x).pressing = s.pressing := rfl
@[simp] theorem putTeam_walks (s : State) (t : Nat) (x : Option Team) : (putTeam s t x).walks = s.walks := rfl
@[simp] theorem putTeam_pageReqs (s : State) (t : Nat) (x : Option Team) : (putTeam s t x).pageReqs = s.pageReqs := rfl
@[simp] theorem putTeam_recWaits (s : State) (t : Nat) (x : Option Team) : (putTeam s t x).recWaits = s.recWaits := rfl
@[simp] theorem putTeam_deadlines (s : State) (t : Nat) (x : Option Team) : (putTeam s t x).deadlines = s.deadlines := rfl
@[simp] theorem putTeam_posted (s : State) (t : Nat) (x : Option Team) : (putTeam s t x).posted = s.posted := rfl
@[simp] theorem putTeam_spills (s : State) (t : Nat) (x : Option Team) : (putTeam s t x).spills = s.spills := rfl
@[simp] theorem putTeam_farCode (s : State) (t : Nat) (x : Option Team) : (putTeam s t x).farCode = s.farCode := rfl
@[simp] theorem putTeam_partitions (s : State) (t : Nat) (x : Option Team) : (putTeam s t x).partitions = s.partitions := rfl
@[simp] theorem putTeam_vdevs (s : State) (t : Nat) (x : Option Team) : (putTeam s t x).vdevs = s.vdevs := rfl
@[simp] theorem putTeam_dests (s : State) (t : Nat) (x : Option Team) : (putTeam s t x).dests = s.dests := rfl
@[simp] theorem putTeam_packets (s : State) (t : Nat) (x : Option Team) : (putTeam s t x).packets = s.packets := rfl
@[simp] theorem putTeam_invals (s : State) (t : Nat) (x : Option Team) : (putTeam s t x).invals = s.invals := rfl
@[simp] theorem putTeam_fabric (s : State) (t : Nat) (x : Option Team) : (putTeam s t x).fabric = s.fabric := rfl
@[simp] theorem putTeam_boot (s : State) (t : Nat) (x : Option Team) : (putTeam s t x).boot = s.boot := rfl
@[simp] theorem putTeam_tokens (s : State) (t : Nat) (x : Option Team) : (putTeam s t x).tokens = s.tokens := rfl
@[simp] theorem putTeam_refills (s : State) (t : Nat) (x : Option Team) : (putTeam s t x).refills = s.refills := rfl
@[simp] theorem putTeam_throttled (s : State) (t : Nat) (x : Option Team) : (putTeam s t x).throttled = s.throttled := rfl

/-! putLaunch. -/

@[simp] theorem putLaunch_clock (s : State) (l : Nat) (x : Option Launch) : (putLaunch s l x).clock = s.clock := rfl
@[simp] theorem putLaunch_sched (s : State) (l : Nat) (x : Option Launch) : (putLaunch s l x).sched = s.sched := rfl
@[simp] theorem putLaunch_issuer (s : State) (l : Nat) (x : Option Launch) : (putLaunch s l x).issuer = s.issuer := rfl
@[simp] theorem putLaunch_soft (s : State) (l : Nat) (x : Option Launch) : (putLaunch s l x).soft = s.soft := rfl
@[simp] theorem putLaunch_busy (s : State) (l : Nat) (x : Option Launch) : (putLaunch s l x).busy = s.busy := rfl
@[simp] theorem putLaunch_late (s : State) (l : Nat) (x : Option Launch) : (putLaunch s l x).late = s.late := rfl
@[simp] theorem putLaunch_olds (s : State) (l : Nat) (x : Option Launch) : (putLaunch s l x).olds = s.olds := rfl
@[simp] theorem putLaunch_serial (s : State) (l : Nat) (x : Option Launch) : (putLaunch s l x).serial = s.serial := rfl
@[simp] theorem putLaunch_mem (s : State) (l : Nat) (x : Option Launch) : (putLaunch s l x).mem = s.mem := rfl
@[simp] theorem putLaunch_desc (s : State) (l : Nat) (x : Option Launch) : (putLaunch s l x).desc = s.desc := rfl
@[simp] theorem putLaunch_keyed (s : State) (l : Nat) (x : Option Launch) : (putLaunch s l x).keyed = s.keyed := rfl
@[simp] theorem putLaunch_poison (s : State) (l : Nat) (x : Option Launch) : (putLaunch s l x).poison = s.poison := rfl
@[simp] theorem putLaunch_slices (s : State) (l : Nat) (x : Option Launch) : (putLaunch s l x).slices = s.slices := rfl
@[simp] theorem putLaunch_teams (s : State) (l : Nat) (x : Option Launch) : (putLaunch s l x).teams = s.teams := rfl
@[simp] theorem putLaunch_cores (s : State) (l : Nat) (x : Option Launch) : (putLaunch s l x).cores = s.cores := rfl
@[simp] theorem putLaunch_anvils (s : State) (l : Nat) (x : Option Launch) : (putLaunch s l x).anvils = s.anvils := rfl
@[simp] theorem putLaunch_scribes (s : State) (l : Nat) (x : Option Launch) : (putLaunch s l x).scribes = s.scribes := rfl
@[simp] theorem putLaunch_recCache (s : State) (l : Nat) (x : Option Launch) : (putLaunch s l x).recCache = s.recCache := rfl
@[simp] theorem putLaunch_quires (s : State) (l : Nat) (x : Option Launch) : (putLaunch s l x).quires = s.quires := rfl
@[simp] theorem putLaunch_flights (s : State) (l : Nat) (x : Option Launch) : (putLaunch s l x).flights = s.flights := rfl
@[simp] theorem putLaunch_tlb (s : State) (l : Nat) (x : Option Launch) : (putLaunch s l x).tlb = s.tlb := rfl
@[simp] theorem putLaunch_tlbGone (s : State) (l : Nat) (x : Option Launch) : (putLaunch s l x).tlbGone = s.tlbGone := rfl
@[simp] theorem putLaunch_refused (s : State) (l : Nat) (x : Option Launch) : (putLaunch s l x).refused = s.refused := rfl
@[simp] theorem putLaunch_pressing (s : State) (l : Nat) (x : Option Launch) : (putLaunch s l x).pressing = s.pressing := rfl
@[simp] theorem putLaunch_walks (s : State) (l : Nat) (x : Option Launch) : (putLaunch s l x).walks = s.walks := rfl
@[simp] theorem putLaunch_pageReqs (s : State) (l : Nat) (x : Option Launch) : (putLaunch s l x).pageReqs = s.pageReqs := rfl
@[simp] theorem putLaunch_recWaits (s : State) (l : Nat) (x : Option Launch) : (putLaunch s l x).recWaits = s.recWaits := rfl
@[simp] theorem putLaunch_deadlines (s : State) (l : Nat) (x : Option Launch) : (putLaunch s l x).deadlines = s.deadlines := rfl
@[simp] theorem putLaunch_posted (s : State) (l : Nat) (x : Option Launch) : (putLaunch s l x).posted = s.posted := rfl
@[simp] theorem putLaunch_spills (s : State) (l : Nat) (x : Option Launch) : (putLaunch s l x).spills = s.spills := rfl
@[simp] theorem putLaunch_farCode (s : State) (l : Nat) (x : Option Launch) : (putLaunch s l x).farCode = s.farCode := rfl
@[simp] theorem putLaunch_partitions (s : State) (l : Nat) (x : Option Launch) : (putLaunch s l x).partitions = s.partitions := rfl
@[simp] theorem putLaunch_vdevs (s : State) (l : Nat) (x : Option Launch) : (putLaunch s l x).vdevs = s.vdevs := rfl
@[simp] theorem putLaunch_dests (s : State) (l : Nat) (x : Option Launch) : (putLaunch s l x).dests = s.dests := rfl
@[simp] theorem putLaunch_packets (s : State) (l : Nat) (x : Option Launch) : (putLaunch s l x).packets = s.packets := rfl
@[simp] theorem putLaunch_invals (s : State) (l : Nat) (x : Option Launch) : (putLaunch s l x).invals = s.invals := rfl
@[simp] theorem putLaunch_fabric (s : State) (l : Nat) (x : Option Launch) : (putLaunch s l x).fabric = s.fabric := rfl
@[simp] theorem putLaunch_boot (s : State) (l : Nat) (x : Option Launch) : (putLaunch s l x).boot = s.boot := rfl
@[simp] theorem putLaunch_tokens (s : State) (l : Nat) (x : Option Launch) : (putLaunch s l x).tokens = s.tokens := rfl
@[simp] theorem putLaunch_refills (s : State) (l : Nat) (x : Option Launch) : (putLaunch s l x).refills = s.refills := rfl
@[simp] theorem putLaunch_throttled (s : State) (l : Nat) (x : Option Launch) : (putLaunch s l x).throttled = s.throttled := rfl

/-! putQuire. -/

@[simp] theorem putQuire_clock (s : State) (q : Nat) (x : Option Quire) : (putQuire s q x).clock = s.clock := rfl
@[simp] theorem putQuire_sched (s : State) (q : Nat) (x : Option Quire) : (putQuire s q x).sched = s.sched := rfl
@[simp] theorem putQuire_issuer (s : State) (q : Nat) (x : Option Quire) : (putQuire s q x).issuer = s.issuer := rfl
@[simp] theorem putQuire_soft (s : State) (q : Nat) (x : Option Quire) : (putQuire s q x).soft = s.soft := rfl
@[simp] theorem putQuire_busy (s : State) (q : Nat) (x : Option Quire) : (putQuire s q x).busy = s.busy := rfl
@[simp] theorem putQuire_late (s : State) (q : Nat) (x : Option Quire) : (putQuire s q x).late = s.late := rfl
@[simp] theorem putQuire_olds (s : State) (q : Nat) (x : Option Quire) : (putQuire s q x).olds = s.olds := rfl
@[simp] theorem putQuire_serial (s : State) (q : Nat) (x : Option Quire) : (putQuire s q x).serial = s.serial := rfl
@[simp] theorem putQuire_mem (s : State) (q : Nat) (x : Option Quire) : (putQuire s q x).mem = s.mem := rfl
@[simp] theorem putQuire_desc (s : State) (q : Nat) (x : Option Quire) : (putQuire s q x).desc = s.desc := rfl
@[simp] theorem putQuire_keyed (s : State) (q : Nat) (x : Option Quire) : (putQuire s q x).keyed = s.keyed := rfl
@[simp] theorem putQuire_poison (s : State) (q : Nat) (x : Option Quire) : (putQuire s q x).poison = s.poison := rfl
@[simp] theorem putQuire_slices (s : State) (q : Nat) (x : Option Quire) : (putQuire s q x).slices = s.slices := rfl
@[simp] theorem putQuire_teams (s : State) (q : Nat) (x : Option Quire) : (putQuire s q x).teams = s.teams := rfl
@[simp] theorem putQuire_cores (s : State) (q : Nat) (x : Option Quire) : (putQuire s q x).cores = s.cores := rfl
@[simp] theorem putQuire_anvils (s : State) (q : Nat) (x : Option Quire) : (putQuire s q x).anvils = s.anvils := rfl
@[simp] theorem putQuire_scribes (s : State) (q : Nat) (x : Option Quire) : (putQuire s q x).scribes = s.scribes := rfl
@[simp] theorem putQuire_recCache (s : State) (q : Nat) (x : Option Quire) : (putQuire s q x).recCache = s.recCache := rfl
@[simp] theorem putQuire_launches (s : State) (q : Nat) (x : Option Quire) : (putQuire s q x).launches = s.launches := rfl
@[simp] theorem putQuire_flights (s : State) (q : Nat) (x : Option Quire) : (putQuire s q x).flights = s.flights := rfl
@[simp] theorem putQuire_tlb (s : State) (q : Nat) (x : Option Quire) : (putQuire s q x).tlb = s.tlb := rfl
@[simp] theorem putQuire_tlbGone (s : State) (q : Nat) (x : Option Quire) : (putQuire s q x).tlbGone = s.tlbGone := rfl
@[simp] theorem putQuire_refused (s : State) (q : Nat) (x : Option Quire) : (putQuire s q x).refused = s.refused := rfl
@[simp] theorem putQuire_pressing (s : State) (q : Nat) (x : Option Quire) : (putQuire s q x).pressing = s.pressing := rfl
@[simp] theorem putQuire_walks (s : State) (q : Nat) (x : Option Quire) : (putQuire s q x).walks = s.walks := rfl
@[simp] theorem putQuire_pageReqs (s : State) (q : Nat) (x : Option Quire) : (putQuire s q x).pageReqs = s.pageReqs := rfl
@[simp] theorem putQuire_recWaits (s : State) (q : Nat) (x : Option Quire) : (putQuire s q x).recWaits = s.recWaits := rfl
@[simp] theorem putQuire_deadlines (s : State) (q : Nat) (x : Option Quire) : (putQuire s q x).deadlines = s.deadlines := rfl
@[simp] theorem putQuire_posted (s : State) (q : Nat) (x : Option Quire) : (putQuire s q x).posted = s.posted := rfl
@[simp] theorem putQuire_spills (s : State) (q : Nat) (x : Option Quire) : (putQuire s q x).spills = s.spills := rfl
@[simp] theorem putQuire_farCode (s : State) (q : Nat) (x : Option Quire) : (putQuire s q x).farCode = s.farCode := rfl
@[simp] theorem putQuire_partitions (s : State) (q : Nat) (x : Option Quire) : (putQuire s q x).partitions = s.partitions := rfl
@[simp] theorem putQuire_vdevs (s : State) (q : Nat) (x : Option Quire) : (putQuire s q x).vdevs = s.vdevs := rfl
@[simp] theorem putQuire_dests (s : State) (q : Nat) (x : Option Quire) : (putQuire s q x).dests = s.dests := rfl
@[simp] theorem putQuire_packets (s : State) (q : Nat) (x : Option Quire) : (putQuire s q x).packets = s.packets := rfl
@[simp] theorem putQuire_invals (s : State) (q : Nat) (x : Option Quire) : (putQuire s q x).invals = s.invals := rfl
@[simp] theorem putQuire_fabric (s : State) (q : Nat) (x : Option Quire) : (putQuire s q x).fabric = s.fabric := rfl
@[simp] theorem putQuire_boot (s : State) (q : Nat) (x : Option Quire) : (putQuire s q x).boot = s.boot := rfl
@[simp] theorem putQuire_tokens (s : State) (q : Nat) (x : Option Quire) : (putQuire s q x).tokens = s.tokens := rfl
@[simp] theorem putQuire_refills (s : State) (q : Nat) (x : Option Quire) : (putQuire s q x).refills = s.refills := rfl
@[simp] theorem putQuire_throttled (s : State) (q : Nat) (x : Option Quire) : (putQuire s q x).throttled = s.throttled := rfl

/-! putVdev. -/

@[simp] theorem putVdev_clock (s : State) (v : Nat) (x : VDev) : (putVdev s v x).clock = s.clock := rfl
@[simp] theorem putVdev_sched (s : State) (v : Nat) (x : VDev) : (putVdev s v x).sched = s.sched := rfl
@[simp] theorem putVdev_issuer (s : State) (v : Nat) (x : VDev) : (putVdev s v x).issuer = s.issuer := rfl
@[simp] theorem putVdev_soft (s : State) (v : Nat) (x : VDev) : (putVdev s v x).soft = s.soft := rfl
@[simp] theorem putVdev_busy (s : State) (v : Nat) (x : VDev) : (putVdev s v x).busy = s.busy := rfl
@[simp] theorem putVdev_late (s : State) (v : Nat) (x : VDev) : (putVdev s v x).late = s.late := rfl
@[simp] theorem putVdev_olds (s : State) (v : Nat) (x : VDev) : (putVdev s v x).olds = s.olds := rfl
@[simp] theorem putVdev_serial (s : State) (v : Nat) (x : VDev) : (putVdev s v x).serial = s.serial := rfl
@[simp] theorem putVdev_mem (s : State) (v : Nat) (x : VDev) : (putVdev s v x).mem = s.mem := rfl
@[simp] theorem putVdev_desc (s : State) (v : Nat) (x : VDev) : (putVdev s v x).desc = s.desc := rfl
@[simp] theorem putVdev_keyed (s : State) (v : Nat) (x : VDev) : (putVdev s v x).keyed = s.keyed := rfl
@[simp] theorem putVdev_poison (s : State) (v : Nat) (x : VDev) : (putVdev s v x).poison = s.poison := rfl
@[simp] theorem putVdev_slices (s : State) (v : Nat) (x : VDev) : (putVdev s v x).slices = s.slices := rfl
@[simp] theorem putVdev_teams (s : State) (v : Nat) (x : VDev) : (putVdev s v x).teams = s.teams := rfl
@[simp] theorem putVdev_cores (s : State) (v : Nat) (x : VDev) : (putVdev s v x).cores = s.cores := rfl
@[simp] theorem putVdev_anvils (s : State) (v : Nat) (x : VDev) : (putVdev s v x).anvils = s.anvils := rfl
@[simp] theorem putVdev_scribes (s : State) (v : Nat) (x : VDev) : (putVdev s v x).scribes = s.scribes := rfl
@[simp] theorem putVdev_recCache (s : State) (v : Nat) (x : VDev) : (putVdev s v x).recCache = s.recCache := rfl
@[simp] theorem putVdev_quires (s : State) (v : Nat) (x : VDev) : (putVdev s v x).quires = s.quires := rfl
@[simp] theorem putVdev_launches (s : State) (v : Nat) (x : VDev) : (putVdev s v x).launches = s.launches := rfl
@[simp] theorem putVdev_flights (s : State) (v : Nat) (x : VDev) : (putVdev s v x).flights = s.flights := rfl
@[simp] theorem putVdev_tlb (s : State) (v : Nat) (x : VDev) : (putVdev s v x).tlb = s.tlb := rfl
@[simp] theorem putVdev_tlbGone (s : State) (v : Nat) (x : VDev) : (putVdev s v x).tlbGone = s.tlbGone := rfl
@[simp] theorem putVdev_refused (s : State) (v : Nat) (x : VDev) : (putVdev s v x).refused = s.refused := rfl
@[simp] theorem putVdev_pressing (s : State) (v : Nat) (x : VDev) : (putVdev s v x).pressing = s.pressing := rfl
@[simp] theorem putVdev_walks (s : State) (v : Nat) (x : VDev) : (putVdev s v x).walks = s.walks := rfl
@[simp] theorem putVdev_pageReqs (s : State) (v : Nat) (x : VDev) : (putVdev s v x).pageReqs = s.pageReqs := rfl
@[simp] theorem putVdev_recWaits (s : State) (v : Nat) (x : VDev) : (putVdev s v x).recWaits = s.recWaits := rfl
@[simp] theorem putVdev_deadlines (s : State) (v : Nat) (x : VDev) : (putVdev s v x).deadlines = s.deadlines := rfl
@[simp] theorem putVdev_posted (s : State) (v : Nat) (x : VDev) : (putVdev s v x).posted = s.posted := rfl
@[simp] theorem putVdev_spills (s : State) (v : Nat) (x : VDev) : (putVdev s v x).spills = s.spills := rfl
@[simp] theorem putVdev_farCode (s : State) (v : Nat) (x : VDev) : (putVdev s v x).farCode = s.farCode := rfl
@[simp] theorem putVdev_partitions (s : State) (v : Nat) (x : VDev) : (putVdev s v x).partitions = s.partitions := rfl
@[simp] theorem putVdev_dests (s : State) (v : Nat) (x : VDev) : (putVdev s v x).dests = s.dests := rfl
@[simp] theorem putVdev_packets (s : State) (v : Nat) (x : VDev) : (putVdev s v x).packets = s.packets := rfl
@[simp] theorem putVdev_invals (s : State) (v : Nat) (x : VDev) : (putVdev s v x).invals = s.invals := rfl
@[simp] theorem putVdev_fabric (s : State) (v : Nat) (x : VDev) : (putVdev s v x).fabric = s.fabric := rfl
@[simp] theorem putVdev_boot (s : State) (v : Nat) (x : VDev) : (putVdev s v x).boot = s.boot := rfl
@[simp] theorem putVdev_tokens (s : State) (v : Nat) (x : VDev) : (putVdev s v x).tokens = s.tokens := rfl
@[simp] theorem putVdev_refills (s : State) (v : Nat) (x : VDev) : (putVdev s v x).refills = s.refills := rfl
@[simp] theorem putVdev_throttled (s : State) (v : Nat) (x : VDev) : (putVdev s v x).throttled = s.throttled := rfl

/-! putAnvil. -/

@[simp] theorem putAnvil_clock (s : State) (n : Nat) (x : Anvil) : (putAnvil s n x).clock = s.clock := rfl
@[simp] theorem putAnvil_sched (s : State) (n : Nat) (x : Anvil) : (putAnvil s n x).sched = s.sched := rfl
@[simp] theorem putAnvil_issuer (s : State) (n : Nat) (x : Anvil) : (putAnvil s n x).issuer = s.issuer := rfl
@[simp] theorem putAnvil_soft (s : State) (n : Nat) (x : Anvil) : (putAnvil s n x).soft = s.soft := rfl
@[simp] theorem putAnvil_busy (s : State) (n : Nat) (x : Anvil) : (putAnvil s n x).busy = s.busy := rfl
@[simp] theorem putAnvil_late (s : State) (n : Nat) (x : Anvil) : (putAnvil s n x).late = s.late := rfl
@[simp] theorem putAnvil_olds (s : State) (n : Nat) (x : Anvil) : (putAnvil s n x).olds = s.olds := rfl
@[simp] theorem putAnvil_serial (s : State) (n : Nat) (x : Anvil) : (putAnvil s n x).serial = s.serial := rfl
@[simp] theorem putAnvil_mem (s : State) (n : Nat) (x : Anvil) : (putAnvil s n x).mem = s.mem := rfl
@[simp] theorem putAnvil_desc (s : State) (n : Nat) (x : Anvil) : (putAnvil s n x).desc = s.desc := rfl
@[simp] theorem putAnvil_keyed (s : State) (n : Nat) (x : Anvil) : (putAnvil s n x).keyed = s.keyed := rfl
@[simp] theorem putAnvil_poison (s : State) (n : Nat) (x : Anvil) : (putAnvil s n x).poison = s.poison := rfl
@[simp] theorem putAnvil_slices (s : State) (n : Nat) (x : Anvil) : (putAnvil s n x).slices = s.slices := rfl
@[simp] theorem putAnvil_teams (s : State) (n : Nat) (x : Anvil) : (putAnvil s n x).teams = s.teams := rfl
@[simp] theorem putAnvil_cores (s : State) (n : Nat) (x : Anvil) : (putAnvil s n x).cores = s.cores := rfl
@[simp] theorem putAnvil_scribes (s : State) (n : Nat) (x : Anvil) : (putAnvil s n x).scribes = s.scribes := rfl
@[simp] theorem putAnvil_recCache (s : State) (n : Nat) (x : Anvil) : (putAnvil s n x).recCache = s.recCache := rfl
@[simp] theorem putAnvil_quires (s : State) (n : Nat) (x : Anvil) : (putAnvil s n x).quires = s.quires := rfl
@[simp] theorem putAnvil_launches (s : State) (n : Nat) (x : Anvil) : (putAnvil s n x).launches = s.launches := rfl
@[simp] theorem putAnvil_flights (s : State) (n : Nat) (x : Anvil) : (putAnvil s n x).flights = s.flights := rfl
@[simp] theorem putAnvil_tlb (s : State) (n : Nat) (x : Anvil) : (putAnvil s n x).tlb = s.tlb := rfl
@[simp] theorem putAnvil_tlbGone (s : State) (n : Nat) (x : Anvil) : (putAnvil s n x).tlbGone = s.tlbGone := rfl
@[simp] theorem putAnvil_refused (s : State) (n : Nat) (x : Anvil) : (putAnvil s n x).refused = s.refused := rfl
@[simp] theorem putAnvil_pressing (s : State) (n : Nat) (x : Anvil) : (putAnvil s n x).pressing = s.pressing := rfl
@[simp] theorem putAnvil_walks (s : State) (n : Nat) (x : Anvil) : (putAnvil s n x).walks = s.walks := rfl
@[simp] theorem putAnvil_pageReqs (s : State) (n : Nat) (x : Anvil) : (putAnvil s n x).pageReqs = s.pageReqs := rfl
@[simp] theorem putAnvil_recWaits (s : State) (n : Nat) (x : Anvil) : (putAnvil s n x).recWaits = s.recWaits := rfl
@[simp] theorem putAnvil_deadlines (s : State) (n : Nat) (x : Anvil) : (putAnvil s n x).deadlines = s.deadlines := rfl
@[simp] theorem putAnvil_posted (s : State) (n : Nat) (x : Anvil) : (putAnvil s n x).posted = s.posted := rfl
@[simp] theorem putAnvil_spills (s : State) (n : Nat) (x : Anvil) : (putAnvil s n x).spills = s.spills := rfl
@[simp] theorem putAnvil_farCode (s : State) (n : Nat) (x : Anvil) : (putAnvil s n x).farCode = s.farCode := rfl
@[simp] theorem putAnvil_partitions (s : State) (n : Nat) (x : Anvil) : (putAnvil s n x).partitions = s.partitions := rfl
@[simp] theorem putAnvil_vdevs (s : State) (n : Nat) (x : Anvil) : (putAnvil s n x).vdevs = s.vdevs := rfl
@[simp] theorem putAnvil_dests (s : State) (n : Nat) (x : Anvil) : (putAnvil s n x).dests = s.dests := rfl
@[simp] theorem putAnvil_packets (s : State) (n : Nat) (x : Anvil) : (putAnvil s n x).packets = s.packets := rfl
@[simp] theorem putAnvil_invals (s : State) (n : Nat) (x : Anvil) : (putAnvil s n x).invals = s.invals := rfl
@[simp] theorem putAnvil_fabric (s : State) (n : Nat) (x : Anvil) : (putAnvil s n x).fabric = s.fabric := rfl
@[simp] theorem putAnvil_boot (s : State) (n : Nat) (x : Anvil) : (putAnvil s n x).boot = s.boot := rfl
@[simp] theorem putAnvil_tokens (s : State) (n : Nat) (x : Anvil) : (putAnvil s n x).tokens = s.tokens := rfl
@[simp] theorem putAnvil_refills (s : State) (n : Nat) (x : Anvil) : (putAnvil s n x).refills = s.refills := rfl
@[simp] theorem putAnvil_throttled (s : State) (n : Nat) (x : Anvil) : (putAnvil s n x).throttled = s.throttled := rfl

/-! putScribe. -/

@[simp] theorem putScribe_clock (s : State) (n : Nat) (x : Scribe) : (putScribe s n x).clock = s.clock := rfl
@[simp] theorem putScribe_sched (s : State) (n : Nat) (x : Scribe) : (putScribe s n x).sched = s.sched := rfl
@[simp] theorem putScribe_issuer (s : State) (n : Nat) (x : Scribe) : (putScribe s n x).issuer = s.issuer := rfl
@[simp] theorem putScribe_soft (s : State) (n : Nat) (x : Scribe) : (putScribe s n x).soft = s.soft := rfl
@[simp] theorem putScribe_busy (s : State) (n : Nat) (x : Scribe) : (putScribe s n x).busy = s.busy := rfl
@[simp] theorem putScribe_late (s : State) (n : Nat) (x : Scribe) : (putScribe s n x).late = s.late := rfl
@[simp] theorem putScribe_olds (s : State) (n : Nat) (x : Scribe) : (putScribe s n x).olds = s.olds := rfl
@[simp] theorem putScribe_serial (s : State) (n : Nat) (x : Scribe) : (putScribe s n x).serial = s.serial := rfl
@[simp] theorem putScribe_mem (s : State) (n : Nat) (x : Scribe) : (putScribe s n x).mem = s.mem := rfl
@[simp] theorem putScribe_desc (s : State) (n : Nat) (x : Scribe) : (putScribe s n x).desc = s.desc := rfl
@[simp] theorem putScribe_keyed (s : State) (n : Nat) (x : Scribe) : (putScribe s n x).keyed = s.keyed := rfl
@[simp] theorem putScribe_poison (s : State) (n : Nat) (x : Scribe) : (putScribe s n x).poison = s.poison := rfl
@[simp] theorem putScribe_slices (s : State) (n : Nat) (x : Scribe) : (putScribe s n x).slices = s.slices := rfl
@[simp] theorem putScribe_teams (s : State) (n : Nat) (x : Scribe) : (putScribe s n x).teams = s.teams := rfl
@[simp] theorem putScribe_cores (s : State) (n : Nat) (x : Scribe) : (putScribe s n x).cores = s.cores := rfl
@[simp] theorem putScribe_anvils (s : State) (n : Nat) (x : Scribe) : (putScribe s n x).anvils = s.anvils := rfl
@[simp] theorem putScribe_recCache (s : State) (n : Nat) (x : Scribe) : (putScribe s n x).recCache = s.recCache := rfl
@[simp] theorem putScribe_quires (s : State) (n : Nat) (x : Scribe) : (putScribe s n x).quires = s.quires := rfl
@[simp] theorem putScribe_launches (s : State) (n : Nat) (x : Scribe) : (putScribe s n x).launches = s.launches := rfl
@[simp] theorem putScribe_flights (s : State) (n : Nat) (x : Scribe) : (putScribe s n x).flights = s.flights := rfl
@[simp] theorem putScribe_tlb (s : State) (n : Nat) (x : Scribe) : (putScribe s n x).tlb = s.tlb := rfl
@[simp] theorem putScribe_tlbGone (s : State) (n : Nat) (x : Scribe) : (putScribe s n x).tlbGone = s.tlbGone := rfl
@[simp] theorem putScribe_refused (s : State) (n : Nat) (x : Scribe) : (putScribe s n x).refused = s.refused := rfl
@[simp] theorem putScribe_pressing (s : State) (n : Nat) (x : Scribe) : (putScribe s n x).pressing = s.pressing := rfl
@[simp] theorem putScribe_walks (s : State) (n : Nat) (x : Scribe) : (putScribe s n x).walks = s.walks := rfl
@[simp] theorem putScribe_pageReqs (s : State) (n : Nat) (x : Scribe) : (putScribe s n x).pageReqs = s.pageReqs := rfl
@[simp] theorem putScribe_recWaits (s : State) (n : Nat) (x : Scribe) : (putScribe s n x).recWaits = s.recWaits := rfl
@[simp] theorem putScribe_deadlines (s : State) (n : Nat) (x : Scribe) : (putScribe s n x).deadlines = s.deadlines := rfl
@[simp] theorem putScribe_posted (s : State) (n : Nat) (x : Scribe) : (putScribe s n x).posted = s.posted := rfl
@[simp] theorem putScribe_spills (s : State) (n : Nat) (x : Scribe) : (putScribe s n x).spills = s.spills := rfl
@[simp] theorem putScribe_farCode (s : State) (n : Nat) (x : Scribe) : (putScribe s n x).farCode = s.farCode := rfl
@[simp] theorem putScribe_partitions (s : State) (n : Nat) (x : Scribe) : (putScribe s n x).partitions = s.partitions := rfl
@[simp] theorem putScribe_vdevs (s : State) (n : Nat) (x : Scribe) : (putScribe s n x).vdevs = s.vdevs := rfl
@[simp] theorem putScribe_dests (s : State) (n : Nat) (x : Scribe) : (putScribe s n x).dests = s.dests := rfl
@[simp] theorem putScribe_packets (s : State) (n : Nat) (x : Scribe) : (putScribe s n x).packets = s.packets := rfl
@[simp] theorem putScribe_invals (s : State) (n : Nat) (x : Scribe) : (putScribe s n x).invals = s.invals := rfl
@[simp] theorem putScribe_fabric (s : State) (n : Nat) (x : Scribe) : (putScribe s n x).fabric = s.fabric := rfl
@[simp] theorem putScribe_boot (s : State) (n : Nat) (x : Scribe) : (putScribe s n x).boot = s.boot := rfl
@[simp] theorem putScribe_tokens (s : State) (n : Nat) (x : Scribe) : (putScribe s n x).tokens = s.tokens := rfl
@[simp] theorem putScribe_refills (s : State) (n : Nat) (x : Scribe) : (putScribe s n x).refills = s.refills := rfl
@[simp] theorem putScribe_throttled (s : State) (n : Nat) (x : Scribe) : (putScribe s n x).throttled = s.throttled := rfl

/-! putDest. -/

@[simp] theorem putDest_clock (s : State) (i : Nat) (x : DestEntry) : (putDest s i x).clock = s.clock := rfl
@[simp] theorem putDest_sched (s : State) (i : Nat) (x : DestEntry) : (putDest s i x).sched = s.sched := rfl
@[simp] theorem putDest_issuer (s : State) (i : Nat) (x : DestEntry) : (putDest s i x).issuer = s.issuer := rfl
@[simp] theorem putDest_soft (s : State) (i : Nat) (x : DestEntry) : (putDest s i x).soft = s.soft := rfl
@[simp] theorem putDest_busy (s : State) (i : Nat) (x : DestEntry) : (putDest s i x).busy = s.busy := rfl
@[simp] theorem putDest_late (s : State) (i : Nat) (x : DestEntry) : (putDest s i x).late = s.late := rfl
@[simp] theorem putDest_olds (s : State) (i : Nat) (x : DestEntry) : (putDest s i x).olds = s.olds := rfl
@[simp] theorem putDest_serial (s : State) (i : Nat) (x : DestEntry) : (putDest s i x).serial = s.serial := rfl
@[simp] theorem putDest_mem (s : State) (i : Nat) (x : DestEntry) : (putDest s i x).mem = s.mem := rfl
@[simp] theorem putDest_desc (s : State) (i : Nat) (x : DestEntry) : (putDest s i x).desc = s.desc := rfl
@[simp] theorem putDest_keyed (s : State) (i : Nat) (x : DestEntry) : (putDest s i x).keyed = s.keyed := rfl
@[simp] theorem putDest_poison (s : State) (i : Nat) (x : DestEntry) : (putDest s i x).poison = s.poison := rfl
@[simp] theorem putDest_slices (s : State) (i : Nat) (x : DestEntry) : (putDest s i x).slices = s.slices := rfl
@[simp] theorem putDest_teams (s : State) (i : Nat) (x : DestEntry) : (putDest s i x).teams = s.teams := rfl
@[simp] theorem putDest_cores (s : State) (i : Nat) (x : DestEntry) : (putDest s i x).cores = s.cores := rfl
@[simp] theorem putDest_anvils (s : State) (i : Nat) (x : DestEntry) : (putDest s i x).anvils = s.anvils := rfl
@[simp] theorem putDest_scribes (s : State) (i : Nat) (x : DestEntry) : (putDest s i x).scribes = s.scribes := rfl
@[simp] theorem putDest_recCache (s : State) (i : Nat) (x : DestEntry) : (putDest s i x).recCache = s.recCache := rfl
@[simp] theorem putDest_quires (s : State) (i : Nat) (x : DestEntry) : (putDest s i x).quires = s.quires := rfl
@[simp] theorem putDest_launches (s : State) (i : Nat) (x : DestEntry) : (putDest s i x).launches = s.launches := rfl
@[simp] theorem putDest_flights (s : State) (i : Nat) (x : DestEntry) : (putDest s i x).flights = s.flights := rfl
@[simp] theorem putDest_tlb (s : State) (i : Nat) (x : DestEntry) : (putDest s i x).tlb = s.tlb := rfl
@[simp] theorem putDest_tlbGone (s : State) (i : Nat) (x : DestEntry) : (putDest s i x).tlbGone = s.tlbGone := rfl
@[simp] theorem putDest_refused (s : State) (i : Nat) (x : DestEntry) : (putDest s i x).refused = s.refused := rfl
@[simp] theorem putDest_pressing (s : State) (i : Nat) (x : DestEntry) : (putDest s i x).pressing = s.pressing := rfl
@[simp] theorem putDest_walks (s : State) (i : Nat) (x : DestEntry) : (putDest s i x).walks = s.walks := rfl
@[simp] theorem putDest_pageReqs (s : State) (i : Nat) (x : DestEntry) : (putDest s i x).pageReqs = s.pageReqs := rfl
@[simp] theorem putDest_recWaits (s : State) (i : Nat) (x : DestEntry) : (putDest s i x).recWaits = s.recWaits := rfl
@[simp] theorem putDest_deadlines (s : State) (i : Nat) (x : DestEntry) : (putDest s i x).deadlines = s.deadlines := rfl
@[simp] theorem putDest_posted (s : State) (i : Nat) (x : DestEntry) : (putDest s i x).posted = s.posted := rfl
@[simp] theorem putDest_spills (s : State) (i : Nat) (x : DestEntry) : (putDest s i x).spills = s.spills := rfl
@[simp] theorem putDest_farCode (s : State) (i : Nat) (x : DestEntry) : (putDest s i x).farCode = s.farCode := rfl
@[simp] theorem putDest_partitions (s : State) (i : Nat) (x : DestEntry) : (putDest s i x).partitions = s.partitions := rfl
@[simp] theorem putDest_vdevs (s : State) (i : Nat) (x : DestEntry) : (putDest s i x).vdevs = s.vdevs := rfl
@[simp] theorem putDest_packets (s : State) (i : Nat) (x : DestEntry) : (putDest s i x).packets = s.packets := rfl
@[simp] theorem putDest_invals (s : State) (i : Nat) (x : DestEntry) : (putDest s i x).invals = s.invals := rfl
@[simp] theorem putDest_fabric (s : State) (i : Nat) (x : DestEntry) : (putDest s i x).fabric = s.fabric := rfl
@[simp] theorem putDest_boot (s : State) (i : Nat) (x : DestEntry) : (putDest s i x).boot = s.boot := rfl
@[simp] theorem putDest_tokens (s : State) (i : Nat) (x : DestEntry) : (putDest s i x).tokens = s.tokens := rfl
@[simp] theorem putDest_refills (s : State) (i : Nat) (x : DestEntry) : (putDest s i x).refills = s.refills := rfl
@[simp] theorem putDest_throttled (s : State) (i : Nat) (x : DestEntry) : (putDest s i x).throttled = s.throttled := rfl

/-! putPkt. -/

@[simp] theorem putPkt_clock (s : State) (p : Packet) : (putPkt s p).clock = s.clock := rfl
@[simp] theorem putPkt_sched (s : State) (p : Packet) : (putPkt s p).sched = s.sched := rfl
@[simp] theorem putPkt_issuer (s : State) (p : Packet) : (putPkt s p).issuer = s.issuer := rfl
@[simp] theorem putPkt_soft (s : State) (p : Packet) : (putPkt s p).soft = s.soft := rfl
@[simp] theorem putPkt_busy (s : State) (p : Packet) : (putPkt s p).busy = s.busy := rfl
@[simp] theorem putPkt_late (s : State) (p : Packet) : (putPkt s p).late = s.late := rfl
@[simp] theorem putPkt_olds (s : State) (p : Packet) : (putPkt s p).olds = s.olds := rfl
@[simp] theorem putPkt_serial (s : State) (p : Packet) : (putPkt s p).serial = s.serial := rfl
@[simp] theorem putPkt_mem (s : State) (p : Packet) : (putPkt s p).mem = s.mem := rfl
@[simp] theorem putPkt_desc (s : State) (p : Packet) : (putPkt s p).desc = s.desc := rfl
@[simp] theorem putPkt_keyed (s : State) (p : Packet) : (putPkt s p).keyed = s.keyed := rfl
@[simp] theorem putPkt_poison (s : State) (p : Packet) : (putPkt s p).poison = s.poison := rfl
@[simp] theorem putPkt_slices (s : State) (p : Packet) : (putPkt s p).slices = s.slices := rfl
@[simp] theorem putPkt_teams (s : State) (p : Packet) : (putPkt s p).teams = s.teams := rfl
@[simp] theorem putPkt_cores (s : State) (p : Packet) : (putPkt s p).cores = s.cores := rfl
@[simp] theorem putPkt_anvils (s : State) (p : Packet) : (putPkt s p).anvils = s.anvils := rfl
@[simp] theorem putPkt_scribes (s : State) (p : Packet) : (putPkt s p).scribes = s.scribes := rfl
@[simp] theorem putPkt_recCache (s : State) (p : Packet) : (putPkt s p).recCache = s.recCache := rfl
@[simp] theorem putPkt_quires (s : State) (p : Packet) : (putPkt s p).quires = s.quires := rfl
@[simp] theorem putPkt_launches (s : State) (p : Packet) : (putPkt s p).launches = s.launches := rfl
@[simp] theorem putPkt_flights (s : State) (p : Packet) : (putPkt s p).flights = s.flights := rfl
@[simp] theorem putPkt_tlb (s : State) (p : Packet) : (putPkt s p).tlb = s.tlb := rfl
@[simp] theorem putPkt_tlbGone (s : State) (p : Packet) : (putPkt s p).tlbGone = s.tlbGone := rfl
@[simp] theorem putPkt_refused (s : State) (p : Packet) : (putPkt s p).refused = s.refused := rfl
@[simp] theorem putPkt_pressing (s : State) (p : Packet) : (putPkt s p).pressing = s.pressing := rfl
@[simp] theorem putPkt_walks (s : State) (p : Packet) : (putPkt s p).walks = s.walks := rfl
@[simp] theorem putPkt_pageReqs (s : State) (p : Packet) : (putPkt s p).pageReqs = s.pageReqs := rfl
@[simp] theorem putPkt_recWaits (s : State) (p : Packet) : (putPkt s p).recWaits = s.recWaits := rfl
@[simp] theorem putPkt_deadlines (s : State) (p : Packet) : (putPkt s p).deadlines = s.deadlines := rfl
@[simp] theorem putPkt_posted (s : State) (p : Packet) : (putPkt s p).posted = s.posted := rfl
@[simp] theorem putPkt_spills (s : State) (p : Packet) : (putPkt s p).spills = s.spills := rfl
@[simp] theorem putPkt_farCode (s : State) (p : Packet) : (putPkt s p).farCode = s.farCode := rfl
@[simp] theorem putPkt_partitions (s : State) (p : Packet) : (putPkt s p).partitions = s.partitions := rfl
@[simp] theorem putPkt_vdevs (s : State) (p : Packet) : (putPkt s p).vdevs = s.vdevs := rfl
@[simp] theorem putPkt_dests (s : State) (p : Packet) : (putPkt s p).dests = s.dests := rfl
@[simp] theorem putPkt_invals (s : State) (p : Packet) : (putPkt s p).invals = s.invals := rfl
@[simp] theorem putPkt_fabric (s : State) (p : Packet) : (putPkt s p).fabric = s.fabric := rfl
@[simp] theorem putPkt_boot (s : State) (p : Packet) : (putPkt s p).boot = s.boot := rfl
@[simp] theorem putPkt_tokens (s : State) (p : Packet) : (putPkt s p).tokens = s.tokens := rfl
@[simp] theorem putPkt_refills (s : State) (p : Packet) : (putPkt s p).refills = s.refills := rfl
@[simp] theorem putPkt_throttled (s : State) (p : Packet) : (putPkt s p).throttled = s.throttled := rfl

/-! putFlight. -/

@[simp] theorem putFlight_clock (s : State) (f : Flight) : (putFlight s f).clock = s.clock := rfl
@[simp] theorem putFlight_sched (s : State) (f : Flight) : (putFlight s f).sched = s.sched := rfl
@[simp] theorem putFlight_issuer (s : State) (f : Flight) : (putFlight s f).issuer = s.issuer := rfl
@[simp] theorem putFlight_soft (s : State) (f : Flight) : (putFlight s f).soft = s.soft := rfl
@[simp] theorem putFlight_busy (s : State) (f : Flight) : (putFlight s f).busy = s.busy := rfl
@[simp] theorem putFlight_late (s : State) (f : Flight) : (putFlight s f).late = s.late := rfl
@[simp] theorem putFlight_olds (s : State) (f : Flight) : (putFlight s f).olds = s.olds := rfl
@[simp] theorem putFlight_serial (s : State) (f : Flight) : (putFlight s f).serial = s.serial := rfl
@[simp] theorem putFlight_mem (s : State) (f : Flight) : (putFlight s f).mem = s.mem := rfl
@[simp] theorem putFlight_desc (s : State) (f : Flight) : (putFlight s f).desc = s.desc := rfl
@[simp] theorem putFlight_keyed (s : State) (f : Flight) : (putFlight s f).keyed = s.keyed := rfl
@[simp] theorem putFlight_poison (s : State) (f : Flight) : (putFlight s f).poison = s.poison := rfl
@[simp] theorem putFlight_slices (s : State) (f : Flight) : (putFlight s f).slices = s.slices := rfl
@[simp] theorem putFlight_teams (s : State) (f : Flight) : (putFlight s f).teams = s.teams := rfl
@[simp] theorem putFlight_cores (s : State) (f : Flight) : (putFlight s f).cores = s.cores := rfl
@[simp] theorem putFlight_anvils (s : State) (f : Flight) : (putFlight s f).anvils = s.anvils := rfl
@[simp] theorem putFlight_scribes (s : State) (f : Flight) : (putFlight s f).scribes = s.scribes := rfl
@[simp] theorem putFlight_recCache (s : State) (f : Flight) : (putFlight s f).recCache = s.recCache := rfl
@[simp] theorem putFlight_quires (s : State) (f : Flight) : (putFlight s f).quires = s.quires := rfl
@[simp] theorem putFlight_launches (s : State) (f : Flight) : (putFlight s f).launches = s.launches := rfl
@[simp] theorem putFlight_tlb (s : State) (f : Flight) : (putFlight s f).tlb = s.tlb := rfl
@[simp] theorem putFlight_tlbGone (s : State) (f : Flight) : (putFlight s f).tlbGone = s.tlbGone := rfl
@[simp] theorem putFlight_refused (s : State) (f : Flight) : (putFlight s f).refused = s.refused := rfl
@[simp] theorem putFlight_pressing (s : State) (f : Flight) : (putFlight s f).pressing = s.pressing := rfl
@[simp] theorem putFlight_walks (s : State) (f : Flight) : (putFlight s f).walks = s.walks := rfl
@[simp] theorem putFlight_pageReqs (s : State) (f : Flight) : (putFlight s f).pageReqs = s.pageReqs := rfl
@[simp] theorem putFlight_recWaits (s : State) (f : Flight) : (putFlight s f).recWaits = s.recWaits := rfl
@[simp] theorem putFlight_deadlines (s : State) (f : Flight) : (putFlight s f).deadlines = s.deadlines := rfl
@[simp] theorem putFlight_posted (s : State) (f : Flight) : (putFlight s f).posted = s.posted := rfl
@[simp] theorem putFlight_spills (s : State) (f : Flight) : (putFlight s f).spills = s.spills := rfl
@[simp] theorem putFlight_farCode (s : State) (f : Flight) : (putFlight s f).farCode = s.farCode := rfl
@[simp] theorem putFlight_partitions (s : State) (f : Flight) : (putFlight s f).partitions = s.partitions := rfl
@[simp] theorem putFlight_vdevs (s : State) (f : Flight) : (putFlight s f).vdevs = s.vdevs := rfl
@[simp] theorem putFlight_dests (s : State) (f : Flight) : (putFlight s f).dests = s.dests := rfl
@[simp] theorem putFlight_packets (s : State) (f : Flight) : (putFlight s f).packets = s.packets := rfl
@[simp] theorem putFlight_invals (s : State) (f : Flight) : (putFlight s f).invals = s.invals := rfl
@[simp] theorem putFlight_fabric (s : State) (f : Flight) : (putFlight s f).fabric = s.fabric := rfl
@[simp] theorem putFlight_boot (s : State) (f : Flight) : (putFlight s f).boot = s.boot := rfl
@[simp] theorem putFlight_tokens (s : State) (f : Flight) : (putFlight s f).tokens = s.tokens := rfl
@[simp] theorem putFlight_refills (s : State) (f : Flight) : (putFlight s f).refills = s.refills := rfl
@[simp] theorem putFlight_throttled (s : State) (f : Flight) : (putFlight s f).throttled = s.throttled := rfl

/-! dropFlight. -/

@[simp] theorem dropFlight_clock (s : State) (i : Nat) : (dropFlight s i).clock = s.clock := rfl
@[simp] theorem dropFlight_sched (s : State) (i : Nat) : (dropFlight s i).sched = s.sched := rfl
@[simp] theorem dropFlight_issuer (s : State) (i : Nat) : (dropFlight s i).issuer = s.issuer := rfl
@[simp] theorem dropFlight_soft (s : State) (i : Nat) : (dropFlight s i).soft = s.soft := rfl
@[simp] theorem dropFlight_busy (s : State) (i : Nat) : (dropFlight s i).busy = s.busy := rfl
@[simp] theorem dropFlight_late (s : State) (i : Nat) : (dropFlight s i).late = s.late := rfl
@[simp] theorem dropFlight_olds (s : State) (i : Nat) : (dropFlight s i).olds = s.olds := rfl
@[simp] theorem dropFlight_serial (s : State) (i : Nat) : (dropFlight s i).serial = s.serial := rfl
@[simp] theorem dropFlight_mem (s : State) (i : Nat) : (dropFlight s i).mem = s.mem := rfl
@[simp] theorem dropFlight_desc (s : State) (i : Nat) : (dropFlight s i).desc = s.desc := rfl
@[simp] theorem dropFlight_keyed (s : State) (i : Nat) : (dropFlight s i).keyed = s.keyed := rfl
@[simp] theorem dropFlight_poison (s : State) (i : Nat) : (dropFlight s i).poison = s.poison := rfl
@[simp] theorem dropFlight_slices (s : State) (i : Nat) : (dropFlight s i).slices = s.slices := rfl
@[simp] theorem dropFlight_teams (s : State) (i : Nat) : (dropFlight s i).teams = s.teams := rfl
@[simp] theorem dropFlight_cores (s : State) (i : Nat) : (dropFlight s i).cores = s.cores := rfl
@[simp] theorem dropFlight_anvils (s : State) (i : Nat) : (dropFlight s i).anvils = s.anvils := rfl
@[simp] theorem dropFlight_scribes (s : State) (i : Nat) : (dropFlight s i).scribes = s.scribes := rfl
@[simp] theorem dropFlight_recCache (s : State) (i : Nat) : (dropFlight s i).recCache = s.recCache := rfl
@[simp] theorem dropFlight_quires (s : State) (i : Nat) : (dropFlight s i).quires = s.quires := rfl
@[simp] theorem dropFlight_launches (s : State) (i : Nat) : (dropFlight s i).launches = s.launches := rfl
@[simp] theorem dropFlight_tlb (s : State) (i : Nat) : (dropFlight s i).tlb = s.tlb := rfl
@[simp] theorem dropFlight_tlbGone (s : State) (i : Nat) : (dropFlight s i).tlbGone = s.tlbGone := rfl
@[simp] theorem dropFlight_refused (s : State) (i : Nat) : (dropFlight s i).refused = s.refused := rfl
@[simp] theorem dropFlight_pressing (s : State) (i : Nat) : (dropFlight s i).pressing = s.pressing := rfl
@[simp] theorem dropFlight_walks (s : State) (i : Nat) : (dropFlight s i).walks = s.walks := rfl
@[simp] theorem dropFlight_pageReqs (s : State) (i : Nat) : (dropFlight s i).pageReqs = s.pageReqs := rfl
@[simp] theorem dropFlight_recWaits (s : State) (i : Nat) : (dropFlight s i).recWaits = s.recWaits := rfl
@[simp] theorem dropFlight_deadlines (s : State) (i : Nat) : (dropFlight s i).deadlines = s.deadlines := rfl
@[simp] theorem dropFlight_posted (s : State) (i : Nat) : (dropFlight s i).posted = s.posted := rfl
@[simp] theorem dropFlight_spills (s : State) (i : Nat) : (dropFlight s i).spills = s.spills := rfl
@[simp] theorem dropFlight_farCode (s : State) (i : Nat) : (dropFlight s i).farCode = s.farCode := rfl
@[simp] theorem dropFlight_partitions (s : State) (i : Nat) : (dropFlight s i).partitions = s.partitions := rfl
@[simp] theorem dropFlight_vdevs (s : State) (i : Nat) : (dropFlight s i).vdevs = s.vdevs := rfl
@[simp] theorem dropFlight_dests (s : State) (i : Nat) : (dropFlight s i).dests = s.dests := rfl
@[simp] theorem dropFlight_packets (s : State) (i : Nat) : (dropFlight s i).packets = s.packets := rfl
@[simp] theorem dropFlight_invals (s : State) (i : Nat) : (dropFlight s i).invals = s.invals := rfl
@[simp] theorem dropFlight_fabric (s : State) (i : Nat) : (dropFlight s i).fabric = s.fabric := rfl
@[simp] theorem dropFlight_boot (s : State) (i : Nat) : (dropFlight s i).boot = s.boot := rfl
@[simp] theorem dropFlight_tokens (s : State) (i : Nat) : (dropFlight s i).tokens = s.tokens := rfl
@[simp] theorem dropFlight_refills (s : State) (i : Nat) : (dropFlight s i).refills = s.refills := rfl
@[simp] theorem dropFlight_throttled (s : State) (i : Nat) : (dropFlight s i).throttled = s.throttled := rfl

/-! addFlight. -/

@[simp] theorem addFlight_clock (s : State) (f : Flight) : (addFlight s f).clock = s.clock := rfl
@[simp] theorem addFlight_sched (s : State) (f : Flight) : (addFlight s f).sched = s.sched := rfl
@[simp] theorem addFlight_issuer (s : State) (f : Flight) : (addFlight s f).issuer = s.issuer := rfl
@[simp] theorem addFlight_soft (s : State) (f : Flight) : (addFlight s f).soft = s.soft := rfl
@[simp] theorem addFlight_busy (s : State) (f : Flight) : (addFlight s f).busy = s.busy := rfl
@[simp] theorem addFlight_late (s : State) (f : Flight) : (addFlight s f).late = s.late := rfl
@[simp] theorem addFlight_olds (s : State) (f : Flight) : (addFlight s f).olds = s.olds := rfl
@[simp] theorem addFlight_mem (s : State) (f : Flight) : (addFlight s f).mem = s.mem := rfl
@[simp] theorem addFlight_desc (s : State) (f : Flight) : (addFlight s f).desc = s.desc := rfl
@[simp] theorem addFlight_keyed (s : State) (f : Flight) : (addFlight s f).keyed = s.keyed := rfl
@[simp] theorem addFlight_poison (s : State) (f : Flight) : (addFlight s f).poison = s.poison := rfl
@[simp] theorem addFlight_slices (s : State) (f : Flight) : (addFlight s f).slices = s.slices := rfl
@[simp] theorem addFlight_teams (s : State) (f : Flight) : (addFlight s f).teams = s.teams := rfl
@[simp] theorem addFlight_cores (s : State) (f : Flight) : (addFlight s f).cores = s.cores := rfl
@[simp] theorem addFlight_anvils (s : State) (f : Flight) : (addFlight s f).anvils = s.anvils := rfl
@[simp] theorem addFlight_scribes (s : State) (f : Flight) : (addFlight s f).scribes = s.scribes := rfl
@[simp] theorem addFlight_recCache (s : State) (f : Flight) : (addFlight s f).recCache = s.recCache := rfl
@[simp] theorem addFlight_quires (s : State) (f : Flight) : (addFlight s f).quires = s.quires := rfl
@[simp] theorem addFlight_launches (s : State) (f : Flight) : (addFlight s f).launches = s.launches := rfl
@[simp] theorem addFlight_tlb (s : State) (f : Flight) : (addFlight s f).tlb = s.tlb := rfl
@[simp] theorem addFlight_tlbGone (s : State) (f : Flight) : (addFlight s f).tlbGone = s.tlbGone := rfl
@[simp] theorem addFlight_refused (s : State) (f : Flight) : (addFlight s f).refused = s.refused := rfl
@[simp] theorem addFlight_pressing (s : State) (f : Flight) : (addFlight s f).pressing = s.pressing := rfl
@[simp] theorem addFlight_walks (s : State) (f : Flight) : (addFlight s f).walks = s.walks := rfl
@[simp] theorem addFlight_pageReqs (s : State) (f : Flight) : (addFlight s f).pageReqs = s.pageReqs := rfl
@[simp] theorem addFlight_recWaits (s : State) (f : Flight) : (addFlight s f).recWaits = s.recWaits := rfl
@[simp] theorem addFlight_deadlines (s : State) (f : Flight) : (addFlight s f).deadlines = s.deadlines := rfl
@[simp] theorem addFlight_posted (s : State) (f : Flight) : (addFlight s f).posted = s.posted := rfl
@[simp] theorem addFlight_spills (s : State) (f : Flight) : (addFlight s f).spills = s.spills := rfl
@[simp] theorem addFlight_farCode (s : State) (f : Flight) : (addFlight s f).farCode = s.farCode := rfl
@[simp] theorem addFlight_partitions (s : State) (f : Flight) : (addFlight s f).partitions = s.partitions := rfl
@[simp] theorem addFlight_vdevs (s : State) (f : Flight) : (addFlight s f).vdevs = s.vdevs := rfl
@[simp] theorem addFlight_dests (s : State) (f : Flight) : (addFlight s f).dests = s.dests := rfl
@[simp] theorem addFlight_packets (s : State) (f : Flight) : (addFlight s f).packets = s.packets := rfl
@[simp] theorem addFlight_invals (s : State) (f : Flight) : (addFlight s f).invals = s.invals := rfl
@[simp] theorem addFlight_fabric (s : State) (f : Flight) : (addFlight s f).fabric = s.fabric := rfl
@[simp] theorem addFlight_boot (s : State) (f : Flight) : (addFlight s f).boot = s.boot := rfl
@[simp] theorem addFlight_tokens (s : State) (f : Flight) : (addFlight s f).tokens = s.tokens := rfl
@[simp] theorem addFlight_refills (s : State) (f : Flight) : (addFlight s f).refills = s.refills := rfl
@[simp] theorem addFlight_throttled (s : State) (f : Flight) : (addFlight s f).throttled = s.throttled := rfl

/-! storeDesc. -/

@[simp] theorem storeDesc_clock (s : State) (key a : Nat) (bs : List Byte) (d : BitVec 16) : (storeDesc s key a bs d).clock = s.clock := rfl
@[simp] theorem storeDesc_sched (s : State) (key a : Nat) (bs : List Byte) (d : BitVec 16) : (storeDesc s key a bs d).sched = s.sched := rfl
@[simp] theorem storeDesc_issuer (s : State) (key a : Nat) (bs : List Byte) (d : BitVec 16) : (storeDesc s key a bs d).issuer = s.issuer := rfl
@[simp] theorem storeDesc_soft (s : State) (key a : Nat) (bs : List Byte) (d : BitVec 16) : (storeDesc s key a bs d).soft = s.soft := rfl
@[simp] theorem storeDesc_busy (s : State) (key a : Nat) (bs : List Byte) (d : BitVec 16) : (storeDesc s key a bs d).busy = s.busy := rfl
@[simp] theorem storeDesc_late (s : State) (key a : Nat) (bs : List Byte) (d : BitVec 16) : (storeDesc s key a bs d).late = s.late := rfl
@[simp] theorem storeDesc_olds (s : State) (key a : Nat) (bs : List Byte) (d : BitVec 16) : (storeDesc s key a bs d).olds = s.olds := rfl
@[simp] theorem storeDesc_serial (s : State) (key a : Nat) (bs : List Byte) (d : BitVec 16) : (storeDesc s key a bs d).serial = s.serial := rfl
@[simp] theorem storeDesc_slices (s : State) (key a : Nat) (bs : List Byte) (d : BitVec 16) : (storeDesc s key a bs d).slices = s.slices := rfl
@[simp] theorem storeDesc_teams (s : State) (key a : Nat) (bs : List Byte) (d : BitVec 16) : (storeDesc s key a bs d).teams = s.teams := rfl
@[simp] theorem storeDesc_cores (s : State) (key a : Nat) (bs : List Byte) (d : BitVec 16) : (storeDesc s key a bs d).cores = s.cores := rfl
@[simp] theorem storeDesc_anvils (s : State) (key a : Nat) (bs : List Byte) (d : BitVec 16) : (storeDesc s key a bs d).anvils = s.anvils := rfl
@[simp] theorem storeDesc_scribes (s : State) (key a : Nat) (bs : List Byte) (d : BitVec 16) : (storeDesc s key a bs d).scribes = s.scribes := rfl
@[simp] theorem storeDesc_recCache (s : State) (key a : Nat) (bs : List Byte) (d : BitVec 16) : (storeDesc s key a bs d).recCache = s.recCache := rfl
@[simp] theorem storeDesc_quires (s : State) (key a : Nat) (bs : List Byte) (d : BitVec 16) : (storeDesc s key a bs d).quires = s.quires := rfl
@[simp] theorem storeDesc_launches (s : State) (key a : Nat) (bs : List Byte) (d : BitVec 16) : (storeDesc s key a bs d).launches = s.launches := rfl
@[simp] theorem storeDesc_flights (s : State) (key a : Nat) (bs : List Byte) (d : BitVec 16) : (storeDesc s key a bs d).flights = s.flights := rfl
@[simp] theorem storeDesc_tlb (s : State) (key a : Nat) (bs : List Byte) (d : BitVec 16) : (storeDesc s key a bs d).tlb = s.tlb := rfl
@[simp] theorem storeDesc_tlbGone (s : State) (key a : Nat) (bs : List Byte) (d : BitVec 16) : (storeDesc s key a bs d).tlbGone = s.tlbGone := rfl
@[simp] theorem storeDesc_refused (s : State) (key a : Nat) (bs : List Byte) (d : BitVec 16) : (storeDesc s key a bs d).refused = s.refused := rfl
@[simp] theorem storeDesc_pressing (s : State) (key a : Nat) (bs : List Byte) (d : BitVec 16) : (storeDesc s key a bs d).pressing = s.pressing := rfl
@[simp] theorem storeDesc_walks (s : State) (key a : Nat) (bs : List Byte) (d : BitVec 16) : (storeDesc s key a bs d).walks = s.walks := rfl
@[simp] theorem storeDesc_pageReqs (s : State) (key a : Nat) (bs : List Byte) (d : BitVec 16) : (storeDesc s key a bs d).pageReqs = s.pageReqs := rfl
@[simp] theorem storeDesc_recWaits (s : State) (key a : Nat) (bs : List Byte) (d : BitVec 16) : (storeDesc s key a bs d).recWaits = s.recWaits := rfl
@[simp] theorem storeDesc_deadlines (s : State) (key a : Nat) (bs : List Byte) (d : BitVec 16) : (storeDesc s key a bs d).deadlines = s.deadlines := rfl
@[simp] theorem storeDesc_posted (s : State) (key a : Nat) (bs : List Byte) (d : BitVec 16) : (storeDesc s key a bs d).posted = s.posted := rfl
@[simp] theorem storeDesc_spills (s : State) (key a : Nat) (bs : List Byte) (d : BitVec 16) : (storeDesc s key a bs d).spills = s.spills := rfl
@[simp] theorem storeDesc_farCode (s : State) (key a : Nat) (bs : List Byte) (d : BitVec 16) : (storeDesc s key a bs d).farCode = s.farCode := rfl
@[simp] theorem storeDesc_partitions (s : State) (key a : Nat) (bs : List Byte) (d : BitVec 16) : (storeDesc s key a bs d).partitions = s.partitions := rfl
@[simp] theorem storeDesc_vdevs (s : State) (key a : Nat) (bs : List Byte) (d : BitVec 16) : (storeDesc s key a bs d).vdevs = s.vdevs := rfl
@[simp] theorem storeDesc_dests (s : State) (key a : Nat) (bs : List Byte) (d : BitVec 16) : (storeDesc s key a bs d).dests = s.dests := rfl
@[simp] theorem storeDesc_packets (s : State) (key a : Nat) (bs : List Byte) (d : BitVec 16) : (storeDesc s key a bs d).packets = s.packets := rfl
@[simp] theorem storeDesc_invals (s : State) (key a : Nat) (bs : List Byte) (d : BitVec 16) : (storeDesc s key a bs d).invals = s.invals := rfl
@[simp] theorem storeDesc_fabric (s : State) (key a : Nat) (bs : List Byte) (d : BitVec 16) : (storeDesc s key a bs d).fabric = s.fabric := rfl
@[simp] theorem storeDesc_boot (s : State) (key a : Nat) (bs : List Byte) (d : BitVec 16) : (storeDesc s key a bs d).boot = s.boot := rfl
@[simp] theorem storeDesc_tokens (s : State) (key a : Nat) (bs : List Byte) (d : BitVec 16) : (storeDesc s key a bs d).tokens = s.tokens := rfl
@[simp] theorem storeDesc_refills (s : State) (key a : Nat) (bs : List Byte) (d : BitVec 16) : (storeDesc s key a bs d).refills = s.refills := rfl
@[simp] theorem storeDesc_throttled (s : State) (key a : Nat) (bs : List Byte) (d : BitVec 16) : (storeDesc s key a bs d).throttled = s.throttled := rfl

/-! A stream of a slice. -/

@[simp] theorem setStream_v (acc : Bool) (x : Slice) (y : Stream) : (setStream acc x y).v = x.v := by cases acc <;> rfl
@[simp] theorem setStream_vInfo (acc : Bool) (x : Slice) (y : Stream) : (setStream acc x y).vInfo = x.vInfo := by cases acc <;> rfl
@[simp] theorem setStream_ar (acc : Bool) (x : Slice) (y : Stream) : (setStream acc x y).ar = x.ar := by cases acc <;> rfl
@[simp] theorem setStream_arInfo (acc : Bool) (x : Slice) (y : Stream) : (setStream acc x y).arInfo = x.arInfo := by cases acc <;> rfl
@[simp] theorem setStream_s (acc : Bool) (x : Slice) (y : Stream) : (setStream acc x y).s = x.s := by cases acc <;> rfl
@[simp] theorem setStream_sdiv (acc : Bool) (x : Slice) (y : Stream) : (setStream acc x y).sdiv = x.sdiv := by cases acc <;> rfl
@[simp] theorem setStream_x (acc : Bool) (x : Slice) (y : Stream) : (setStream acc x y).x = x.x := by cases acc <;> rfl
@[simp] theorem setStream_fpmode (acc : Bool) (x : Slice) (y : Stream) : (setStream acc x y).fpmode = x.fpmode := by cases acc <;> rfl
@[simp] theorem setStream_fpmodeA (acc : Bool) (x : Slice) (y : Stream) : (setStream acc x y).fpmodeA = x.fpmodeA := by cases acc <;> rfl
@[simp] theorem setStream_modeWrites (acc : Bool) (x : Slice) (y : Stream) : (setStream acc x y).modeWrites = x.modeWrites := by cases acc <;> rfl
@[simp] theorem setStream_modeSeen (acc : Bool) (x : Slice) (y : Stream) : (setStream acc x y).modeSeen = x.modeSeen := by cases acc <;> rfl
@[simp] theorem setStream_fpflags (acc : Bool) (x : Slice) (y : Stream) : (setStream acc x y).fpflags = x.fpflags := by cases acc <;> rfl
@[simp] theorem setStream_satflag (acc : Bool) (x : Slice) (y : Stream) : (setStream acc x y).satflag = x.satflag := by cases acc <;> rfl
@[simp] theorem setStream_high (acc : Bool) (x : Slice) (y : Stream) : (setStream acc x y).high = x.high := by cases acc <;> rfl
@[simp] theorem setStream_noticepc (acc : Bool) (x : Slice) (y : Stream) : (setStream acc x y).noticepc = x.noticepc := by cases acc <;> rfl
@[simp] theorem setStream_nret (acc : Bool) (x : Slice) (y : Stream) : (setStream acc x y).nret = x.nret := by cases acc <;> rfl
@[simp] theorem setStream_slip (acc : Bool) (x : Slice) (y : Stream) : (setStream acc x y).slip = x.slip := by cases acc <;> rfl
@[simp] theorem setStream_pend (acc : Bool) (x : Slice) (y : Stream) : (setStream acc x y).pend = x.pend := by cases acc <;> rfl
@[simp] theorem setStream_notice (acc : Bool) (x : Slice) (y : Stream) : (setStream acc x y).notice = x.notice := by cases acc <;> rfl
@[simp] theorem setStream_ldq (acc : Bool) (x : Slice) (y : Stream) : (setStream acc x y).ldq = x.ldq := by cases acc <;> rfl
@[simp] theorem setStream_ldqNext (acc : Bool) (x : Slice) (y : Stream) : (setStream acc x y).ldqNext = x.ldqNext := by cases acc <;> rfl
@[simp] theorem setStream_sdq (acc : Bool) (x : Slice) (y : Stream) : (setStream acc x y).sdq = x.sdq := by cases acc <;> rfl
@[simp] theorem setStream_cq (acc : Bool) (x : Slice) (y : Stream) : (setStream acc x y).cq = x.cq := by cases acc <;> rfl
@[simp] theorem setStream_nld (acc : Bool) (x : Slice) (y : Stream) : (setStream acc x y).nld = x.nld := by cases acc <;> rfl
@[simp] theorem setStream_nst (acc : Bool) (x : Slice) (y : Stream) : (setStream acc x y).nst = x.nst := by cases acc <;> rfl
@[simp] theorem setStream_ncp (acc : Bool) (x : Slice) (y : Stream) : (setStream acc x y).ncp = x.ncp := by cases acc <;> rfl
@[simp] theorem setStream_ntl (acc : Bool) (x : Slice) (y : Stream) : (setStream acc x y).ntl = x.ntl := by cases acc <;> rfl
@[simp] theorem setStream_relMark (acc : Bool) (x : Slice) (y : Stream) : (setStream acc x y).relMark = x.relMark := by cases acc <;> rfl
@[simp] theorem setStream_statPend (acc : Bool) (x : Slice) (y : Stream) : (setStream acc x y).statPend = x.statPend := by cases acc <;> rfl
@[simp] theorem setStream_check (acc : Bool) (x : Slice) (y : Stream) : (setStream acc x y).check = x.check := by cases acc <;> rfl
@[simp] theorem setStream_park (acc : Bool) (x : Slice) (y : Stream) : (setStream acc x y).park = x.park := by cases acc <;> rfl
@[simp] theorem setStream_parts (acc : Bool) (x : Slice) (y : Stream) : (setStream acc x y).parts = x.parts := by cases acc <;> rfl
@[simp] theorem setStream_held (acc : Bool) (x : Slice) (y : Stream) : (setStream acc x y).held = x.held := by cases acc <;> rfl
@[simp] theorem setStream_anvErr (acc : Bool) (x : Slice) (y : Stream) : (setStream acc x y).anvErr = x.anvErr := by cases acc <;> rfl
@[simp] theorem setStream_scbErr (acc : Bool) (x : Slice) (y : Stream) : (setStream acc x y).scbErr = x.scbErr := by cases acc <;> rfl
@[simp] theorem setStream_strikes (acc : Bool) (x : Slice) (y : Stream) : (setStream acc x y).strikes = x.strikes := by cases acc <;> rfl
@[simp] theorem setStream_rolled (acc : Bool) (x : Slice) (y : Stream) : (setStream acc x y).rolled = x.rolled := by cases acc <;> rfl
@[simp] theorem setStream_rollback (acc : Bool) (x : Slice) (y : Stream) : (setStream acc x y).rollback = x.rollback := by cases acc <;> rfl
@[simp] theorem setStream_swapped (acc : Bool) (x : Slice) (y : Stream) : (setStream acc x y).swapped = x.swapped := by cases acc <;> rfl
@[simp] theorem setStream_since (acc : Bool) (x : Slice) (y : Stream) : (setStream acc x y).since = x.since := by cases acc <;> rfl
@[simp] theorem setStream_levelDue (acc : Bool) (x : Slice) (y : Stream) : (setStream acc x y).levelDue = x.levelDue := by cases acc <;> rfl
@[simp] theorem setStream_watch (acc : Bool) (x : Slice) (y : Stream) : (setStream acc x y).watch = x.watch := by cases acc <;> rfl
@[simp] theorem setStream_stop (acc : Bool) (x : Slice) (y : Stream) : (setStream acc x y).stop = x.stop := by cases acc <;> rfl
@[simp] theorem setStream_errPend (acc : Bool) (x : Slice) (y : Stream) : (setStream acc x y).errPend = x.errPend := by cases acc <;> rfl

@[simp] theorem streamOf_setStream (acc : Bool) (x : Slice) (y : Stream) : streamOf acc (setStream acc x y) = y := by
  cases acc <;> rfl

@[simp] theorem streamOf_setStream_other (acc : Bool) (x : Slice) (y : Stream) :
    streamOf (!acc) (setStream acc x y) = streamOf (!acc) x := by
  cases acc <;> rfl

/-! What is read back. -/

@[simp] theorem sliceAt_putSlice_self (s : State) (k : Nat) (x : Slice) : sliceAt (putSlice s k x) k = x :=
  aget_aput_self _ _ _ _

theorem sliceAt_putSlice_ne (s : State) (k : Nat) (x : Slice) {j : Nat} (h : j ≠ k) : sliceAt (putSlice s k x) j = sliceAt s j :=
  aget_aput_ne _ _ _ _ _ h

@[simp] theorem coreAt_putCore_self (s : State) (c : Nat) (x : Core) : coreAt (putCore s c x) c = x :=
  aget_aput_self _ _ _ _

theorem coreAt_putCore_ne (s : State) (c : Nat) (x : Core) {j : Nat} (h : j ≠ c) : coreAt (putCore s c x) j = coreAt s j :=
  aget_aput_ne _ _ _ _ _ h

@[simp] theorem teamAt_putTeam_self (s : State) (t : Nat) (x : Option Team) : teamAt (putTeam s t x) t = x :=
  aget_aput_self _ _ _ _

theorem teamAt_putTeam_ne (s : State) (t : Nat) (x : Option Team) {j : Nat} (h : j ≠ t) : teamAt (putTeam s t x) j = teamAt s j :=
  aget_aput_ne _ _ _ _ _ h

@[simp] theorem launchAt_putLaunch_self (s : State) (l : Nat) (x : Option Launch) : launchAt (putLaunch s l x) l = x :=
  aget_aput_self _ _ _ _

theorem launchAt_putLaunch_ne (s : State) (l : Nat) (x : Option Launch) {j : Nat} (h : j ≠ l) : launchAt (putLaunch s l x) j = launchAt s j :=
  aget_aput_ne _ _ _ _ _ h

@[simp] theorem quireAt_putQuire_self (s : State) (q : Nat) (x : Option Quire) : quireAt (putQuire s q x) q = x :=
  aget_aput_self _ _ _ _

theorem quireAt_putQuire_ne (s : State) (q : Nat) (x : Option Quire) {j : Nat} (h : j ≠ q) : quireAt (putQuire s q x) j = quireAt s j :=
  aget_aput_ne _ _ _ _ _ h

@[simp] theorem vdevSt_putVdev_self (s : State) (v : Nat) (x : VDev) : vdevSt (putVdev s v x) v = x :=
  aget_aput_self _ _ _ _

theorem vdevSt_putVdev_ne (s : State) (v : Nat) (x : VDev) {j : Nat} (h : j ≠ v) : vdevSt (putVdev s v x) j = vdevSt s j :=
  aget_aput_ne _ _ _ _ _ h

@[simp] theorem anvilAt_putAnvil_self (s : State) (n : Nat) (x : Anvil) : anvilAt (putAnvil s n x) n = x :=
  aget_aput_self _ _ _ _

theorem anvilAt_putAnvil_ne (s : State) (n : Nat) (x : Anvil) {j : Nat} (h : j ≠ n) : anvilAt (putAnvil s n x) j = anvilAt s j :=
  aget_aput_ne _ _ _ _ _ h

@[simp] theorem scribeAt_putScribe_self (s : State) (n : Nat) (x : Scribe) : scribeAt (putScribe s n x) n = x :=
  aget_aput_self _ _ _ _

theorem scribeAt_putScribe_ne (s : State) (n : Nat) (x : Scribe) {j : Nat} (h : j ≠ n) : scribeAt (putScribe s n x) j = scribeAt s j :=
  aget_aput_ne _ _ _ _ _ h

theorem destAt_putDest_self (s : State) (i : Nat) (x : DestEntry) (h : i < 2 ^ 16) : destAt (putDest s i x) i = x := by
  unfold destAt
  rw [if_neg (Nat.not_le.mpr h)]
  exact aget_aput_self _ _ _ _

@[simp] theorem progAt_putProg_self (s : State) (n x : Nat) (p : Option Prog) : progAt (putProg s n x p) n x = p := by
  unfold progAt putProg
  rw [scribeAt_putScribe_self]
  exact aget_aput_self _ _ _ _

end Sys2Proof.Laws
end

