-- ==== Sys2Proof/Laws/Ops.lean ====
section
/-! SUPPORT. The shared operations: what a store writes and what it leaves, the canonical form of memory, who owns a
byte of scratch memory, and where an instruction faults before it does anything. -/

namespace Sys2Proof.Laws
open Sys2Proof.Machine Sys2Proof.Safety

/-! Stores. -/

/-- Setting descriptors keeps their canonical form. -/
theorem awf_setDescs {m : Assoc (BitVec 16)} (b : Nat) (d : BitVec 16) (n : Nat) (h : awf (0 : BitVec 16) m = true) :
    awf (0 : BitVec 16) (setDescs m b d n) = true := by
  induction n generalizing m b with
  | zero => exact h
  | succ n ih => exact ih (b + 1) (awf_aput b d h)

/-- Memory as a key id shows it is in canonical form where memory is. -/
theorem wf_underKey {s : State} (key loc n : Nat) (h : Memory.wf s.mem = true) : Memory.wf (underKey s key loc n) = true := by
  unfold underKey
  have : ∀ (l : List Nat) (m : Memory), Memory.wf m = true → Memory.wf (l.foldl (fun m b =>
      if plainUnder s key b then m
      else writeBytes m (64 * b) 64
        (Config.otherKey (aget 0 s.keyed b - 1) key b (BitVec.ofNat 512 (readBytes s.mem (64 * b) 64))).toNat) m) = true := by
    intro l
    induction l with
    | nil => exact fun m h => h
    | cons b l ih =>
      intro m h
      refine ih _ ?_
      dsimp only
      split
      · exact h
      · exact wf_writeBytes _ _ _ h
  exact this _ _ h

/-- Where a key id reads blocks as they were written, it shows memory as it is (R356). -/
theorem underKey_plain {s : State} {key loc n : Nat} (h : Plain s key loc n) : underKey s key loc n = s.mem := by
  unfold underKey
  have : ∀ (l : List Nat) (m : Memory), (∀ b ∈ l, plainUnder s key b = true) → l.foldl (fun m b =>
      if plainUnder s key b then m
      else writeBytes m (64 * b) 64
        (Config.otherKey (aget 0 s.keyed b - 1) key b (BitVec.ofNat 512 (readBytes s.mem (64 * b) 64))).toNat) m = m := by
    intro l
    induction l with
    | nil => exact fun m _ => rfl
    | cons b l ih =>
      intro m h
      rw [List.foldl_cons, if_pos (h b (List.mem_cons_self ..))]
      exact ih _ fun c hc => h c (List.mem_cons_of_mem _ hc)
  exact this _ _ h

/-- A byte that lies outside a block is not one of its 64 bytes. -/
theorem block_out {b c : Nat} (h : c / 64 ≠ b) : c < 64 * b ∨ 64 * b + 64 ≤ c := by omega

/-- A byte outside a number that is written is as it was. -/
theorem readByte_writeBytes_out (m : Memory) (a c n x : Nat) (h : c < a ∨ a + n ≤ c) :
    readByte (writeBytes m a n x) c = readByte m c := by
  induction n generalizing m a x with
  | zero => rfl
  | succ n ih =>
    rw [writeBytes, ih _ _ _ (by omega)]
    exact readByte_writeByte_ne _ _ (by omega)

/-- A key id changes nothing of what is seen outside the blocks that are touched (R356). -/
theorem readByte_underKey_out (s : State) (key loc n c : Nat) (h : c / 64 ∉ keyBlocks loc n) :
    readByte (underKey s key loc n) c = readByte s.mem c := by
  unfold underKey
  have : ∀ (l : List Nat) (m : Memory), c / 64 ∉ l → readByte (l.foldl (fun m b =>
      if plainUnder s key b then m
      else writeBytes m (64 * b) 64
        (Config.otherKey (aget 0 s.keyed b - 1) key b (BitVec.ofNat 512 (readBytes s.mem (64 * b) 64))).toNat) m) c =
      readByte m c := by
    intro l
    induction l with
    | nil => exact fun m _ => rfl
    | cons b l ih =>
      intro m h
      rw [List.foldl_cons, ih _ fun hc => h (List.mem_cons_of_mem _ hc)]
      split
      · rfl
      · exact readByte_writeBytes_out _ _ _ _ _ (block_out fun hc => h (hc ▸ List.mem_cons_self ..))
  exact this _ _ h

/-- A write keeps memory and descriptors in canonical form. -/
theorem storeDesc_kept {s : State} (key loc : Nat) (bs : List Byte) (d : BitVec 16) (h : MemoryKept s) :
    MemoryKept (storeDesc s key loc bs d) := by
  refine ⟨wf_writeList _ _ (wf_underKey _ _ _ h.1), ?_⟩
  unfold storeDesc
  dsimp only
  split
  · exact awf_setDescs _ _ _ h.2
  · exact h.2

/-- A plain write keeps memory and descriptors in canonical form. -/
theorem store_kept {s : State} (key loc : Nat) (bs : List Byte) (h : MemoryKept s) : MemoryKept (store s key loc bs) :=
  storeDesc_kept key loc bs 0 h

/-- Writing one descriptor keeps memory and descriptors in canonical form. -/
theorem setDesc_kept {s : State} (loc : Nat) (d : BitVec 16) (h : MemoryKept s) : MemoryKept (setDesc s loc d) := by
  unfold setDesc
  split
  · exact ⟨h.1, awf_aput _ _ h.2⟩
  · exact h

/-- Memory after reset is in canonical form. -/
theorem reset_mem_wf : Memory.wf State.reset.mem = true := rfl

/-- A write leaves every byte outside it as its key id shows it. -/
theorem readByte_storeDesc_out (s : State) (key loc c : Nat) (bs : List Byte) (d : BitVec 16)
    (h : c < loc ∨ loc + bs.length ≤ c) :
    readByte (storeDesc s key loc bs d).mem c = readByte (underKey s key loc bs.length) c :=
  readByte_writeList_out _ _ _ _ h

/-- A write leaves every byte outside the blocks that it touches as it was. -/
theorem readByte_storeDesc_block (s : State) (key loc c : Nat) (bs : List Byte) (d : BitVec 16)
    (h : c < loc ∨ loc + bs.length ≤ c) (hb : c / 64 ∉ keyBlocks loc bs.length) :
    readByte (storeDesc s key loc bs d).mem c = readByte s.mem c :=
  (readByte_storeDesc_out s key loc c bs d h).trans (readByte_underKey_out _ _ _ _ _ hb)

/-- A byte inside a write reads as written. -/
theorem readByte_storeDesc_in (s : State) (key loc i : Nat) (bs : List Byte) (d : BitVec 16) (h : i < bs.length) :
    readByte (storeDesc s key loc bs d).mem (loc + i) = bs[i] := readByte_writeList_in _ _ _ _ h

theorem valBytes_length (n x : Nat) : (valBytes n x).length = n := by
  induction n generalizing x with
  | zero => rfl
  | succ n ih => rw [valBytes, List.length_cons, ih]

/-- A number that was written reads back, modulo its width. -/
theorem readBytes_writeList_valBytes (m : Memory) (a n x : Nat) :
    readBytes (writeList m a (valBytes n x)) a n = x % 256 ^ n := by
  induction n generalizing m a x with
  | zero => rw [Nat.pow_zero, Nat.mod_one]; rfl
  | succ n ih =>
    rw [readBytes, valBytes, writeList, ih, readByte_writeList_out _ _ _ _ (.inl (Nat.lt_succ_self a)),
      readByte_writeByte_self, BitVec.toNat_ofNat]
    have h : 256 ^ (n + 1) = 256 * 256 ^ n := Nat.pow_succ'
    rw [h, Nat.mod_mul]

/-- A number that was stored reads back, modulo its width. -/
theorem readBytes_store (s : State) (key a n x : Nat) :
    readBytes (store s key a (valBytes n x)).mem a n = x % 256 ^ n :=
  readBytes_writeList_valBytes ..

/-! Tokens, walks and counts: what they change. -/

/-- Spending tokens changes the tokens alone. -/
theorem spendFor_eq (s : State) (ctx : Nat) (ts : List Target) :
    spendFor s ctx ts = { s with tokens := (spendFor s ctx ts).tokens } := by
  unfold spendFor
  by_cases hv : vdevRate s (vdevOf ctx) = 0
  · rw [if_pos hv]
  rw [if_neg hv]
  clear hv
  generalize (List.eraseDups (α := Nat) _) = l
  induction l generalizing s with
  | nil => rfl
  | cons a l ih =>
    have h : ∃ x, spendToken (vdevOf ctx) s a = { s with tokens := x } := by
      unfold spendToken
      split
      · exact ⟨s.tokens, rfl⟩
      · exact ⟨_, rfl⟩
    obtain ⟨x, hx⟩ := h
    rw [List.foldl_cons, hx, ih]

/-- Counting an instruction of a unit changes the teams alone. -/
theorem countUnit_eq (s : State) (t u : Nat) : countUnit s t u = { s with teams := (countUnit s t u).teams } := by
  unfold countUnit
  split
  · rfl
  · split <;> rfl

/-- A walk that is asked for changes the walks and the counter alone. -/
theorem joinWalk_eq (s : State) (vdev page : Nat) (writer : Option (Nat × Nat)) (core die : Nat) :
    joinWalk s vdev page writer core die =
      { s with walks := (joinWalk s vdev page writer core die).walks, serial := (joinWalk s vdev page writer core die).serial } := by
  unfold joinWalk
  split <;> rfl

/-- The same of one party's miss. -/
theorem addWalk_eq (s : State) (vdev page : Nat) (write : Bool) (core die : Nat) :
    addWalk s vdev page write core die =
      { s with walks := (addWalk s vdev page write core die).walks, serial := (addWalk s vdev page write core die).serial } :=
  joinWalk_eq ..

/-! Scratch memory. -/

/-- The owner of a byte of scratch memory holds it: a team placed on the core, or one saved from it. -/
theorem sramOwner_some {s ctx core off k team} (h : sramOwner s ctx core off = some (k, team)) :
   holdsByte ctx off team = true ∧ (teamAt s k = some team ∨ (k, some team) ∈ s.teams) := by
  unfold sramOwner at h
  split at h
  · next x hx =>
    cases h
    obtain ⟨p, -, hp⟩ := List.exists_of_findSome?_eq_some hx
    split at hp
    · next t ht => split at hp
                   · cases hp; exact ⟨‹_›, .inl ht⟩
                   · cases hp
    · cases hp
  · obtain ⟨p, hm, hp⟩ := List.exists_of_findSome?_eq_some h
    split at hp
    · next t ht => split at hp
                   · next hc => cases hp; exact ⟨by simp_all, .inr (by rw [← ht]; exact hm)⟩
                   · cases hp
    · cases hp

theorem mem_of_aget {α} {m : Assoc (Option α)} {k x} (h : aget none m k = some x) : (k, some x) ∈ m := by
  induction m with
  | nil => cases h
  | cons p m ih =>
    obtain ⟨i, y⟩ := p
    unfold aget at h
    split at h
    · rename_i hi; subst hi; subst h; simp
    · exact List.mem_cons_of_mem _ (ih h)

/-! Where an instruction faults. -/

/-- An instruction in a stream that excludes it faults and has no other effect than its unit's count (R175). -/
theorem issueLane_fault {s : State} {k : Nat} {acc : Bool} {e : Env} {r : Streams} {cmp : Bool} {f : Env → Slice → Verdict} {ft}
    (h : Solo s k acc e) (hr : streamFault r e = some ft) :
    issueLane s r cmp f = .next (takeFault (if acc then s else countUnit s (k / 32) (k % 32)) k acc ft) := by
  cases acc with
  | true => 
    by_cases hk : trapBase ≤ k
    · have hi := h.issuer
      obtain ⟨c, rfl⟩ := Nat.exists_eq_add_of_le hk
      rw [issuerOf_trap] at hi
      unfold issueLane
      rw [hi]
      simp only [h.env, hr]; rfl
    · have hi' : s.issuer = .access k := by rw [h.issuer]; unfold issuerOf; rw [if_pos rfl, if_neg hk]
      unfold issueLane
      rw [hi']
      simp only [h.env, hr]; rfl
  | false =>
    have hk := h.low rfl
    obtain ⟨ha, hb⟩ := h.alone rfl
    have hi : s.issuer = .compute k := h.issuer
    unfold issueLane
    rw [hi]
    simp only [h.env, ha, Nat.not_le.mpr hk, if_false, List.map_cons, List.map_nil, key_split, hr]
    simp only [hb]
    unfold commitIssue
    simp only [List.any_cons, List.any_nil, isStall, Bool.or_false, Bool.false_eq_true, if_false, List.filter_cons, isDone, List.filter_nil, List.map_nil, List.foldl_cons, List.foldl_nil, writeDone, actOn, key_split, List.map_cons, List.findSome?_cons, List.findSome?_nil, verdictPin]
    rfl

/-- An operand that the access stream may not name faults there (R53). -/
theorem runAlu_access_fault {m : AluForm} {op d a b} {s : State} {k e ft} (h : Solo s k true e) (hs : streamFault m.streams e = none)
   (hc : checkOperands e (sliceAt s k) (actLanes (streamOf e.acc (sliceAt s k))) (aluOperands m d.toNat a.toNat b.toNat) ((m.pred && decide (7 < d.toNat)) || (!e.acc && m.rounds = .byMode && modRm (streamOf e.acc (sliceAt s k)).hint = some .rna)) = some (.fault ft)) :
   runAlu m op d a b s = .next (takeFault s k true ft) := by
  unfold runAlu
  rw [issueLane_access h.issuer h.env hs]
  unfold aluSlice; dsimp only; rw [hc]; rfl
theorem checkOperands_access_illegal {e : Env} {sl act o x} (h1 : e.acc = true) (h2 : (o.srcs.any (fun p => accessSourceFaults p.2) || o.dst.any (fun p => accessDestFaults p.2)) = true) :
    checkOperands e sl act o x = some (.fault (plainFault codeILLEGAL_OPERAND)) := by
  unfold checkOperands
  have : (x || o.srcs.any (fun p => srcIllegal e p.1 p.2) || o.dst.any (fun p => dstIllegal e p.1 p.2)) = true := by
    rw [Bool.or_eq_true] at h2
    rcases h2 with h2 | h2
    · obtain ⟨p, hp, hq⟩ := List.any_eq_true.mp h2
      have : srcIllegal e p.1 p.2 = true := by
        unfold accessSourceFaults at hq
        unfold srcIllegal; rw [if_pos h1]
        simp at hq
        split
        · omega
        · split
          · rfl
          · have : ¬ (p.2 = 0xA8) ∧ ¬ (p.2 = 0xA9) ∧ ¬ (p.2 = 0xAB) ∧ ¬ (p.2 = 0xAC) ∧ ¬ (p.2 = 0xAA) ∧ ¬ (p.2 = 0xAE) ∧ ¬ (p.2 = 0xAD) ∧ ¬ (0xC0 ≤ p.2) := by omega
            simp [this]
      have : o.srcs.any (fun p => srcIllegal e p.1 p.2) = true := List.any_eq_true.mpr ⟨p, hp, this⟩
      simp [this]
    · cases hd : o.dst with
      | none => rw [hd] at h2; cases h2
      | some p => 
        rw [hd] at h2
        have : dstIllegal e p.1 p.2 = true := by
          have hq : accessDestFaults p.2 = true := h2
          unfold accessDestFaults at hq
          unfold dstIllegal; rw [if_pos h1]
          simp at hq
          rw [if_neg (by omega), if_neg hq.1.2]
          simp [hq.2]
        simp [this]
  rw [if_pos this]

end Sys2Proof.Laws
end

