-- ==== Sys2Proof/Laws/PerInstr.lean ====
section
/-! SUPPORT. What holds of each instruction as syntax: which constructors have a word. -/

namespace Sys2Proof.Laws.Encoding

open Sys2Proof

/-- Whether a row of the table is an event, which no word encodes. -/
def eventRow : Instr → Bool
  | .iadd _ _ _ => false
  | .isub _ _ _ => false
  | .iminS _ _ _ => false
  | .imaxS _ _ _ => false
  | .imul _ _ _ => false
  | .imulhS _ _ _ => false
  | .imulhU _ _ _ => false
  | .imad _ _ _ => false
  | .iminU _ _ _ => false
  | .imaxU _ _ _ => false
  | .iabsdU _ _ _ => false
  | .iavgU _ _ _ => false
  | .band _ _ _ => false
  | .bor _ _ _ => false
  | .bxor _ _ _ => false
  | .bandn _ _ _ => false
  | .shl _ _ _ => false
  | .shrU _ _ _ => false
  | .shrS _ _ _ => false
  | .shrrS _ _ _ => false
  | .rotl _ _ _ => false
  | .bfeU _ _ _ => false
  | .bfeS _ _ _ => false
  | .bfi _ _ _ => false
  | .prmb _ _ _ => false
  | .mulwU _ _ _ => false
  | .mulwS _ _ _ => false
  | .iadd64 _ _ _ => false
  | .mov _ _ => false
  | .bnot _ _ => false
  | .ineg _ _ => false
  | .iabs _ _ => false
  | .popc _ _ => false
  | .clz _ _ => false
  | .ctz _ _ => false
  | .brev _ _ => false
  | .sext8 _ _ => false
  | .sext16 _ _ => false
  | .zext8 _ _ => false
  | .zext16 _ _ => false
  | .bswap _ _ => false
  | .icmpEq _ _ _ => false
  | .icmpNe _ _ _ => false
  | .icmpLtS _ _ _ => false
  | .icmpLeS _ _ _ => false
  | .icmpLtU _ _ _ => false
  | .icmpLeU _ _ _ => false
  | .test _ _ _ => false
  | .testz _ _ _ => false
  | .sel _ _ _ _ => false
  | .dot2Sat _ _ _ => false
  | .dot2Wrap _ _ _ => false
  | .add2Sat _ _ _ => false
  | .sub2Sat _ _ _ => false
  | .mul2Lo _ _ _ => false
  | .max2S _ _ _ => false
  | .min2S _ _ _ => false
  | .pack2 _ _ _ => false
  | .dot4SSat _ _ _ => false
  | .dot4USat _ _ _ => false
  | .add4USat _ _ _ => false
  | .sub4USat _ _ _ => false
  | .shfl _ _ _ => false
  | .slidehDn _ _ _ => false
  | .slidehUp _ _ _ => false
  | .slidewDn _ _ _ => false
  | .ballot _ _ => false
  | .redadd _ _ => false
  | .redminS _ _ => false
  | .redmaxS _ _ => false
  | .fadd _ _ _ => false
  | .fsub _ _ _ => false
  | .fmul _ _ _ => false
  | .ffma _ _ _ => false
  | .fmin _ _ _ => false
  | .fmax _ _ _ => false
  | .fminn _ _ _ => false
  | .fmaxn _ _ _ => false
  | .fcmpEq _ _ _ => false
  | .fcmpLt _ _ _ => false
  | .fcmpLe _ _ _ => false
  | .fcmpUnord _ _ _ => false
  | .dadd _ _ _ => false
  | .dsub _ _ _ => false
  | .dmul _ _ _ => false
  | .dfma _ _ _ => false
  | .badd2 _ _ _ => false
  | .bmul2 _ _ _ => false
  | .bfma2 _ _ _ => false
  | .bmax2 _ _ _ => false
  | .hadd2 _ _ _ => false
  | .hmul2 _ _ _ => false
  | .hfma2 _ _ _ => false
  | .hmax2 _ _ _ => false
  | .fdot2Bf _ _ _ => false
  | .fdot2H _ _ _ => false
  | .fdot4E4 _ _ _ => false
  | .fdot4E5 _ _ _ => false
  | .frcp _ _ => false
  | .frsq _ _ => false
  | .fsqrt _ _ => false
  | .fexp2 _ _ => false
  | .flog2 _ _ => false
  | .fsinpi _ _ => false
  | .fcospi _ _ => false
  | .ftanh _ _ => false
  | .fabs _ _ => false
  | .fneg _ _ => false
  | .ffloor _ _ => false
  | .fceil _ _ => false
  | .ftrunc _ _ => false
  | .frint _ _ => false
  | .fclass _ _ => false
  | .dsqrt _ _ => false
  | .drcp _ _ => false
  | .f2iS _ _ => false
  | .f2iU _ _ => false
  | .i2fS _ _ => false
  | .i2fU _ _ => false
  | .f2d _ _ => false
  | .d2f _ _ => false
  | .f2bf _ _ => false
  | .bf2f _ _ => false
  | .f2h _ _ => false
  | .h2f _ _ => false
  | .f2e4 _ _ => false
  | .f2e5 _ _ => false
  | .e42f _ _ => false
  | .e52f _ _ => false
  | .f2e2 _ _ => false
  | .e22f _ _ => false
  | .i2dS _ _ => false
  | .i2dU _ _ => false
  | .packbf _ _ _ => false
  | .packh _ _ _ => false
  | .ins8E4 _ _ _ => false
  | .ins4E2 _ _ _ => false
  | .fscale _ _ _ => false
  | .fsignc _ _ _ => false
  | .isatS16 _ _ => false
  | .movi _ _ => false
  | .movhi _ _ => false
  | .addi _ _ => false
  | .muli _ _ => false
  | .mfsr _ _ => false
  | .mtsr _ _ => false
  | .ifP _ _ => false
  | .elseP => false
  | .endif => false
  | .ld _ _ _ _ _ => false
  | .ldBc _ _ _ _ _ => false
  | .pref _ _ _ => false
  | .st _ _ _ _ _ => false
  | .stNt _ _ _ _ _ => false
  | .aadd _ _ _ _ _ _ => false
  | .aand _ _ _ _ _ _ => false
  | .aor _ _ _ _ _ _ => false
  | .axor _ _ _ _ _ _ => false
  | .aminS _ _ _ _ _ _ => false
  | .amaxS _ _ _ _ _ _ => false
  | .aminU _ _ _ _ _ _ => false
  | .amaxU _ _ _ _ _ _ => false
  | .axchg _ _ _ _ _ _ => false
  | .acas _ _ _ _ _ _ => false
  | .afaddF32 _ _ _ _ _ => false
  | .afaddBf2 _ _ _ _ _ => false
  | .acpG2s _ _ _ _ _ => false
  | .acpS2g _ _ _ _ _ => false
  | .acpS2s _ _ _ _ _ => false
  | .ldx _ _ _ _ _ _ => false
  | .lddesc _ _ _ _ => false
  | .stdesc _ _ _ _ => false
  | .fence _ _ => false
  | .xfence _ _ => false
  | .waitaddr _ _ _ _ _ => false
  | .braAny _ _ _ => false
  | .braAll _ _ _ => false
  | .call _ => false
  | .jmp _ => false
  | .ret => false
  | .brx _ => false
  | .merge _ => false
  | .yield => false
  | .bar _ => false
  | .qbar _ => false
  | .arrive _ _ _ => false
  | .waitcnt _ _ _ _ => false
  | .sleepuntil _ => false
  | .sleepuntilBar _ _ => false
  | .region => false
  | .trapOp _ => false
  | .exit => false
  | .mxloop _ => false
  | .mxldb _ _ _ => false
  | .mxst _ _ => false
  | .mxldt _ _ => false
  | .scstart _ _ _ _ _ => false
  | .scpoll _ _ => false
  | .rflush _ => false
  | .sccancel _ => false
  | .eret _ => false
  | .rdsl _ _ => false
  | .wrsl _ _ => false
  | .foldctl _ _ => false
  | .hintImm _ => false
  | .hintGuard _ _ _ => false
  | .hintMod _ _ _ _ => false
  | .hintSched _ => false
  | .kmovi _ _ => false
  | .kmovhi _ _ => false
  | .kadd _ _ _ => false
  | .ksub _ _ _ => false
  | .kmul _ _ _ => false
  | .kshl _ _ _ => false
  | .kshr _ _ _ => false
  | .kand _ _ _ => false
  | .kor _ _ _ => false
  | .kaddi _ _ _ => false
  | .kcmp _ _ _ _ => false
  | .kld _ _ _ => false
  | .kst _ _ _ => false
  | .kbr _ => false
  | .kbrc _ _ => false
  | .kloop _ _ _ => false
  | .kendloop _ => false
  | .gset _ _ => false
  | .gstep _ _ _ => false
  | .gaddr _ _ => false
  | .line _ _ _ => false
  | .gather _ _ _ _ => false
  | .scatter _ _ _ _ => false
  | .reduce _ _ _ _ => false
  | .convert _ _ _ => false
  | .scribeArrive _ _ => false
  | .waitb _ _ => false
  | .sfence _ _ => false
  | .signal _ _ _ => false
  | .scribeRegion => false
  | .scribeEnd => false
  | .scribeProgramEnd _ _ => true
  | .scribeProgramStart _ => true
  | .lineOperation _ _ => true
  | .scribeLong => true
  | .waitbWake _ _ => true
  | .anvilGrant _ => true
  | .anvilPassCommit _ => true
  | .anvilRequestComplete _ => true
  | .loadFill _ => true
  | .storePerformed _ => true
  | .acpComplete _ => true
  | .waitaddrWake _ => true
  | .sleepuntilWake _ => true
  | .trapInvocation _ => true
  | .streamDeadlock _ => true
  | .barMismatch _ => true
  | .watchdog _ => true
  | .pageWalk _ => true
  | .pageRequest _ => true
  | .pageRequestTimeout _ => true
  | .registerRefill _ _ _ => true
  | .scratchPageReturn _ _ => true
  | .registerSwapOut _ => true
  | .registerSwapIn _ => true
  | .registerAgeing _ _ => true
  | .unitRemap _ => true
  | .residencyExpansion _ => true
  | .foldRequest _ _ => true
  | .teamPlacement _ => true
  | .quantumExpiry _ _ => true
  | .forcedEviction _ => true
  | .quireSave _ => true
  | .quireResume _ => true
  | .killAndReset _ => true
  | .nopPacket _ => true
  | .launchPacket _ => true
  | .waitPacket _ => true
  | .waitSatisfied _ => true
  | .writePacket _ => true
  | .contextRecordConfig _ => true
  | .vdevRecordConfig _ => true
  | .ringRecordConfig _ => true
  | .partitionRecordConfig _ => true
  | .destinationEntryConfig _ => true
  | .fabricRecordConfig _ => true
  | .msixEntriesConfig _ => true
  | .pageResponsePacket _ => true
  | .invalidatePacket _ => true
  | .invalidationComplete _ => true
  | .invalidPacket _ => true
  | .ringPacketRead _ _ => true
  | .packetCompletion _ => true
  | .coalescingTimeout _ _ => true
  | .doorbellTail _ _ _ => true
  | .prqcons _ _ => true
  | .evcons _ => true
  | .adminRingRecord _ => true
  | .registerWrite _ => true
  | .tokenRefill => true
  | .flitReceive _ _ => true
  | .ackReceive _ _ _ => true
  | .remoteResponse _ _ => true
  | .linkDown _ => true
  | .ackTimeout _ _ _ => true
  | .routeWaitTimeout _ _ _ => true
  | .powerOn _ => true
  | .coldStart _ => true
  | .warmStart _ => true
  | .unitReady _ => true
  | .retrain _ => true
  | .retrainingStart _ => true
  | .retrainingEnd _ => true
  | .marginResolve _ => true
  | .fetchRange => true
  | .illegalOp => true
  | .scribeIllegal => true
  | .uncorrectableError _ => true
  | .powerLoss _ => true
  | .linkUp _ => true
  | .powerLimit _ => true
  | .drainBoundExpiry _ => true

/-- An instruction has a word exactly when its row is no event. -/
def Statement (i : Instr) : Prop := (encode i).isNone = eventRow i

theorem iadd (x0 : Code) (x1 : Code) (x2 : Code) : Statement (.iadd x0 x1 x2) := rfl
theorem isub (x0 : Code) (x1 : Code) (x2 : Code) : Statement (.isub x0 x1 x2) := rfl
theorem iminS (x0 : Code) (x1 : Code) (x2 : Code) : Statement (.iminS x0 x1 x2) := rfl
theorem imaxS (x0 : Code) (x1 : Code) (x2 : Code) : Statement (.imaxS x0 x1 x2) := rfl
theorem imul (x0 : Code) (x1 : Code) (x2 : Code) : Statement (.imul x0 x1 x2) := rfl
theorem imulhS (x0 : Code) (x1 : Code) (x2 : Code) : Statement (.imulhS x0 x1 x2) := rfl
theorem imulhU (x0 : Code) (x1 : Code) (x2 : Code) : Statement (.imulhU x0 x1 x2) := rfl
theorem imad (x0 : Code) (x1 : Code) (x2 : Code) : Statement (.imad x0 x1 x2) := rfl
theorem iminU (x0 : Code) (x1 : Code) (x2 : Code) : Statement (.iminU x0 x1 x2) := rfl
theorem imaxU (x0 : Code) (x1 : Code) (x2 : Code) : Statement (.imaxU x0 x1 x2) := rfl
theorem iabsdU (x0 : Code) (x1 : Code) (x2 : Code) : Statement (.iabsdU x0 x1 x2) := rfl
theorem iavgU (x0 : Code) (x1 : Code) (x2 : Code) : Statement (.iavgU x0 x1 x2) := rfl
theorem band (x0 : Code) (x1 : Code) (x2 : Code) : Statement (.band x0 x1 x2) := rfl
theorem bor (x0 : Code) (x1 : Code) (x2 : Code) : Statement (.bor x0 x1 x2) := rfl
theorem bxor (x0 : Code) (x1 : Code) (x2 : Code) : Statement (.bxor x0 x1 x2) := rfl
theorem bandn (x0 : Code) (x1 : Code) (x2 : Code) : Statement (.bandn x0 x1 x2) := rfl
theorem shl (x0 : Code) (x1 : Code) (x2 : Code) : Statement (.shl x0 x1 x2) := rfl
theorem shrU (x0 : Code) (x1 : Code) (x2 : Code) : Statement (.shrU x0 x1 x2) := rfl
theorem shrS (x0 : Code) (x1 : Code) (x2 : Code) : Statement (.shrS x0 x1 x2) := rfl
theorem shrrS (x0 : Code) (x1 : Code) (x2 : Code) : Statement (.shrrS x0 x1 x2) := rfl
theorem rotl (x0 : Code) (x1 : Code) (x2 : Code) : Statement (.rotl x0 x1 x2) := rfl
theorem bfeU (x0 : Code) (x1 : Code) (x2 : Code) : Statement (.bfeU x0 x1 x2) := rfl
theorem bfeS (x0 : Code) (x1 : Code) (x2 : Code) : Statement (.bfeS x0 x1 x2) := rfl
theorem bfi (x0 : Code) (x1 : Code) (x2 : Code) : Statement (.bfi x0 x1 x2) := rfl
theorem prmb (x0 : Code) (x1 : Code) (x2 : Code) : Statement (.prmb x0 x1 x2) := rfl
theorem mulwU (x0 : Code) (x1 : Code) (x2 : Code) : Statement (.mulwU x0 x1 x2) := rfl
theorem mulwS (x0 : Code) (x1 : Code) (x2 : Code) : Statement (.mulwS x0 x1 x2) := rfl
theorem iadd64 (x0 : Code) (x1 : Code) (x2 : Code) : Statement (.iadd64 x0 x1 x2) := rfl
theorem mov (x0 : Code) (x1 : Code) : Statement (.mov x0 x1) := rfl
theorem bnot (x0 : Code) (x1 : Code) : Statement (.bnot x0 x1) := rfl
theorem ineg (x0 : Code) (x1 : Code) : Statement (.ineg x0 x1) := rfl
theorem iabs (x0 : Code) (x1 : Code) : Statement (.iabs x0 x1) := rfl
theorem popc (x0 : Code) (x1 : Code) : Statement (.popc x0 x1) := rfl
theorem clz (x0 : Code) (x1 : Code) : Statement (.clz x0 x1) := rfl
theorem ctz (x0 : Code) (x1 : Code) : Statement (.ctz x0 x1) := rfl
theorem brev (x0 : Code) (x1 : Code) : Statement (.brev x0 x1) := rfl
theorem sext8 (x0 : Code) (x1 : Code) : Statement (.sext8 x0 x1) := rfl
theorem sext16 (x0 : Code) (x1 : Code) : Statement (.sext16 x0 x1) := rfl
theorem zext8 (x0 : Code) (x1 : Code) : Statement (.zext8 x0 x1) := rfl
theorem zext16 (x0 : Code) (x1 : Code) : Statement (.zext16 x0 x1) := rfl
theorem bswap (x0 : Code) (x1 : Code) : Statement (.bswap x0 x1) := rfl
theorem icmpEq (x0 : Code) (x1 : Code) (x2 : Code) : Statement (.icmpEq x0 x1 x2) := rfl
theorem icmpNe (x0 : Code) (x1 : Code) (x2 : Code) : Statement (.icmpNe x0 x1 x2) := rfl
theorem icmpLtS (x0 : Code) (x1 : Code) (x2 : Code) : Statement (.icmpLtS x0 x1 x2) := rfl
theorem icmpLeS (x0 : Code) (x1 : Code) (x2 : Code) : Statement (.icmpLeS x0 x1 x2) := rfl
theorem icmpLtU (x0 : Code) (x1 : Code) (x2 : Code) : Statement (.icmpLtU x0 x1 x2) := rfl
theorem icmpLeU (x0 : Code) (x1 : Code) (x2 : Code) : Statement (.icmpLeU x0 x1 x2) := rfl
theorem test (x0 : Code) (x1 : Code) (x2 : Code) : Statement (.test x0 x1 x2) := rfl
theorem testz (x0 : Code) (x1 : Code) (x2 : Code) : Statement (.testz x0 x1 x2) := rfl
theorem sel (x0 : BitVec 2) (x1 : Code) (x2 : Code) (x3 : Code) : Statement (.sel x0 x1 x2 x3) := rfl
theorem dot2Sat (x0 : Code) (x1 : Code) (x2 : Code) : Statement (.dot2Sat x0 x1 x2) := rfl
theorem dot2Wrap (x0 : Code) (x1 : Code) (x2 : Code) : Statement (.dot2Wrap x0 x1 x2) := rfl
theorem add2Sat (x0 : Code) (x1 : Code) (x2 : Code) : Statement (.add2Sat x0 x1 x2) := rfl
theorem sub2Sat (x0 : Code) (x1 : Code) (x2 : Code) : Statement (.sub2Sat x0 x1 x2) := rfl
theorem mul2Lo (x0 : Code) (x1 : Code) (x2 : Code) : Statement (.mul2Lo x0 x1 x2) := rfl
theorem max2S (x0 : Code) (x1 : Code) (x2 : Code) : Statement (.max2S x0 x1 x2) := rfl
theorem min2S (x0 : Code) (x1 : Code) (x2 : Code) : Statement (.min2S x0 x1 x2) := rfl
theorem pack2 (x0 : Code) (x1 : Code) (x2 : Code) : Statement (.pack2 x0 x1 x2) := rfl
theorem dot4SSat (x0 : Code) (x1 : Code) (x2 : Code) : Statement (.dot4SSat x0 x1 x2) := rfl
theorem dot4USat (x0 : Code) (x1 : Code) (x2 : Code) : Statement (.dot4USat x0 x1 x2) := rfl
theorem add4USat (x0 : Code) (x1 : Code) (x2 : Code) : Statement (.add4USat x0 x1 x2) := rfl
theorem sub4USat (x0 : Code) (x1 : Code) (x2 : Code) : Statement (.sub4USat x0 x1 x2) := rfl
theorem shfl (x0 : Code) (x1 : Code) (x2 : Code) : Statement (.shfl x0 x1 x2) := rfl
theorem slidehDn (x0 : Code) (x1 : Code) (x2 : Code) : Statement (.slidehDn x0 x1 x2) := rfl
theorem slidehUp (x0 : Code) (x1 : Code) (x2 : Code) : Statement (.slidehUp x0 x1 x2) := rfl
theorem slidewDn (x0 : Code) (x1 : Code) (x2 : Code) : Statement (.slidewDn x0 x1 x2) := rfl
theorem ballot (x0 : Code) (x1 : Code) : Statement (.ballot x0 x1) := rfl
theorem redadd (x0 : Code) (x1 : Code) : Statement (.redadd x0 x1) := rfl
theorem redminS (x0 : Code) (x1 : Code) : Statement (.redminS x0 x1) := rfl
theorem redmaxS (x0 : Code) (x1 : Code) : Statement (.redmaxS x0 x1) := rfl
theorem fadd (x0 : Code) (x1 : Code) (x2 : Code) : Statement (.fadd x0 x1 x2) := rfl
theorem fsub (x0 : Code) (x1 : Code) (x2 : Code) : Statement (.fsub x0 x1 x2) := rfl
theorem fmul (x0 : Code) (x1 : Code) (x2 : Code) : Statement (.fmul x0 x1 x2) := rfl
theorem ffma (x0 : Code) (x1 : Code) (x2 : Code) : Statement (.ffma x0 x1 x2) := rfl
theorem fmin (x0 : Code) (x1 : Code) (x2 : Code) : Statement (.fmin x0 x1 x2) := rfl
theorem fmax (x0 : Code) (x1 : Code) (x2 : Code) : Statement (.fmax x0 x1 x2) := rfl
theorem fminn (x0 : Code) (x1 : Code) (x2 : Code) : Statement (.fminn x0 x1 x2) := rfl
theorem fmaxn (x0 : Code) (x1 : Code) (x2 : Code) : Statement (.fmaxn x0 x1 x2) := rfl
theorem fcmpEq (x0 : Code) (x1 : Code) (x2 : Code) : Statement (.fcmpEq x0 x1 x2) := rfl
theorem fcmpLt (x0 : Code) (x1 : Code) (x2 : Code) : Statement (.fcmpLt x0 x1 x2) := rfl
theorem fcmpLe (x0 : Code) (x1 : Code) (x2 : Code) : Statement (.fcmpLe x0 x1 x2) := rfl
theorem fcmpUnord (x0 : Code) (x1 : Code) (x2 : Code) : Statement (.fcmpUnord x0 x1 x2) := rfl
theorem dadd (x0 : Code) (x1 : Code) (x2 : Code) : Statement (.dadd x0 x1 x2) := rfl
theorem dsub (x0 : Code) (x1 : Code) (x2 : Code) : Statement (.dsub x0 x1 x2) := rfl
theorem dmul (x0 : Code) (x1 : Code) (x2 : Code) : Statement (.dmul x0 x1 x2) := rfl
theorem dfma (x0 : Code) (x1 : Code) (x2 : Code) : Statement (.dfma x0 x1 x2) := rfl
theorem badd2 (x0 : Code) (x1 : Code) (x2 : Code) : Statement (.badd2 x0 x1 x2) := rfl
theorem bmul2 (x0 : Code) (x1 : Code) (x2 : Code) : Statement (.bmul2 x0 x1 x2) := rfl
theorem bfma2 (x0 : Code) (x1 : Code) (x2 : Code) : Statement (.bfma2 x0 x1 x2) := rfl
theorem bmax2 (x0 : Code) (x1 : Code) (x2 : Code) : Statement (.bmax2 x0 x1 x2) := rfl
theorem hadd2 (x0 : Code) (x1 : Code) (x2 : Code) : Statement (.hadd2 x0 x1 x2) := rfl
theorem hmul2 (x0 : Code) (x1 : Code) (x2 : Code) : Statement (.hmul2 x0 x1 x2) := rfl
theorem hfma2 (x0 : Code) (x1 : Code) (x2 : Code) : Statement (.hfma2 x0 x1 x2) := rfl
theorem hmax2 (x0 : Code) (x1 : Code) (x2 : Code) : Statement (.hmax2 x0 x1 x2) := rfl
theorem fdot2Bf (x0 : Code) (x1 : Code) (x2 : Code) : Statement (.fdot2Bf x0 x1 x2) := rfl
theorem fdot2H (x0 : Code) (x1 : Code) (x2 : Code) : Statement (.fdot2H x0 x1 x2) := rfl
theorem fdot4E4 (x0 : Code) (x1 : Code) (x2 : Code) : Statement (.fdot4E4 x0 x1 x2) := rfl
theorem fdot4E5 (x0 : Code) (x1 : Code) (x2 : Code) : Statement (.fdot4E5 x0 x1 x2) := rfl
theorem frcp (x0 : Code) (x1 : Code) : Statement (.frcp x0 x1) := rfl
theorem frsq (x0 : Code) (x1 : Code) : Statement (.frsq x0 x1) := rfl
theorem fsqrt (x0 : Code) (x1 : Code) : Statement (.fsqrt x0 x1) := rfl
theorem fexp2 (x0 : Code) (x1 : Code) : Statement (.fexp2 x0 x1) := rfl
theorem flog2 (x0 : Code) (x1 : Code) : Statement (.flog2 x0 x1) := rfl
theorem fsinpi (x0 : Code) (x1 : Code) : Statement (.fsinpi x0 x1) := rfl
theorem fcospi (x0 : Code) (x1 : Code) : Statement (.fcospi x0 x1) := rfl
theorem ftanh (x0 : Code) (x1 : Code) : Statement (.ftanh x0 x1) := rfl
theorem fabs (x0 : Code) (x1 : Code) : Statement (.fabs x0 x1) := rfl
theorem fneg (x0 : Code) (x1 : Code) : Statement (.fneg x0 x1) := rfl
theorem ffloor (x0 : Code) (x1 : Code) : Statement (.ffloor x0 x1) := rfl
theorem fceil (x0 : Code) (x1 : Code) : Statement (.fceil x0 x1) := rfl
theorem ftrunc (x0 : Code) (x1 : Code) : Statement (.ftrunc x0 x1) := rfl
theorem frint (x0 : Code) (x1 : Code) : Statement (.frint x0 x1) := rfl
theorem fclass (x0 : Code) (x1 : Code) : Statement (.fclass x0 x1) := rfl
theorem dsqrt (x0 : Code) (x1 : Code) : Statement (.dsqrt x0 x1) := rfl
theorem drcp (x0 : Code) (x1 : Code) : Statement (.drcp x0 x1) := rfl
theorem f2iS (x0 : Code) (x1 : Code) : Statement (.f2iS x0 x1) := rfl
theorem f2iU (x0 : Code) (x1 : Code) : Statement (.f2iU x0 x1) := rfl
theorem i2fS (x0 : Code) (x1 : Code) : Statement (.i2fS x0 x1) := rfl
theorem i2fU (x0 : Code) (x1 : Code) : Statement (.i2fU x0 x1) := rfl
theorem f2d (x0 : Code) (x1 : Code) : Statement (.f2d x0 x1) := rfl
theorem d2f (x0 : Code) (x1 : Code) : Statement (.d2f x0 x1) := rfl
theorem f2bf (x0 : Code) (x1 : Code) : Statement (.f2bf x0 x1) := rfl
theorem bf2f (x0 : Code) (x1 : Code) : Statement (.bf2f x0 x1) := rfl
theorem f2h (x0 : Code) (x1 : Code) : Statement (.f2h x0 x1) := rfl
theorem h2f (x0 : Code) (x1 : Code) : Statement (.h2f x0 x1) := rfl
theorem f2e4 (x0 : Code) (x1 : Code) : Statement (.f2e4 x0 x1) := rfl
theorem f2e5 (x0 : Code) (x1 : Code) : Statement (.f2e5 x0 x1) := rfl
theorem e42f (x0 : Code) (x1 : Code) : Statement (.e42f x0 x1) := rfl
theorem e52f (x0 : Code) (x1 : Code) : Statement (.e52f x0 x1) := rfl
theorem f2e2 (x0 : Code) (x1 : Code) : Statement (.f2e2 x0 x1) := rfl
theorem e22f (x0 : Code) (x1 : Code) : Statement (.e22f x0 x1) := rfl
theorem i2dS (x0 : Code) (x1 : Code) : Statement (.i2dS x0 x1) := rfl
theorem i2dU (x0 : Code) (x1 : Code) : Statement (.i2dU x0 x1) := rfl
theorem packbf (x0 : Code) (x1 : Code) (x2 : Code) : Statement (.packbf x0 x1 x2) := rfl
theorem packh (x0 : Code) (x1 : Code) (x2 : Code) : Statement (.packh x0 x1 x2) := rfl
theorem ins8E4 (x0 : Code) (x1 : Code) (x2 : Code) : Statement (.ins8E4 x0 x1 x2) := rfl
theorem ins4E2 (x0 : Code) (x1 : Code) (x2 : Code) : Statement (.ins4E2 x0 x1 x2) := rfl
theorem fscale (x0 : Code) (x1 : Code) (x2 : Code) : Statement (.fscale x0 x1 x2) := rfl
theorem fsignc (x0 : Code) (x1 : Code) (x2 : Code) : Statement (.fsignc x0 x1 x2) := rfl
theorem isatS16 (x0 : Code) (x1 : Code) : Statement (.isatS16 x0 x1) := rfl
theorem movi (x0 : Code) (x1 : BitVec 16) : Statement (.movi x0 x1) := rfl
theorem movhi (x0 : Code) (x1 : BitVec 16) : Statement (.movhi x0 x1) := rfl
theorem addi (x0 : Code) (x1 : BitVec 16) : Statement (.addi x0 x1) := rfl
theorem muli (x0 : Code) (x1 : BitVec 16) : Statement (.muli x0 x1) := rfl
theorem mfsr (x0 : Code) (x1 : BitVec 16) : Statement (.mfsr x0 x1) := rfl
theorem mtsr (x0 : Code) (x1 : BitVec 16) : Statement (.mtsr x0 x1) := rfl
theorem ifP (x0 : BitVec 3) (x1 : Bool) : Statement (.ifP x0 x1) := rfl
theorem elseP : Statement (.elseP) := rfl
theorem endif : Statement (.endif) := rfl
theorem ld (x0 : Code) (x1 : AReg) (x2 : Scope) (x3 : Order) (x4 : Width) : Statement (.ld x0 x1 x2 x3 x4) := rfl
theorem ldBc (x0 : Code) (x1 : AReg) (x2 : Scope) (x3 : Order) (x4 : Width) : Statement (.ldBc x0 x1 x2 x3 x4) := rfl
theorem pref (x0 : AReg) (x1 : Scope) (x2 : Width) : Statement (.pref x0 x1 x2) := rfl
theorem st (x0 : Code) (x1 : AReg) (x2 : Scope) (x3 : Order) (x4 : Width) : Statement (.st x0 x1 x2 x3 x4) := rfl
theorem stNt (x0 : Code) (x1 : AReg) (x2 : Scope) (x3 : Order) (x4 : Width) : Statement (.stNt x0 x1 x2 x3 x4) := rfl
theorem aadd (x0 : Code) (x1 : AReg) (x2 : Scope) (x3 : Order) (x4 : Width) (x5 : Bool) : Statement (.aadd x0 x1 x2 x3 x4 x5) := rfl
theorem aand (x0 : Code) (x1 : AReg) (x2 : Scope) (x3 : Order) (x4 : Width) (x5 : Bool) : Statement (.aand x0 x1 x2 x3 x4 x5) := rfl
theorem aor (x0 : Code) (x1 : AReg) (x2 : Scope) (x3 : Order) (x4 : Width) (x5 : Bool) : Statement (.aor x0 x1 x2 x3 x4 x5) := rfl
theorem axor (x0 : Code) (x1 : AReg) (x2 : Scope) (x3 : Order) (x4 : Width) (x5 : Bool) : Statement (.axor x0 x1 x2 x3 x4 x5) := rfl
theorem aminS (x0 : Code) (x1 : AReg) (x2 : Scope) (x3 : Order) (x4 : Width) (x5 : Bool) : Statement (.aminS x0 x1 x2 x3 x4 x5) := rfl
theorem amaxS (x0 : Code) (x1 : AReg) (x2 : Scope) (x3 : Order) (x4 : Width) (x5 : Bool) : Statement (.amaxS x0 x1 x2 x3 x4 x5) := rfl
theorem aminU (x0 : Code) (x1 : AReg) (x2 : Scope) (x3 : Order) (x4 : Width) (x5 : Bool) : Statement (.aminU x0 x1 x2 x3 x4 x5) := rfl
theorem amaxU (x0 : Code) (x1 : AReg) (x2 : Scope) (x3 : Order) (x4 : Width) (x5 : Bool) : Statement (.amaxU x0 x1 x2 x3 x4 x5) := rfl
theorem axchg (x0 : Code) (x1 : AReg) (x2 : Scope) (x3 : Order) (x4 : Width) (x5 : Bool) : Statement (.axchg x0 x1 x2 x3 x4 x5) := rfl
theorem acas (x0 : Code) (x1 : AReg) (x2 : Scope) (x3 : Order) (x4 : Width) (x5 : Bool) : Statement (.acas x0 x1 x2 x3 x4 x5) := rfl
theorem afaddF32 (x0 : Code) (x1 : AReg) (x2 : Scope) (x3 : Order) (x4 : Bool) : Statement (.afaddF32 x0 x1 x2 x3 x4) := rfl
theorem afaddBf2 (x0 : Code) (x1 : AReg) (x2 : Scope) (x3 : Order) (x4 : Bool) : Statement (.afaddBf2 x0 x1 x2 x3 x4) := rfl
theorem acpG2s (x0 : AReg) (x1 : AReg) (x2 : AReg) (x3 : CopySize) (x4 : Bool) : Statement (.acpG2s x0 x1 x2 x3 x4) := rfl
theorem acpS2g (x0 : AReg) (x1 : AReg) (x2 : AReg) (x3 : CopySize) (x4 : Bool) : Statement (.acpS2g x0 x1 x2 x3 x4) := rfl
theorem acpS2s (x0 : AReg) (x1 : AReg) (x2 : AReg) (x3 : CopySize) (x4 : Bool) : Statement (.acpS2s x0 x1 x2 x3 x4) := rfl
theorem ldx (x0 : Code) (x1 : AReg) (x2 : Scope) (x3 : Order) (x4 : Width) (x5 : BitVec 2) : Statement (.ldx x0 x1 x2 x3 x4 x5) := rfl
theorem lddesc (x0 : Code) (x1 : AReg) (x2 : Scope) (x3 : Order) : Statement (.lddesc x0 x1 x2 x3) := rfl
theorem stdesc (x0 : Code) (x1 : AReg) (x2 : Scope) (x3 : Order) : Statement (.stdesc x0 x1 x2 x3) := rfl
theorem fence (x0 : Scope) (x1 : Order) : Statement (.fence x0 x1) := rfl
theorem xfence (x0 : BitVec 6) (x1 : BitVec 6) : Statement (.xfence x0 x1) := rfl
theorem waitaddr (x0 : Code) (x1 : AReg) (x2 : Scope) (x3 : Order) (x4 : Width) : Statement (.waitaddr x0 x1 x2 x3 x4) := rfl
theorem braAny (x0 : BitVec 3) (x1 : Bool) (x2 : BitVec 20) : Statement (.braAny x0 x1 x2) := rfl
theorem braAll (x0 : BitVec 3) (x1 : Bool) (x2 : BitVec 20) : Statement (.braAll x0 x1 x2) := rfl
theorem call (x0 : BitVec 20) : Statement (.call x0) := rfl
theorem jmp (x0 : BitVec 20) : Statement (.jmp x0) := rfl
theorem ret : Statement (.ret) := rfl
theorem brx (x0 : Code) : Statement (.brx x0) := rfl
theorem merge (x0 : BitVec 16) : Statement (.merge x0) := rfl
theorem yield : Statement (.yield) := rfl
theorem bar (x0 : BitVec 5) : Statement (.bar x0) := rfl
theorem qbar (x0 : BitVec 5) : Statement (.qbar x0) := rfl
theorem arrive (x0 : Code) (x1 : Code) (x2 : Scope) : Statement (.arrive x0 x1 x2) := rfl
theorem waitcnt (x0 : BitVec 6) (x1 : BitVec 6) (x2 : BitVec 6) (x3 : BitVec 6) : Statement (.waitcnt x0 x1 x2 x3) := rfl
theorem sleepuntil (x0 : AReg) : Statement (.sleepuntil x0) := rfl
theorem sleepuntilBar (x0 : AReg) (x1 : AReg) : Statement (.sleepuntilBar x0 x1) := rfl
theorem region : Statement (.region) := rfl
theorem trapOp (x0 : BitVec 16) : Statement (.trapOp x0) := rfl
theorem exit : Statement (.exit) := rfl
theorem mxloop (x0 : AReg) : Statement (.mxloop x0) := rfl
theorem mxldb (x0 : AReg) (x1 : AReg) (x2 : AReg) : Statement (.mxldb x0 x1 x2) := rfl
theorem mxst (x0 : BitVec 3) (x1 : AReg) : Statement (.mxst x0 x1) := rfl
theorem mxldt (x0 : BitVec 3) (x1 : AReg) : Statement (.mxldt x0 x1) := rfl
theorem scstart (x0 : AReg) (x1 : AReg) (x2 : AReg) (x3 : ScribeSel) (x4 : Bool) : Statement (.scstart x0 x1 x2 x3 x4) := rfl
theorem scpoll (x0 : AReg) (x1 : AReg) : Statement (.scpoll x0 x1) := rfl
theorem rflush (x0 : AReg) : Statement (.rflush x0) := rfl
theorem sccancel (x0 : AReg) : Statement (.sccancel x0) := rfl
theorem eret (x0 : AReg) : Statement (.eret x0) := rfl
theorem rdsl (x0 : AReg) (x1 : AReg) : Statement (.rdsl x0 x1) := rfl
theorem wrsl (x0 : AReg) (x1 : AReg) : Statement (.wrsl x0 x1) := rfl
theorem foldctl (x0 : AReg) (x1 : AReg) : Statement (.foldctl x0 x1) := rfl
theorem hintImm (x0 : BitVec 24) : Statement (.hintImm x0) := rfl
theorem hintGuard (x0 : BitVec 3) (x1 : Bool) (x2 : BitVec 4) : Statement (.hintGuard x0 x1 x2) := rfl
theorem hintMod (x0 : BitVec 3) (x1 : Bool) (x2 : Bool) (x3 : Bool) : Statement (.hintMod x0 x1 x2 x3) := rfl
theorem hintSched (x0 : BitVec 24) : Statement (.hintSched x0) := rfl
theorem kmovi (x0 : KReg) (x1 : BitVec 14) : Statement (.kmovi x0 x1) := rfl
theorem kmovhi (x0 : KReg) (x1 : BitVec 14) : Statement (.kmovhi x0 x1) := rfl
theorem kadd (x0 : KReg) (x1 : KReg) (x2 : KReg) : Statement (.kadd x0 x1 x2) := rfl
theorem ksub (x0 : KReg) (x1 : KReg) (x2 : KReg) : Statement (.ksub x0 x1 x2) := rfl
theorem kmul (x0 : KReg) (x1 : KReg) (x2 : KReg) : Statement (.kmul x0 x1 x2) := rfl
theorem kshl (x0 : KReg) (x1 : KReg) (x2 : KReg) : Statement (.kshl x0 x1 x2) := rfl
theorem kshr (x0 : KReg) (x1 : KReg) (x2 : KReg) : Statement (.kshr x0 x1 x2) := rfl
theorem kand (x0 : KReg) (x1 : KReg) (x2 : KReg) : Statement (.kand x0 x1 x2) := rfl
theorem kor (x0 : KReg) (x1 : KReg) (x2 : KReg) : Statement (.kor x0 x1 x2) := rfl
theorem kaddi (x0 : KReg) (x1 : KReg) (x2 : BitVec 14) : Statement (.kaddi x0 x1 x2) := rfl
theorem kcmp (x0 : KReg) (x1 : KReg) (x2 : KReg) (x3 : KCond) : Statement (.kcmp x0 x1 x2 x3) := rfl
theorem kld (x0 : KReg) (x1 : KReg) (x2 : BitVec 14) : Statement (.kld x0 x1 x2) := rfl
theorem kst (x0 : KReg) (x1 : KReg) (x2 : BitVec 14) : Statement (.kst x0 x1 x2) := rfl
theorem kbr (x0 : BitVec 26) : Statement (.kbr x0) := rfl
theorem kbrc (x0 : KReg) (x1 : BitVec 22) : Statement (.kbrc x0 x1) := rfl
theorem kloop (x0 : KReg) (x1 : KReg) (x2 : BitVec 14) : Statement (.kloop x0 x1 x2) := rfl
theorem kendloop (x0 : KReg) : Statement (.kendloop x0) := rfl
theorem gset (x0 : KReg) (x1 : KReg) : Statement (.gset x0 x1) := rfl
theorem gstep (x0 : KReg) (x1 : KReg) (x2 : BitVec 3) : Statement (.gstep x0 x1 x2) := rfl
theorem gaddr (x0 : KReg) (x1 : KReg) : Statement (.gaddr x0 x1) := rfl
theorem line (x0 : KReg) (x1 : KReg) (x2 : BitVec 14) : Statement (.line x0 x1 x2) := rfl
theorem gather (x0 : KReg) (x1 : KReg) (x2 : KReg) (x3 : BitVec 14) : Statement (.gather x0 x1 x2 x3) := rfl
theorem scatter (x0 : KReg) (x1 : KReg) (x2 : KReg) (x3 : BitVec 14) : Statement (.scatter x0 x1 x2 x3) := rfl
theorem reduce (x0 : KReg) (x1 : KReg) (x2 : ReduceOp) (x3 : BitVec 11) : Statement (.reduce x0 x1 x2 x3) := rfl
theorem convert (x0 : KReg) (x1 : KReg) (x2 : BitVec 8) : Statement (.convert x0 x1 x2) := rfl
theorem scribeArrive (x0 : KReg) (x1 : KReg) : Statement (.scribeArrive x0 x1) := rfl
theorem waitb (x0 : KReg) (x1 : KReg) : Statement (.waitb x0 x1) := rfl
theorem sfence (x0 : BitVec 6) (x1 : BitVec 6) : Statement (.sfence x0 x1) := rfl
theorem signal (x0 : KReg) (x1 : KReg) (x2 : Scope) : Statement (.signal x0 x1 x2) := rfl
theorem scribeRegion : Statement (.scribeRegion) := rfl
theorem scribeEnd : Statement (.scribeEnd) := rfl
theorem scribeProgramEnd (x0 : Nat) (x1 : Nat) : Statement (.scribeProgramEnd x0 x1) := rfl
theorem scribeProgramStart (x0 : Nat) : Statement (.scribeProgramStart x0) := rfl
theorem lineOperation (x0 : Nat) (x1 : Nat) : Statement (.lineOperation x0 x1) := rfl
theorem scribeLong : Statement (.scribeLong) := rfl
theorem waitbWake (x0 : Nat) (x1 : Nat) : Statement (.waitbWake x0 x1) := rfl
theorem anvilGrant (x0 : Nat) : Statement (.anvilGrant x0) := rfl
theorem anvilPassCommit (x0 : Nat) : Statement (.anvilPassCommit x0) := rfl
theorem anvilRequestComplete (x0 : Nat) : Statement (.anvilRequestComplete x0) := rfl
theorem loadFill (x0 : Nat) : Statement (.loadFill x0) := rfl
theorem storePerformed (x0 : Nat) : Statement (.storePerformed x0) := rfl
theorem acpComplete (x0 : Nat) : Statement (.acpComplete x0) := rfl
theorem waitaddrWake (x0 : Nat) : Statement (.waitaddrWake x0) := rfl
theorem sleepuntilWake (x0 : Nat) : Statement (.sleepuntilWake x0) := rfl
theorem trapInvocation (x0 : Nat) : Statement (.trapInvocation x0) := rfl
theorem streamDeadlock (x0 : Nat) : Statement (.streamDeadlock x0) := rfl
theorem barMismatch (x0 : Nat) : Statement (.barMismatch x0) := rfl
theorem watchdog (x0 : Nat) : Statement (.watchdog x0) := rfl
theorem pageWalk (x0 : Nat) : Statement (.pageWalk x0) := rfl
theorem pageRequest (x0 : Nat) : Statement (.pageRequest x0) := rfl
theorem pageRequestTimeout (x0 : Nat) : Statement (.pageRequestTimeout x0) := rfl
theorem registerRefill (x0 : Nat) (x1 : Bool) (x2 : Nat) : Statement (.registerRefill x0 x1 x2) := rfl
theorem scratchPageReturn (x0 : Nat) (x1 : Nat) : Statement (.scratchPageReturn x0 x1) := rfl
theorem registerSwapOut (x0 : Nat) : Statement (.registerSwapOut x0) := rfl
theorem registerSwapIn (x0 : Nat) : Statement (.registerSwapIn x0) := rfl
theorem registerAgeing (x0 : Nat) (x1 : Bool) : Statement (.registerAgeing x0 x1) := rfl
theorem unitRemap (x0 : Nat) : Statement (.unitRemap x0) := rfl
theorem residencyExpansion (x0 : Nat) : Statement (.residencyExpansion x0) := rfl
theorem foldRequest (x0 : Nat) (x1 : BitVec 64) : Statement (.foldRequest x0 x1) := rfl
theorem teamPlacement (x0 : Nat) : Statement (.teamPlacement x0) := rfl
theorem quantumExpiry (x0 : Nat) (x1 : Nat) : Statement (.quantumExpiry x0 x1) := rfl
theorem forcedEviction (x0 : Nat) : Statement (.forcedEviction x0) := rfl
theorem quireSave (x0 : Nat) : Statement (.quireSave x0) := rfl
theorem quireResume (x0 : Nat) : Statement (.quireResume x0) := rfl
theorem killAndReset (x0 : Nat) : Statement (.killAndReset x0) := rfl
theorem nopPacket (x0 : Nat) : Statement (.nopPacket x0) := rfl
theorem launchPacket (x0 : Nat) : Statement (.launchPacket x0) := rfl
theorem waitPacket (x0 : Nat) : Statement (.waitPacket x0) := rfl
theorem waitSatisfied (x0 : Nat) : Statement (.waitSatisfied x0) := rfl
theorem writePacket (x0 : Nat) : Statement (.writePacket x0) := rfl
theorem contextRecordConfig (x0 : Nat) : Statement (.contextRecordConfig x0) := rfl
theorem vdevRecordConfig (x0 : Nat) : Statement (.vdevRecordConfig x0) := rfl
theorem ringRecordConfig (x0 : Nat) : Statement (.ringRecordConfig x0) := rfl
theorem partitionRecordConfig (x0 : Nat) : Statement (.partitionRecordConfig x0) := rfl
theorem destinationEntryConfig (x0 : Nat) : Statement (.destinationEntryConfig x0) := rfl
theorem fabricRecordConfig (x0 : Nat) : Statement (.fabricRecordConfig x0) := rfl
theorem msixEntriesConfig (x0 : Nat) : Statement (.msixEntriesConfig x0) := rfl
theorem pageResponsePacket (x0 : Nat) : Statement (.pageResponsePacket x0) := rfl
theorem invalidatePacket (x0 : Nat) : Statement (.invalidatePacket x0) := rfl
theorem invalidationComplete (x0 : Nat) : Statement (.invalidationComplete x0) := rfl
theorem invalidPacket (x0 : Nat) : Statement (.invalidPacket x0) := rfl
theorem ringPacketRead (x0 : Nat) (x1 : Nat) : Statement (.ringPacketRead x0 x1) := rfl
theorem packetCompletion (x0 : Nat) : Statement (.packetCompletion x0) := rfl
theorem coalescingTimeout (x0 : Nat) (x1 : Nat) : Statement (.coalescingTimeout x0 x1) := rfl
theorem doorbellTail (x0 : Nat) (x1 : Nat) (x2 : BitVec 32) : Statement (.doorbellTail x0 x1 x2) := rfl
theorem prqcons (x0 : Nat) (x1 : BitVec 32) : Statement (.prqcons x0 x1) := rfl
theorem evcons (x0 : BitVec 32) : Statement (.evcons x0) := rfl
theorem adminRingRecord (x0 : BitVec 512) : Statement (.adminRingRecord x0) := rfl
theorem registerWrite (x0 : WindowWrite) : Statement (.registerWrite x0) := rfl
theorem tokenRefill : Statement (.tokenRefill) := rfl
theorem flitReceive (x0 : Nat) (x1 : Flit) : Statement (.flitReceive x0 x1) := rfl
theorem ackReceive (x0 : Nat) (x1 : Nat) (x2 : BitVec 16) : Statement (.ackReceive x0 x1 x2) := rfl
theorem remoteResponse (x0 : Nat) (x1 : RemoteReply) : Statement (.remoteResponse x0 x1) := rfl
theorem linkDown (x0 : Nat) : Statement (.linkDown x0) := rfl
theorem ackTimeout (x0 : Nat) (x1 : Nat) (x2 : Nat) : Statement (.ackTimeout x0 x1 x2) := rfl
theorem routeWaitTimeout (x0 : Nat) (x1 : Nat) (x2 : Nat) : Statement (.routeWaitTimeout x0 x1 x2) := rfl
theorem powerOn (x0 : List (Nat × BitVec 3)) : Statement (.powerOn x0) := rfl
theorem coldStart (x0 : List (Nat × BitVec 3)) : Statement (.coldStart x0) := rfl
theorem warmStart (x0 : List (Nat × BitVec 3)) : Statement (.warmStart x0) := rfl
theorem unitReady (x0 : Nat) : Statement (.unitReady x0) := rfl
theorem retrain (x0 : BitVec 32) : Statement (.retrain x0) := rfl
theorem retrainingStart (x0 : Nat) : Statement (.retrainingStart x0) := rfl
theorem retrainingEnd (x0 : Nat) : Statement (.retrainingEnd x0) := rfl
theorem marginResolve (x0 : List (Nat × BitVec 3)) : Statement (.marginResolve x0) := rfl
theorem fetchRange : Statement (.fetchRange) := rfl
theorem illegalOp : Statement (.illegalOp) := rfl
theorem scribeIllegal : Statement (.scribeIllegal) := rfl
theorem uncorrectableError (x0 : ErrorPlace) : Statement (.uncorrectableError x0) := rfl
theorem powerLoss (x0 : Option Torn) : Statement (.powerLoss x0) := rfl
theorem linkUp (x0 : Nat) : Statement (.linkUp x0) := rfl
theorem powerLimit (x0 : List Nat) : Statement (.powerLimit x0) := rfl
theorem drainBoundExpiry (x0 : Nat) : Statement (.drainBoundExpiry x0) := rfl

end Sys2Proof.Laws.Encoding
end

