-- ==== Sys2Proof/Laws/Requests.lean ====
section
/-! SUPPORT. Requests to the anvil and the scribe, and the privileged instructions: what each issue does as a whole
when its operands can be read. -/

namespace Sys2Proof.Laws
open Sys2Proof.Machine Sys2Proof.Safety

theorem requestEnd_unit (e sl o sl1) : (requestEnd e sl o sl1).unit = sl1.unit := by
  unfold requestEnd; exact finishLane_unit ..

theorem anvilSlice_idle {s rs more e sl} (h : RequestFit (regOperands rs) (actLanes sl.a) e sl) (ha : actLanes sl.a = 0) :
    anvilSlice s rs more e sl = .done (requestEnd e sl (regOperands rs) sl) [] none := by
  obtain ⟨h1,h2,h3⟩ := h
  unfold anvilSlice
  dsimp only
  unfold regOperands at *
  rw [h1]; dsimp only; rw [h2]; dsimp only; rw [h3, if_neg Bool.false_ne_true, if_pos ha]; rfl

theorem anvilSlice_done {s rs more e sl} (h : RequestFit (regOperands rs) (actLanes sl.a) e sl) (hr : RequestFree s e sl)
   (hm : more e sl (reqVals sl (actLanes sl.a) rs) = none) :
    anvilSlice s rs more e sl = .done { requestEnd e sl (regOperands rs) sl with ntl := (requestEnd e sl (regOperands rs) sl).ntl + 1 } [] none := by
  obtain ⟨h1,h2,h3⟩ := h
  obtain ⟨r1,r2,r3,r4,r5,r6⟩ := hr
  unfold anvilSlice
  dsimp only
  unfold regOperands at *
  rw [h1]; dsimp only; rw [h2]; dsimp only; rw [h3, if_neg Bool.false_ne_true, if_neg r1, r2, r3]
  simp only [Option.isSome_none, Bool.false_eq_true, if_false, hm, r4, r6, Bool.or_false, decide_false, Nat.not_le.mpr r5]
  rfl

theorem enterReq_idle {s k e sl1 mk} (h : Solo s k true e) (hn : sl1.ntl = (sliceAt s k).ntl) :
    enterReq s (issued s k true sl1 [] none) mk = issued s k true sl1 [] none := by
  unfold enterReq
  rw [accessKey_issuer h]
  dsimp only
  rw [h.env]
  dsimp only
  rw [if_neg]
  unfold issued putPin
  simp only [if_true]
  rw [sliceAt_putSlice, hn]; omega

theorem touchRegs_ntl (acc : Bool) (rs : List Nat) (sl : Slice) : (touchRegs acc rs sl).ntl = sl.ntl := by
  unfold touchRegs
  exact foldl_keeps _ _ (fun _ _ => by cases acc <;> rfl) _ _
theorem trimNew_ntl (e : Env) (keep : List Nat) (sl : Slice) : (trimNew e keep sl).ntl = sl.ntl :=
  trimNew_keeps Slice.ntl (fun _ _ _ => by cases e.acc <;> rfl) keep sl
theorem bumpAll_ntl (e : Env) (act : BitVec 4) (cs : List Nat) (sl : Slice) : (bumpAll e act cs sl).ntl = sl.ntl := by
  unfold bumpAll
  refine foldl_keeps _ _ (fun x y => ?_) _ _
  split <;> rfl
theorem finishLane_ntl (e b act o) (sl : Slice) : (finishLane e b act o none none sl).ntl = sl.ntl := by
  unfold finishLane
  simp only [setStream_ntl, trimNew_ntl, touchRegs_ntl, bumpAll_ntl]
theorem requestEnd_ntl (e sl o sl1) : (requestEnd e sl o sl1).ntl = sl1.ntl := by
  unfold requestEnd; exact finishLane_ntl ..

theorem issueRequest_idle {s k e rs more mk} (hs : Solo s k true e) (hf : RequestFit (regOperands rs) (actLanes (sliceAt s k).a) e (sliceAt s k)) 
  (ha : actLanes (sliceAt s k).a = 0) : andThen (issueLane s .access false (anvilSlice s rs more)) (fun s' => enterReq s s' mk) = 
   .next (issued s k true (requestEnd e (sliceAt s k) (regOperands rs) (sliceAt s k)) [] none) := by
  rw [issueLane_done hs (sl := _) (sw := _) (pin := _) _ (anvilSlice_idle hf ha) (requestEnd_unit ..)]
  · simp only [andThen]
    rw [enterReq_idle hs (requestEnd_ntl ..)]
  · exact stream_access hs

theorem issueRequest_done {s k e rs more mk} (hs : Solo s k true e) (hf : RequestFit (regOperands rs) (actLanes (sliceAt s k).a) e (sliceAt s k)) 
  (hr : RequestFree s e (sliceAt s k)) (hm : more e (sliceAt s k) (reqVals (sliceAt s k) (actLanes (sliceAt s k).a) rs) = none)
   : andThen (issueLane s .access false (anvilSlice s rs more)) (fun s' => enterReq s s' mk) = 
   .next (requested s k e (sliceAt s k) (regOperands rs) (mk e (sliceAt s k))) := by
  rw [issueLane_done hs (sl := _) (sw := _) (pin := _) _ (anvilSlice_done hf hr hm) (requestEnd_unit ..)]
  · simp only [andThen]
    unfold enterReq
    rw [accessKey_issuer hs]
    dsimp only
    rw [hs.env]
    dsimp only
    rw [if_pos]
    · rfl
    · unfold issued putPin
      simp only [if_true]
      rw [sliceAt_putSlice]; simp only [requestEnd_ntl]
  · exact stream_access hs

theorem setActing_unit (act sl d x) : (setActing act sl d x).unit = sl.unit := by
  unfold setActing; exact foldl_keeps _ _ (fun _ _ => setReg_unit ..) _ _

theorem checkOperands_or {e sl act o} {b : Bool} (hb : b = false) (h : checkOperands e sl act o false = none) : checkOperands e sl act o b = none := by
  rw [hb, h]

theorem scribeSlice_done {s rs ds count more e sl vals} (h : ScribeFree s e sl rs ds count)
   (hm : more e sl (reqVals sl (actLanes sl.a) rs) = .inr vals) :
    scribeSlice s rs ds count more e sl = .done 
      (let x := scribeEnd e sl rs ds ((ds.zip vals).foldl (fun y p => (maskLanes (actLanes sl.a)).foldl (fun y l => setReg true y p.1 l p.2) y) sl)
       { x with ncp := if count then x.ncp + 1 else x.ncp }) [] none := by
  obtain ⟨h0,h1,h2,h3,h4,h5,h6,h7⟩ := h
  unfold scribeSlice
  dsimp only
  unfold regOperands at *
  rw [checkOperands_or h1 h2]; dsimp only; rw [h3]; dsimp only; rw [h4, if_neg Bool.false_ne_true, if_neg h0, h5]
  simp only [Option.isSome_none, Bool.false_eq_true, if_false, hm, h7, Bool.or_false]
  rw [if_neg]
  · rfl
  · intro hc
    simp only [Bool.and_eq_true, beq_iff_eq] at hc
    exact h6 hc.1 hc.2

theorem touchRegs_ncp (acc : Bool) (rs : List Nat) (sl : Slice) : (touchRegs acc rs sl).ncp = sl.ncp := by
  unfold touchRegs
  exact foldl_keeps _ _ (fun _ _ => by cases acc <;> rfl) _ _
theorem trimNew_ncp (e : Env) (keep : List Nat) (sl : Slice) : (trimNew e keep sl).ncp = sl.ncp :=
  trimNew_keeps Slice.ncp (fun _ _ _ => by cases e.acc <;> rfl) keep sl
theorem bumpAll_ncp (e : Env) (act : BitVec 4) (cs : List Nat) (sl : Slice) : (bumpAll e act cs sl).ncp = sl.ncp := by
  unfold bumpAll
  refine foldl_keeps _ _ (fun x y => ?_) _ _
  split <;> rfl
theorem finishLane_ncp (e b act o) (sl : Slice) : (finishLane e b act o none none sl).ncp = sl.ncp := by
  unfold finishLane
  simp only [setStream_ncp, trimNew_ncp, touchRegs_ncp, bumpAll_ncp]
theorem scribeEnd_ncp (e sl o ds sl1) : (Safety.scribeEnd e sl o ds sl1).ncp = sl1.ncp := by
  unfold Safety.scribeEnd requestEnd; exact finishLane_ncp ..
theorem scribeEnd_unit (e sl o ds sl1) : (Safety.scribeEnd e sl o ds sl1).unit = sl1.unit := by
  unfold Safety.scribeEnd ; exact requestEnd_unit ..
theorem setActing_ncp (act sl d x) : (setActing act sl d x).ncp = sl.ncp := by
  unfold setActing; exact foldl_keeps _ _ (fun a b => by rfl) _ _

theorem setReg_held (acc : Bool) (sl : Slice) (r l x : Nat) : (setReg acc sl r l x).held = sl.held := by cases acc <;> rfl
theorem scribeEnd_held (e sl o ds sl1) : (Safety.scribeEnd e sl o ds sl1).held = sl1.held := by
  unfold Safety.scribeEnd requestEnd finishLane
  dsimp only
  have h1 : ∀ (acc : Bool) (sl : Slice) (x : Stream), (setStream acc sl x).held = sl.held := by intro acc; cases acc <;> intros <;> rfl
  have h2 : ∀ (acc : Bool) (rs : List Nat) (sl : Slice), (touchRegs acc rs sl).held = sl.held := by
    intro acc rs sl; unfold touchRegs; exact foldl_keeps _ _ (fun _ _ => by cases acc <;> rfl) _ _
  have h3 : ∀ (e : Env) (act : BitVec 4) (cs : List Nat) (sl : Slice) , (bumpAll e act cs sl).held = sl.held := by
    intros; unfold bumpAll
    refine foldl_keeps _ _ (fun x y => ?_) _ _
    split <;> rfl
  rw [h1, trimNew_keeps Slice.held (fun _ _ _ => by cases e.acc <;> rfl), h2, h3]

theorem scribeEnd_pc (e sl o ds sl1) (he : e.acc = true): (Safety.scribeEnd e sl o ds sl1).a.pc = sl1.a.pc + 4 := by
  unfold Safety.scribeEnd requestEnd finishLane
  dsimp only
  rw [he]
  have h2 : ∀ (acc : Bool) (rs : List Nat) (sl : Slice), (touchRegs acc rs sl).a = sl.a := by
    intro acc rs sl; unfold touchRegs; exact foldl_keeps _ _ (fun _ _ => by cases acc <;> rfl) _ _
  have h3 : ∀ (e : Env) (act : BitVec 4) (cs : List Nat) (sl : Slice) , (bumpAll e act cs sl).a.pc = sl.a.pc := by
    intros; unfold bumpAll
    refine foldl_keeps (fun (s : Slice) => s.a.pc) _ (fun x y => ?_) _ _
    split <;> rfl
  have h4 : ∀ (st : Stream) p, (retireTo st p).pc = p := fun _ _ => rfl
  have h5 : ∀ (keep : List Nat) (sl : Slice), (trimNew e keep sl).a = sl.a := fun keep sl =>
    trimNew_keeps Slice.a (fun _ _ _ => by cases e.acc <;> rfl) keep sl
  simp only [streamOf, setStream, retire, h2, h3, h4, h5, if_true]

theorem issueScribe_done {s k e rs ds count more vals} (hs : Solo s k true e) (h : ScribeFree s e (sliceAt s k) rs ds count)
   (hm : more e (sliceAt s k) (reqVals (sliceAt s k) (actLanes (sliceAt s k).a) rs) = .inr vals) :
   issueLane s .access false (scribeSlice s rs ds count more) = .next (issued s k true 
      (let x := Safety.scribeEnd e (sliceAt s k) rs ds ((ds.zip vals).foldl (fun y p => (maskLanes (actLanes (sliceAt s k).a)).foldl (fun y l => setReg true y p.1 l p.2) y) (sliceAt s k))
       { x with ncp := if count then x.ncp + 1 else x.ncp }) [] none) := by
  rw [issueLane_done hs (stream_access hs) (scribeSlice_done h hm)]
  dsimp only
  rw [scribeEnd_unit]
  refine foldl_keeps _ _ (fun a b => ?_) _ _
  exact foldl_keeps _ _ (fun a b => by rfl) _ _

theorem runPrivileged_next {s core e rs dst bad f x} (h : Privileged s core e rs dst)
  (hb : bad (rs.map fun r => trapReg s core r) = none)
  (hf : (f core (rs.map fun r => trapReg s core r) s).2 = some x) :
  runPrivileged rs dst s bad f = .next (let r := f core (rs.map fun r => trapReg s core r) s
     if (coreAt r.1 core).invoc then putSlice r.1 (trapBase + core) (privilegedEnd e (sliceAt s (trapBase+core)) rs (dst.map fun d => (d, x))) else r.1) := by
  obtain ⟨hi,he,hk,⟨h1,h2,h3⟩,ha⟩ := h
  unfold runPrivileged
  rw [hi]; dsimp only
  rw [he]; dsimp only
  rw [h1, h2]; simp only [Option.or_none]
  rw [h3, if_neg Bool.false_ne_true, if_neg ha]
  rw [hk]
  unfold trapReg at *
  rw [hb]; dsimp only
  revert hf
  generalize f core _ s = r
  intro hf
  obtain ⟨s1, y⟩ := r
  obtain rfl : y = some x := hf
  dsimp only
  split
  · cases dst <;> rfl
  · rfl

/-- Where a copy's barrier passes its check, or the lane has none, a lane's checks are those of its two addresses. -/
theorem copyLaneChk_pass {s e sl src dst n a b bar} {l : Nat} (h : ∀ p, bar = some p → ∃ t, p.2 = .ok t) :
    copyLaneChk s e sl src dst n a b bar l = ⟨l, copyAddr s e sl src n a b, copyChk s e sl src dst n a b⟩ := by
  unfold copyLaneChk
  split
  · obtain ⟨t, ht⟩ := h _ rfl; cases ht
  · obtain ⟨t, ht⟩ := h _ rfl; cases ht
  · rfl

end Sys2Proof.Laws
end

