-- ==== Sys2Proof/Laws/Scribe.lean ====
section
/-! SUPPORT. Scribe programs: what an instruction, a branch, an access of a program and a line of a data instruction do
as a whole. -/

namespace Sys2Proof.Laws
open Sys2Proof.Machine Sys2Proof.Safety

theorem runScribe_next {s n x p f} (h : Runs s n x p) : runScribe s f = .next (f n x p) := by
  unfold runScribe; rw [h.issuer]; dsimp only; rw [h.prog]

theorem kmovhi_or (a i : Nat) (hi : i < 2^14) : (a * 2^14) % 2^64 ||| i = a * 2^14 % 2^64 + i := by
  have : a * 2^14 % 2^64 = 2^14 * (a % 2^50) := by omega
  rw [this, Nat.two_pow_add_eq_or_of_lt hi]

theorem wrap_nat (w : Nat) (x : Nat) : wrap w (x : Int) = x % 2^w := by
  unfold wrap; omega

theorem kreg_lt (p r) : kreg p r < 2^64 := (aget 0 p.regs.k r.toNat).isLt

theorem setK_congr (p : Prog) (d : KReg) (x y : Nat) (h : x % 2^64 = y % 2^64) : setK p d x = setK p d y := by
  unfold setK
  have : BitVec.ofNat 64 x = BitVec.ofNat 64 y := by
    apply BitVec.eq_of_toNat_eq; simp only [BitVec.toNat_ofNat, h]
  rw [this]

theorem runK_next {s n x p i d w} {v : Prog → Nat} (h : Runs s n x p) (he : exec i s = runK s d (fun q => v q)) (hv : v p % 2^64 = w % 2^64) :
  (runsOut s p = false → exec i s = .next (becomes s n x (retireProg (setK p d w)))) ∧
      (runsOut s p = true → exec i s = .next (faultProg s n x p ⟨9, p.regs.pc + 4, 0⟩)) := by
  rw [he]
  unfold runK
  rw [runScribe_next h]
  unfold stepProg
  constructor
  · intro hr; rw [hr, if_neg Bool.false_ne_true, setK_congr _ _ _ _ hv]; rfl
  · intro hr; rw [hr, if_pos rfl]

theorem inside_iff {s p t} : Inside s p t ↔ (inScribe s p.launch t && t % 4 == 0) = true := by
  unfold Inside; simp

theorem branchTo_inside {s n x p t} (h : Inside s p t) : branchTo s n x p t = becomes s n x (atPc p t) := by
  unfold branchTo; rw [if_pos (inside_iff.mp h)]; rfl

theorem stepProg_inside {s n x p q} (h : runsOut s p = false) : stepProg s n x p q = becomes s n x (retireProg q) := by
  unfold stepProg; rw [h, if_neg Bool.false_ne_true]; rfl

/-- A single range that lies here passes its checks (R411). -/
theorem chkSpans_here {s p r t} (h : Reach s p r t) : chkSpans s p [r] = ([[(t, r.bytes)]], none) := by
  simp only [chkSpans, h.good]

/-- The bytes of a range here, as the key id of its page shows them (R356), and as the program sees them (R115). -/
theorem sbytes_here {s p t} (h : isRemote t = false) (n) :
    sbytes s p t n = readList (seen (withOlds p.olds s) t n) t.loc n := by
  unfold sbytes
  rw [h, if_neg Bool.false_ne_true]

theorem bytesVal_readList (m a n) : bytesVal (readList m a n) = readBytes m a n := by
  induction n generalizing a with
  | zero => rfl
  | succ n ih => simp only [readList, bytesVal, readBytes, ih]

/-- What one range gives that has one part, here. -/
theorem sread_here {s p t} (h : isRemote t = false) (n) :
    sread s p [(t, n)] = readList (seen (withOlds p.olds s) t n) t.loc n := by
  unfold sread
  rw [List.flatMap_cons, List.flatMap_nil, List.append_nil, sbytes_here h]

/-- A range that lies here and that a program only reads does not wait. -/
theorem here_goes {s n x p tc r t} (h : Reach s p r t) (hw : r.write = false) : partWaits s n x p tc t r.bytes r.write = false := by
  unfold partWaits wayOpen
  have := h.here
  unfold isRemote at this
  rw [h.ready, h.place, h.serves, hw]
  cases hs : t.space <;> simp_all

/-- A range that a program may write here does not wait. -/
theorem takes_goes {s n x p tc r t} (h : Takes s p r t) : partWaits s n x p tc t r.bytes r.write = false := by
  unfold partWaits wayOpen
  have := h.here
  unfold isRemote at this
  rw [h.ready, h.place, h.serves, h.runs, h.entry, h.last]
  have := h.single
  cases hs : t.space <;> simp_all

/-- Nothing is asked for of a part that lies here. -/
theorem asksOf_here {t n d} (h : isRemote t = false) : asksOf d [(t, n)] = [] := by
  unfold asksOf
  rw [List.flatMap_cons, List.flatMap_nil, h]
  rfl

/-- A part here holds a stored error exactly where its bytes do. -/
theorem storedError_here {s t n} (h : isRemote t = false) : storedError s [(t, n)] = poisoned s t.loc n := by
  simp [storedError, h]

/-- A range here that does not wait, and in which nothing bad is found, is fetched as it is. -/
theorem fetchWith_one {bad s n x p u tc r t} (h : Reach s p r t) (hb : r.write = false → bad [(t, r.bytes)] = false)
    (hg : partWaits s n x p tc t r.bytes r.write = false) : fetchWith bad s n x p u tc [r] = .got [[(t, r.bytes)]] := by
  unfold fetchWith
  rw [chkSpans_here h]
  dsimp only
  simp only [List.zip_cons_cons, List.zip_nil_left, List.any_cons, List.any_nil, hg, Bool.or_false, Bool.false_eq_true,
    if_false, List.filter_cons, List.filter_nil]
  cases hw : r.write
  · simp [hb hw, missingAsks, asksOf_here h.here]
  · simp [missingAsks]

/-- The same of one that is read whole. -/
theorem fetchSpans_one {s n x p u tc r t} (h : Here s p r t) (hg : partWaits s n x p tc t r.bytes r.write = false) :
    fetchSpans s n x p u tc [r] = .got [[(t, r.bytes)]] :=
  fetchWith_one h.toReach (fun hw => (storedError_here h.here).trans (h.sound hw)) hg

/-- The same of two ranges. -/
theorem fetchSpans_two {s n x p u tc r t r' t'} (h : Here s p r t) (h' : Here s p r' t')
    (hg : partWaits s n x p tc t r.bytes r.write = false) (hg' : partWaits s n x p tc t' r'.bytes r'.write = false) :
    fetchSpans s n x p u tc [r, r'] = .got [[(t, r.bytes)], [(t', r'.bytes)]] := by
  unfold fetchSpans fetchWith
  have h1 := h.sound
  have h2 := h'.sound
  rw [← storedError_here h.here] at h1
  rw [← storedError_here h'.here] at h2
  have : chkSpans s p [r, r'] = ([[(t, r.bytes)], [(t', r'.bytes)]], none) := by simp only [chkSpans, h.good, h'.good]
  rw [this]
  dsimp only
  simp only [List.zip_cons_cons, List.zip_nil_left, List.any_cons, List.any_nil, hg, hg', Bool.or_false, Bool.false_eq_true,
    if_false, List.filter_cons, List.filter_nil]
  cases hw : r.write <;> cases hw' : r'.write <;>
    simp_all [missingAsks, asksOf_here h.here, asksOf_here h'.here]

/-- A write here that may go on writes under the key id of its page. -/
theorem swrite_here {s n x p tc ord t bs d r} (h : Takes s p r t) :
    swrite s n x p tc ord t bs d = (storeDesc s t.key t.loc bs d, 0) := by
  unfold swrite; simp [h.here, h.may, h.single]

/-- The same through a range of one part. -/
theorem swriteParts_here {s n x p tc ord t bs d r} (h : Takes s p r t) (hb : bs.length = r.bytes) :
    swriteParts s n x p tc ord bs d [(t, r.bytes)] = (storeDesc s t.key t.loc bs d, 0) := by
  unfold swriteParts
  dsimp only
  rw [← hb, List.take_length, swrite_here h]
  rfl

theorem nth_zero (t : Parts) (ts) : nth (t :: ts) 0 = t := rfl
theorem nth_one (u t : Parts) (ts) : nth (u :: t :: ts) 1 = t := rfl

theorem nextLine_eq {s n x p o} (hc : p.cancel = false) (h : o.next + 1 < o.total ∨ runsOut s p = false) : nextLine s n x p o 0 = becomes s n x
        (if o.next + 1 < o.total then { p with park := none, inbox := [], data := some { o with next := o.next + 1, dst := [] } }
          else retireProg { p with data := none }) := by
  unfold nextLine
  dsimp only
  rw [hc, if_neg Bool.false_ne_true]
  split
  · rfl
  · next hn =>
    have : runsOut s p = false := h.resolve_left hn
    rw [if_neg]
    · rfl
    · show ¬ runsOut s p = true
      rw [this]; simp

theorem runsOut_spend (s ctx ts p) : runsOut (spendFor s ctx ts) p = runsOut s p := by
  unfold spendFor
  split
  · rfl
  generalize (List.eraseDups (α := Nat) _) = l
  refine foldl_keeps (fun s => runsOut s p) _ (fun s a => ?_) l s
  unfold spendToken; dsimp only; split <;> rfl

end Sys2Proof.Laws
end

