-- ==== Sys2Proof/Tests/Slice0.lean ====
section
/-! SUPPORT. Tests: words and their instructions, ill-formed terms that the checks refuse, small steps with results worked out by hand
from the manual, and for each statement states that meet its hypotheses. -/

namespace Sys2Proof.Tests
open Sys2Proof Sys2Proof.Machine Sys2Proof.Safety

set_option Elab.async false

/-- Whether a word decoded to an instruction. -/
def is (i : Instr) : Except Reject Instr → Bool
  | .ok j => decide (j = i)
  | .error _ => false

/-- Words of integer arithmetic instructions, written out from their encodings, decode and encode. -/
theorem test_decode_integer_arithmetic_1 : ([
    (0b00000000_00101100_01101001_10100110#32, .iadd 0x2C 0x69 0xA6),
    (0b00000001_01010001_10001110_11001011#32, .isub 0x51 0x8E 0xCB),
    (0b00000010_01110110_10110011_11110000#32, .iminS 0x76 0xB3 0xF0),
    (0b00000011_10011011_11011000_00010101#32, .imaxS 0x9B 0xD8 0x15),
    (0b00000100_11000000_11111101_00111010#32, .imul 0xC0 0xFD 0x3A),
    (0b00000101_11100101_00100010_01011111#32, .imulhS 0xE5 0x22 0x5F),
    (0b00000110_00001010_01000111_10000100#32, .imulhU 0xA 0x47 0x84),
    (0b00000111_00101111_01101100_10101001#32, .imad 0x2F 0x6C 0xA9),
    (0b00001000_01010100_10010001_11001110#32, .iminU 0x54 0x91 0xCE),
    (0b00001001_01111001_10110110_11110011#32, .imaxU 0x79 0xB6 0xF3),
    (0b00001010_10011110_11011011_00011000#32, .iabsdU 0x9E 0xDB 0x18),
    (0b00001011_11000011_00000001_00111101#32, .iavgU 0xC3 0x1 0x3D),
    (0b00001100_11101000_00100101_01100010#32, .band 0xE8 0x25 0x62),
    (0b00001101_00001101_01001010_10000111#32, .bor 0xD 0x4A 0x87),
    (0b00001110_00110010_01101111_10101100#32, .bxor 0x32 0x6F 0xAC),
    (0b00001111_01010111_10010100_11010001#32, .bandn 0x57 0x94 0xD1)] : List (Word32 × Instr)).all (fun p =>
      is p.2 (decodeLane p.1) && decide (encode p.2 = some p.1)) = true := by decide

/-- Words of integer arithmetic instructions, written out from their encodings, decode and encode. -/
theorem test_decode_integer_arithmetic_2 : ([
    (0b00010000_01111100_10111001_11110110#32, .shl 0x7C 0xB9 0xF6),
    (0b00010001_10100001_11011110_00011011#32, .shrU 0xA1 0xDE 0x1B),
    (0b00010010_11000110_00000011_01000000#32, .shrS 0xC6 0x3 0x40),
    (0b00010011_11101011_00101000_01100101#32, .shrrS 0xEB 0x28 0x65),
    (0b00010100_00010000_01001101_10001010#32, .rotl 0x10 0x4D 0x8A),
    (0b00010101_00110101_01110010_10101111#32, .bfeU 0x35 0x72 0xAF),
    (0b00010110_01011010_10010111_11010100#32, .bfeS 0x5A 0x97 0xD4),
    (0b00010111_01111111_10111100_11111001#32, .bfi 0x7F 0xBC 0xF9),
    (0b00011000_10100100_11100001_00011110#32, .prmb 0xA4 0xE1 0x1E),
    (0b00011001_11001001_00000110_01000011#32, .mulwU 0xC9 0x6 0x43),
    (0b00011010_11101110_00101011_01101000#32, .mulwS 0xEE 0x2B 0x68),
    (0b00011011_00010011_01010000_10001101#32, .iadd64 0x13 0x50 0x8D)] : List (Word32 × Instr)).all (fun p =>
      is p.2 (decodeLane p.1) && decide (encode p.2 = some p.1)) = true := by decide

/-- Words of integer unary compare instructions, written out from their encodings, decode and encode. -/
theorem test_decode_integer_unary_compare_1 : ([
    (0b00011100_00111000_01110101_00000000#32, .mov 0x38 0x75),
    (0b00011100_01011101_10011010_00000001#32, .bnot 0x5D 0x9A),
    (0b00011100_10000010_10111111_00000010#32, .ineg 0x82 0xBF),
    (0b00011100_10100111_11100100_00000011#32, .iabs 0xA7 0xE4),
    (0b00011100_11001100_00001001_00000100#32, .popc 0xCC 0x9),
    (0b00011100_11110001_00101110_00000101#32, .clz 0xF1 0x2E),
    (0b00011100_00010110_01010011_00000110#32, .ctz 0x16 0x53),
    (0b00011100_00111011_01111000_00000111#32, .brev 0x3B 0x78),
    (0b00011100_01100000_10011101_00001000#32, .sext8 0x60 0x9D),
    (0b00011100_10000101_11000010_00001001#32, .sext16 0x85 0xC2),
    (0b00011100_10101010_11100111_00001010#32, .zext8 0xAA 0xE7),
    (0b00011100_11001111_00001100_00001011#32, .zext16 0xCF 0xC),
    (0b00011100_11110100_00110001_00001100#32, .bswap 0xF4 0x31),
    (0b00100000_00011001_01010110_10010011#32, .icmpEq 0x19 0x56 0x93),
    (0b00100001_00111110_01111011_10111000#32, .icmpNe 0x3E 0x7B 0xB8),
    (0b00100010_01100011_10100000_11011101#32, .icmpLtS 0x63 0xA0 0xDD)] : List (Word32 × Instr)).all (fun p =>
      is p.2 (decodeLane p.1) && decide (encode p.2 = some p.1)) = true := by decide

/-- Words of integer unary compare instructions, written out from their encodings, decode and encode. -/
theorem test_decode_integer_unary_compare_2 : ([
    (0b00100011_10001000_11000101_00000010#32, .icmpLeS 0x88 0xC5 0x2),
    (0b00100100_10101101_11101010_00100111#32, .icmpLtU 0xAD 0xEA 0x27),
    (0b00100101_11010010_00001111_01001100#32, .icmpLeU 0xD2 0xF 0x4C),
    (0b00100110_11110111_00110100_01110001#32, .test 0xF7 0x34 0x71),
    (0b00100111_00011100_01011001_10010110#32, .testz 0x1C 0x59 0x96),
    (0b001010_11_01111110_10111011_11111000#32, .sel 0x3 0x7E 0xBB 0xF8)] : List (Word32 × Instr)).all (fun p =>
      is p.2 (decodeLane p.1) && decide (encode p.2 = some p.1)) = true := by decide

/-- Words of packed exchange instructions, written out from their encodings, decode and encode. -/
theorem test_decode_packed_exchange_1 : ([
    (0b00101100_01100110_10100011_11100000#32, .dot2Sat 0x66 0xA3 0xE0),
    (0b00101101_10001011_11001000_00000101#32, .dot2Wrap 0x8B 0xC8 0x5),
    (0b00101110_10110000_11101101_00101010#32, .add2Sat 0xB0 0xED 0x2A),
    (0b00101111_11010101_00010010_01001111#32, .sub2Sat 0xD5 0x12 0x4F),
    (0b00110000_11111010_00110111_01110100#32, .mul2Lo 0xFA 0x37 0x74),
    (0b00110001_00011111_01011100_10011001#32, .max2S 0x1F 0x5C 0x99),
    (0b00110010_01000100_10000001_10111110#32, .min2S 0x44 0x81 0xBE),
    (0b00110011_01101001_10100110_11100011#32, .pack2 0x69 0xA6 0xE3),
    (0b00110100_10001110_11001011_00001000#32, .dot4SSat 0x8E 0xCB 0x8),
    (0b00110101_10110011_11110000_00101101#32, .dot4USat 0xB3 0xF0 0x2D),
    (0b00110110_11011000_00010101_01010010#32, .add4USat 0xD8 0x15 0x52),
    (0b00110111_11111101_00111010_01110111#32, .sub4USat 0xFD 0x3A 0x77),
    (0b00111000_00100010_01011111_10011100#32, .shfl 0x22 0x5F 0x9C),
    (0b00111001_01000111_10000100_11000001#32, .slidehDn 0x47 0x84 0xC1),
    (0b00111010_01101100_10101001_11100110#32, .slidehUp 0x6C 0xA9 0xE6),
    (0b00111011_10010001_11001110_00001011#32, .slidewDn 0x91 0xCE 0xB)] : List (Word32 × Instr)).all (fun p =>
      is p.2 (decodeLane p.1) && decide (encode p.2 = some p.1)) = true := by decide

/-- Words of packed exchange instructions, written out from their encodings, decode and encode. -/
theorem test_decode_packed_exchange_2 : ([
    (0b00111100_10110110_11110011_10101110#32, .ballot 0xB6 0xF3),
    (0b00111101_11011011_00011000_10101110#32, .redadd 0xDB 0x18),
    (0b00111110_00000001_00111101_10101110#32, .redminS 0x1 0x3D),
    (0b00111111_00100101_01100010_10101110#32, .redmaxS 0x25 0x62),
    (0b01101010_01000011_10000000_10101110#32, .isatS16 0x43 0x80)] : List (Word32 × Instr)).all (fun p =>
      is p.2 (decodeLane p.1) && decide (encode p.2 = some p.1)) = true := by decide

/-- Words of immediates control instructions, written out from their encodings, decode and encode. -/
theorem test_decode_immediates_control : ([
    (0b01110000_01101000_1001010100100101#32, .movi 0x68 0x9525),
    (0b01110001_10001101_1001010101001010#32, .movhi 0x8D 0x954A),
    (0b01110010_10110010_1001010101101111#32, .addi 0xB2 0x956F),
    (0b01110011_11010111_1001010110010100#32, .muli 0xD7 0x9594),
    (0b01110100_11111100_1001010110111001#32, .mfsr 0xFC 0x95B9),
    (0b01110101_00100001_1001010111011110#32, .mtsr 0x21 0x95DE),
    (0b01111000_010_1_00000000000000000000#32, .ifP 0x2 true),
    (0b01111001000000000000000000000000#32, .elseP),
    (0b01111010000000000000000000000000#32, .endif)] : List (Word32 × Instr)).all (fun p =>
      is p.2 (decodeLane p.1) && decide (encode p.2 = some p.1)) = true := by decide

/-- Words of float instructions, written out from their encodings, decode and encode. -/
theorem test_decode_float_1 : ([
    (0b01000000_01001010_10000111_11000100#32, .fadd 0x4A 0x87 0xC4),
    (0b01000001_01101111_10101100_11101001#32, .fsub 0x6F 0xAC 0xE9),
    (0b01000010_10010100_11010001_00001110#32, .fmul 0x94 0xD1 0xE),
    (0b01000011_10111001_11110110_00110011#32, .ffma 0xB9 0xF6 0x33),
    (0b01000100_11011110_00011011_01011000#32, .fmin 0xDE 0x1B 0x58),
    (0b01000101_00000011_01000000_01111101#32, .fmax 0x3 0x40 0x7D),
    (0b01000110_00101000_01100101_10100010#32, .fminn 0x28 0x65 0xA2),
    (0b01000111_01001101_10001010_11000111#32, .fmaxn 0x4D 0x8A 0xC7),
    (0b01001000_01110010_10101111_11101100#32, .fcmpEq 0x72 0xAF 0xEC),
    (0b01001001_10010111_11010100_00010001#32, .fcmpLt 0x97 0xD4 0x11),
    (0b01001010_10111100_11111001_00110110#32, .fcmpLe 0xBC 0xF9 0x36),
    (0b01001011_11100001_00011110_01011011#32, .fcmpUnord 0xE1 0x1E 0x5B),
    (0b01001100_00000110_01000011_10000000#32, .dadd 0x6 0x43 0x80),
    (0b01001101_00101011_01101000_10100101#32, .dsub 0x2B 0x68 0xA5),
    (0b01001110_01010000_10001101_11001010#32, .dmul 0x50 0x8D 0xCA),
    (0b01001111_01110101_10110010_11101111#32, .dfma 0x75 0xB2 0xEF)] : List (Word32 × Instr)).all (fun p =>
      is p.2 (decodeLane p.1) && decide (encode p.2 = some p.1)) = true := by decide

/-- Words of float instructions, written out from their encodings, decode and encode. -/
theorem test_decode_float_2 : ([
    (0b01010000_10011010_11010111_00010100#32, .badd2 0x9A 0xD7 0x14),
    (0b01010001_10111111_11111100_00111001#32, .bmul2 0xBF 0xFC 0x39),
    (0b01010010_11100100_00100001_01011110#32, .bfma2 0xE4 0x21 0x5E),
    (0b01010011_00001001_01000110_10000011#32, .bmax2 0x9 0x46 0x83),
    (0b01010100_00101110_01101011_10101000#32, .hadd2 0x2E 0x6B 0xA8),
    (0b01010101_01010011_10010000_11001101#32, .hmul2 0x53 0x90 0xCD),
    (0b01010110_01111000_10110101_11110010#32, .hfma2 0x78 0xB5 0xF2),
    (0b01010111_10011101_11011010_00010111#32, .hmax2 0x9D 0xDA 0x17),
    (0b01011000_11000010_11111111_00111100#32, .fdot2Bf 0xC2 0xFF 0x3C),
    (0b01011001_11100111_00100100_01100001#32, .fdot2H 0xE7 0x24 0x61),
    (0b01011010_00001100_01001001_10000110#32, .fdot4E4 0xC 0x49 0x86),
    (0b01011011_00110001_01101110_10101011#32, .fdot4E5 0x31 0x6E 0xAB)] : List (Word32 × Instr)).all (fun p =>
      is p.2 (decodeLane p.1) && decide (encode p.2 = some p.1)) = true := by decide

/-- Words of float functions instructions, written out from their encodings, decode and encode. -/
theorem test_decode_float_functions_1 : ([
    (0b01011100_01010110_10010011_00000000#32, .frcp 0x56 0x93),
    (0b01011100_01111011_10111000_00000001#32, .frsq 0x7B 0xB8),
    (0b01011100_10100000_11011101_00000010#32, .fsqrt 0xA0 0xDD),
    (0b01011100_11000101_00000010_00000011#32, .fexp2 0xC5 0x2),
    (0b01011100_11101010_00100111_00000100#32, .flog2 0xEA 0x27),
    (0b01011100_00001111_01001100_00000101#32, .fsinpi 0xF 0x4C),
    (0b01011100_00110100_01110001_00000110#32, .fcospi 0x34 0x71),
    (0b01011100_01011001_10010110_00000111#32, .ftanh 0x59 0x96),
    (0b01011100_01111110_10111011_00001000#32, .fabs 0x7E 0xBB),
    (0b01011100_10100011_11100000_00001001#32, .fneg 0xA3 0xE0),
    (0b01011100_11001000_00000101_00001010#32, .ffloor 0xC8 0x5),
    (0b01011100_11101101_00101010_00001011#32, .fceil 0xED 0x2A),
    (0b01011100_00010010_01001111_00001100#32, .ftrunc 0x12 0x4F),
    (0b01011100_00110111_01110100_00001101#32, .frint 0x37 0x74),
    (0b01011100_01011100_10011001_00001110#32, .fclass 0x5C 0x99),
    (0b01011100_10000001_10111110_00010000#32, .dsqrt 0x81 0xBE)] : List (Word32 × Instr)).all (fun p =>
      is p.2 (decodeLane p.1) && decide (encode p.2 = some p.1)) = true := by decide

/-- Words of float functions instructions, written out from their encodings, decode and encode. -/
theorem test_decode_float_functions_2 : ([
    (0b01011100_10100110_11100011_00010001#32, .drcp 0xA6 0xE3),
    (0b01100000_11001011_00001000_00000000#32, .f2iS 0xCB 0x8),
    (0b01100000_11110000_00101101_00000001#32, .f2iU 0xF0 0x2D),
    (0b01100000_00010101_01010010_00000010#32, .i2fS 0x15 0x52),
    (0b01100000_00111010_01110111_00000011#32, .i2fU 0x3A 0x77),
    (0b01100000_01011111_10011100_00000100#32, .f2d 0x5F 0x9C),
    (0b01100000_10000100_11000001_00000101#32, .d2f 0x84 0xC1),
    (0b01100000_10101001_11100110_00000110#32, .f2bf 0xA9 0xE6),
    (0b01100000_11001110_00001011_00000111#32, .bf2f 0xCE 0xB),
    (0b01100000_11110011_00110000_00001000#32, .f2h 0xF3 0x30),
    (0b01100000_00011000_01010101_00001001#32, .h2f 0x18 0x55),
    (0b01100000_00111101_01111010_00001010#32, .f2e4 0x3D 0x7A),
    (0b01100000_01100010_10011111_00001011#32, .f2e5 0x62 0x9F),
    (0b01100000_10000111_11000100_00001100#32, .e42f 0x87 0xC4),
    (0b01100000_10101100_11101001_00001101#32, .e52f 0xAC 0xE9),
    (0b01100000_11010001_00001110_00001110#32, .f2e2 0xD1 0xE)] : List (Word32 × Instr)).all (fun p =>
      is p.2 (decodeLane p.1) && decide (encode p.2 = some p.1)) = true := by decide

/-- Words of float functions instructions, written out from their encodings, decode and encode. -/
theorem test_decode_float_functions_3 : ([
    (0b01100000_11110110_00110011_00001111#32, .e22f 0xF6 0x33),
    (0b01100000_00011011_01011000_00010000#32, .i2dS 0x1B 0x58),
    (0b01100000_01000000_01111101_00010001#32, .i2dU 0x40 0x7D),
    (0b01100100_01100101_10100010_11011111#32, .packbf 0x65 0xA2 0xDF),
    (0b01100101_10001010_11000111_00000100#32, .packh 0x8A 0xC7 0x4),
    (0b01100110_10101111_11101100_00101001#32, .ins8E4 0xAF 0xEC 0x29),
    (0b01100111_11010100_00010001_01001110#32, .ins4E2 0xD4 0x11 0x4E),
    (0b01101000_11111001_00110110_01110011#32, .fscale 0xF9 0x36 0x73),
    (0b01101001_00011110_01011011_10011000#32, .fsignc 0x1E 0x5B 0x98)] : List (Word32 × Instr)).all (fun p =>
      is p.2 (decodeLane p.1) && decide (encode p.2 = some p.1)) = true := by decide

/-- Words of memory instructions, written out from their encodings, decode and encode. -/
theorem test_decode_memory_1 : ([
    (0b11000000_10110101_010010_011_01_011_00#32, .ld 0xB5 0x12 .die .acq .w64),
    (0b11000001_11011010_110111_100_01_011_00#32, .ldBc 0xDA 0x37 .dev .acq .w64),
    (0b1100001010101110_011111_100_00_011_00#32, .pref 0x1F .dev .w64),
    (0b11000100_00100100_000001_101_10_011_00#32, .st 0x24 0x1 .sys .rel .w64),
    (0b11000101_01001001_100110_011_10_011_00#32, .stNt 0x49 0x26 .die .rel .w64),
    (0b11001000_01101110_001011_100_11_011_0_1#32, .aadd 0x6E 0xB .dev .ar .w64 true),
    (0b11001001_10010011_110000_010_11_011_0_0#32, .aand 0x93 0x30 .cluster .ar .w64 false),
    (0b11001010_10111000_010101_101_11_011_0_1#32, .aor 0xB8 0x15 .sys .ar .w64 true),
    (0b11001011_11011101_111010_011_11_011_0_0#32, .axor 0xDD 0x3A .die .ar .w64 false),
    (0b11001100_00000010_011111_100_11_011_0_1#32, .aminS 0x2 0x1F .dev .ar .w64 true),
    (0b11001101_00100111_000100_010_11_011_0_0#32, .amaxS 0x27 0x4 .cluster .ar .w64 false),
    (0b11001110_01001100_101001_101_11_011_0_1#32, .aminU 0x4C 0x29 .sys .ar .w64 true),
    (0b11001111_01110001_001110_011_11_011_0_0#32, .amaxU 0x71 0xE .die .ar .w64 false),
    (0b11010000_10010110_110011_100_11_011_0_1#32, .axchg 0x96 0x33 .dev .ar .w64 true),
    (0b11010001_10111011_011000_010_11_011_0_0#32, .acas 0xBB 0x18 .cluster .ar .w64 false),
    (0b11010010_11100000_111101_101_11_0100_0#32, .afaddF32 0xE0 0x3D .sys .ar false)] : List (Word32 × Instr)).all (fun p =>
      is p.2 (decodeLane p.1) && decide (encode p.2 = some p.1)) = true := by decide

/-- Words of memory instructions, written out from their encodings, decode and encode. -/
theorem test_decode_memory_2 : ([
    (0b11010011_00000101_100010_011_11_0100_1#32, .afaddBf2 0x5 0x22 .die .ar true),
    (0b11010100_001010_000111_000100_01_0_000#32, .acpG2s 0xA 0x7 0x4 .s8 false),
    (0b11010101_101111_101100_101001_00_1_000#32, .acpS2g 0x2F 0x2C 0x29 .s4 true),
    (0b11010110_010100_010001_001110_10_0_000#32, .acpS2s 0x14 0x11 0xE .s16 false),
    (0b11011000_10011001_110110_011_01_011_01#32, .ldx 0x99 0x36 .die .acq .w64 0x1),
    (0b11011001_10111110_011011_100_01_00100#32, .lddesc 0xBE 0x1B .dev .acq),
    (0b11011010_11100011_000001_010_10_00100#32, .stdesc 0xE3 0x1 .cluster .rel),
    (0b11011100_100_01_0000000000000000000#32, .fence .dev .acq),
    (0b11011101_001101_001010_000000000000#32, .xfence 0xD 0xA),
    (0b11011110_01010010_101111_100_01_011_00#32, .waitaddr 0x52 0x2F .dev .acq .w64)] : List (Word32 × Instr)).all (fun p =>
      is p.2 (decodeLane p.1) && decide (encode p.2 = some p.1)) = true := by decide

/-- Words of transfers sync instructions, written out from their encodings, decode and encode. -/
theorem test_decode_transfers_sync_1 : ([
    (0b11100000_011_0_10000001101001110001#32, .braAny 0x3 false 0x81A71),
    (0b11100001_001_1_10000001101010010110#32, .braAll 0x1 true 0x81A96),
    (0b111000100000_10000001101001000001#32, .call 0x81A41),
    (0b111000110000_10000001101001100110#32, .jmp 0x81A66),
    (0b11100100000000000000000000000000#32, .ret),
    (0b1110010100000000_00110000_00000000#32, .brx 0x30),
    (0b1110011000000000_1001101011010101#32, .merge 0x9AD5),
    (0b11100111000000000000000000000000#32, .yield),
    (0b111010000000000000000000000_01111#32, .bar 0xF),
    (0b111010010000000000000000000_10100#32, .qbar 0x14),
    (0b11101010_11101001_00100110_011_00000#32, .arrive 0xE9 0x26 .die),
    (0b11101011_101110_101011_101000_100101#32, .waitcnt 0x2E 0x2B 0x28 0x25),
    (0b11101100_010011_000000000000000000#32, .sleepuntil 0x13),
    (0b11101100_111000_110101_100000000000#32, .sleepuntilBar 0x38 0x35),
    (0b11101101000000000000000000000000#32, .region),
    (0b1110111000000000_1001110000100010#32, .trapOp 0x9C22)] : List (Word32 × Instr)).all (fun p =>
      is p.2 (decodeLane p.1) && decide (encode p.2 = some p.1)) = true := by decide

/-- Words of transfers sync instructions, written out from their encodings, decode and encode. -/
theorem test_decode_transfers_sync_2 : ([
    (0b11101111000000000000000000000000#32, .exit)] : List (Word32 × Instr)).all (fun p =>
      is p.2 (decodeLane p.1) && decide (encode p.2 = some p.1)) = true := by decide

/-- Words of anvil scribe requests instructions, written out from their encodings, decode and encode. -/
theorem test_decode_anvil_scribe_requests : ([
    (0b11110000_001100_000000000000000000#32, .mxloop 0xC),
    (0b11110001_110001_101110_101011_000000#32, .mxldb 0x31 0x2E 0x2B),
    (0b11110010_010_000_010011_000000000000#32, .mxst 0x2 0x13),
    (0b11110011_111_000_111000_000000000000#32, .mxldt 0x7 0x38),
    (0b11110100_100000_011101_011010_01_0_000#32, .scstart 0x20 0x1D 0x1A .s0 false),
    (0b11110101_000101_000010_000000000000#32, .scpoll 0x5 0x2),
    (0b11110110000000_101010_000000000000#32, .rflush 0x2A),
    (0b11110111000000_001111_000000000000#32, .sccancel 0xF)] : List (Word32 × Instr)).all (fun p =>
      is p.2 (decodeLane p.1) && decide (encode p.2 = some p.1)) = true := by decide

/-- Words of privileged hints instructions, written out from their encodings, decode and encode. -/
theorem test_decode_privileged_hints : ([
    (0b11111000_110100_000000000000000000#32, .eret 0x34),
    (0b11111001_011001_010110_000000000000#32, .rdsl 0x19 0x16),
    (0b11111010_111110_111011_000000000000#32, .wrsl 0x3E 0x3B),
    (0b11111011_100011_100000_000000000000#32, .foldctl 0x23 0x20),
    (0b11111100_100000000001111000101000#32, .hintImm 0x801E28),
    (0b11111101_001_0_1111_0000000000000000#32, .hintGuard 0x1 false 0xF),
    (0b11111110_110_1_0_1_000000000000000000#32, .hintMod 0x6 true false true),
    (0b11111111_100000000001111010010111#32, .hintSched 0x801E97)] : List (Word32 × Instr)).all (fun p =>
      is p.2 (decodeLane p.1) && decide (encode p.2 = some p.1)) = true := by decide

/-- Words of scribe instructions, written out from their encodings, decode and encode. -/
theorem test_decode_scribe_1 : ([
    (0b000001_0100_00000000_11111011111001#32, .kmovi 0x4 0x3EF9),
    (0b000010_1001_00000000_11111100011110#32, .kmovhi 0x9 0x3F1E),
    (0b000011_1110_1011_1000_00000000000000#32, .kadd 0xE 0xB 0x8),
    (0b000100_0011_0001_1101_00000000000000#32, .ksub 0x3 0x1 0xD),
    (0b000101_1000_0101_0010_00000000000000#32, .kmul 0x8 0x5 0x2),
    (0b000110_1101_1010_0111_00000000000000#32, .kshl 0xD 0xA 0x7),
    (0b000111_0010_1111_1100_00000000000000#32, .kshr 0x2 0xF 0xC),
    (0b001000_0111_0100_0001_00000000000000#32, .kand 0x7 0x4 0x1),
    (0b001001_1100_1001_0110_00000000000000#32, .kor 0xC 0x9 0x6),
    (0b001010_0001_1110_0000_00000010000011#32, .kaddi 0x1 0xE 0x83),
    (0b001011_0110_0011_0001_00000000000_101#32, .kcmp 0x6 0x3 0x1 .leU),
    (0b001100_1011_1000_0000_00000011001101#32, .kld 0xB 0x8 0xCD),
    (0b0011010000_0001_1101_00000011110010#32, .kst 0x1 0xD 0xF2),
    (0b010000_10000000000010000010011101#32, .kbr 0x200209D),
    (0b010001_1010_1000000010000011111111#32, .kbrc 0xA 0x2020FF),
    (0b010010_0011_1100_0000_00000101100001#32, .kloop 0x3 0xC 0x161)] : List (Word32 × Instr)).all (fun p =>
      is p.2 (decodeScribe p.1) && decide (encode p.2 = some p.1)) = true := by decide

/-- Words of scribe instructions, written out from their encodings, decode and encode. -/
theorem test_decode_scribe_2 : ([
    (0b010011_0001_0000000000000000000000#32, .kendloop 0x1),
    (0b011000_0001_0110_000000000000000000#32, .gset 0x1 0x6),
    (0b011001_1110_0011_000000000000000_100#32, .gstep 0xE 0x3 0x4),
    (0b011010_0011_0001_000000000000000000#32, .gaddr 0x3 0x1),
    (0b100000_1000_0101_0000_00001000011010#32, .line 0x8 0x5 0x21A),
    (0b100001_1101_1010_0011_00001001111100#32, .gather 0xD 0xA 0x3 0x27C),
    (0b100010_0010_1111_1100_00001010100001#32, .scatter 0x2 0xF 0xC 0x2A1),
    (0b100011_0111_0100_0000_100_11011000110#32, .reduce 0x7 0x4 .minf 0x6C6),
    (0b100100_0001_0001_0000000000_00101110#32, .convert 0x1 0x1 0x2E),
    (0b1010000000_0001_1110_00000000000000#32, .scribeArrive 0x1 0xE),
    (0b1010010000_0110_0011_00000000000000#32, .waitb 0x6 0x3),
    (0b10101000000000000000_000011_000001#32, .sfence 0x3 0x1),
    (0b1010110000_0001_1101_00000000000_101#32, .signal 0x1 0xD .sys),
    (0b11000000000000000000000000000000#32, .scribeRegion),
    (0b11000100000000000000000000000000#32, .scribeEnd)] : List (Word32 × Instr)).all (fun p =>
      is p.2 (decodeScribe p.1) && decide (encode p.2 = some p.1)) = true := by decide


/-! States that meet the hypotheses of the statements. -/

/-- A launch of one team with one slice, its page at 0x10000 mapped, with memory ready. -/
def base : State := State.reset.withFetchWord 32 0x1C_03_07_00

/-- The first slice changed, and its compute stream to issue. -/
def onC (f : Slice → Slice) : State := { putSlice base 0 (f (sliceAt base 0)) with issuer := .compute 0 }

/-- The first slice changed, and its access stream to issue. -/
def onA (f : Slice → Slice) : State := { putSlice base 0 (f (sliceAt base 0)) with issuer := .access 0 }

/-- The trap context of core 0, invoked for the held slice. -/
def onT (f : Slice → Slice) : State :=
  let s := State.reset.withFetchWord 32 0xF8_0C_00_00
  { putSlice s trapBase (f (sliceAt s trapBase)) with issuer := .trap 0 }

/-- The environments of the three. -/
def envC : Env := ⟨0, false, false, 128, 64, 0, 0, 0, none, 0⟩
def envA : Env := ⟨0, true, false, 128, 64, 0, 0, 0, none, 0⟩
def envT : Env := ⟨trapBase, true, true, 0, 64, 0, 0, 0, none, 0⟩

theorem solo_of {s : State} {k : Nat} {acc : Bool} {e : Env} (h : s.issuer = issuerOf k acc ∧ envOf s k acc = some e ∧
    (acc = false → k < trapBase) ∧ (acc = false → issuing s k = [k % 32] ∧ (sliceAt s k).unit = k % 32) ∧
    (acc = false → mismatches s k = [])) : Solo s k acc e :=
  ⟨h.1, h.2.1, h.2.2.1, h.2.2.2.1, h.2.2.2.2⟩

/-- Whether an arithmetic instruction has readable operands. -/
def aluOk (m : AluForm) (d a b : Nat) (e : Env) (sl : Slice) : Bool :=
  let act := actLanes (streamOf e.acc sl)
  let o := aluOperands m d a b
  decide (streamFault m.streams e = none) && (!m.pred || decide (d ≤ 7)) &&
    (e.acc || decide (m.rounds ≠ .byMode) || decide (modRm (streamOf e.acc sl).hint ≠ some .rna)) &&
    decide (checkOperands e sl act o false = none) && decide (stallOperands e sl act o = none) && decide (aluBad e m sl act d a b = 0) &&
    match readSrcs e act o.srcs sl with
    | .got _ _ => true
    | .stop _ => false

theorem ready_of {m : AluForm} {d a b : Nat} {e : Env} {sl : Slice} (h : aluOk m d a b e sl = true) :
    ∃ vals sl1, AluReady m d a b e sl vals sl1 := by
  unfold aluOk at h
  simp only [Bool.and_eq_true, Bool.or_eq_true, decide_eq_true_eq, Bool.not_eq_true'] at h
  obtain ⟨⟨⟨⟨⟨⟨h1, h2⟩, h3⟩, h4⟩, h5⟩, h6⟩, h7⟩ := h
  split at h7
  · next vals sl1 hr =>
    refine ⟨vals, sl1, h1, fun hp => ?_, fun ha hm => ?_, h4, h5, h6, hr⟩
    · rcases h2 with h2 | h2
      · rw [hp] at h2; cases h2
      · exact h2
    · rcases h3 with (h3 | h3) | h3
      · rw [ha] at h3; cases h3
      · exact absurd hm h3
      · exact h3
  · cases h7

/-- The forms of the arithmetic instructions of two sources. -/
def forms : List AluForm :=
  [int3, int3d, intCmp, mulwForm, packForm 16 true, packForm 8 false, exch3, fltForm .f32 true .byMode,
    fltForm .f64 true .byMode, fltForm .bf16 true .byMode, fltForm .f16 false .no, { fltForm .f32 false .no with pred := true },
    ⟨.compute, .flt .f32, .flt .e4m3, some (.flt .e4m3), true, false, .byMode, false⟩,
    ⟨.compute, .int, .flt .f32, some (.flt .f32), false, false, .byMode, false⟩,
    ⟨.compute, .int, .flt .f32, some .int, true, false, .byRna, false⟩]

/-- The forms of those of one source. -/
def unaryForms : List AluForm :=
  [int2, exch2, cvtForm (.flt .f32) (.flt .f32) .byMode, cvtForm (.flt .f64) (.flt .f64) .byMode, cvtForm .int (.flt .f32) .no,
    cvtForm (.flt .f64) .int .no, cvtForm (.flt .f32) (.flt .f64) .byMode]

/-- IntegerResults, SelectionResults, PackedResults, ExchangeResults, FloatResults, FunctionResults, ConversionResults
and ArithmeticFrame: operands are readable in every form, from registers, from a queue, and to a queue. -/
theorem witness_arithmetic : Solo (onC id) 0 false envC ∧ (∀ m ∈ forms, aluOk m 4 8 10 envC (sliceAt (onC id) 0) = true) ∧
    ∀ m ∈ unaryForms, aluOk m 4 8 0 envC (sliceAt (onC id) 0) = true :=
  ⟨solo_of (by decide), by decide +kernel⟩

theorem witness_arithmetic_queue : aluOk int3 0xA9 0xA8 0xC1 envC
    (sliceAt (onC fun sl => { sl with ldq := [⟨0, 0, .filled ⟨1, 2, 3, 4⟩⟩] }) 0) = true := by decide

theorem witness_arithmetic_access : Solo (onA id) 0 true envA ∧ aluOk int3 0xA8 63 0xAA envA (sliceAt (onA id) 0) = true ∧
    aluOk int3d 0 63 0xFF envA (sliceAt (onA id) 0) = true ∧ aluOk intCmp 0 63 5 envA (sliceAt (onA id) 0) = true :=
  ⟨solo_of (by decide), by decide +kernel⟩

/-- Whether an operand list can be read. -/
def readOk (o : Operands) (act : BitVec 4) (e : Env) (sl : Slice) : Bool :=
  decide (checkOperands e sl act o false = none) && decide (stallOperands e sl act o = none) && !badSrc e sl act o &&
    match readSrcs e act o.srcs sl with
    | .got _ _ => true
    | .stop _ => false

theorem readable_of {o : Operands} {act : BitVec 4} {e : Env} {sl : Slice} (h : readOk o act e sl = true) :
    ∃ vals sl1, Readable o act e sl vals sl1 := by
  unfold readOk at h
  simp only [Bool.and_eq_true, decide_eq_true_eq, Bool.not_eq_true'] at h
  obtain ⟨⟨⟨h4, h5⟩, h6⟩, h7⟩ := h
  split at h7
  · next vals sl1 hr => exact ⟨vals, sl1, h4, h5, h6, hr⟩
  · cases h7

/-- ImmediateResults: with and without a pending IMM, in both streams. -/
theorem witness_immediates : Solo (onC id) 0 false envC ∧ Solo (onA id) 0 true envA ∧
    readOk (fiOperands true 127) 15 envC (sliceAt (onC id) 0) = true ∧
    readOk (fiOperands false 0xA8) 15 envA (sliceAt (onA fun sl => { sl with a := { sl.a with hint := { Hint.none with immv := true } } }) 0) = true :=
  ⟨solo_of (by decide), solo_of (by decide), by decide +kernel⟩

/-- MfsrResults: CLOCK, which is wide, and FPFLAGS; MtsrResults: FPMODE, PINMASK, and S, which nothing writes. -/
theorem witness_special : Solo (onC id) 0 false envC ∧ srFault envC 0x00 = none ∧ srWide 0x00 = true ∧ srFault envC 0x11 = none ∧
    readOk ⟨[], some (false, 3)⟩ 15 envC (sliceAt (onC id) 0) = true ∧
    readOk ⟨[(.int, 0xC1)], none⟩ 15 envC (sliceAt (onC id) 0) = true ∧ lowestLane 15 = some 0 ∧
    srFault envC 0x10 = none ∧ srUse false false 0x10 = .rw ∧ srValueFault (onC id) envC 0x10 3 = none ∧
    srFault envC 0x24 = none ∧ srUse false false 0x24 = .rw ∧ srValueFault (onC id) envC 0x24 0 = none ∧
    srFault envC 0x33 = none ∧ srUse false false 0x33 = .ro :=
  ⟨solo_of (by decide), by decide +kernel⟩

/-- MtsrResults of the trap context: WDLIMIT, PINMASK of the bound team, and SLIP, each from an a register; and the barrier
slots of JoinResults there. -/
theorem witness_trap_special : Solo (onT id) (trapBase + 0) true envT ∧ envT.trap = true ∧
    readOk ⟨[(.int, 1)], none⟩ 1 envT (sliceAt (onT id) trapBase) = true ∧ actLanes (sliceAt (onT id) trapBase).a = 1 ∧
    (∀ n ∈ [0x104, 0x24, 0x20, 0x100], srFault envT n = none) ∧ srUse true true 0x104 = .rw ∧ srUse true true 0x24 = .rw ∧
    srUse true true 0x100 = .ro ∧ srValueFault (onT id) envT 0x24 0 = none ∧ barCount (onT id) envT = 32 :=
  ⟨solo_of (by decide), by decide +kernel⟩

/-- PINMASK written in the trap context takes the IMM payload that the MTSR consumes (R198; log entries 13 and 150). -/
theorem test_trap_pin_imm :
    (match exec (.mtsr 0xAD 0x24) (putTeam (onT fun sl =>
        { sl with a := { sl.a with hint := { Hint.none with immp := 1, immv := true } } }) 0 (some { loadTeam with size := 65536 })) with
      | .next t => (teamAt t 0).map (·.pin)
      | _ => none) = some 1 := by decide +kernel

/-- HintsPend, MaskStackResults and ControlFlowResults: an empty and a full mask stack, return stacks of depth 0, 15 and 1, a
notice whose call depth a RET meets, and a BRX from an inline number. -/
theorem witness_control : Solo (onC id) 0 false envC ∧ Solo (onA id) 0 true envA ∧
    Solo (onC fun sl => { sl with c := { sl.c with mstk := ⟨8, []⟩, rstk := ⟨1, []⟩ } }) 0 false envC ∧
    Solo (onC fun sl => { sl with notice := some ⟨0, 15, ⟨0, []⟩, Hint.none⟩ }) 0 false envC ∧
    (sliceAt (onC id) 0).c.mstk.depth ≠ 8 ∧ (sliceAt (onC id) 0).c.rstk.depth ≠ 16 ∧
    (onC fun sl => { sl with c := { sl.c with mstk := ⟨8, []⟩, rstk := ⟨1, []⟩ } }).slices.length = 1 ∧
    (sliceAt (onC fun sl => { sl with notice := some ⟨0, 15, ⟨0, []⟩, Hint.none⟩ }) 0).c.rstk.depth = 0 ∧
    readOk ⟨[(.int, 0xC4)], none⟩ 15 envC (sliceAt (onC id) 0) = true :=
  ⟨solo_of (by decide), solo_of (by decide), solo_of (by decide), solo_of (by decide), by decide +kernel⟩

/-- JoinResults and RegionTrapExitResults: slots below 32 in both streams, a team, and counters at 0. -/
theorem witness_join : Solo (onC id) 0 false envC ∧ Solo (onA id) 0 true envA ∧ 0 < trapBase ∧ barCount (onC id) envC = 32 ∧
    acqPending (onA id) 0 = false ∧
    (teamAt (onA id) 0).isSome = true ∧ (sliceAt (onA id) 0).check = none ∧ (sliceAt (onA id) 0).nld = 0 ∧
    (sliceAt (onA id) 0).nst = 0 ∧ (sliceAt (onA id) 0).ncp = 0 ∧ (sliceAt (onA id) 0).ntl = 0 ∧
    (sliceAt (onA id) 0).anvErr = none ∧ (sliceAt (onA id) 0).scbErr = none :=
  ⟨solo_of (by decide), solo_of (by decide), by decide +kernel⟩

/-- StreamRules: each excluded kind in each stream, and the last codes of the roles that are faults. -/
theorem witness_streams : Solo (onC id) 0 false envC ∧ Solo (onA id) 0 true envA ∧ Solo (onT id) trapBase true envT ∧
    (∀ f ∈ (onA id).flights, f.lanes ≠ []) ∧ streamsOf (.fadd 1 2 3) = some .compute ∧
    streamsOf (.ld 1 2 .team .rlx .w32) = some .access ∧ streamsOf (.eret 3) = some .privileged ∧ envA.trap = false ∧
    envT.trap = true ∧ accessSourceFaults 0x40 = true ∧ accessSourceFaults 0xA7 = true ∧ accessSourceFaults 0xBF = true ∧
    accessSourceFaults 0xAE = false ∧ accessDestFaults 0xA9 = true ∧ accessDestFaults 0xFF = true :=
  ⟨solo_of (by decide), solo_of (by decide), solo_of (by decide +kernel), by decide, rfl, rfl, rfl, rfl, rfl, by decide +kernel⟩


/-- A register of the access stream, the same in every lane. -/
def setA (r x : Nat) (sl : Slice) : Slice := laneNums.foldl (fun y l => setReg true y r l x) sl

/-- Base register a1 at a mapped block, a2 at the start of the team's allotment, a3 at another block. -/
def bases (sl : Slice) : Slice := setA 3 0x10100 (setA 2 (Config.aliasBase + 0x40) (setA 1 0x10080 sl))

/-- The same page as a converting page. -/
def converting (s : State) : State := { s with tlb := [⟨0, 1, 16, 0x1F + 0x10000⟩] }

/-- Whether all lanes passed their checks, one address did, and data was read. -/
def okChks : Chks → Bool
  | .ok _ => true
  | _ => false

def okChk : Chk → Bool
  | .ok _ => true
  | _ => false

def okSrc : Src → Bool
  | .got _ _ => true
  | _ => false

theorem loadFree_of {s : State} {e : Env} {sl : Slice} {d n : Nat} (h : actLanes sl.a ≠ 0 ∧ (d = 0xAE ∨ ldqRoom sl n = true) ∧
    sl.nld ≠ 63 ∧ acqPending s e.key = false) : LoadFree s e sl d n := ⟨h.1, h.2.1, h.2.2.1, h.2.2.2⟩

/-- LoadsStart: plain and descriptor loads to the queue, and LDX on a converting page. -/
theorem witness_loads : Solo (onA bases) 0 true envA ∧ FmReady envA (sliceAt (onA bases) 0) false 0xA8 1 ∧
    LoadFree (onA bases) envA (sliceAt (onA bases) 0) 0xA8 4 ∧ LoadFree (onA bases) envA (sliceAt (onA bases) 0) 0xAE 1 ∧
    FmReady envA (sliceAt (onA bases) 0) true 0xAE 1 ∧
    okChks (checkLanes (onA bases) (laneSpec envA 16 false false) (sliceAt (onA bases) 0) (laneAddrs (sliceAt (onA bases) 0) 1)) = true ∧
    okChks (checkLanes (onA bases) (laneSpec envA 4 false false) (sliceAt (onA bases) 0) [(0, laneAddr (sliceAt (onA bases) 0) 1 0)]) = true :=
  ⟨solo_of (by decide +kernel), (by decide +kernel : fmCheck .. = none), loadFree_of (by decide +kernel),
    loadFree_of (by decide +kernel), (by decide +kernel : fmCheck .. = none), by decide +kernel⟩

theorem witness_ldx : Solo (converting (onA bases)) 0 true envA ∧ FmReady envA (sliceAt (onA bases) 0) true 0xC1 1 ∧
    LoadFree (converting (onA bases)) envA (sliceAt (onA bases) 0) 0xA8 1 ∧
    okSrc (readData envA 15 1 0xC1 (sliceAt (onA bases) 0)) = true ∧
    okChks (joinChks ((maskLanes 15).map fun l => ⟨l, laneAddr (sliceAt (onA bases) 0) 1 l, ldxChk (converting (onA bases)) 0
      (esizeNibbles 1) (checkAddr (converting (onA bases)) (laneSpec envA 4 false true) (refusedOf (sliceAt (onA bases) 0))
        (laneAddr (sliceAt (onA bases) 0) 1 l))⟩)) = true :=
  ⟨solo_of (by decide +kernel), (by decide +kernel : fmCheck .. = none), loadFree_of (by decide +kernel), by decide +kernel⟩

theorem writeFree_of {s : State} {e : Env} {sl : Slice} {ret : Option Nat} (h : (∀ n ∈ ret, ldqRoom sl n = true ∧ sl.nld ≠ 63) ∧
    actLanes sl.a ≠ 0 ∧ sl.check = none ∧ sl.nst ≠ 63 ∧ acqPending s e.key = false) : WriteFree s e sl ret :=
  ⟨h.2.1, fun n hn => h.1 n hn, h.2.2.1, h.2.2.2.1, h.2.2.2.2⟩

/-- WritesStart: a store of 128 bits, a returning and a plain atomic, and a compare-and-swap whose swap value is queued. -/
theorem witness_writes : Solo (onA bases) 0 true envA ∧ FmReady envA (sliceAt (onA bases) 0) true 3 1 ∧
    WriteFree (onA bases) envA (sliceAt (onA bases) 0) none ∧ WriteFree (onA bases) envA (sliceAt (onA bases) 0) (some 2) ∧
    okSrc (readData envA 15 4 3 (sliceAt (onA bases) 0)) = true ∧
    okChks (checkLanes (onA bases) (laneSpec envA 16 true false) (sliceAt (onA bases) 0) (laneAddrs (sliceAt (onA bases) 0) 1)) = true ∧
    okSrc (readData envA 15 1 0xA8 { sliceAt (onA bases) 0 with sdq := [⟨⟨1, 2, 3, 4⟩, 0, 0⟩] }) = true ∧
    okChks (joinChks ((maskLanes 15).map fun l => ⟨l, laneAddr (sliceAt (onA bases) 0) 1 l,
      match checkAddr (onA bases) (laneSpec envA 2 true false) (refusedOf (sliceAt (onA bases) 0)) (laneAddr (sliceAt (onA bases) 0) 1 l) with
      | .ok t => if fmtReserved (qget ⟨0, 1, 4, 5⟩ l % 256) then .bad codeDESC_RESERVED else .ok t
      | c => c⟩)) = true :=
  ⟨solo_of (by decide +kernel), (by decide +kernel : fmCheck .. = none), writeFree_of (by decide +kernel),
    writeFree_of (by decide +kernel), by decide +kernel⟩

/-- CopiesStart: from paged memory to SRAM, with an arrival at a barrier of the allotment; and without acting lanes. -/
theorem witness_copies :
    let s := onA fun sl => setA 4 (Config.aliasBase + 0x80) (bases sl)
    let o : Operands := ⟨[(.int, 4), (.int, 3), (.int, 2)], none⟩
    let none_ := onA fun sl => { sl with a := { sl.a with mask := 0 } }
    Solo s 0 true envA ∧ Solo none_ 0 true envA ∧ checkOperands envA (sliceAt s 0) 15 o false = none ∧ stallOperands envA (sliceAt s 0) 15 o = none ∧
    badSrc envA (sliceAt s 0) 15 o = false ∧ (∀ f ∈ s.flights, f.id < s.serial ∧ f.lanes ≠ []) ∧
    (sliceAt s 0).check = none ∧ (sliceAt s 0).ncp ≠ 63 ∧ acqPending s 0 = false ∧
    okChks (joinChks ((maskLanes 15).map fun l =>
      ⟨l, copyAddr s envA (sliceAt s 0) (.paged codeACP_SPACE) 16 (regVal true (sliceAt s 0) 3 l) (regVal true (sliceAt s 0) 2 l),
        copyChk s envA (sliceAt s 0) (.paged codeACP_SPACE) (.sram codeACP_SPACE) 16 (regVal true (sliceAt s 0) 3 l)
          (regVal true (sliceAt s 0) 2 l)⟩)) = true ∧
    okChk (checkAddr s (barrierSpec envA) (refusedOf (sliceAt s 0)) (regVal true (sliceAt s 0) 4 0)) = true ∧
    actLanes (sliceAt none_ 0).a = 0 :=
  ⟨solo_of (by decide +kernel), solo_of (by decide +kernel), by decide +kernel⟩

/-- FencesRetire, with nothing in flight and counters at their limits of 0. -/
theorem witness_fences : Solo (onA id) 0 true envA ∧ actLanes (sliceAt (onA id) 0).a ≠ 0 ∧ (sliceAt (onA id) 0).check = none ∧
    ((onA id).flights.filter fun f => f.owner = 0).any isLaneWrite = false ∧
    ((onA id).flights.filter fun f => f.owner = 0).any isLaneRead = false ∧
    ((onA id).flights.filter fun f => f.owner = 0).any isCopy = false ∧ (sliceAt (onA id) 0).nld ≤ (0 : BitVec 6).toNat :=
  ⟨solo_of (by decide +kernel), by decide +kernel⟩

/-- WaitResults: a word that differs, and one that does not; a SLEEPUNTIL whose time has come, one whose time has not, and
one with a barrier in the phase that a0 promises. -/
theorem witness_waits :
    let s := onA fun sl => setA 4 (Config.aliasBase + 0x80) (bases sl)
    let sl := sliceAt s 0
    Solo s 0 true envA ∧ FmReady envA sl true 0xC1 1 ∧ FmReady envA sl true 0xAE 1 ∧
    okSrc (readData envA 15 1 0xC1 sl) = true ∧ lowestLane (actLanes sl.a) = some 0 ∧
    okChks (checkLanes s (laneSpec envA 4 false false) sl [(0, laneAddr sl 1 0)]) = true ∧ acqPending s 0 = false ∧
    probe s 0 ⟨.hbm, 0x10080, none, 0, 0x10080⟩ 4 1 = .go ∧ probe s 0 ⟨.hbm, 0x10080, none, 0, 0x10080⟩ 4 0 = .wait ∧
    servedFree s 0 ⟨.hbm, 0x10080, none, 0, 0x10080⟩ = true ∧
    servedFree { s with deadlines := [⟨0, true, [0], 0⟩] } 0 ⟨.hbm, 0x10080, none, 0, 0x10080⟩ = false ∧
    readOk ⟨[(.int, 0)], none⟩ 15 envA sl = true ∧ readOk ⟨[(.int, 0), (.int, 4)], none⟩ 15 envA sl = true ∧
    regVal true sl 0 0 ≤ s.clock.toNat ∧ s.clock.toNat < regVal true sl 1 0 ∧
    okChk (checkAddr s (barrierSpec envA) (fun _ => false) (regVal true sl 4 0 - regVal true sl 4 0 % 2)) = true ∧
    promiseKept s (BitVec.ofNat 64 (regVal true sl 4 0)) (sramAddr 0 0x80) = true :=
  ⟨solo_of (by decide +kernel), (by decide +kernel : fmCheck .. = none), (by decide +kernel : fmCheck .. = none), by decide +kernel⟩

/-- ArriveStarts: in the access stream at a barrier's address, in the compute stream at the last offset of the allotment. -/
theorem witness_arrive :
    let s := onA bases
    let c := onC fun sl => setReg false sl 5 0 4080
    Solo s 0 true envA ∧ Solo c 0 false envC ∧ readOk (arriveOperands true 2 0xC1) 15 envA (sliceAt s 0) = true ∧
    okChk (checkAddr s (barrierSpec envA) (fun _ => false) (regVal true (sliceAt s 0) 2 0)) = true ∧
    readOk (arriveOperands false 5 0xC1) 15 envC (sliceAt c 0) = true ∧ teamAt c 0 = some loadTeam ∧
    4080 + 16 ≤ loadTeam.size ∧ sramWaits loadTeam (loadTeam.base + 4080) 16 = false :=
  ⟨solo_of (by decide +kernel), solo_of (by decide +kernel), by decide +kernel⟩

theorem requestFit_of {o : Operands} {act : BitVec 4} {e : Env} {sl : Slice} (h : checkOperands e sl act o false = none ∧
    stallOperands e sl act o = none ∧ badSrc e sl (lowMask act) o = false) : RequestFit o act e sl := ⟨h.1, h.2.1, h.2.2⟩

theorem requestFree_of {s : State} {e : Env} {sl : Slice} (h : actLanes sl.a ≠ 0 ∧ sl.check = none ∧ sl.anvErr = none ∧ sl.ntl ≠ 63 ∧
    (anvilAt s (anvilOf e.core)).resv.length < 16 ∧ acqPending s e.key = false) : RequestFree s e sl := by
  obtain ⟨act, checked, error, count, room, order⟩ := h
  exact { act, checked, error, count, room, order }

/-- AnvilRequestsIssue: a command block in the allotment, room in the table, and no acting lane. -/
theorem witness_anvil_requests :
    let s := onA bases
    let none_ := onA fun sl => { sl with a := { sl.a with mask := 0 } }
    Solo s 0 true envA ∧ Solo none_ 0 true envA ∧ RequestFit (regOperands [1, 2, 3]) 15 envA (sliceAt s 0) ∧
    RequestFit (regOperands [1]) 0 envA (sliceAt none_ 0) ∧ RequestFree s envA (sliceAt s 0) ∧
    okChk (checkAddr s (cbSpec envA) (fun _ => false) (regVal true (sliceAt s 0) 2 0)) = true ∧ s.poison = [] ∧ s.flights = [] :=
  ⟨solo_of (by decide +kernel), solo_of (by decide +kernel), requestFit_of (by decide +kernel), requestFit_of (by decide +kernel),
    requestFree_of (by decide +kernel), by decide +kernel⟩

/-- The same with a scribe header in the image at offset 64. -/
def withHeader (s : State) : State := { s with mem := writeBytes s.mem 0x10040 4 0xFC000009 }

/-- A scribe handle that has been given out: scribe 0, queue 0, program 0. -/
def handled (s : State) : State := putScribe s 0 { Scribe.zero with queues := [(0, { SQueue.zero with next := 1 })] }

theorem scribeFree_of {s : State} {e : Env} {sl : Slice} {rs ds : List Nat} {count : Bool} (h : actLanes sl.a ≠ 0 ∧
    ds.any (fun d => decide (e.a ≤ d)) = false ∧ checkOperands e sl (actLanes sl.a) (regOperands rs) false = none ∧
    stallOperands e sl (actLanes sl.a) (regOperands (rs ++ ds)) = none ∧
    badSrc e sl (lowMask (actLanes sl.a)) (regOperands rs) = false ∧ sl.check = none ∧ (count = true → sl.ncp ≠ 63) ∧
    acqPending s e.key = false) : ScribeFree s e sl rs ds count := by
  obtain ⟨h1, h2, h3, h4, h5, h6, h7, h8⟩ := h
  exact ⟨h1, h2, h3, h4, h5, h6, h7, h8⟩

/-- ScribeRequestsIssue: a program to start, and a handle to poll and to cancel. -/
theorem witness_scribe_requests :
    let s := withHeader (onA (setA 1 64))
    let h := handled (onA id)
    Solo s 0 true envA ∧ Solo h 0 true envA ∧ ScribeFree s envA (sliceAt s 0) [1, 2] [4, 5] true ∧
    ScribeFree h envA (sliceAt h 0) [1] [4] false ∧ (queueAt s (pickScribe s 0 0 .s0) 0).items.length < 16 ∧
    headerOf s 0 (launchOf s envA) 64 = some 9 ∧ handleBad h envA 0 = false ∧ handleBusy h 0 = false ∧ (sliceAt h 0).held = false :=
  ⟨solo_of (by decide +kernel), solo_of (by decide +kernel), scribeFree_of (by decide +kernel), scribeFree_of (by decide +kernel),
    by decide +kernel⟩

theorem privileged_of {s : State} {e : Env} {rs : List Nat} {d : Option Nat} (h : s.issuer = .trap 0 ∧ envOf s trapBase true = some e ∧
    e.key = trapBase ∧ checkOperands e (sliceAt s e.key) (actLanes (sliceAt s e.key).a) ⟨rs.map fun r => (.int, r), d.map fun r => (false, r)⟩ false = none ∧
    stallOperands e (sliceAt s e.key) (actLanes (sliceAt s e.key).a) ⟨rs.map fun r => (.int, r), d.map fun r => (false, r)⟩ = none ∧
    badSrc e (sliceAt s e.key) (actLanes (sliceAt s e.key).a) ⟨rs.map fun r => (.int, r), d.map fun r => (false, r)⟩ = false ∧
    actLanes (sliceAt s e.key).a ≠ 0) : Privileged s 0 e rs d := by
  obtain ⟨h1, h2, h3, h4, h5, h6, h7⟩ := h
  exact ⟨h1, h2, h3, ⟨h4, h5, h6⟩, h7⟩

/-- The bound team with a level change on its way to its slice. -/
def changing : State := putSlice (onT id) 0 { sliceAt (onT id) 0 with levelDue := some (false, 0) }

/-- PrivilegedResults: the bound team of one held slice, a selector of its a registers, and a fold that asks for nothing, with and
without a level change that is still due. -/
theorem witness_privileged : Privileged (onT id) 0 envT [3] none ∧ Privileged (onT id) 0 envT [1] (some 2) ∧
    Privileged (onT id) 0 envT [1, 2] none ∧ (boundTeam (onT id) 0).isSome = true ∧
    trapReg (onT id) 0 3 < 1 ∧ (coreAt (onT id) 0).invoc = true ∧
    selectorBad loadTeam (trapReg (onT (setA 1 0x180)) 0 1) = false ∧
    itemBad (sliceAt (onT id) 0) (selectorOf 0x180) = false ∧ (sliceAt (onT id) 0).held = true ∧
    itemFault loadTeam (selectorOf 0x180) 5 = none ∧ foldReqBad (onT id) 0 (trapReg (onT id) 0 1) = false ∧
    (let x := (foldCore (onT id) 0 (foldReqOf (trapReg (onT id) 0 1)) 256).1
     levelsDue x 0 = false ∧ foldHeld (onT id) x 0 = false ∧ (coreAt x 0).invoc = true) ∧
    foldReqBad changing 0 (trapReg changing 0 1) = false ∧
    levelsDue (foldCore changing 0 (foldReqOf (trapReg changing 0 1)) 256).1 0 = true :=
  ⟨privileged_of (by decide +kernel), privileged_of (by decide +kernel), privileged_of (by decide +kernel), by decide +kernel⟩


/-- Partition 0 valid with one virtual device and the first cluster and HBM region. -/
def putPart (s : State) : State := { s with partitions := [(0, BitVec.ofNat 512 (1 + 2 ^ 8 + 2 ^ 64 + 2 ^ 160))] }

/-- A save pool at 0x10000 for the placed context. -/
def withPool (s : State) : State :=
  putCore s 0 { coreAt s 0 with places := [(0, { loadPlace with record := BitVec.ofNat 512 (0x10000 * 2 ^ 128) })] }


/-! Events. -/

/-- The state that an outcome goes on with. -/
def nx : Host.Outcome State Fault Refusal → State
  | .next s => s
  | _ => base

/-- The access that an instruction of the access stream has started, first in the list. -/
def flight (s : State) : Flight := s.flights.headD ⟨0, 0, .stdesc, [], false, false, false, 0, 0, []⟩

/-- A load of 128 bits, a descriptor load, an LDX, a store, a descriptor store, atomics, an arrival and a copy in flight. -/
def loading : State := nx (exec (.ld 0xA8 1 .team .rlx .w128) (onA bases))
def descLoading : State := nx (exec (.lddesc 0xA8 1 .team .rlx) (onA bases))
def tileLoading : State := nx (exec (.ldx 0xC1 1 .team .rlx .w32 0) (converting (onA bases)))
def storing : State := nx (exec (.st 3 1 .team .rlx .w32) (onA bases))
def descStoring : State := nx (exec (.stdesc 0xC4 1 .team .rlx) (onA bases))
def adding (nr : Bool) : State := nx (exec (.aadd 0xC5 1 .team .rlx .w32 nr) (onA bases))
def arriving : State := nx (exec (.arrive 2 0xC1 .team) (onA bases))
def arrivingC : State := nx (exec (.arrive 0xC0 0xC1 .team) (onC id))
def copying (arv : Bool) : State := nx (exec (.acpG2s 4 3 2 .s16 arv) (onA fun sl => setA 4 (Config.aliasBase + 0x80) (bases sl)))

/-- Whether an access is due, and writable at its targets and at its copy destinations. -/
def dueOk (s : State) : Bool :=
  let f := flight s
  decide (flightAt s 0 = some f) && canPerform s f && f.lanes.all (fun a => !isRemote a.tgt && !isRemote a.dst && !a.bad) &&
    !f.sent && !(sliceAt s f.owner).rollback

theorem due_of {s : State} (h : dueOk s = true) : Due s 0 (flight s) := by
  unfold dueOk at h
  simp only [Bool.and_eq_true, decide_eq_true_eq, Bool.not_eq_true', List.all_eq_true] at h
  obtain ⟨⟨⟨⟨h1, h2⟩, h3⟩, h4⟩, h5⟩ := h
  exact ⟨h1, h2, fun a ha => (h3 a ha).1, h4, fun a ha => (h3 a ha).2, h5⟩

def writableOk (s : State) (dst : LaneAcc → Target) : Bool :=
  (flight s).lanes.all fun a => mayWrite s (keyCtx s (flight s).owner) (dst a) && decide ((dst a).dup = none)

theorem writable_of {s : State} {dst : LaneAcc → Target} (h : writableOk s dst = true) : Writable s (flight s) dst := by
  unfold writableOk at h
  simp only [Bool.and_eq_true, decide_eq_true_eq, List.all_eq_true] at h
  exact h

/-- A load from the scratch of another team of the context, which has ended since. -/
def orphaned : State :=
  putTeam (nx (exec (.ld 0xA8 1 .team .rlx .w32) (putTeam (onA fun sl => setA 1 (sramAddr 5 0x80) sl) 80 (some loadTeam)))) 80 none

/-- LoadsFill: scratch that has gone under every lane. -/
theorem witness_load_gone : Due orphaned 0 (flight orphaned) ∧ isLoad (flight orphaned) = true ∧
    (goneLanes orphaned (flight orphaned)).length = 4 :=
  ⟨due_of (by decide +kernel), by decide +kernel⟩

/-- Blocks under key id 0, which nothing has written under another. -/
theorem oneKey_of {s : State} {n : Nat} {ts : List Target} (h : (ts.all fun t =>
    decide (t.key = 0) && (keyBlocks t.loc n).all (plainUnder s 0)) = true) : OneKey s n ts := by
  simp only [List.all_eq_true, Bool.and_eq_true, decide_eq_true_eq] at h
  exact ⟨0, h⟩

/-- LoadsFill and MemoryFrame: sound data, and one byte of lane 0 that holds an error. -/
theorem witness_load_fill : Due loading 0 (flight loading) ∧ Due descLoading 0 (flight descLoading) ∧
    Due tileLoading 0 (flight tileLoading) ∧
    (flight loading).kind = .load 16 [0, 1, 2, 3] ∧ goneLanes loading (flight loading) = [] ∧ goneLanes tileLoading (flight tileLoading) = [] ∧
    ((flight loading).lanes.filter fun a => poisoned loading a.tgt.loc 16) = [] ∧
    ((flight loading).lanes.filter fun a => poisoned { loading with poison := [(0x10080 / 4, true)] } a.tgt.loc 16) ≠ [] ∧
    (flight descLoading).kind = .lddesc [0] ∧ (flight tileLoading).kind = .ldx 4 [0] 0 ∧
    ((flight tileLoading).lanes.all fun a => !localBad tileLoading (flight tileLoading) a) = true :=
  ⟨due_of (by decide +kernel), due_of (by decide +kernel), due_of (by decide +kernel), by decide +kernel⟩

/-- StoresPerform and MemoryFrame: each kind of write. -/
theorem witness_store_performed :
    (∀ s ∈ [storing, descStoring, adding false, adding true, arriving, arrivingC],
      dueOk s = true ∧ writableOk s (·.tgt) = true) ∧
    OneKey storing 4 ((flight storing).lanes.map (·.tgt)) ∧
    (flight storing).kind = .store 4 ∧ (flight descStoring).kind = .stdesc ∧
    (flight (adding false)).kind = .atomic 0 4 [0] true ∧ (flight (adding true)).kind = .atomic 0 4 [] false ∧
    (adding true).poison = [] ∧ (flight arriving).kind = .arrive false ∧ (flight arrivingC).kind = .arrive true ∧
    (flight arrivingC).lanes.length = 1 :=
  ⟨by decide +kernel, oneKey_of (by decide +kernel), by decide +kernel⟩

theorem witness_due : Due storing 0 (flight storing) ∧ Writable storing (flight storing) (·.tgt) :=
  ⟨due_of (by decide +kernel), writable_of (by decide +kernel)⟩

/-- CopiesComplete and MemoryFrame: with and without an arrival. -/
theorem witness_copy_complete : (∀ arv, Due (copying arv) 0 (flight (copying arv))) ∧
    (∀ arv, Writable (copying arv) (flight (copying arv)) (·.dst)) ∧
    (flight (copying false)).kind = .acp 16 4 none ∧
    (match (flight (copying true)).kind with
      | .acp 16 4 (some t) => arvReady (copying true) 0 0 (some t) && mayWrite (copying true) 0 t
      | _ => false) = true ∧ arvReady (copying false) 0 0 none = true ∧ (copying true).poison = [] ∧
    (∀ arv, copyMayWrite (copying arv) (flight (copying arv)) = true) ∧
    (∀ a ∈ (flight (copying true)).lanes, mayWrite (copying true) 0 a.tgt = true) :=
  ⟨fun arv => due_of (by cases arv <;> decide +kernel), fun arv => writable_of (by cases arv <;> decide +kernel), by decide +kernel⟩

/-- Whether a check fails. -/
def isBad : Chk → Bool
  | .bad _ => true
  | _ => false

/-- A slice in a WAITADDR on a word of 0, in a SLEEPUNTIL until 0, and in one with a barrier. -/
def waiting_ (w : Wait) : State := onA fun sl => { sl with a := { sl.a with wait := w } }

/-- WaitsEnd: a word that differs, a page that has gone away, and addresses that fail their check: the word of a team that
has ended, and a barrier there. -/
theorem witness_waits_end :
    let t : Target := ⟨.hbm, 0x10080, none, 0, 0x10080⟩
    let s := waiting_ (.addr t 4 1 false [0xC1, 1])
    (sliceAt s 0).held = false ∧ (sliceAt s 0).a.wait = .addr t 4 1 false [0xC1, 1] ∧ envOf s 0 true = some envA ∧ (sliceAt s 0).park = none ∧
    checkAddr s (laneSpec envA 4 false false) (refusedOf (sliceAt s 0)) 0x10080 = .ok t ∧ isRemote t = false ∧ served s 0 t = true ∧
    probe (putSlice s 0 { sliceAt s 0 with park := none }) 0 t 4 1 = .go ∧
    checkAddr { s with tlb := [] } (laneSpec envA 4 false false) (refusedOf (sliceAt s 0)) 0x10080 = .miss 1 ∧
    isBad (checkAddr s (laneSpec envA 4 false false) (refusedOf (sliceAt s 0)) (sramAddr 5 0x80)) = true ∧
    (sliceAt (waiting_ (.sleep 0 none 0 [1])) 0).a.wait = .sleep 0 none 0 [1] ∧ (0 : Word64).toNat ≤ base.clock.toNat ∧
    envOf (waiting_ (.sleep 0 none 0 [1])) 0 true = some envA ∧
    envOf (waiting_ (.sleep 0 (some (BitVec.ofNat 64 (Config.aliasBase + 0x80))) 0 [1, 2])) 0 true = some envA ∧
    isBad (checkAddr (waiting_ .none) (barrierSpec envA) (fun _ => false) (sramAddr 5 0x80)) = true ∧
    (sliceAt (waiting_ .none) 0).check = none ∧
    okChk (checkAddr (waiting_ .none) (barrierSpec envA) (fun _ => false) (Config.aliasBase + 0x80)) = true ∧
    acqPending (waiting_ .none) 0 = false ∧ (waiting_ .none).flights = [] ∧ (waiting_ .none).poison = [] ∧
    promiseKept (waiting_ .none) (BitVec.ofNat 64 (Config.aliasBase + 0x80)) (sramAddr 0 0x80) = true ∧
    promiseKept (waiting_ .none) (BitVec.ofNat 64 (Config.aliasBase + 0x81)) (sramAddr 0 0x80) = false := by
  decide +kernel


/-- DecodeEncode: a word of a lane stream and one of a scribe program. -/
theorem witness_encode : wellFormed (.acas 0x03 1 .dev .ar .w64 false) = true ∧
    (encode (.acas 0x03 1 .dev .ar .w64 false)).isSome = true ∧ isScribe (.acas 0x03 1 .dev .ar .w64 false) = false ∧
    wellFormed (.kloop 3 5 0x1FFFF) = true ∧ (encode (.kloop 3 5 0x1FFFF)).isSome = true ∧
    isScribe (.kloop 3 5 0x1FFFF) = true := by decide

/-- A scheduled state with a word placed, whose first move is the unit that runs it. -/
def fetching (w : Nat) : State := State.reset.withFetchWord 32 w

/-- The same at the start of its move. -/
def begun (w : Nat) (u : Issuer) : State := beginMove (fetching w) ⟨0, .issue u, [], [], [], [], []⟩ []

/-- StepRunsDecoded: an event; a unit of each kind, present and ready, with its word; a PC past its section, and a word that
decodes to nothing. -/
theorem witness_step_units :
    (fetching 0x1C_03_07_00).sched = [⟨0, .issue (.compute 0), [], [], [], [], []⟩] ∧ (fetching 0x1C_03_07_00).boot.powered = true ∧
    (∀ p ∈ ([(0x1C_03_07_00, .compute 0), (0xED_00_00_00, .compute 0), (0xC1_A8_10_08, .access 0), (0xF8_0C_00_00, .trap 0),
      (0x81_14_00_08, .scribe 0 0)] : List (Nat × Issuer)), (fetching p.1).sched = [⟨0, .issue p.2, [], [], [], [], []⟩] ∧
      unitPresent (begun p.1 p.2) p.2 = true ∧ unitIssues (begun p.1 p.2) p.2 = true) ∧
    { fetching 0 with sched := [⟨5, .event .tokenRefill, [], [], [], [], []⟩] }.sched = [⟨5, .event .tokenRefill, [], [], [], [], []⟩] := by
  decide +kernel

theorem witness_step_words :
    let s := begun 0x1C_03_07_00 (.compute 0)
    teamAt s 0 = some loadTeam ∧ launchAt s 0 = some loadLaunch ∧ inCode loadHeader false 64 = true ∧
    inCode loadHeader false 128 = false ∧ inCode loadHeader false 124 = true ∧ imageWord s 0 0 64 = some 0x1C_03_07_00#32 ∧
    imageWord (begun 0x80_00_00_00 (.compute 0)) 0 0 64 = some 0x80_00_00_00#32 ∧
    is .illegalOp (match decodeLane 0x80_00_00_00#32 with
      | .error .illegalOp => .ok .illegalOp
      | x => x) = true := by decide +kernel

theorem witness_step_trap :
    let s := begun 0xF8_0C_00_00 (.trap 0)
    let pc := (sliceAt s trapBase).a.pc.toNat
    pc < Config.sramBase ∧ pc % 4 = 0 ∧ tlbFind s (vdevOf (keyCtx s trapBase)) pc = some loadLeaf ∧
    bitAt loadLeaf.pte.toNat 3 = false ∧ isRemote (leafTarget loadLeaf pc) = false ∧
    targetReady s (leafTarget loadLeaf pc) = true ∧ served s (vdevOf (keyCtx s trapBase)) (leafTarget loadLeaf pc) = true ∧
    is (.eret 3) (decodeLane (BitVec.ofNat 32 (readBytes s.mem (leafTarget loadLeaf pc).loc 4))) = true := by
  decide +kernel

theorem witness_step_scribe :
    let s := begun 0x81_14_00_08 (.scribe 0 0)
    progAt s 0 0 = some loadProg ∧ loadProg.count < 65536 ∧ inScribe s loadProg.launch loadProg.regs.pc = true ∧
    imageWord s loadProg.ctx loadProg.launch loadProg.regs.pc = some 0x81_14_00_08#32 := by decide +kernel

/-- ResetState and ResetKept have no hypotheses; StepKeepsMemory: a kept state that steps on. -/
theorem witness_kept : Memory.wf (fetching 0x1C_03_07_00).mem = true ∧ awf (0 : BitVec 16) (fetching 0x1C_03_07_00).desc = true ∧
    (match step (fetching 0x1C_03_07_00) with
      | .next t => t.mem.length
      | _ => 0) = 3 := by decide +kernel

/-- AddressRules: the ends of each region, the last cluster and core that exist, and the first that do not. -/
theorem witness_addresses :
    let q : AccSpec := laneSpec envA 4 false false
    regionOf 0 0x00FE_FFFF_FFFF_FFFF = .paged ∧
    regionOf 7 (0x00FF_0000_0000_0000 + 7 * 2 ^ 28 + 11 * 2 ^ 24 + 23 * 2 ^ 19 + (2 ^ 19 - 1)) = .sram 2303 (2 ^ 19 - 1) ∧
    regionOf 7 (0x00FF_0000_0000_0000 + 12 * 2 ^ 24) = .unused ∧ regionOf 7 (0x00FF_0000_0000_0000 + 24 * 2 ^ 19) = .unused ∧
    regionOf 7 0x00FF_0001_0007_FFFF = .sram 7 (2 ^ 19 - 1) ∧ regionOf 7 0x00FF_0001_0008_0000 = .unused ∧
    regionOf 7 0x00FF_0000_8000_0000 = .unused ∧ regionOf 7 0x00FF_0000_FFFF_FFFF = .unused ∧
    0x00FF_0001_0008_0000 % q.align = 0 ∧ q.core < 2304 ∧ 2 ^ 19 % q.align = 0 ∧
    okChk (checkAddr (onA id) q (fun _ => false) (Config.aliasBase + 4092)) = true := by decide +kernel

/-- ScratchRules: the last bytes of the allotment, and a core without a team. -/
theorem witness_scratch :
    let q : AccSpec := laneSpec envA 4 false false
    regionOf q.core (Config.aliasBase + 4092) = .sram 0 4092 ∧ okChk (checkAddr (onA id) q (fun _ => false) (Config.aliasBase + 4092)) = true ∧
    regionOf q.core (sramAddr 5 0) = .sram 5 0 ∧ sramAddr 5 0 < 2 ^ 56 ∧ sramAddr 5 0 % q.align = 0 ∧
    (match q.space with
      | .paged _ => false
      | _ => true) = true ∧ q.conv = false ∧ regionOf q.core (Config.aliasBase + 4096) = .sram 0 4096 ∧
    (∀ p ∈ (onA id).teams, ∀ team ∈ p.2, team.ctx = q.ctx → 4096 < team.base ∨ team.base + team.size ≤ 4096) ∧
    (∀ p ∈ (onA id).teams, ∀ team ∈ p.2, ¬(p.1 / 16 = 5 ∨ team.phase = .saved ∧ team.home = 5)) ∧ 0 < q.bytes := by
  decide +kernel

/-- A scribe program on scribe 0 in context 0, changed, at the start of its section. -/
def onS (f : Prog → Prog) : State :=
  { putProg (State.reset.withFetchWord 32 0x81_14_00_08) 0 0 (some (f loadProg)) with issuer := .scribe 0 0 }

/-- A program with registers: k1 an address in paged memory, k2 one in the allotment, k3 a count of 2^32−1, k5 = 1. -/
def running : Prog :=
  { loadProg with regs := ⟨64, [(1, 0x10080), (2, BitVec.ofNat 64 (Config.aliasBase + 0x80)), (3, 0xFFFFFFFF), (5, 1)],
      [(0, 1, 72), (1, 2, 64)], []⟩ }

/-- A layout record of two dimensions of 8 elements, tiles of 8 by 8, of BF16 elements. -/
def layout : BitVec 1536 :=
  BitVec.ofNat 1536 (0x10000 + 2 * 2 ^ 128 + 4 * 2 ^ 136 + 8 * 2 ^ 192 + 8 * 2 ^ 224 + 16 * 2 ^ 384 + 8 * 2 ^ 704 + 8 * 2 ^ 720)

/-- A program whose generators g0 and g1 are bound to that record, and g2 to one of a single dimension. -/
def bound : Prog :=
  { running with regs := { running.regs with g := [(0, some ⟨0x10040, layout, []⟩), (1, some ⟨0x10040, layout, []⟩),
      (2, some ⟨0x10040, layout - BitVec.ofNat 1536 (2 ^ 128), []⟩)] } }

theorem witness_layout : recordBad layout = none ∧ rowsBad layout = none ∧ rowsBad (layout - BitVec.ofNat 1536 (2 ^ 128)) = some 16 ∧
    recFmt layout = 4 ∧ recConv layout = 0 ∧ tileCount layout = 64 ∧ sourceCount layout = 64 ∧ codeScaled 4 = false := by
  decide +kernel

/-- Whether a range lies here, behind one target. -/
def reachOk (s : State) (p : Prog) (r : Span) (t : Target) : Bool :=
  decide (chkSpan s p r = ([(t, r.bytes)], none)) && !isRemote t && targetReady s t && sramInPlace s p.ctx t r.bytes &&
    served s (vdevOf p.ctx) t

theorem reach_of {s : State} {p : Prog} {r : Span} {t : Target} (h : reachOk s p r t = true) : Reach s p r t := by
  unfold reachOk at h
  simp only [Bool.and_eq_true, decide_eq_true_eq, Bool.not_eq_true'] at h
  obtain ⟨⟨⟨⟨h1, h2⟩, h3⟩, h4⟩, h5⟩ := h
  exact ⟨h1, h2, h3, h4, h5⟩

/-- Whether its bytes are sound, too. -/
def hereOk (s : State) (p : Prog) (r : Span) (t : Target) : Bool :=
  reachOk s p r t && (r.write || !poisoned s t.loc r.bytes)

theorem here_of {s : State} {p : Prog} {r : Span} {t : Target} (h : hereOk s p r t = true) : Here s p r t := by
  unfold hereOk at h
  simp only [Bool.and_eq_true, Bool.or_eq_true, Bool.not_eq_true'] at h
  refine ⟨reach_of h.1, fun hw => h.2.resolve_left fun hr => ?_⟩
  rw [hw] at hr
  cases hr

/-- Whether it may be written, too. -/
def takesOk (s : State) (p : Prog) (r : Span) (t : Target) : Bool :=
  hereOk s p r t && (mayWrite s p.ctx t && (decide (t.dup = none) && (!suspended s p t && (!entryHeld s p.ctx t && !readsFirst s p.owner p.mark t r.bytes))))

theorem takes_of {s : State} {p : Prog} {r : Span} {t : Target} (h : takesOk s p r t = true) : Takes s p r t := by
  simp only [takesOk, Bool.and_eq_true, decide_eq_true_eq, Bool.not_eq_true'] at h
  exact ⟨here_of h.1, h.2.1, h.2.2.1, h.2.2.2.1, h.2.2.2.2.1, h.2.2.2.2.2⟩

theorem runs_of {s : State} {p : Prog} (h : s.issuer = .scribe 0 0 ∧ progAt s 0 0 = some p) : Runs s 0 0 p := ⟨h.1, h.2⟩

/-- ScribeArithmetic, ScribeControl: a program that does not run out, one at the last word of its section, branch targets
at both ends, conditions of both kinds, loop counts of 0, 1, 2 and 2^32−1, and cached and uncached records. -/
theorem witness_scribe_runs : Runs (onS fun _ => running) 0 0 running ∧ runsOut (onS fun _ => running) running = false ∧
    runsOut (onS fun _ => running) { running with regs := { running.regs with pc := 124 } } = true ∧
    kreg running 1 ≠ 0 ∧ kreg running 0 = 0 ∧ kreg running 3 = 2 ^ 32 - 1 ∧ 2 ^ 32 ≤ kreg running 2 ∧
    aget (0, 0) running.regs.l 0 = (1, 72) ∧ aget (0, 0) running.regs.l 1 = (2, 64) ∧ aget (0, 0) running.regs.l 2 = (0, 0) ∧
    (encode (.kloop 0 2 1)).isSome = true ∧ (encode (.kendloop 2)).isSome = true ∧ (encode (.gstep 4 0 7)).isSome = true ∧
    (encode (.gaddr 4 0)).isSome = true ∧ (genOf running 0).isNone = true :=
  ⟨runs_of (by decide +kernel), by decide +kernel⟩

theorem witness_scribe_inside : Inside (onS fun _ => running) running 64 ∧ Inside (onS fun _ => running) running 124 ∧
    ¬Inside (onS fun _ => running) running 128 ∧ ¬Inside (onS fun _ => running) running 60 := by
  unfold Inside
  decide +kernel

/-- The record in memory and in the cache. -/
def withLayout (s : State) : State := { s with mem := writeBytes s.mem 0x10080 192 layout.toNat }
def cachedLayout (s : State) : State := cacheRec s 0 0 0x10080 0x10080 layout

/-- A layout of E2M1 elements, a nibble each. -/
def oddLayout : BitVec 1536 := layout + BitVec.ofNat 1536 (14 * 2 ^ 136)

/-- Generators: a record read from memory, one from the cache, and a bound one; the hypotheses of ScribeControl. -/
theorem witness_scribe_generators : Runs (withLayout (onS fun _ => running)) 0 0 running ∧
    Here (withLayout (onS fun _ => running)) running (plainSpan 0x10080 192 64 false) ⟨.hbm, 0x10080, none, 0, 0x10080⟩ ∧
    Runs (cachedLayout (onS fun _ => running)) 0 0 running ∧
    cachedRec (withLayout (onS fun _ => running)) 0 0 0x10080 (placeOfTarget ⟨.hbm, 0x10080, none, 0, 0x10080⟩) = none ∧
    recordBad (BitVec.ofNat 1536 (seenVal (withLayout (onS fun _ => running)) ⟨.hbm, 0x10080, none, 0, 0x10080⟩ 192)) = none ∧
    recordPlace (cachedLayout (onS fun _ => running)) running (plainSpan (kreg running 1) 192 64 false) = some 0x10080 ∧
    cachedRec (cachedLayout (onS fun _ => running)) 0 0 0x10080 0x10080 = some layout ∧
    recordBad (heldRec (withLayout (onS fun _ => running)) 0 0 running (plainSpan 0x10080 192 64 false) layout) = none ∧
    recordBad (heldRec (onS fun _ => running) 0 0 running (plainSpan 0x10080 192 64 false) 0) = recordBad 0 ∧ recordBad 0 ≠ none ∧
    (genOf bound 0).isSome = true ∧ 1 < recNdim layout ∧ recNdim layout ≤ 7 ∧ elemNibble layout (fun _ => 0) % 2 = 0 ∧
    elemNibble (oddLayout) (orig ⟨0, oddLayout, [(0, 1)]⟩) % 2 = 1 ∧ recordBad (layout - BitVec.ofNat 1536 (2 ^ 129)) = some 16 :=
  ⟨runs_of (by decide +kernel), here_of (by decide +kernel), runs_of (by decide +kernel), by decide +kernel⟩

/-- ScribeMemory: words in paged memory and SRAM, a barrier, in either phase, and no remote writes. -/
theorem witness_scribe_memory :
    let s := onS fun _ => running
    let place : Target := ⟨.hbm, 0x10080, none, 0, 0x10080⟩
    let bar : Target := ⟨.sram, sramAddr 0 0x80, none, 0, Config.aliasBase + 0x80⟩
    Runs s 0 0 running ∧ Here s running (plainSpan (kaddr running 1 0) 8 8 false) place ∧
    Takes s running (plainSpan (kaddr running 1 0) 8 8 true) place ∧ Takes s running (barSpan (kreg running 2) true) bar ∧
    Reach s running (barSpan (kreg running 2) false) bar ∧ Takes s running (plainSpan (kreg running 1) 4 4 true) place ∧
    Reach { s with poison := [((sramAddr 0 0x80 + 8) / 4, true)] } running (barSpan (kreg running 2) false) bar ∧
    poisoned { s with poison := [((sramAddr 0 0x80 + 8) / 4, true)] } (sramAddr 0 0x80 + 8) 1 = true ∧
    poisoned s (sramAddr 0 0x80 + 8) 1 = false ∧ poisoned s (sramAddr 0 0x80) 9 = false ∧ running.remote = 0 ∧
    readsOpen s running.owner running.mark = false ∧
    bitAt (readByte s.mem (sramAddr 0 0x80 + 8)).toNat 0 = bitAt (kreg running 0) 0 ∧
    bitAt (readByte s.mem (sramAddr 0 0x80 + 8)).toNat 0 ≠ bitAt (kreg running 5) 0 :=
  ⟨runs_of (by decide +kernel), here_of (by decide +kernel), takes_of (by decide +kernel), takes_of (by decide +kernel),
    reach_of (by decide +kernel), takes_of (by decide +kernel), reach_of (by decide +kernel), by decide +kernel⟩

/-- ScribeDataStarts: bound generators with fit and unfit rows, and a conversion of BF16 to BF16 with scale 0. -/
theorem witness_scribe_data : Runs (onS fun _ => bound) 0 0 bound ∧ genOf bound 0 = some ⟨0x10040, layout, []⟩ ∧
    genOf bound 1 = some ⟨0x10040, layout, []⟩ ∧ genOf bound 2 = some ⟨0x10040, layout - BitVec.ofNat 1536 (2 ^ 128), []⟩ :=
  ⟨runs_of (by decide +kernel), by decide +kernel⟩

/-- A program queued on scribe 0, and one in LINE, in REDUCE, in WAITB, at its end, and cancelled. -/
def queued : State :=
  putQueue (putProg (onS fun _ => running) 0 0 none) 0 0 { SQueue.zero with items := [running], next := 1 }
def lining : Prog := { running with data := some ⟨.line 2 1 2, 0, 2, [], none⟩ }
def reducing : Prog := { running with data := some ⟨.reduce 2 1 .addi 1, 0, 1, [], none⟩ }
def halted : Prog := { running with failed := some 3 }
def waitingB : Prog := { running with waitb := some (BitVec.ofNat 64 (Config.aliasBase + 0x80), false) }

/-- A program that is to resume in context 0 of scribe 0 and waits for its record, and one queued behind it. -/
def resuming : State := putProg queued 0 0 (some { running with res := true, park := some ⟨1, false, false, none⟩ })

/-- ScribeEvents. -/
theorem witness_scribe_events :
    Here (onS fun _ => lining) lining (plainSpan (wrap 64 ((kreg lining 1 : Int) + 64 * 0)) 64 64 false)
      ⟨.hbm, 0x10080, none, 0, 0x10080⟩ ∧
    Takes (onS fun _ => lining) lining (plainSpan (wrap 64 ((kreg lining 2 : Int) + 64 * 0)) 64 64 true)
      ⟨.sram, sramAddr 0 0x80, none, 0, Config.aliasBase + 0x80⟩ ∧
    Reach (onS fun _ => waitingB) waitingB (barSpan (Config.aliasBase + 0x80) false)
      ⟨.sram, sramAddr 0 0x80, none, 0, Config.aliasBase + 0x80⟩ ∧
    progAt queued 0 0 = none ∧ (∀ y ∈ ctxNums, (progAt queued 0 y).isNone = true) ∧
    1 ∈ ctxNums ∧ progAt resuming 0 1 = none ∧ (progAt resuming 0 0).isSome = true ∧ (nextQueue resuming 0).isSome = true ∧
    (∀ y ∈ ctxNums, ((progAt resuming 0 y).all fun r => !r.res || r.park.any fun k => !k.refused) = true) ∧
    (match nextQueue queued 0 with
      | some (vq, q) => vq == 0 && decide (q.items = [running])
      | none => false) = true ∧
    progAt (onS fun _ => lining) 0 0 = some lining ∧ lineReady (onS fun _ => lining) 0 0 lining = true ∧ lining.cancel = false ∧ 0 + 1 < 2 ∧
    progAt (onS fun _ => reducing) 0 0 = some reducing ∧ lineReady (onS fun _ => reducing) 0 0 reducing = true ∧ reducing.cancel = false ∧
    runsOut (onS fun _ => reducing) reducing = false ∧ poisoned (onS fun _ => reducing) (sramAddr 0 0x80) 64 = false ∧
    progAt (onS fun _ => waitingB) 0 0 = some waitingB ∧ waitingB.cancel = false ∧ waitingB.park = none ∧
    onOwned (onS fun _ => waitingB) 0 waitingB = true ∧
    progAt (onS fun _ => { running with ending := true }) 0 0 = some { running with ending := true } ∧
    progAt (onS fun _ => { running with cancel := true }) 0 0 = some { running with cancel := true } ∧ running.remote = 0 ∧
    running.failed = none ∧ progAt (onS fun _ => halted) 0 0 = some halted ∧ recordWaits (onS fun _ => halted) (.scribe 0 0) = false ∧
    (onS fun _ => running).issuer = .scribe 0 0 :=
  ⟨here_of (by decide +kernel), takes_of (by decide +kernel), reach_of (by decide +kernel), by decide +kernel⟩

/-- The placed machine with a trap handler at 0x10040 and an error-record area of four records at 0x10800. -/
def trapping (s : State) : State :=
  { putCore s 0 { coreAt s 0 with places := [(0, { loadPlace with record := BitVec.ofNat 512 (0x10040 + 0x10800 * 2 ^ 64) })] } with
    mem := writeBytes s.mem 0x10804 2 4 }

/-- Where a record goes. -/
def recAt : RecOut → Nat
  | .written _ a => a
  | _ => 0

/-- FaultHoldsSlice: the record's place is there. -/
theorem witness_fault_holds : 0 < trapBase ∧ teamAt (trapping base) 0 = some loadTeam ∧
    recAt (tryRecord (trapping base) 0 0 (fun _ => false) (sliceRecord (trapping base) 1 0 0 0 (plainFault codeILLEGAL_OP))) = 0x10A00 := by
  decide +kernel

/-- Streams that wait for each other's queue; and two slices that wait at different slots. -/
def stuck (c a : Stream → Stream) : State := onC fun sl => { sl with
  c := c { sl.c with stall := true, qstall := true }, a := a { sl.a with stall := true, qstall := true } }
def twoSlices : State :=
  let s := putTeam base 0 (some { loadTeam with s := 2 })
  putSlice (putSlice s 0 { sliceAt s 0 with c := { (sliceAt s 0).c with wait := .bar 1 } }) 1
    { loadSlice with c := { loadSlice.c with wait := .bar 2 } }
def watched : State := putTeam base 0 (some { loadTeam with wd := 2 ^ 24 })

/-- TeamTraps: a deadlock in either stream, mismatched slots, a watchdog at its limit, and a stream that issues. -/
theorem witness_team_traps : Solo (onC id) 0 false envC ∧ Solo (onA id) 0 true envA ∧ 32 * 0 + 32 ≤ trapBase ∧ loadTeam.s ≤ 32 ∧
    deadlocked (sliceAt (stuck id id) 0) = true ∧ (sliceAt (stuck id id) 0).c.exited = false ∧
    deadlocked (sliceAt (stuck (fun c => { c with exited := true }) id) 0) = true ∧
    deadlocked (sliceAt (stuck id fun a => { a with exited := true }) 0) = true ∧
    barMismatched twoSlices 0 { loadTeam with s := 2 } false = true ∧
    teamAt watched 0 = some { loadTeam with wd := 2 ^ 24 } ∧
    watchdogLimit watched 0 { loadTeam with wd := 2 ^ 24 } ≤ 2 ^ 24 ∧ heldMask watched 0 { loadTeam with wd := 2 ^ 24 } = 0 ∧
    loadTeam.phase = .running :=
  ⟨solo_of (by decide +kernel), solo_of (by decide +kernel), by decide +kernel⟩

/-- A pending record of slice 0. -/
def pendingRec : State :=
  let s := trapping base
  putCore s 0 { coreAt s 0 with pend := [⟨0, 0, 0x10A00, 0, 0⟩] }

/-- InvocationOpens. -/
theorem witness_invocation : (coreAt pendingRec 0).invoc = false ∧
    (coreAt pendingRec 0).pend.find? (fun q => (teamAt pendingRec q.team).any fun t => t.phase != .saved) =
      some ⟨0, 0, 0x10A00, 0, 0⟩ ∧ teamAt pendingRec 0 = some loadTeam ∧ recTvec (ctxRecord pendingRec 0 loadTeam.ctx) ≠ 0 := by
  decide +kernel

/-- A walk, with page tables at 0x20000 that map page 2 and nothing else, and a slice that waits for it. -/
def walking (page : Nat) : State :=
  let s := onA fun sl => { sl with park := some ⟨page, false, false, none⟩ }
  let m := writeBytes s.mem 0x20000 8 (1 + 0x21000)
  let m := writeBytes m 0x21000 8 (1 + 0x22000)
  let m := writeBytes m 0x22000 8 (1 + 0x23000)
  let m := writeBytes m 0x23000 8 (1 + 0x24000)
  let m := writeBytes m 0x24010 8 (7 + 0x30000)
  { putVdev s 0 { VDev.zero with record := BitVec.ofNat 512 0x20000 } with
    mem := m, walks := [⟨7, 0, page, false, 0, 0, none⟩], partitions := [(0, BitVec.ofNat 512 (1 + 2 ^ 8 + 2 ^ 160))] }

/-- A page request, and one written 100,000 microseconds ago. -/
def requesting (t : Option Nat) : State :=
  { putVdev base 0 { VDev.zero with record := BitVec.ofNat 512 (0x10800 * 2 ^ 160 + 4 * 2 ^ 224) } with
    pageReqs := [⟨7, 0, 2, false, 0, 0, 0, 0, none, none, t⟩], clock := BitVec.ofNat 64 (2 ^ 40) }

/-- PagingEvents. -/
theorem witness_paging : (∀ page, (walking page).walks.find? (fun w => w.id = 7) = some ⟨7, 0, page, false, 0, 0, none⟩) ∧
    ((((walking 2).walks.takeWhile fun x => x.id != 7).filter fun x => dieOf x.core = 0).length < 4096) ∧
    walkReady (walking 2) 0 (2 * 2 ^ 16) = true ∧ walkAddr (walking 2) 0 (2 * 2 ^ 16) = .leaf 16 (7 + 0x30000) ∧
    bitAt (7 + 0x30000) 2 = true ∧ awf Slice.zero (walking 2).slices = true ∧
    (sliceAt (walking 2) 0).park = some ⟨2, false, false, none⟩ ∧ vdevOf (keyCtx (walking 2) 0) = 0 ∧
    walkReady (walking 3) 0 (3 * 2 ^ 16) = true ∧ walkAddr (walking 3) 0 (3 * 2 ^ 16) = .none 0 ∧
    (requesting none).pageReqs.find? (fun r => r.id = 7) = some ⟨7, 0, 2, false, 0, 0, 0, 0, none, none, none⟩ ∧
    ringFull (vdevSt (requesting none) 0).prqW (vdevSt (requesting none) 0).prqCons (prqLen (requesting none) 0) = false ∧
    (requesting (some 0)).pageReqs.find? (fun r => r.id = 7) = some ⟨7, 0, 2, false, 0, 0, 0, 0, none, none, some 0⟩ ∧
    prTimeout (requesting (some 0)) 0 ≤ (requesting (some 0)).clock.toNat - 0 :=
  ⟨fun _ => rfl, by decide +kernel⟩

/-- A compute stream with ageing due, one that wants a spilled register, a team with a moved page, and a slice that stalls. -/
def aged : State := onC fun sl => { sl with c := { sl.c with count := 1024 } }
def wanting : State := onC fun sl =>
  putInfo false { sl with c := { sl.c with want := [5] } } 5 { RegInfo.zero with loc := .scratch }
def movedTeam : Team := { loadTeam with moved := [0], spill := [(1, 9)] }
def movedOut : State := putTeam (withPool base) 0 (some movedTeam)
def pooled : State := withPool (onC fun sl => putInfo false sl 5 { RegInfo.zero with loc := .hbm })
def idling (sw : Bool) : State :=
  { onC fun sl => { sl with c := { sl.c with exited := !sw, wait := if sw then .none else sl.c.wait }, a := { sl.a with wait := if sw then .none else .bar 0 }, swapped := sw } with
    clock := BitVec.ofNat 64 4097 }

/-- RegisterEvents. -/
theorem witness_registers : teamAt aged 0 = some loadTeam ∧ (sliceAt aged 0).c.aged < (sliceAt aged 0).c.count / 1024 ∧
    5 ∈ (sliceAt wanting 0).c.want ∧ (regInfo false (sliceAt wanting 0) 5).loc = .scratch ∧
    teamAt movedOut 0 = some movedTeam ∧ 0 ∈ movedTeam.moved ∧ pageTaken movedOut 0 movedTeam 0 = false ∧
    movedTeam.phase ≠ .saved ∧ (sliceAt (idling false) 0).swapped = false ∧ swapStalled (sliceAt (idling false) 0) = true ∧
    4096 < (idling false).clock.toNat - (sliceAt (idling false) 0).since ∧ heldMask (idling false) 0 loadTeam = 0 ∧
    swappedOn (idling false) 0 < 64 ∧ stalledLonger (idling false) 0 (sliceAt (idling false) 0).since = false ∧
    residentSlices (idling true) 0 < 64 ∧ movedTeam.phase ≠ .saved ∧ (sliceAt (idling true) 0).swapped = true ∧ swapStalled (sliceAt (idling true) 0) = false ∧
    entriesAt loadTeam 1 loadTeam.level ≤ freeEntries (idling true) 0 ∧
    homeReady movedOut movedTeam (pageHome movedTeam 0) 4096 = true ∧ (regInfo false (sliceAt pooled 0) 5).loc = .hbm ∧
    homeReady pooled loadTeam (registerHome loadTeam 0 false 5) (spillBytes false) = true ∧
    homeReady (withPool (idling true)) loadTeam (registerHome loadTeam 0 false 0) (16 * loadTeam.v + 32 * loadTeam.a) = true := by
  decide +kernel

/-- FoldEvents: a team with a unit; a request that would take every slice of the one context. -/
theorem witness_folds : teamAt base 0 = some loadTeam ∧ foldReqBad base 0 (0 : BitVec 64).toNat = false ∧
    foldReqBad base 0 (0xFF : BitVec 64).toNat = false ∧ awf CtxPlace.zero (coreAt base 0).places = true ∧
    (aget CtxPlace.zero (coreAt base 0).places 0).ctx = some 0 := by decide +kernel

/-- A launch of context 1 that waits for a page of scratch on every core, and a team of two pages on core 0. -/
def waiter : Launch :=
  { loadLaunch with
    ctx := 1, gx := 24, next := 0, live := 0
    hdr := BitVec.ofNat 512 (2 ^ 48 + 64 * 2 ^ 64 + 16 * 2 ^ 80 + 520192 * 2 ^ 96 + 24 * 2 ^ 128 + 24 * 2 ^ 136) }
def crowded : State :=
  let s := putVdev (putPart base) 0 { vdevSt (putPart base) 0 with ctxs := [(1, some (BitVec.ofNat 512 (2 ^ 232 + 65536 * 2 ^ 192)))] }
  putLaunch (putTeam s 0 (some { loadTeam with size := 8192 })) 1 (some waiter)

/-- FoldEvents: a request that nothing waits for, and one for 127 pages, which sends a page of the team away. -/
theorem witness_fold_requests : blockedWaiter base (clusterOf 0) none = none ∧
    blockedWaiter crowded (clusterOf 0) none = some (1, waiter) ∧
    blocked (foldCore crowded 0 (foldReqOf (127 * 2 ^ 20)) (ctxPrio crowded (clusterOf 0) 1)).1 (clusterOf 0) 1 waiter = false := by
  decide +kernel

/-- A launch of a grid of two that has placed one team. -/
def launching : State :=
  let s := putVdev (putPart base) 0 { vdevSt base 0 with ctxs := [(0, some (BitVec.ofNat 512 (256 * 2 ^ 192)))] }
  putLaunch s 0 (some { loadLaunch with gx := 2 })

/-- TeamsStart. -/
theorem witness_placement : launchAt launching 0 = some { loadLaunch with gx := 2 } ∧ placing { loadLaunch with gx := 2 } = true ∧
    chooseQuire launching 0 { loadLaunch with gx := 2 } = some (0, 1) ∧ 0 < loadTeam.s := by decide +kernel

/-- The quire of the placed team in a phase, its team in another, at a time. -/
def evicting (p : QuirePhase) (t : TeamPhase) (clock : Nat) : State :=
  let s := putQuire (putTeam base 0 (some { loadTeam with phase := t })) 0 (some ⟨0, 0, 1, [0], p, false, some 0⟩)
  { s with clock := BitVec.ofNat 64 clock }

/-- A saved quire whose teams have all ended meanwhile. -/
def savedAway : State := putQuire (putPart base) 0 (some ⟨0, 0, 1, [savedBase], .saved, false, none⟩)

/-- LadderEvents: each step, its bounds at their limits. -/
theorem witness_ladder :
    quireAt (evicting (.soft 0) .running 280000) 0 = some ⟨0, 0, 1, [0], .soft 0, false, some 0⟩ ∧
    t1Cycles (quireRecord (evicting (.soft 0) .running 280000) ⟨0, 0, 1, [0], .soft 0, false, some 0⟩) ≤ 280000 ∧
    (teamAt (evicting (.soft 0) .running 280000) 0).any (fun team => team.phase == .running) = true ∧
    allStopped (evicting (.soft 0) .stopped 2800) ⟨0, 0, 1, [0], .soft 0, false, some 0⟩ = true ∧
    (evictStart (.soft 0)).isSome = true ∧ 2 * Config.cyclesPerUs ≤ 2800 ∧
    launchAt (putLaunch base 0 (some { loadLaunch with status := 3 })) 0 = some { loadLaunch with status := 3 } ∧
    killDue (evicting (.forced 0) .stopped (2 ^ 40)) 0 = true := by decide +kernel

/-- The same with its turn among the deadline requests, for its save or its resume. -/
def inTurn (s : State) (save : Bool) : State := { s with deadlines := [⟨0, save, [], 0⟩] }

theorem witness_deadlines : (∀ save, deadlineTurn (inTurn base save) 0 save = true) ∧ (∀ save, deadlineTurn base 0 save = false) ∧
    base.deadlines = [] := by decide +kernel

theorem witness_quire_save :
    (∀ s, teamAt (inTurn s true) = teamAt s ∧ quireAt (inTurn s true) = quireAt s) ∧
    freeSaved (withPool (evicting (.soft 0) .stopped 0)) ≠ none ∧ (loadTeam.phase == .running) = true ∧
    teamBusy (withPool (evicting (.soft 0) .stopped 0)) 0 = false ∧
    scratchBusy (withPool (evicting (.soft 0) .stopped 0)) 0 = false ∧
    saveMiss true (withPool (evicting (.soft 0) .stopped 0)) 0 = none ∧ teamAt (evicting (.soft 0) .stopped 0) savedBase = none :=
  ⟨fun _ => ⟨rfl, rfl⟩, by decide +kernel⟩

theorem witness_quire_resume :
    quireAt savedAway 0 = some ⟨0, 0, 1, [savedBase], .saved, false, none⟩ ∧
    clusterUsable savedAway (partOf (vdevOf (quireCtx savedAway ⟨0, 0, 1, [savedBase], .saved, false, none⟩))) 0 = true ∧
    headerState savedAway savedBase = some true ∧ saveMiss false savedAway savedBase = none ∧
    (resumeAll [savedBase] savedAway).isSome = true := by decide +kernel

/-- Two contexts that want cluster 0: context 0 has its time slice over, a launch of context 1 waits. -/
def contended : State :=
  let s := putVdev (putPart base) 0 { vdevSt (putPart base) 0 with ctxs := [(0, some (BitVec.ofNat 512 (2 ^ 384))), (1, some 0)] }
  let s := putCore s 0 { coreAt s 0 with places := [(0, { loadPlace with record := BitVec.ofNat 512 (2 ^ 384) })] }
  { putLaunch s 1 (some { loadLaunch with ctx := 1, next := 0, live := 0 }) with clock := BitVec.ofNat 64 1400 }

theorem witness_quantum : (quantumLaunch contended 0 0).isSome = true ∧ quantumWaiters contended 0 0 ≠ [] := by
  decide +kernel

/-- A packet of ring 0 of a virtual device, with the fields of its body and of its type. -/
def packet (v typ body : Nat) (phase : PktPhase) : Packet :=
  ⟨5, v, 0, 3, BitVec.ofNat 2048 (body * 2 ^ 192 + typ * 2 ^ 2032), phase, false, none, [], [], none⟩
def withPacket (s : State) (p : Packet) : State := { s with packets := [p] }

theorem starts_of {s : State} {typ : Nat} {p : Packet} (h : pktAt s 5 = some p ∧ pktType p = typ ∧ mayStart s p = true) :
    Starts s 5 typ p := ⟨h.1, h.2.1, h.2.2⟩

/-- Whether an address field of a packet leads to ready memory. -/
def placeIs (x : CcPlace) (t : Target) : Bool := decide (x = .at t)

/-- PacketResults: each type; a LAUNCH of the placed image's header; a WAIT whose word is equal, greater, and neither; a page
response of a current generation; an invalidation that waits for nothing. -/
theorem witness_packets :
    (∀ typ ∈ [0x00, 0x01, 0x02, 0x03, 0x10, 0x11, 0x12, 0x13, 0xFF],
      Starts (withPacket base (packet 0 typ 0x10080 .read)) 5 typ (packet 0 typ 0x10080 .read)) ∧
    (∀ n ∈ [0x04, 0x13, 0xFF], n ∉ [0x00, 0x01, 0x02, 0x03, 0x10, 0x11, 0x12]) ∧
    (∀ align ∈ [4, 8, 64], placeIs (ccPlace (withPacket base (packet 0 1 0x10080 .read)) (packet 0 1 0x10080 .read) 24 align true)
      ⟨.hbm, 0x10080, none, 0, 0x10080⟩ = true) ∧
    pktAt (withPacket base (packet 0 2 0x10080 .started)) 5 = some (packet 0 2 0x10080 .started) ∧
    pktType (packet 0 2 0x10080 .started) = 2 ∧ readBytes base.mem 0x10080 4 = pfld (packet 0 2 0x10080 .started) 32 4 ∧
    readBytes base.mem 0x10080 4 ≠ pfld (packet 0 2 (0x10080 + 2 ^ 64) .started) 32 4 ∧
    serialLt 32 (pfld (packet 0 2 (0x10080 + 0xFFFFFFFF * 2 ^ 64 + 2 ^ 96) .started) 32 4) (readBytes base.mem 0x10080 4) = true ∧
    (([⟨5, 0, 0, 2 ^ 64, []⟩] : List Inval).find? (fun i => i.packet = 5)).isSome = true ∧ base.flights = [] ∧
    base.fabric.reqs = [] ∧ requestOverdue (requesting (some 0)) ⟨7, 0, 2, false, 0, 0, 0, 0, none, none, some 0⟩ = true ∧
    requestOverdue (requesting none) ⟨7, 0, 2, false, 0, 0, 0, 0, none, none, none⟩ = false := by
  refine ⟨fun typ h => ?_, by decide +kernel⟩
  simp only [List.mem_cons, List.not_mem_nil, or_false] at h
  rcases h with rfl | rfl | rfl | rfl | rfl | rfl | rfl | rfl | rfl <;> exact starts_of (by decide +kernel)

/-- ConfigResults: each kind from the reserved virtual device, and a bad kind. -/
theorem witness_config :
    (∀ k ∈ [0, 1, 2, 3, 4, 5, 6], cfgOk (withPacket (putPart base) (packet 384 0x10 k .read)) (packet 384 0x10 k .read) = true ∧
      cfgKind (packet 384 0x10 k .read) = k ∧
      (cfgVdev (withPacket (putPart base) (packet 384 0x10 k .read)) (packet 384 0x10 k .read)).getD 0 = 0 ∧
      pktAt (withPacket (putPart base) (packet 384 0x10 k .read)) 5 = some (packet 384 0x10 k .read) ∧
      pktType (packet 384 0x10 k .read) = 0x10 ∧
      mayStart (withPacket (putPart base) (packet 384 0x10 k .read)) (packet 384 0x10 k .read) = true) ∧
    cfgOk (withPacket base (packet 384 0x10 7 .read)) (packet 384 0x10 7 .read) = false ∧
    ctxRecordBad 0 = false ∧ ctxRecordBad (BitVec.ofNat 512 (2 ^ 511)) = true ∧
    partBad base 0 0 = false ∧ destBad base 0 0 = false := by decide +kernel

/-- A ring of two slots at 0x10800 with a packet published in slot 0, TAIL 1; and one that a doorbell of 3 overruns. -/
def ringing : State :=
  let s := putRing (putPart base) 0 0 ⟨BitVec.ofNat 512 (0x10800 + 2 * 2 ^ 64 + 2 ^ 80), 0, 1, true⟩
  { s with mem := writeBytes s.mem 0x108FF 1 0xA5, boot := { s.boot with ready := s.boot.ready ||| BitVec.ofNat 256 (2 ^ 146) } }

/-- RingEvents. -/
theorem witness_rings :
    let r := ringAt ringing 0 0
    bitAt ringing.boot.ready.toNat 146 = true ∧ r.en = true ∧ fld r.record 64 16 ≠ 0 ∧ r.head ≠ r.tail ∧
    targetReady ringing ⟨.hbm, 0x10800, none, 0, 0x10800⟩ = true ∧ faLoc (fld r.record 0 64) = 0x10800 ∧
    ringBase ringing (fld r.record 0 64) = true ∧
    readByte ringing.mem (0x10800 + 255) = lapByte r.head.toNat (fld r.record 64 16) ∧ ringing.packets = [] ∧
    serialLt 32 r.tail.toNat (2 : BitVec 32).toNat = true ∧ ((2 : BitVec 32) - r.head).toNat ≤ fld r.record 64 16 ∧
    serialLt 32 r.tail.toNat (3 : BitVec 32).toNat = true ∧ fld r.record 64 16 < ((3 : BitVec 32) - r.head).toNat ∧
    serialLt 32 r.tail.toNat (1 : BitVec 32).toNat = false ∧ (∀ q ∈ ringing.packets, q.id < ringing.serial) ∧
    (0 : Nat) ≤ Config.adminVdev ∧ (0 : Nat) < Config.vdevs := by decide +kernel

theorem leads_of {s : State} {p : Packet} {off align : Nat} {write : Bool} {t : Target}
    (h : ccPlace s p off align write = .at t ∧ isRemote t = false ∧ t.dup = none) : Leads s p off align write t := ⟨h.1, h.2.1, h.2.2⟩

/-- A packet that is done, with its signal at 0x10080, on a page of this package and on one of another module. -/
def signalling : Packet := { packet 0 0 0 (.done 0) with bytes := BitVec.ofNat 2048 0x10080 }
def farPage (s : State) : State := { s with tlb := [⟨0, 1, 16, 0x10147⟩] }

/-- RingEvents: a completion here, one elsewhere, and a vector that is not masked. -/
theorem witness_signals : Leads (withPacket base signalling) signalling 0 8 true ⟨.hbm, 0x10080, none, 0, 0x10080⟩ ∧
    signalling.caddrBad = false ∧ pktStatus (withPacket base signalling) signalling = some 0 ∧
    (match ccPlace (farPage (withPacket base signalling)) signalling 0 8 true with
      | .at t => isRemote t && ccOpen (farPage (withPacket base signalling)) signalling 3 t
      | _ => false) = true ∧
    fld (msixEntry (putVdev base 0 { VDev.zero with msix := [(1, 0)] }) 0 1) 96 1 = 0 :=
  ⟨leads_of (by decide +kernel), by decide +kernel⟩

/-- PacketResults: a LAUNCH whose header lies on another module, before and after its 64 bytes have come. -/
theorem witness_far_launch :
    let s := farPage (withPacket base (packet 0 1 0x10080 .read))
    Starts s 5 0x01 (packet 0 1 0x10080 .read) ∧
    (match ccPlace s (packet 0 1 0x10080 .read) 24 64 false with
      | .at t => isRemote t && ccOpen s (packet 0 1 0x10080 .read) 0 t
      | _ => false) = true ∧ (packet 0 1 0x10080 .read).far = [] ∧ ccAwaits s 5 = false ∧
    ({ packet 0 1 0x10080 .read with far := List.replicate 64 0 } : Packet).far ≠ [] :=
  ⟨starts_of (by decide +kernel), by decide +kernel⟩

theorem witness_completions :
    let p := { packet 0 0 0 (.done 0) with bytes := BitVec.ofNat 2048 0x10080 }
    pktAt (withPacket base p) 5 = some p ∧ pktStatus (withPacket base p) p = some 0 ∧ pktCaddr p ≠ 0 ∧
    decide (vaCheck (withPacket base p) p 0 8 true = .ok) = true ∧
    placeIs (ccPlace (withPacket base p) p 0 8 true) ⟨.hbm, 0x10080, none, 0, 0x10080⟩ = true ∧
    pktAt (withPacket base (packet 0 0 0 (.done 2))) 5 = some (packet 0 0 0 (.done 2)) ∧
    pktStatus (withPacket base (packet 0 0 0 (.done 2))) (packet 0 0 0 (.done 2)) = some 2 ∧
    pktCaddr (packet 0 0 0 (.done 2)) = 0 ∧ recordPending (withPacket base p) p = false ∧
    recordPending (withPacket base (packet 0 0 0 (.done 2))) (packet 0 0 0 (.done 2)) = false ∧
    (aget (0, 0) (vdevSt (putVdev base 0 { VDev.zero with coal := [(1, 2, 0)] }) 0).coal 1).1 = 2 ∧
    coalCycles (putVdev base 0 { VDev.zero with coal := [(1, 2, 0)] }) 0 ≤ 0 - 0 ∧
    fld (msixEntry (putVdev base 0 { VDev.zero with msix := [(1, BitVec.ofNat 128 (2 ^ 96))] }) 0 1) 96 1 = 1 := by
  decide +kernel

/-- A machine with a linked port, a destination entry for node 5 in partition 0 and a flit from there. -/
def linked : State :=
  let s := putPart base
  { s with
    boot := { s.boot with ready := s.boot.ready ||| BitVec.ofNat 256 (2 ^ 120) }
    partitions := [(0, BitVec.ofNat 512 (1 + 2 ^ 8 + 2 ^ 64 + 2 ^ 160 + 2 ^ 208 + 2 ^ 384))]
    dests := [(1, ⟨BitVec.ofNat 256 (5 + 2 ^ 12 + 2 ^ 64), 0⟩)] }
def flit (typ : BitVec 4) (fidx nflit : BitVec 4) : Flit := ⟨typ, 0, 3, 5, 0, 0, 0, fidx, nflit, 0, 0, 0x10080, true, []⟩

/-- The stream from node 5 once it expects flit 1 + n. -/
def expecting (n : BitVec 16) : State := putRx linked 5 0 { rxAt linked 5 0 with e := n }

/-- FlitResults: each kind of flit, in order, ahead of a gap and as a duplicate, and requests of memory and of the window;
a controller that a deadline request holds serves no other. -/
theorem witness_flits : portLinked linked 0 = true ∧ (∀ typ ∈ [1, 2, 3], flitForUs linked (flit typ 0 0) = true) ∧
    (rxAt (ackStream linked 5 0 0) 5 0).e = (flit 1 0 0).seq ∧
    61440 ≤ ((rxAt (ackStream linked 5 0 0) 5 0).e - ({ flit 1 0 0 with seq := 1 } : Flit).seq).toNat ∧
    ((rxAt (ackStream (expecting 4097) 5 0 0) 5 0).e - (flit 1 0 0).seq).toNat = 4097 ∧
    ((rxAt (ackStream (expecting 4096) 5 0 0) 5 0).e - (flit 1 0 0).seq).toNat = 4096 ∧
    ((rxAt (ackStream (expecting 1) 5 0 0) 5 0).e - (flit 1 0 0).seq).toNat = 1 ∧
    (flit 1 0 2).fidx.toNat < (flit 1 0 2).nflit.toNat ∧ (flit 1 0 0).nflit.toNat ≤ (flit 1 0 0).fidx.toNat ∧
    (rxAt linked 5 0).held = [] ∧ (rxAt linked 5 0).parts = [] ∧
    placeOf linked 0 5 (msgOf [{ flit 1 0 0 with width := 0 }]) = .memory ⟨.hbm, 0x10080, none, 0, 0x10080⟩ ∧
    placeReady linked (placeOf linked 0 5 (msgOf [{ flit 1 0 0 with width := 0 }])) = true ∧
    placeServed linked 0 0 (placeOf linked 0 5 (msgOf [{ flit 1 0 0 with width := 0 }])) = true ∧
    placeServed { linked with deadlines := [⟨0, true, [controllerOf 0x10080], 0⟩] } 0 0
      (.memory ⟨.hbm, 0x10080, none, 0, 0x10080⟩) = false ∧
    (msgOf [{ flit 1 0 0 with width := 0 }]).width ≠ 3 := by decide +kernel

/-- A stream to node 5 with a flit that waits for its ack since 0, or for a route since 0; and a request that waits. -/
def sending (tx : TxStream) : State :=
  { linked with clock := BitVec.ofNat 64 (2 ^ 40), fabric := { linked.fabric with
      tx := [(20, { tx with entry := 1 })], reqs := [⟨9, .none, 0, 5, 0, none, none⟩, ⟨10, .flight 3 0, 0, 5, 0, none, none⟩] } }

/-- FabricEvents. -/
theorem witness_fabric :
    (txAt (sending TxStream.zero) 5 0).failed = none ∧ ((txAt (sending TxStream.zero) 5 0).sent - (0 : BitVec 16)).toNat ≤ 8192 ∧
    bitAt (destAt linked 1).record.toNat (64 + 64 * 0) = true ∧ routePort (destAt linked 1) 0 = 0 ∧
    ackOverdue (sending { TxStream.zero with next := 1, unacked := [⟨flit 1 0 0, 0, 256, 0⟩] }) 5 0 = true ∧
    routeOverdue (sending { TxStream.zero with next := 1, waiting := some 0 }) 5 0 = true ∧
    (txAt (sending { TxStream.zero with next := 1, unacked := [⟨flit 1 0 0, 0, 1, 0⟩] }) 5 0).unacked.head? =
      some ⟨flit 1 0 0, 0, 1, 0⟩ ∧ waitEntry (txAt (sending { TxStream.zero with next := 1, waiting := some 0 }) 5 0) = 1 ∧
    (txAt (sending { TxStream.zero with next := 1, waiting := some 0 }) 5 0).failed = none ∧
    answerOf (sending TxStream.zero) ⟨9, .none, 0, 5, 0, none, none⟩ .completion = some .done ∧
    answerOf (sending TxStream.zero) ⟨10, .flight 3 0, 0, 5, 0, none, none⟩ .failure = some (.failed 2) ∧
    ((sending TxStream.zero).fabric.reqs.find? (fun r => r.id = 9)).isSome = true ∧
    ((sending TxStream.zero).fabric.reqs.find? (fun r => r.id = 10)).isSome = true := by decide +kernel

theorem witness_fabric_flight :
    flightAt { sending TxStream.zero with flights := [⟨3, 0, .store 4, [⟨0, ⟨.remote 1, 0, none, 0, 0⟩, ⟨.remote 1, 0, none, 0, 0⟩, 0, 0, false⟩],
      false, false, true, 0, 0, []⟩] } 3 =
      some ⟨3, 0, .store 4, [⟨0, ⟨.remote 1, 0, none, 0, 0⟩, ⟨.remote 1, 0, none, 0, 0⟩, 0, 0, false⟩], false, false, true, 0, 0, []⟩ := by
  decide +kernel

/-- ServiceEvents: each unit's bound, a stack that retrains, a day since the last solution, and a register of a slice. -/
theorem witness_service : mayBeReady base 0 = true ∧ mayBeReady base 119 = true ∧ mayBeReady base 147 = true ∧ deadlineDues base 0 = [] ∧ deadlineDues base 1 = [] ∧
    (BitVec.ofNat 32 1).getLsbD 0 = true ∧ base.boot.ready.getLsbD 0 = true ∧
    resolveCycles ≤ (2 ^ 60 : Nat) - base.boot.solved ∧ base.refills < 1024 / 1024 ∧ awf 0 base.tokens = true ∧
    teamAt base (0 / 32) = some loadTeam ∧ 0 % 32 < loadTeam.s ∧ 127 < loadTeam.v ∧ 63 < loadTeam.a ∧
    (0 : BitVec 64) ≠ 1 ∧ (0 : BitVec 64) ≠ 2 := by decide +kernel

/-- A request of slice 0, waiting or granted, on its anvil. -/
def request (kind cb : Nat) (granted committed : Bool) : AReq :=
  { newReq base envA (sliceAt base 0) kind (BitVec.ofNat 512 cb) 0x10080 0 (if kind = 1 then 2 else 0) 0 with
    granted := granted, committed := committed }
def withReq (r : AReq) : State :=
  putAnvil (putCore base 0 { coreAt base 0 with places := [(0, { loadPlace with record := BitVec.ofNat 512 (2 ^ 240 + 2 ^ 253) })] }) 0
    { Anvil.zero with resv := [r] }

/-- A command of one step of BF16 by BF16 from the allotment, which clears tile 0. -/
def command : Nat := Config.aliasBase + 0x80 + 16 * 2 ^ 128 + 2 ^ 176 + 2 ^ 291 + 4 * 2 ^ 296 + 4 * 2 ^ 304

/-- AnvilEvents: a request to grant, a pass to commit, a load of blocks and of a table, and a store to finish. -/
theorem witness_anvil_grant : mustWait (withReq (request 2 0 false false)) (anvilAt (withReq (request 2 0 false false)) 0) (request 2 0 false false) = false ∧
    decide (judgeReq (withReq (request 2 0 false false)) 0 (request 2 0 false false) = none) = true ∧
    decide (leastBy grantBefore ((anvilAt (withReq (request 2 0 false false)) 0).resv.filter fun q => !q.granted) =
      some (request 2 0 false false)) = true := by decide +kernel

/-- Whether blocks have come. -/
def gotOk : Fetch → Bool
  | .got _ => true
  | _ => false

/-- A request for a pass with a bias at 0x10080, and the machine in which it has been granted. -/
def biased : AReq := request 0 (command + 2 ^ 294 + 2 ^ 312 + 0x10080 * 2 ^ 384) false false
def biasing : State := withReq { biased with granted := true }

theorem witness_anvil_bias : decide (leastBy grantBefore ((anvilAt (withReq biased) 0).resv.filter fun q => !q.granted) = some biased) = true ∧
    mustWait (withReq biased) (anvilAt (withReq biased) 0) biased = false ∧ decide (judgeReq (withReq biased) 0 biased = none) = true ∧
    biased.kind = 0 ∧ (cmdOf biased.cb).bias = true ∧
    gotOk (fetchBlocks biasing 0 { biased with granted := true } 5 (cmdOf biased.cb).biasaddr 4) = true ∧
    (request 0 command true false).ended = false ∧ (request 0 command true false).checked = false := by decide +kernel

/-- Whether a pass runs. -/
def passOk : Got (List (List Nat)) → Bool
  | .ok _ => true
  | _ => false

theorem witness_anvil_pass :
    reqAt (withReq (request 0 command true false)) 0 = some (0, request 0 command true false) ∧
    (cmdOf (BitVec.ofNat 512 command)).bias = false ∧
    passOk (runPass (withReq (request 0 command true false)) 0 (request 0 command true false) (cmdOf (BitVec.ofNat 512 command))) = true ∧
    anvilMismatch (withReq (request 0 command true false)) 0 = none := by decide +kernel

theorem witness_anvil_loads :
    (∀ k ∈ [1, 3], reqAt (withReq (request k 0 true false)) 0 = some (0, request k 0 true false)) ∧
    (∀ k ∈ [1, 3], (request k 0 true false).remote = 0) ∧
    gotOk (fetchBlocks (withReq (request 1 0 true false)) 0 (request 1 0 true false) 6 0x10080 2) = true ∧
    gotOk (fetchBlocks (withReq (request 3 0 true false)) 0 (request 3 0 true false) 7 0x10080 8) = true := by decide +kernel

/-- Whether every output block may be written here. -/
def outOk (s : State) (r : AReq) : Bool :=
  let x := chkOut s r (reqOut s 0 r)
  x.2.isNone && x.1.all fun o => !isRemote o.1 && !outWaits s r o.1 && mayWrite s r.ctx o.1 && o.1.dup.isNone

/-- A committed pass with one block of output. -/
def committed : AReq := { request 0 command true true with out := [(0x10080, List.replicate 64 7, 4)] }

theorem witness_anvil_output : reqAt (withReq committed) 0 = some (0, committed) ∧ committed.done ≠ 1 ∧ committed.remote = 0 ∧
    (anvilAt (withReq committed) 0).badTile.contains committed.tile = false ∧ outOk (withReq committed) committed = true := by
  decide +kernel

/-! Well-formedness: an ill-formed term for each check, which the check refuses, and its neighbour, which it admits. -/

theorem test_ill_formed : ([.ld 0xA8 1 .team .rel .w32, .ldBc 0xA8 1 .team .ar .w32, .ldx 0xC1 1 .team .rel .w32 0,
    .lddesc 0xA8 1 .team .ar, .waitaddr 0xC0 1 .team .rel .w32, .waitaddr 0xC0 1 .team .rlx .w128, .st 3 1 .team .acq .w32,
    .stNt 3 1 .team .ar .w32, .stdesc 3 1 .team .acq, .aadd 3 1 .team .rlx .w16 true, .acas 3 1 .team .rlx .w128 true,
    .axchg 3 1 .team .rlx .w8 true, .kloop 4 5 1, .kloop 3 5 0, .kendloop 4, .gset 4 1, .gstep 1 4 0, .gaddr 1 4, .line 1 2 0,
    .gather 1 2 4 1, .gather 1 2 3 0, .scatter 4 1 2 1, .scatter 3 1 2 0, .reduce 1 2 .addf 0, .convert 4 0 0, .convert 0 4 0,
    .signal 1 2 .core, .signal 1 2 .team] : List Instr).all (fun i => !wellFormed i) = true := by decide

theorem test_well_formed : ([.ld 0xA8 1 .team .acq .w128, .waitaddr 0xC0 1 .sys .acq .w64, .st 3 1 .team .rel .w128,
    .aadd 3 1 .team .ar .w64 true, .kloop 3 5 1, .kendloop 3, .gset 3 1, .gstep 1 3 0, .gaddr 1 3, .line 1 2 1, .gather 1 2 3 1,
    .scatter 3 1 2 1, .reduce 1 2 .minf 1, .convert 3 3 0, .signal 1 2 .cluster] : List Instr).all wellFormed = true := by decide

/-- Why a word was rejected. -/
def why (x : Except Reject Instr) : Option Reject :=
  match x with
  | .error r => some r
  | .ok _ => none

/-- Words that no instruction has: a reserved major, the unused
field of BALLOT and of PREF, and a scribe word of a reserved opcode (R162, R177, R218, R288). -/
theorem test_rejected_words : ([(0x80_00_00_00#32, .illegalOp), (0x3C_B6_F3_00#32, .unusedCompute), (0xC2_00_7E_0C#32, .unusedAccess)] :
    List (Word32 × Reject)).all (fun p => decide (why (decodeLane p.1) = some p.2)) = true ∧
    why (decodeScribe 0xFC_00_00_00#32) = some .scribeIllegal := by decide

/-! One step of the machine, with results worked out by hand. -/

/-- A state that fetches an instruction's word next, with the first slice changed. -/
def placed (i : Instr) (f : Slice → Slice) : State :=
  let s := State.reset.withFetchWord 32 ((encode i).getD 0).toNat
  putSlice s 0 (f (sliceAt s 0))

/-- What one step leaves of the first slice. -/
def after (s : State) : Slice := sliceAt (nx (step s)) 0

/-- Lane 1 of v3 after a step of an instruction that reads v1, v2 and v3 with these values there. -/
def computes (i : Instr) (x y z : Nat) : Nat :=
  regVal false (after (placed i fun sl => setReg false (setReg false (setReg false sl 1 1 x) 2 1 y) 3 1 z)) 3 1

theorem test_add_wraps : computes (.iadd 3 1 2) 0xFFFFFFFF 2 0 = 1 := by decide +kernel
theorem test_sub_borrows : computes (.isub 3 1 2) 1 2 0 = 0xFFFFFFFF := by decide +kernel
theorem test_min_signed : computes (.iminS 3 1 2) 0x80000000 1 0 = 0x80000000 := by decide +kernel
theorem test_max_unsigned : computes (.imaxU 3 1 2) 0x80000000 1 0 = 0x80000000 := by decide +kernel
theorem test_mul_low : computes (.imul 3 1 2) 0x10001 0x10001 0 = 0x20001 := by decide +kernel
theorem test_mul_high_signed : computes (.imulhS 3 1 2) 0x80000000 2 0 = 0xFFFFFFFF := by decide +kernel
theorem test_mul_high_unsigned : computes (.imulhU 3 1 2) 0x80000000 2 0 = 1 := by decide +kernel
theorem test_multiply_add : computes (.imad 3 1 2) 3 5 7 = 22 := by decide +kernel
theorem test_average_rounds_up : computes (.iavgU 3 1 2) 3 4 0 = 4 := by decide +kernel
theorem test_and_not : computes (.bandn 3 1 2) 0xFF 0x0F 0 = 0xF0 := by decide +kernel
theorem test_shift_amount : computes (.shl 3 1 2) 1 33 0 = 2 := by decide +kernel
theorem test_shift_signed : computes (.shrS 3 1 2) 0x80000000 4 0 = 0xF8000000 := by decide +kernel
theorem test_shift_rounds : computes (.shrrS 3 1 2) 7 2 0 = 2 := by decide +kernel
theorem test_rotate : computes (.rotl 3 1 2) 0x80000001 1 0 = 3 := by decide +kernel
theorem test_extract : computes (.bfeU 3 1 2) 0x12345678 0x0808 0 = 0x56 := by decide +kernel
theorem test_insert : computes (.bfi 3 1 2) 0xAB 0x0808 0x11111111 = 0x1111AB11 := by decide +kernel
theorem test_count_leading : computes (.clz 3 1) 0x00010000 0 0 = 15 := by decide +kernel
theorem test_count_trailing_zero : computes (.ctz 3 1) 0 0 0 = 32 := by decide +kernel
theorem test_byte_swap : computes (.bswap 3 1) 0x11223344 0 0 = 0x44332211 := by decide +kernel
theorem test_sign_extend : computes (.sext8 3 1) 0x180 0 0 = 0xFFFFFF80 := by decide +kernel
theorem test_packed_add_clamps : computes (.add2Sat 3 1 2) 0x7FFF0001 0x00010001 0 = 0x7FFF0002 := by decide +kernel
theorem test_dot4 : computes (.dot4SSat 3 1 2) 0x01FF0203 0x02030401 0xFFFFFFFF = 9 := by decide +kernel
theorem test_movi : computes (.movi 3 0x8000) 0 0 0 = 0xFFFF8000 := by decide +kernel
theorem test_addi : computes (.addi 3 0xFFFF) 0 0 5 = 4 := by decide +kernel
theorem test_float_add : computes (.fadd 3 1 2) 0x3F800000 0x40000000 0 = 0x40400000 := by decide +kernel
theorem test_float_fma : computes (.ffma 3 1 2) 0x40000000 0x40400000 0x3F800000 = 0x40E00000 := by decide +kernel
theorem test_float_rounds_to_even : computes (.fadd 3 1 2) 0x4B800000 0x3F800000 0 = 0x4B800000 := by decide +kernel
theorem test_float_minimum_of_zeros : computes (.fmin 3 1 2) 0x00000000 0x80000000 0 = 0x80000000 := by decide +kernel
theorem test_reciprocal : computes (.frcp 3 1) 0x40800000 0 0 = 0x3E800000 := by decide +kernel
theorem test_square_root : computes (.fsqrt 3 1) 0x40800000 0 0 = 0x40000000 := by decide +kernel
theorem test_exp2 : computes (.fexp2 3 1) 0x40400000 0 0 = 0x41000000 := by decide +kernel
theorem test_log2 : computes (.flog2 3 1) 0x41000000 0 0 = 0x40400000 := by decide +kernel
theorem test_round_to_integer : computes (.frint 3 1) 0x40200000 0 0 = 0x40000000 := by decide +kernel
theorem test_float_to_int : computes (.f2iS 3 1) 0xC0200000 0 0 = 0xFFFFFFFE := by decide +kernel
theorem test_int_to_float : computes (.i2fS 3 1) 0xFFFFFFFF 0 0 = 0xBF800000 := by decide +kernel
theorem test_narrow_half : computes (.f2h 3 1) 0x3F800000 0 0 = 0x3C00 := by decide +kernel
theorem test_narrow_e4m3 : computes (.f2e4 3 1) 0x3F800000 0 0 = 0x38 := by decide +kernel
theorem test_packed_bf16 : computes (.badd2 3 1 2) 0x3F803F80 0x40003F80 0 = 0x40404000 := by decide +kernel

/-- ICMP_LT_S writes p2 in the lanes where it holds (R189): lane 1 alone. -/
theorem test_compare : (laneNums.map fun l => predOf (after (placed (.icmpLtS 2 1 0xC0) fun sl => setReg false sl 1 1 0xFFFFFFFF)).c 2 l) =
    [false, true, false, false] := by decide +kernel

/-- SHFL delivers lane b mod 4 (R194). -/
theorem test_shuffle : regVal false (after (placed (.shfl 3 1 0xC5) fun sl => setReg false sl 1 1 77)) 3 0 = 77 := by decide +kernel

/-- IF p1 with p1 in lane 2 alone narrows the mask and saves it (R28). -/
theorem test_if : let c := (after (placed (.ifP 1 false) fun sl => { sl with c := { sl.c with preds := ⟨0, 0, 2, 0⟩ } })).c
    (c.mask, c.mstk.depth, aget 0 c.mstk.ents 0) = (4, 1, 15) := by decide +kernel

/-- CALL pushes the PC past it and goes 8 bytes on (R237). -/
theorem test_call : let c := (after (placed (.call 2) id)).c
    (c.pc, c.rstk.depth, aget 0 c.rstk.ents 0) = (72, 1, 68) := by decide +kernel

/-- A load enters the queue, counts in LD and moves on (R25, R219). -/
theorem test_load_starts : let sl := after (placed (.ld 0xA8 1 .team .rlx .w32) bases)
    (sl.nld, sl.ldq.length, sl.a.pc) = (1, 1, 68) := by decide +kernel

/-- A misaligned load leaves a checkpoint with its fault, to be raised later (R61, R326, R411). -/
theorem test_misaligned : ((after (placed (.ld 0xA8 1 .team .rlx .w32) (setA 1 0x10082))).check.map fun c => c.fault) =
    some ⟨0x21, 0, 0x10082, 15⟩ := by decide +kernel

/-- An atomic that returns counts in LD and in ST (R225). -/
theorem test_atomic_starts : let sl := after (placed (.aadd 3 1 .team .rlx .w32 false) bases)
    (sl.nld, sl.nst) = (1, 1) := by decide +kernel

/-- YIELD sets the watchdog counter of its team to 0 (R36). -/
theorem test_yield : (teamAt (nx (step (putTeam (placed .yield id) 0 (some { loadTeam with wd := 99 })))) 0).map (·.wd) = some 0 := by
  decide +kernel

/-- TRAP 0x42 holds its slice past the instruction; DETAIL is 0x42 (R248). -/
theorem test_trap : let t := nx (step (trapping (placed (.trapOp 0x42) id)))
    ((sliceAt t 0).held, (sliceAt t 0).c.pc, readBytes t.mem 0x10A02 2, readBytes t.mem 0x10A20 4) = (true, 68, 0x10, 0x42) := by
  decide +kernel

/-- A word of a reserved major raises ILLEGAL_OP (R177). -/
theorem test_illegal : let s := trapping (State.reset.withFetchWord 32 0x80_00_00_00)
    readBytes (nx (step { s with sched := [⟨0, .issue (.compute 0), [], [], [], [], []⟩] })).mem 0x10A02 2 = 1 := by decide +kernel

/-- ERET a3, with 0 there, resumes slice 0 (R328). -/
theorem test_eret : (after (State.reset.withFetchWord 32 0xF8_0C_00_00)).held = false := by decide +kernel

/-- A store that is performed leaves its bytes, little-endian (R111). -/
theorem test_store_bytes : readList (nx (exec (.storePerformed 0) (nx (exec (.st 0xC5 1 .team .rlx .w32) (onA bases))))).mem 0x10080 4 =
    [5, 0, 0, 0] := by decide +kernel

/-- A load that races with an ACP's write of 8 bytes may see the first 4-byte unit old and the second new; with an ordinary
store it races not (R115). -/
theorem test_mixed : mayRace loading (.event (.acpComplete 9)) (.access 0) = true ∧
    mayRace loading (.event (.storePerformed 9)) (.access 0) = false ∧
    (let s := keepOlds [(.access 0, 0x10080 / 4)] loading
      (storeTo loading ⟨.hbm, 0x10080, none, 0, 0x10080⟩ (valBytes 8 0x22222222_11111111))
    localRead s (flight s) ((flight s).lanes.headD ⟨0, ⟨.hbm, 0, none, 0, 0⟩, ⟨.hbm, 0, none, 0, 0⟩, 0, 0, false⟩) % 2 ^ 64) =
      0x22222222_00000000 := by decide +kernel

/-- A number as big-endian bytes. -/
def beBytes (n x : Nat) : List Byte := (valBytes n x).reverse

/-- An image of five bytes with its signature and key, worked out outside the model from the standards, and the digest of the key. -/
def signedImage : List Byte :=
  [71, 88, 56, 32, 65]
  ++ beBytes 32 0x3b163f70c355463a1e7befbe3cce8bfc49d4b8e45da209515ebe300472c59f9
  ++ beBytes 32 0x9a8ca755aa0a39a621bb4d464dcf7ebc9ea01a5564dc6e8a94ad305154162257
  ++ beBytes 32 0x74588741468ef70eef5fb05f3dc276bca2e1c20b830eef49e93e4e37ae4a0ea0
  ++ beBytes 32 0x97c8d7e321b33ea73007ba1cb9e945507d87e9455b765f026e936fa431a53e1
def fusedDigest : BitVec 256 := 0x2fc0d4137578804d5fdd393d500f6677a9ccc8808c5af60e1b696fec1223fbb0

/-- The digest of no bytes, as the standard gives it. -/
theorem test_digest : sha256 [] = 0xe3b0c44298fc1c149afbf4c8996fb92427ae41e4649b934ca495991b7852b855 := by decide +kernel

/-- A slot whose image bears a signature by the fused key verifies, and one written at the next byte does not (R404, R405). -/
theorem test_slot_verifies :
    let b := (nx (exec (.registerWrite (.slot true 0 signedImage)) { base with boot := { base.boot with fuse := fusedDigest } })).boot
    let c := (nx (exec (.registerWrite (.slot true 1 signedImage)) { base with boot := { base.boot with fuse := fusedDigest } })).boot
    verifies b true = true ∧ verifies c true = false ∧ verifies b false = false := by decide +kernel

/-- KADD wraps at 64 bits and moves on (R289). -/
theorem test_kadd : (match progAt (nx (exec (.kadd 4 3 5) (onS fun _ => { running with
      regs := { running.regs with k := [(3, 0xFFFFFFFFFFFFFFFF), (5, 2)] } }))) 0 0 with
    | some p => (kreg p 4, p.regs.pc)
    | none => (0, 0)) = (1, 68) := by decide +kernel

/-- ENDLOOP with a count of 2 goes back with 1 left (R292). -/
theorem test_endloop : (match progAt (nx (exec (.kendloop 1) (onS fun _ => running))) 0 0 with
    | some p => (aget (0, 0) p.regs.l 1, p.regs.pc)
    | none => ((0, 0), 0)) = ((1, 64), 64) := by decide +kernel

end Sys2Proof.Tests
end

section
/-! PROOFS. The regions of the address space (R102, R104) and the checks of an address outside paged memory (R411). -/

namespace Sys2Proof.Proofs

open Sys2Proof.Machine

/-! The regions. -/

theorem sramBase_eq : Config.sramBase = 0xFF * 2 ^ 48 := rfl
theorem sramSize_eq : Config.sramSize = 2 ^ 31 := rfl
theorem aliasBase_eq : Config.aliasBase = Config.sramBase + 2 ^ 32 := rfl
theorem scratchBytes_eq : Config.scratchBytes = 2 ^ 19 := rfl

theorem bits_eq_div_mod (x lo len : Nat) : bits x lo len = x / 2 ^ lo % 2 ^ len := by
  rw [bits, Nat.shiftRight_eq_div_pow]

theorem regionOf_paged {core a : Nat} (h : a < Config.sramBase) : regionOf core a = .paged := by
  rw [regionOf, if_pos h]

/-- A byte of the window, by its number there: the fields of R104 decide, and the accessing core does not. -/
theorem regionOf_sramBase_add (core : Nat) {o : Nat} (h : o < Config.sramSize) :
    regionOf core (Config.sramBase + o) = if bits o 24 4 < 12 ∧ bits o 19 5 < 24 then
      .sram (288 * bits o 28 3 + 24 * bits o 24 4 + bits o 19 5) (bits o 0 19) else .unused := by
  rw [regionOf, if_neg (by omega), if_pos (by omega), Nat.add_sub_cancel_left]
  simp only [Bool.and_eq_true, decide_eq_true_eq]

theorem regionOf_window (core : Nat) {die cl co off : Nat} (hdie : die < 8) (hcl : cl < 16) (hco : co < 32)
    (hoff : off < 2 ^ 19) :
    regionOf core (Config.sramBase + die * 2 ^ 28 + cl * 2 ^ 24 + co * 2 ^ 19 + off) =
      if cl < 12 ∧ co < 24 then .sram (288 * die + 24 * cl + co) off else .unused := by
  obtain ⟨o, ho⟩ : ∃ o, o = die * 2 ^ 28 + cl * 2 ^ 24 + co * 2 ^ 19 + off := ⟨_, rfl⟩
  have hDie : bits o 28 3 = die := by rw [bits_eq_div_mod]; omega
  have hCluster : bits o 24 4 = cl := by rw [bits_eq_div_mod]; omega
  have hCore : bits o 19 5 = co := by rw [bits_eq_div_mod]; omega
  have hOffset : bits o 0 19 = off := by rw [bits_eq_div_mod]; omega
  have hsize : o < Config.sramSize := by rw [sramSize_eq]; omega
  rw [show Config.sramBase + die * 2 ^ 28 + cl * 2 ^ 24 + co * 2 ^ 19 + off = Config.sramBase + o by omega,
    regionOf_sramBase_add core hsize, hDie, hCluster, hCore, hOffset]

theorem regionOf_alias (core : Nat) {off : Nat} (h : off < 2 ^ 19) :
    regionOf core (Config.aliasBase + off) = .sram core off := by
  have habove : Config.sramBase + Config.sramSize ≤ Config.aliasBase + off := by rw [aliasBase_eq, sramSize_eq]; omega
  have hin : (decide (Config.aliasBase ≤ Config.aliasBase + off) &&
      decide (Config.aliasBase + off < Config.aliasBase + Config.scratchBytes)) = true := by
    rw [scratchBytes_eq, Bool.and_eq_true, decide_eq_true_eq, decide_eq_true_eq]
    omega
  rw [regionOf, if_neg (by omega), if_neg (Nat.not_lt.mpr habove), if_pos hin, Nat.add_sub_cancel_left]

/-- Nothing lies between the window and the local scratch range, or above that range. -/
theorem regionOf_unused (core : Nat) {a : Nat}
    (h : (Config.sramBase + Config.sramSize ≤ a ∧ a < Config.aliasBase) ∨ Config.aliasBase + Config.scratchBytes ≤ a) :
    regionOf core a = .unused := by
  have habove : Config.sramBase + Config.sramSize ≤ a := by
    rw [aliasBase_eq, sramSize_eq] at h
    rw [sramSize_eq]
    omega
  have hout : ¬ (decide (Config.aliasBase ≤ a) && decide (a < Config.aliasBase + Config.scratchBytes)) = true := by
    rw [Bool.and_eq_true, decide_eq_true_eq, decide_eq_true_eq]
    omega
  rw [regionOf, if_neg (by omega), if_neg (Nat.not_lt.mpr habove), if_neg hout]

/-- The window address of a core's byte leads back to that core and byte, whichever core accesses it. -/
theorem regionOf_sramAddr (viewer : Nat) {core off : Nat} (hcore : core < 2304) (hoff : off < 2 ^ 19) :
    regionOf viewer (sramAddr core off) = .sram core off := by
  rw [sramAddr, regionOf_window viewer (by omega) (by omega) (by omega) hoff, if_pos (by omega)]
  congr 1
  omega

/-! The check of an address outside paged memory. -/

theorem checkAddr_unused (s : State) {q : AccSpec} (refused : Nat → Bool) {a : Nat} (ha : a < 2 ^ 56)
    (halign : a % q.align = 0) (h : regionOf q.core a = .unused) : checkAddr s q refused a = .bad codeSRAM_RANGE := by
  rw [checkAddr, if_neg (Nat.not_le.mpr ha), if_neg (not_not.mpr halign), h]

/-- What SRAM asks of an access beyond its address: it may name SRAM (R230, R260), it does not convert (R108), teams of its
context hold all its bytes (R105), and it waits for none of them (R106, R350). -/
def SramServes (s : State) (q : AccSpec) (core off : Nat) : Prop :=
  (∀ c, q.space ≠ .paged c) ∧ q.conv = false ∧ ∃ ts, rangeOwners s q.ctx core off q.bytes = some ts ∧
    (ts.any fun x => sramWaits x.2 off q.bytes || (q.write && heldAtEntry s x.2)) = false

/-- An access to SRAM passes its check where its address is canonical and aligned and the byte named serves it; how the address
names that byte shows only in the target's `va`. -/
theorem checkAddr_sram_ok_iff {s : State} {q : AccSpec} {refused : Nat → Bool} {a core off : Nat} {t : Target}
    (h : regionOf q.core a = .sram core off) :
    checkAddr s q refused a = .ok t ↔
      a < 2 ^ 56 ∧ a % q.align = 0 ∧ SramServes s q core off ∧ t = ⟨.sram, sramAddr core off, none, 0, a⟩ := by
  rw [checkAddr, SramServes]
  by_cases ha : 2 ^ 56 ≤ a
  · exact iff_of_false (by rw [if_pos ha]; exact nofun) fun hok => Nat.not_lt.mpr ha hok.1
  by_cases halign : a % q.align = 0
  case neg => exact iff_of_false (by rw [if_neg ha, if_pos halign]; exact nofun) fun hok => halign hok.2.1
  rw [if_neg ha, if_neg (not_not.mpr halign), h]
  simp only [Nat.not_le.mp ha, halign, true_and]
  split
  next c hc => simp [hc]
  next hspace =>
    cases hconv : q.conv with
    | true => simp
    | false =>
      cases hown : rangeOwners s q.ctx core off q.bytes with
      | none => simp
      | some ts =>
        simp only [Option.some.injEq, exists_eq_left']
        cases ts.any fun x => sramWaits x.2 off q.bytes || (q.write && heldAtEntry s x.2) with
        | true => simp
        | false => simpa using ⟨fun heq => ⟨hspace, heq.symm⟩, fun hserved => hserved.2.symm⟩

/-- Only paged memory is translated: no other region's check reads the cached leaves. -/
theorem checkAddr_tlb_of_not_paged (s : State) {q : AccSpec} (refused : Nat → Bool) {a : Nat} (tlb : List TlbLeaf)
    (h : regionOf q.core a ≠ .paged) : checkAddr { s with tlb := tlb } q refused a = checkAddr s q refused a := by
  unfold checkAddr
  cases hr : regionOf q.core a with
  | paged => exact absurd hr h
  | unused => rfl
  | sram core off => rfl

/-! The two addresses that a byte of the accessing core's own scratchpad has. -/

/-- Both begin at a multiple of the scratchpad's 2^19 bytes, which keeps an access's alignment. -/
theorem add_mod_of_dvd_scratch {base off n : Nat} (hbase : 2 ^ 19 ∣ base) (hn : 2 ^ 19 % n = 0) :
    (base + off) % n = off % n := by
  obtain ⟨k, hk⟩ := (Nat.dvd_of_mod_eq_zero hn).trans hbase
  rw [hk, Nat.mul_add_mod]

theorem aliasBase_dvd : 2 ^ 19 ∣ Config.aliasBase := by rw [aliasBase_eq, sramBase_eq]; omega

theorem sramAddr_eq_base_add (core off : Nat) : sramAddr core off = sramAddr core 0 + off := by
  rw [sramAddr, sramAddr, Nat.add_zero]

theorem sramAddr_zero_dvd (core : Nat) : 2 ^ 19 ∣ sramAddr core 0 := by rw [sramAddr, sramBase_eq]; omega

theorem sramAddr_mod_eq_alias_mod (core off : Nat) {n : Nat} (hn : 2 ^ 19 % n = 0) :
    sramAddr core off % n = (Config.aliasBase + off) % n := by
  rw [sramAddr_eq_base_add, add_mod_of_dvd_scratch (sramAddr_zero_dvd core) hn, add_mod_of_dvd_scratch aliasBase_dvd hn]

theorem sramAddr_canonical {core off : Nat} (hcore : core < 2304) (hoff : off < 2 ^ 19) : sramAddr core off < 2 ^ 56 := by
  rw [sramAddr, sramBase_eq]
  omega

/-- An access that passes at an offset of the local scratch range passes at the core's window address of that offset, and both
reach the same location (R104). -/
theorem checkAddr_window_of_alias {s : State} {q : AccSpec} {refused : Nat → Bool} {off : Nat} {t : Target}
    (hoff : off < 2 ^ 19) (hcore : q.core < 2304) (halign : 2 ^ 19 % q.align = 0)
    (h : checkAddr s q refused (Config.aliasBase + off) = .ok t) :
    ∃ u, checkAddr s q refused (sramAddr q.core off) = .ok u ∧ u.space = .sram ∧ t.space = .sram ∧ u.loc = t.loc := by
  obtain ⟨-, haligned, hserves, rfl⟩ := (checkAddr_sram_ok_iff (regionOf_alias q.core hoff)).mp h
  have hwindow := (sramAddr_mod_eq_alias_mod q.core off halign).trans haligned
  exact ⟨_, (checkAddr_sram_ok_iff (regionOf_sramAddr q.core hcore hoff)).mpr
    ⟨sramAddr_canonical hcore hoff, hwindow, hserves, rfl⟩, rfl, rfl, rfl⟩

/-- Settles O8: a lemma for each region, then those for the checks of R411 outside paged memory. -/
theorem addressRules : Obligations.AddressRules := by
  unfold Obligations.AddressRules
  refine ⟨?paged, ?window, ?localAlias, ?unused, ?range, ?untranslated, ?sameByte, ?manual⟩
  case paged => exact fun _ _ => regionOf_paged
  case window => exact fun core _ _ _ _ => regionOf_window core
  case localAlias => exact fun core _ => regionOf_alias core
  case unused => exact fun core _ => regionOf_unused core
  case range => exact fun s _ refused _ => checkAddr_unused s refused
  case untranslated => exact fun s _ refused _ tlb => checkAddr_tlb_of_not_paged s refused tlb
  case sameByte => exact fun _ _ _ _ _ => checkAddr_window_of_alias
  case manual => rfl

end Sys2Proof.Proofs
end

section
/-! PROOFS. The stream rules (R175): the fault of a stream that excludes an instruction, and the operand roles that are faults in
the access stream (R53). -/

namespace Sys2Proof.Proofs

open Sys2Proof.Machine Sys2Proof.Safety Sys2Proof.Laws

/-! What a fault leaves: no access starts, and no access stream goes on. An instruction whose issue has a follow-up looks there
for a sign that it has issued. -/

/-- How far a slice's access stream has come: its PC, and its requests and copies that CP and TL count. -/
def accessProgress (sl : Slice) : Word64 × Nat × Nat := (sl.a.pc, sl.ncp, sl.ntl)

@[simp] theorem holdAt_a (sl : Slice) : (holdAt sl).a = sl.a := by unfold holdAt; split <;> rfl
@[simp] theorem holdAt_ncp (sl : Slice) : (holdAt sl).ncp = sl.ncp := by unfold holdAt; split <;> rfl
@[simp] theorem holdAt_ntl (sl : Slice) : (holdAt sl).ntl = sl.ntl := by unfold holdAt; split <;> rfl

theorem accessProgress_holdAt (sl : Slice) : accessProgress (holdAt sl) = accessProgress sl := by
  simp only [accessProgress, holdAt_a, holdAt_ncp, holdAt_ntl]

/-- Nothing has issued from one state to another: the accesses in flight are the same but for their owners, and no slice's access
stream has come further. The streams of trap contexts are left out, which a closed invocation clears. -/
structure NothingIssued (s t : State) : Prop where
  lanes : t.flights.map (·.lanes) = s.flights.map (·.lanes)
  slices : ∀ j < trapBase, accessProgress (sliceAt t j) = accessProgress (sliceAt s j)

namespace NothingIssued

theorem of_eq {s t : State} (hslices : t.slices = s.slices) (hflights : t.flights = s.flights) : NothingIssued s t :=
  ⟨by rw [hflights], fun j _ => by rw [sliceAt, sliceAt, hslices]⟩

theorem refl (s : State) : NothingIssued s s := of_eq rfl rfl

theorem trans {s t u : State} (hst : NothingIssued s t) (htu : NothingIssued t u) : NothingIssued s u :=
  ⟨htu.lanes.trans hst.lanes, fun j hj => (htu.slices j hj).trans (hst.slices j hj)⟩

/-- The slice whose key a follow-up takes for an issuer that is no access stream. -/
theorem slice_zero {s t : State} (h : NothingIssued s t) : accessProgress (sliceAt t 0) = accessProgress (sliceAt s 0) :=
  h.slices 0 (by decide)

theorem ite {s t u : State} {c : Prop} [Decidable c] (ht : NothingIssued s t) (hu : NothingIssued s u) :
    NothingIssued s (if c then t else u) := by
  split
  · exact ht
  · exact hu

theorem foldl {β : Type} {f : State → β → State} (h : ∀ s x, NothingIssued s (f s x)) (l : List β) (s : State) :
    NothingIssued s (l.foldl f s) := by
  induction l generalizing s with
  | nil => exact refl s
  | cons x l ih => exact (h s x).trans (ih _)

/-- The premise on the accesses in flight is kept. -/
theorem lanes_ne_nil {s t : State} (h : NothingIssued s t) (hs : ∀ f ∈ s.flights, f.lanes ≠ []) :
    ∀ f ∈ t.flights, f.lanes ≠ [] := by
  have hmap : ∀ ls ∈ t.flights.map (·.lanes), ls ≠ [] := by
    rw [h.lanes]
    exact List.forall_mem_map.mpr hs
  exact fun f hf => hmap _ (List.mem_map_of_mem hf)

theorem putSlice {s : State} {k : Nat} {sl : Slice} (h : k < trapBase → accessProgress sl = accessProgress (sliceAt s k)) :
    NothingIssued s (putSlice s k sl) := by
  refine ⟨rfl, fun j hj => ?_⟩
  by_cases hjk : j = k
  · subst hjk
    rw [sliceAt_putSlice_self, h hj]
  · rw [sliceAt_putSlice_ne _ _ _ hjk]

theorem setUnits (s : State) (t u : Nat) (js : List Nat) : NothingIssued s (setUnits s t u js) :=
  foldl (f := fun s j => Machine.putSlice s (32 * t + j) { sliceAt s (32 * t + j) with unit := u })
    (fun _ _ => putSlice fun _ => rfl) js s

theorem leaveUnit (s : State) (k : Nat) : NothingIssued s (leaveUnit s k) := by
  unfold Machine.leaveUnit
  extract_lets t
  split
  · exact refl s
  · extract_lets rest ids s1 _ s2
    have hjoined : NothingIssued s s1 := by
      unfold s1
      clear_value ids
      split
      · exact refl s
      · exact setUnits ..
    have hleft : NothingIssued s s2 := hjoined.trans (putSlice fun _ => rfl)
    exact ite hleft (hleft.trans (of_eq rfl rfl))

theorem holdTeam (s : State) (t : Nat) (team : Team) : NothingIssued s (holdTeam s t team) :=
  foldl (fun _ _ => putSlice fun _ => accessProgress_holdAt _) _ s

/-- What passes to another owner keeps its lanes. -/
theorem reown (s : State) (k k' : Nat) : NothingIssued s (reown s k k') := by
  refine ⟨?_, fun _ _ => rfl⟩
  rw [Machine.reown, List.map_map]
  refine List.map_congr_left fun f _ => ?_
  rw [Function.comp_apply]
  split <;> rfl

theorem closeInvocation (s : State) (core : Nat) : NothingIssued s (closeInvocation s core) := by
  unfold Machine.closeInvocation
  extract_lets s1
  have hclosed (c : Core) : NothingIssued s (putCore s1 core c) := (reown s _ _).trans (of_eq rfl rfl)
  exact (hclosed _).trans (putSlice fun h => absurd h (Nat.not_lt.mpr (Nat.le_add_right _ _)))

theorem checkStop (s : State) (t : Nat) : NothingIssued s (checkStop s t) := by
  unfold Machine.checkStop
  split
  · exact refl s
  · next team _ =>
    extract_lets core s1 c s2 c2 s3
    have hclosed : NothingIssued s s2 := (holdTeam s t team).trans (ite (closeInvocation s1 core) (refl s1))
    have hdropped : NothingIssued s s3 := hclosed.trans (of_eq rfl rfl)
    split
    · exact hdropped.trans (of_eq rfl rfl)
    · exact hdropped

theorem of_tryRecord {s t : State} {ctx core a : Nat} {refused : Nat → Bool} {bytes : List Byte}
    (h : tryRecord s ctx core refused bytes = .written t a) : NothingIssued s t := by
  unfold tryRecord at h
  extract_lets base at h
  split at h
  · exact nomatch h
  · split at h
    · exact nomatch h
    · exact nomatch h
    · exact nomatch h
    · extract_lets nent w at h
      split at h
      · exact nomatch h
      · split at h
        · exact nomatch h
        · exact nomatch h
        · exact nomatch h
        · obtain ⟨rfl, -⟩ := RecOut.written.inj h
          rw [spendFor_eq]
          exact of_eq rfl rfl

theorem waitRecord (s : State) (ctx core : Nat) (bytes : List Byte) (trap : Option PendRec) (unit : RecUnit)
    (page : Option Nat) : NothingIssued s (waitRecord s ctx core bytes trap unit page) := by
  unfold Machine.waitRecord
  split
  · rw [addWalk_eq]
    exact of_eq rfl rfl
  · exact of_eq rfl rfl

theorem recordDone (s : State) (core a : Nat) (trap : Option PendRec) : NothingIssued s (recordDone s core a trap) := by
  cases trap with
  | none => exact refl s
  | some p => exact ite (refl s) (of_eq rfl rfl)

theorem recordLost (s : State) (trap : Option PendRec) : NothingIssued s (recordLost s trap) := by
  cases trap with
  | none => exact refl s
  | some p => exact checkStop s p.team

theorem submitRecord (s : State) (ctx core : Nat) (bytes : List Byte) (trap : Option PendRec) (unit : RecUnit) :
    NothingIssued s (submitRecord s ctx core bytes trap unit) := by
  unfold Machine.submitRecord
  split
  · next h => exact (of_tryRecord h).trans (recordDone ..)
  · exact waitRecord ..
  · exact waitRecord ..
  · exact recordLost ..

/-- A precise fault of a slice issues nothing. -/
theorem takeFault (s : State) {k : Nat} (hk : k < trapBase) (acc : Bool) (f : FaultInfo) :
    NothingIssued s (takeFault s k acc f) := by
  unfold Machine.takeFault
  rw [if_neg (Nat.not_le.mpr hk)]
  extract_lets t core
  split
  · exact refl s
  · rename_i s1 sl _ _ _ s2 c s3 _ team _
    have hleft : NothingIssued s s1 := leaveUnit s k
    have hheld : NothingIssued s s2 := hleft.trans (putSlice fun _ => Prod.ext rfl (Prod.ext (holdAt_ncp sl) (holdAt_ntl sl)))
    have hmarked : NothingIssued s s3 := hheld.trans (ite (of_eq rfl rfl) (refl s2))
    exact hmarked.trans (submitRecord ..)

theorem countUnit (s : State) (t u : Nat) : NothingIssued s (countUnit s t u) := by
  rw [countUnit_eq]
  exact of_eq rfl rfl

end NothingIssued

/-! The instructions of each kind, as issues. -/

/-- All that the compute stream alone may run issues through the stream rule of its kind, with no follow-up. -/
theorem exec_compute {i : Instr} (h : streamsOf i = some .compute) (s : State) :
    ∃ f, exec i s = issueLane s .compute true f := by
  cases i <;> cases h <;> exact ⟨_, rfl⟩

/-- A follow-up that does nothing where the compute stream of a slice was the issuer and nothing has issued. -/
def IdleAfter (s : State) (g : State → State) : Prop :=
  ∀ k, s.issuer = .compute k → (∀ f ∈ s.flights, f.lanes ≠ []) → ∀ t, NothingIssued s t → g t = t

/-- An issue without a follow-up is one whose follow-up changes nothing. -/
theorem issue_with_idleAfter {o p : Host.Outcome State Fault Refusal} (s : State) (h : o = p) :
    ∃ g, o = andThen p g ∧ IdleAfter s g :=
  ⟨id, by rw [h]; cases p <;> rfl, fun _ _ _ _ _ => rfl⟩

theorem accessKey_compute {s : State} {k : Nat} (hi : s.issuer = .compute k) : accessKey s.issuer = 0 := by rw [hi]; rfl

/-- A copy's arrival at issue is of an access in flight without lanes. -/
theorem arriveAtIssue_idleAfter (s : State) (k : Nat) : IdleAfter s (arriveAtIssue k) := by
  intro _ _ hlanes t ht
  have hnone : t.flights.find? (fun f => f.owner = k && f.lanes.isEmpty) = none := by
    refine List.find?_eq_none.mpr fun f hf => ?_
    simp [ht.lanes_ne_nil hlanes f hf]
  rw [arriveAtIssue, hnone]

theorem enterReq_idleAfter (s : State) (mk : Env → Slice → AReq) : IdleAfter s fun t => enterReq s t mk := by
  intro k hi _ t ht
  have hntl : (sliceAt t 0).ntl = (sliceAt s 0).ntl := congrArg (·.2.2) ht.slice_zero
  show enterReq s t mk = t
  rw [enterReq, accessKey_compute hi]
  dsimp only
  split
  · rfl
  · rw [if_neg (by omega)]

theorem enterProg_idleAfter (s : State) (prog args : Nat) (sel : ScribeSel) (res : Bool) :
    IdleAfter s fun t => enterProg s t prog args sel res := by
  intro k hi _ t ht
  have hncp : (sliceAt t 0).ncp = (sliceAt s 0).ncp := congrArg (·.2.1) ht.slice_zero
  show enterProg s t prog args sel res = t
  rw [enterProg, accessKey_compute hi]
  dsimp only
  split
  · rfl
  · rw [if_neg (by omega)]

theorem afterSleep_idleAfter (s : State) : IdleAfter s (afterSleep s) := by
  intro k hi _ t _
  rw [afterSleep, hi]

theorem cancelReaches_compute {s : State} {k : Nat} (hi : s.issuer = .compute k) (r : Nat) : cancelReaches s r = none := by
  rw [cancelReaches, hi]

/-- All that the access stream alone may run issues through the stream rule of its kind, and what some do after it asks first
whether they have issued. -/
theorem exec_access {i : Instr} (h : streamsOf i = some .access) (s : State) :
    ∃ f g, exec i s = andThen (issueLane s .access false f) g ∧ IdleAfter s g := by
  unfold exec
  cases i with
  | acpG2s | acpS2g | acpS2s => exact ⟨_, _, rfl, arriveAtIssue_idleAfter s _⟩
  | mxloop | mxldb | mxst | mxldt => exact ⟨_, _, rfl, enterReq_idleAfter s _⟩
  | scstart => exact ⟨_, _, rfl, enterProg_idleAfter s _ _ _ _⟩
  | sleepuntil | sleepuntilBar => exact ⟨_, _, rfl, afterSleep_idleAfter s⟩
  | waitaddr => exact ⟨_, _, rfl, fun _ hi _ _ _ => by rw [hi]⟩
  | sccancel => exact ⟨_, _, rfl, fun _ hi _ _ _ => by rw [cancelReaches_compute hi]⟩
  | rflush =>
    refine ⟨_, _, rfl, fun _ hi _ t ht => ?_⟩
    have hpc : (sliceAt t 0).a.pc = (sliceAt s 0).a.pc := congrArg (·.1) ht.slice_zero
    have hstays : ¬ (sliceAt s 0).a.pc = (sliceAt s 0).a.pc + 4 := by simp
    dsimp only
    rw [accessKey_compute hi, hpc, decide_eq_false hstays, Bool.false_and, Bool.false_and, if_neg Bool.false_ne_true]
  | _ => cases h <;> exact ⟨_, issue_with_idleAfter s rfl⟩

theorem runPrivileged_untrapped {s : State} (h : ∀ core, s.issuer ≠ .trap core) (srcs : List Nat) (dst : Option Nat)
    (bad : List Nat → Option FaultInfo) (f : Nat → List Nat → State → State × Option Nat) :
    runPrivileged srcs dst s bad f = issueLane s .privileged false fun _ _ => .stall [] [] := by
  unfold runPrivileged
  split
  · next core hi => exact absurd hi (h core)
  · rfl

theorem exec_privileged {i : Instr} (h : streamsOf i = some .privileged) (s : State) :
    ∃ srcs dst bad f, exec i s = runPrivileged srcs dst s bad f := by
  unfold exec
  cases i <;> cases h <;> exact ⟨_, _, _, _, rfl⟩

/-- Only a trap context issues as one. -/
theorem issuer_ne_trap {s : State} {k : Nat} {acc : Bool} {e : Env} (h : Solo s k acc e) (he : e.trap = false) (core : Nat) :
    s.issuer ≠ .trap core := by
  have hk : ¬ trapBase ≤ k := by
    intro hk
    have henv := h.env
    unfold envOf at henv
    rw [if_pos hk] at henv
    dsimp only at henv
    split at henv
    · split at henv
      · rw [← Option.some.inj henv] at he
        exact nomatch he
      · exact nomatch henv
    · exact nomatch henv
  rw [h.issuer, issuerOf, if_neg hk]
  split <;> exact nofun

/-! The faults of R175. -/

theorem compute_faults {s : State} {k : Nat} {e : Env} {i : Instr} (h : Solo s k true e)
    (hi : streamsOf i = some .compute) :
    exec i s = .next (takeFault s k true (plainFault codeILLEGAL_IN_STREAM)) := by
  obtain ⟨f, hf⟩ := exec_compute hi s
  rw [hf]
  exact issueLane_fault h (by rw [streamFault, env_acc h.env, if_pos rfl])

theorem access_faults {s : State} {k : Nat} {e : Env} {i : Instr} (h : Solo s k false e)
    (hlanes : ∀ f ∈ s.flights, f.lanes ≠ []) (hi : streamsOf i = some .access) :
    exec i s = .next (takeFault (countUnit s (k / 32) (k % 32)) k false (plainFault codeILLEGAL_IN_STREAM)) := by
  obtain ⟨f, g, hf, hg⟩ := exec_access hi s
  have hfault : streamFault .access e = some (plainFault codeILLEGAL_IN_STREAM) := by
    rw [streamFault, env_acc h.env, if_neg Bool.false_ne_true]
  have hnothing := (NothingIssued.countUnit s (k / 32) (k % 32)).trans
    (.takeFault _ (h.low rfl) false (plainFault codeILLEGAL_IN_STREAM))
  rw [hf, issueLane_fault h hfault, andThen, if_neg Bool.false_ne_true, hg k h.issuer hlanes _ hnothing]

theorem privileged_faults {s : State} {k : Nat} {acc : Bool} {e : Env} {i : Instr} (h : Solo s k acc e)
    (hi : streamsOf i = some .privileged) (htrap : e.trap = false) :
    exec i s = .next (takeFault (if acc then s else countUnit s (k / 32) (k % 32)) k acc (plainFault codePRIVILEGED)) := by
  obtain ⟨srcs, dst, bad, f, hf⟩ := exec_privileged hi s
  rw [hf, runPrivileged_untrapped (issuer_ne_trap h htrap)]
  exact issueLane_fault h (by rw [streamFault, htrap, if_neg Bool.false_ne_true])

/-- What the trap context may run. -/
theorem streamFault_trap {e : Env} (hacc : e.acc = true) (htrap : e.trap = true) (r : Streams) :
    streamFault r e = none ↔ r ≠ .compute := by
  cases r <;> simp [streamFault, hacc, htrap]

/-! The access stream's own rules. -/

theorem merge_access {s : State} {k : Nat} {e : Env} (h : Solo s k true e) (n : BitVec 16) :
    exec (.merge n) s = .next (issued s k true (withStream (sliceAt s k) true retire) [] none) := by
  have hissuer : ∀ j, s.issuer ≠ .compute j := by
    rw [h.issuer, issuerOf, if_pos rfl]
    split <;> exact nofun
  show execMerge n s = _
  rw [execMerge, issueLane_done (sl := withStream (sliceAt s k) true retire) h rfl (if_pos (env_acc h.env))
    (setStream_unit ..), andThen]
  split
  · next j hj => exact absurd hj (hissuer j)
  · rfl

/-- The instructions of `intTable` read both sources and write a register, whatever they compute. -/
theorem exec_intTable :
    ∀ p ∈ intTable, ∀ (d a b : Code) (s : State), ∃ op, exec (p.1 d a b) s = runAlu int3 op d a b s := by
  unfold intTable
  repeat refine List.forall_mem_cons.mpr ⟨fun _ _ _ _ => ⟨_, rfl⟩, ?_⟩
  exact nofun

theorem int3_operand_faults {op : OpIn → Nat → LaneOut} {s : State} {k : Nat} {e : Env} {d a b : Code} (h : Solo s k true e)
    (hcode : accessSourceFaults a.toNat = true ∨ accessSourceFaults b.toNat = true ∨ accessDestFaults d.toNat = true) :
    runAlu int3 op d a b s = .next (takeFault s k true (plainFault codeILLEGAL_OPERAND)) := by
  refine runAlu_access_fault h rfl (checkOperands_access_illegal (env_acc h.env) ?_)
  rcases hcode with ha | hb | hd
  · simp [aluOperands, int3, ha]
  · simp [aluOperands, int3, hb]
  · simp [aluOperands, int3, hd]

/-- Settles O7: an instruction's issue with its follow-up, then the faults of R175 and R53. -/
theorem streamRules : Obligations.StreamRules := by
  unfold Obligations.StreamRules
  refine ⟨?excluded, ?trapContext, ?merge, ?roles, ?intRoles⟩
  case excluded =>
    intro s k acc e i h hlanes
    refine ⟨?_, ?_, privileged_faults h⟩
    · rintro hi rfl
      exact compute_faults h hi
    · rintro hi rfl
      exact access_faults h hlanes hi
  case trapContext => exact fun e r hacc htrap => streamFault_trap hacc htrap r
  case merge => exact fun s k e n h => merge_access h n
  case roles => exact fun e sl act o x hacc hroles => checkOperands_access_illegal hacc hroles
  case intRoles =>
    intro p hp s k e d a b h hcode
    obtain ⟨op, hop⟩ := exec_intTable p hp d a b s
    rw [hop]
    exact int3_operand_faults h hcode

end Sys2Proof.Proofs
end

section
/-! PROOFS. The integer functions of one source (R188), the compares (R189) and SEL (R190): their results, the predicate that a
compare writes, and their words. -/

namespace Sys2Proof.Proofs

open Sys2Proof.Machine Sys2Proof.Safety Sys2Proof.Laws

/-! What an instruction issues as says what it completes with. -/

theorem givesAlu_of_exec {i : Code → Code → Code → Instr} {m : AluForm} {op : OpIn → Nat → LaneOut}
    (hexec : ∀ d a b s, exec (i d a b) s = runAlu m op d a b s) : GivesAlu i m op := by
  intro s k acc e d a b vals sl1 h ho
  rw [hexec]
  exact runAlu_done op h ho

theorem givesUnary_of_exec {i : Code → Code → Instr} {m : AluForm} {op : OpIn → Nat → LaneOut}
    (hexec : ∀ d a s, exec (i d a) s = runAlu m op d a 0 s) : GivesUnary i m op := by
  intro s k acc e d a vals sl1 h ho
  rw [hexec]
  exact runAlu_done op h ho

/-! The model's recursions over the bits and bytes of a number, as sums and counts over their positions. -/

theorem popCount_eq_countP (x n : Nat) : popCount x n = (List.range n).countP fun i => x.testBit i := by
  induction n generalizing x with
  | zero => rfl
  | succ n ih =>
    rw [popCount, ih, List.range_succ_eq_map, List.countP_cons, List.countP_map, Nat.testBit_zero]
    simp only [Function.comp_def, Nat.testBit_succ, decide_eq_true_eq]
    split <;> omega

theorem trailZeros_eq_length (x n : Nat) :
    trailZeros x n = ((List.range n).takeWhile fun i => !x.testBit i).length := by
  induction n generalizing x with
  | zero => rfl
  | succ n ih =>
    rw [trailZeros, ih, List.range_succ_eq_map, List.takeWhile_cons, List.takeWhile_map, Nat.testBit_zero]
    by_cases hodd : x % 2 = 1
    · simp [hodd]
    · simp [hodd, Function.comp_def, Nat.testBit_succ]

theorem bitRev_eq_sum (x n : Nat) :
    bitRev x n = ((List.range n).map fun i => (x.testBit i).toNat * 2 ^ (n - 1 - i)).sum := by
  induction n generalizing x with
  | zero => rfl
  | succ n ih =>
    rw [bitRev, ih, List.range_succ_eq_map, List.map_cons, List.sum_cons, List.map_map, Nat.toNat_testBit]
    simp only [Function.comp_def, Nat.testBit_succ, Nat.pow_zero, Nat.div_one, Nat.add_sub_cancel, Nat.sub_zero,
      Nat.succ_eq_add_one, Nat.sub_sub, Nat.add_comm 1]

theorem byteRev_eq_sum (x n : Nat) :
    byteRev x n = ((List.range n).map fun i => x / 256 ^ i % 256 * 256 ^ (n - 1 - i)).sum := by
  induction n generalizing x with
  | zero => rfl
  | succ n ih =>
    rw [byteRev, ih, List.range_succ_eq_map, List.map_cons, List.sum_cons, List.map_map]
    simp only [Function.comp_def, Nat.pow_succ', Nat.div_div_eq_div_mul, Nat.pow_zero, Nat.div_one, Nat.add_sub_cancel,
      Nat.sub_zero, Nat.succ_eq_add_one, Nat.sub_sub, Nat.add_comm 1]

/-! The tables. -/

/-- All but NEG, POPC, CTZ, BREV and BSWAP unfold to the table's function. -/
theorem exec_unaryTable :
    ∀ p ∈ unaryTable, ∃ f, (∀ d a s, exec (p.1 d a) s = runAlu int2 (unOp f) d a 0 s) ∧ ∀ w x, f w x = p.2 w x := by
  simp only [unaryTable, List.forall_mem_cons]
  refine ⟨?mov, ?bnot, ?ineg, ?iabs, ?popc, ?clz, ?ctz, ?brev, ?sext8, ?sext16, ?zext8, ?zext16, ?bswap, nofun⟩
  case ineg => exact ⟨_, fun _ _ _ => rfl, fun w x => by rw [zero_sub]⟩
  case popc => exact ⟨_, fun _ _ _ => rfl, fun w x => popCount_eq_countP x w⟩
  case ctz => exact ⟨_, fun _ _ _ => rfl, fun w x => trailZeros_eq_length x w⟩
  case brev => exact ⟨_, fun _ _ _ => rfl, fun w x => bitRev_eq_sum x w⟩
  case bswap => exact ⟨_, fun _ _ _ => rfl, fun w x => byteRev_eq_sum x (w / 8)⟩
  all_goals exact ⟨_, fun _ _ _ => rfl, fun _ _ => rfl⟩

/-- All but ICMP.NE and TEST unfold to the table's function. -/
theorem exec_compareTable :
    ∀ p ∈ compareTable, ∃ f, (∀ d a b s, exec (p.1 d a b) s = runAlu intCmp (cmpOp f) d a b s) ∧
      ∀ w x y, f w x y = p.2 w x y := by
  simp only [compareTable, List.forall_mem_cons]
  refine ⟨?eq, ?ne, ?ltS, ?leS, ?ltU, ?leU, ?test, ?testz, nofun⟩
  case ne => exact ⟨_, fun _ _ _ _ => rfl, fun _ x y => (decide_not ..).symm⟩
  case test => exact ⟨_, fun _ _ _ _ => rfl, fun _ x y => (decide_not ..).symm⟩
  all_goals exact ⟨_, fun _ _ _ _ => rfl, fun _ _ _ => rfl⟩

/-! Predicates. -/

theorem qget_qof {α : Type} (f : Nat → α) {l : Nat} (hl : l < 4) : qget (qof f) l = f l := by
  match l, hl with
  | 0, _ | 1, _ | 2, _ | 3, _ => rfl

/-- A bit written among eight. -/
theorem getLsbD_writeBit (x : BitVec 8) (v : Bool) (p : Nat) {q : Nat} (hq : q < 8) :
    (if v then x ||| BitVec.ofNat 8 (2 ^ p) else x &&& ~~~BitVec.ofNat 8 (2 ^ p)).getLsbD q =
      if q = p then v else x.getLsbD q := by
  have hbit : (BitVec.ofNat 8 (2 ^ p)).getLsbD q = decide (q = p) := by
    rw [BitVec.getLsbD_ofNat, decide_eq_true hq, Bool.true_and, Nat.testBit_two_pow]
    exact decide_eq_decide.mpr eq_comm
  cases v with
  | true =>
    rw [if_pos rfl, BitVec.getLsbD_or, hbit]
    by_cases hqp : q = p <;> simp [hqp]
  | false =>
    rw [if_neg Bool.false_ne_true, BitVec.getLsbD_and, BitVec.getLsbD_not, hbit]
    by_cases hqp : q = p <;> simp [hqp, hq]

/-- A write reaches one predicate in the acting lanes, and none through p0 (R49, R189). -/
theorem predOf_writePred (acc : Bool) (act : BitVec 4) (p : Nat) (f : Nat → Bool) (sl : Slice) {q l : Nat}
    (hq : q < 8) (hl : l < 4) :
    predOf (streamOf acc (writePred acc act p f sl)) q l =
      if q = p ∧ p ≠ 0 ∧ act.getLsbD l = true then f l else predOf (streamOf acc sl) q l := by
  by_cases hp : p = 0
  · rw [writePred, if_pos hp, if_neg fun h => h.2.1 hp]
  · rw [writePred, if_neg hp, streamOf_setStream, predOf, predOf, qget_qof _ hl]
    by_cases hact : act.getLsbD l = true
    · rw [if_pos hact, getLsbD_writeBit _ _ _ hq]
      by_cases hqp : q = p
      · simp [hqp, hp, hact]
      · simp [hqp]
    · simp [hact]

/-! Words. -/

/-- A word of the format F3 (R158). -/
def f3Word (op d a b : Code) : Word32 := op ++ d ++ a ++ b

theorem f3Word_op (op d a b : Code) : (f3Word op d a b).extractLsb' 24 8 = op := by
  rw [f3Word, BitVec.extractLsb'_append_eq_of_le (by decide), BitVec.extractLsb'_append_eq_of_le (by decide)]
  exact BitVec.extractLsb'_append_eq_left

theorem f3Word_d (op d a b : Code) : (f3Word op d a b).extractLsb' 16 8 = d := by
  rw [f3Word, BitVec.extractLsb'_append_eq_of_le (by decide), BitVec.extractLsb'_append_eq_of_le (by decide)]
  exact BitVec.extractLsb'_append_eq_right

theorem f3Word_a (op d a b : Code) : (f3Word op d a b).extractLsb' 8 8 = a := by
  rw [f3Word, BitVec.extractLsb'_append_eq_of_le (by decide)]
  exact BitVec.extractLsb'_append_eq_right

theorem f3Word_b (op d a b : Code) : (f3Word op d a b).extractLsb' 0 8 = b :=
  BitVec.extractLsb'_append_eq_right

theorem f3Word_predicate (op d a b : Code) : (f3Word op d a b).extractLsb' 24 2 = op.extractLsb' 0 2 := by
  rw [f3Word, BitVec.extractLsb'_append_eq_of_le (by decide), BitVec.extractLsb'_append_eq_of_le (by decide),
    BitVec.extractLsb'_append_eq_of_le (by decide)]

theorem decodeLane_of_raw {w : Word32} {i : Instr} (hraw : decodeLaneRaw w = some i) (hwf : wellFormed i = true)
    (hused : unusedField i w = none) : decodeLane w = .ok i := by
  rw [decodeLane, hraw]
  simp only [hwf, hused, if_true]

theorem decodeLaneRaw_compare (m : Fin 8) {w : Word32} (hop : w.extractLsb' 24 8 = BitVec.ofNat 8 (0x20 + m)) :
    decodeLaneRaw w = some ((compareTable[m]).1 (w.extractLsb' 16 8) (w.extractLsb' 8 8) (w.extractLsb' 0 8)) := by
  unfold decodeLaneRaw
  generalize w.extractLsb' 24 8 = op at hop ⊢
  subst hop
  fin_cases m <;> rfl

theorem decodeLane_compare (m : Fin 8) (d a b : Code) :
    decodeLane (f3Word (BitVec.ofNat 8 (0x20 + m)) d a b) = .ok ((compareTable[m]).1 d a b) := by
  have hraw := decodeLaneRaw_compare m (f3Word_op _ d a b)
  rw [f3Word_d, f3Word_a, f3Word_b] at hraw
  refine decodeLane_of_raw hraw ?_ ?_
  · fin_cases m <;> rfl
  · fin_cases m <;> rfl

/-- The predicate of SEL stands in the low bits of the opcode. -/
theorem decodeLaneRaw_sel (n : BitVec 2) {w : Word32} (hop : w.extractLsb' 24 8 = BitVec.ofNat 8 (0x28 + n.toNat)) :
    decodeLaneRaw w = some (.sel (w.extractLsb' 24 2) (w.extractLsb' 16 8) (w.extractLsb' 8 8) (w.extractLsb' 0 8)) := by
  unfold decodeLaneRaw
  generalize w.extractLsb' 24 8 = op at hop ⊢
  subst hop
  obtain rfl | rfl | rfl | rfl : n = 0 ∨ n = 1 ∨ n = 2 ∨ n = 3 := by revert n; decide
  all_goals rfl

theorem decodeLane_sel (n : BitVec 2) (d a b : Code) :
    decodeLane (f3Word (BitVec.ofNat 8 (0x28 + n.toNat)) d a b) = .ok (.sel n d a b) := by
  have hn : (BitVec.ofNat 8 (0x28 + n.toNat)).extractLsb' 0 2 = n := by revert n; decide
  have hraw := decodeLaneRaw_sel n (f3Word_op _ d a b)
  rw [f3Word_predicate, hn, f3Word_d, f3Word_a, f3Word_b] at hraw
  exact decodeLane_of_raw hraw rfl rfl

/-- Settles O11: the tables of R188 and R189 and SEL as issues, then the predicate's write and the words. -/
theorem selectionResults : Obligations.SelectionResults := by
  unfold Obligations.SelectionResults
  refine ⟨?unary, ?compares, decodeLane_compare, ?predicate, ?sel, decodeLane_sel⟩
  case unary =>
    intro p hp
    obtain ⟨f, hexec, hf⟩ := exec_unaryTable p hp
    rw [← funext₂ hf]
    exact givesUnary_of_exec hexec
  case compares =>
    intro p hp
    obtain ⟨f, hexec, hf⟩ := exec_compareTable p hp
    rw [← funext₃ hf]
    exact givesAlu_of_exec hexec
  case predicate => exact fun acc act p f sl q l hq hl => predOf_writePred acc act p f sl hq hl
  case sel => exact fun n => givesAlu_of_exec fun _ _ _ _ => rfl

end Sys2Proof.Proofs
end

section
/-! PROOFS. Decoding undoes encoding (R158, R170 to R174, R288): a field of a word read back, the instruction that a word's fields
name, and the checks of R159 and R162. -/

namespace Sys2Proof.Proofs

/-! Reading a field of a word that is put together from fields. -/

theorem field_above {v w start len : Nat} (x : BitVec v) (y : BitVec w) (h : w ≤ start) :
    (x ++ y).extractLsb' start len = x.extractLsb' (start - w) len := BitVec.extractLsb'_append_eq_of_le h

theorem field_below {v w start len : Nat} (x : BitVec v) (y : BitVec w) (h : start + len ≤ w) :
    (x ++ y).extractLsb' start len = y.extractLsb' start len := BitVec.extractLsb'_append_eq_of_add_le h

theorem field_whole {w start : Nat} (x : BitVec w) (h : start = 0) : x.extractLsb' start w = x := by
  subst h
  exact BitVec.extractLsb'_eq_self

theorem bit_above {v w i : Nat} (x : BitVec v) (y : BitVec w) (h : w ≤ i) : (x ++ y).getLsbD i = x.getLsbD (i - w) := by
  rw [BitVec.getLsbD_append, if_neg (Nat.not_lt.mpr h)]

theorem bit_below {v w i : Nat} (x : BitVec v) (y : BitVec w) (h : i < w) : (x ++ y).getLsbD i = y.getLsbD i := by
  rw [BitVec.getLsbD_append, if_pos h]

theorem bit_ofBool (b : Bool) {i : Nat} (h : i = 0) : (BitVec.ofBool b).getLsbD i = b := by
  subst h
  cases b <;> rfl

/-! The code of a field value stands for that value (R15, R159, R229, R277, R289, R297). -/

theorem scope_ofBits_bits (x : Scope) : Scope.ofBits x.bits = some x := by cases x <;> rfl
theorem order_ofBits_bits (x : Order) : Order.ofBits x.bits = some x := by cases x <;> rfl
theorem width_ofBits_bits (x : Width) : Width.ofBits x.bits = some x := by cases x <;> rfl
theorem copySize_ofBits_bits (x : CopySize) : CopySize.ofBits x.bits = some x := by cases x <;> rfl
theorem scribeSel_ofBits_bits (x : ScribeSel) : ScribeSel.ofBits x.bits = some x := by cases x <;> rfl
theorem kcond_ofBits_bits (x : KCond) : KCond.ofBits x.bits = some x := by cases x <;> rfl
theorem reduceOp_ofBits_bits (x : ReduceOp) : ReduceOp.ofBits x.bits = some x := by cases x <;> rfl

/-! The instruction that a lane word names. Each case reads the opcode first, which picks the decoder's row, and then the row's
fields; the row stands deep in the decoder's list of opcodes, hence the recursion depth. -/

/-- The fields of a lane word behind its opcode: three operand codes, two with a fixed third byte, or another format (R158). -/
inductive LaneFormat where
  | three | two | other
deriving DecidableEq

/-- The format of a lane instruction. -/
def laneFormat : Instr → LaneFormat
  | .iadd _ _ _ | .isub _ _ _ | .iminS _ _ _ | .imaxS _ _ _ | .imul _ _ _ | .imulhS _ _ _ | .imulhU _ _ _
  | .imad _ _ _ | .iminU _ _ _ | .imaxU _ _ _ | .iabsdU _ _ _ | .iavgU _ _ _ | .band _ _ _ | .bor _ _ _ | .bxor _ _ _
  | .bandn _ _ _ | .shl _ _ _ | .shrU _ _ _ | .shrS _ _ _ | .shrrS _ _ _ | .rotl _ _ _ | .bfeU _ _ _ | .bfeS _ _ _
  | .bfi _ _ _ | .prmb _ _ _ | .mulwU _ _ _ | .mulwS _ _ _ | .iadd64 _ _ _ | .icmpEq _ _ _ | .icmpNe _ _ _
  | .icmpLtS _ _ _ | .icmpLeS _ _ _ | .icmpLtU _ _ _ | .icmpLeU _ _ _ | .test _ _ _ | .testz _ _ _ | .dot2Sat _ _ _
  | .dot2Wrap _ _ _ | .add2Sat _ _ _ | .sub2Sat _ _ _ | .mul2Lo _ _ _ | .max2S _ _ _ | .min2S _ _ _ | .pack2 _ _ _
  | .dot4SSat _ _ _ | .dot4USat _ _ _ | .add4USat _ _ _ | .sub4USat _ _ _ | .shfl _ _ _ | .slidehDn _ _ _
  | .slidehUp _ _ _ | .slidewDn _ _ _ | .fadd _ _ _ | .fsub _ _ _ | .fmul _ _ _ | .ffma _ _ _ | .fmin _ _ _
  | .fmax _ _ _ | .fminn _ _ _ | .fmaxn _ _ _ | .fcmpEq _ _ _ | .fcmpLt _ _ _ | .fcmpLe _ _ _ | .fcmpUnord _ _ _
  | .dadd _ _ _ | .dsub _ _ _ | .dmul _ _ _ | .dfma _ _ _ | .badd2 _ _ _ | .bmul2 _ _ _ | .bfma2 _ _ _ | .bmax2 _ _ _
  | .hadd2 _ _ _ | .hmul2 _ _ _ | .hfma2 _ _ _ | .hmax2 _ _ _ | .fdot2Bf _ _ _ | .fdot2H _ _ _ | .fdot4E4 _ _ _
  | .fdot4E5 _ _ _ | .packbf _ _ _ | .packh _ _ _ | .ins8E4 _ _ _ | .ins4E2 _ _ _ | .fscale _ _ _ | .fsignc _ _ _ => .three
  | .mov _ _ | .bnot _ _ | .ineg _ _ | .iabs _ _ | .popc _ _ | .clz _ _ | .ctz _ _ | .brev _ _ | .sext8 _ _
  | .sext16 _ _ | .zext8 _ _ | .zext16 _ _ | .bswap _ _ | .ballot _ _ | .redadd _ _ | .redminS _ _ | .redmaxS _ _
  | .frcp _ _ | .frsq _ _ | .fsqrt _ _ | .fexp2 _ _ | .flog2 _ _ | .fsinpi _ _ | .fcospi _ _ | .ftanh _ _ | .fabs _ _
  | .fneg _ _ | .ffloor _ _ | .fceil _ _ | .ftrunc _ _ | .frint _ _ | .fclass _ _ | .dsqrt _ _ | .drcp _ _
  | .f2iS _ _ | .f2iU _ _ | .i2fS _ _ | .i2fU _ _ | .f2d _ _ | .d2f _ _ | .f2bf _ _ | .bf2f _ _ | .f2h _ _ | .h2f _ _
  | .f2e4 _ _ | .f2e5 _ _ | .e42f _ _ | .e52f _ _ | .f2e2 _ _ | .e22f _ _ | .i2dS _ _ | .i2dU _ _ | .isatS16 _ _ => .two
  | _ => .other

/-- The predicate of SEL stands in the low bits of its opcode. -/
theorem sel_word (n : BitVec 2) (d a b : Code) :
    10#6 ++ n ++ d ++ a ++ b = f3Word (BitVec.ofNat 8 (0x28 + n.toNat)) d a b := by
  have hop : 10#6 ++ n = BitVec.ofNat 8 (0x28 + n.toNat) := by revert n; decide
  rw [f3Word, ← hop]

theorem decodeLaneRaw_sel_word (n : BitVec 2) (d a b : Code) :
    decodeLaneRaw (10#6 ++ n ++ d ++ a ++ b) = some (.sel n d a b) := by
  have hn : (BitVec.ofNat 8 (0x28 + n.toNat)).extractLsb' 0 2 = n := by revert n; decide
  rw [sel_word, decodeLaneRaw_sel n (f3Word_op ..), f3Word_predicate, hn, f3Word_d, f3Word_a, f3Word_b]

set_option maxRecDepth 2000 in
theorem decodeLaneRaw_three {i : Instr} {w : Word32} (hf : laneFormat i = .three) (he : encode i = some w) :
    decodeLaneRaw w = some i := by
  cases i
  all_goals try contradiction
  all_goals
    have hop := congrArg (BitVec.extractLsb' 24 8) (Option.some.inj he)
    simp (disch := decide) only [field_above, field_whole] at hop
    rw [decodeLaneRaw, ← hop]
    obtain rfl := Option.some.inj he
    change some _ = _
    simp (disch := decide) only [field_above, field_below, field_whole]

set_option maxRecDepth 2000 in
theorem decodeLaneRaw_two {i : Instr} {w : Word32} (hf : laneFormat i = .two) (he : encode i = some w) :
    decodeLaneRaw w = some i := by
  cases i
  all_goals try contradiction
  all_goals
    have hop := congrArg (BitVec.extractLsb' 24 8) (Option.some.inj he)
    have hcode := congrArg (BitVec.extractLsb' 0 8) (Option.some.inj he)
    simp (disch := decide) only [field_above, field_below, field_whole] at hop hcode
    rw [decodeLaneRaw, ← hop, ← hcode]
    obtain rfl := Option.some.inj he
    change some _ = _
    simp (disch := decide) only [field_above, field_below, field_whole]

set_option maxRecDepth 2000 in
theorem decodeLaneRaw_other {i : Instr} {w : Word32} (hf : laneFormat i = .other) (hs : isScribe i = false)
    (he : encode i = some w) : decodeLaneRaw w = some i := by
  cases i
  all_goals try contradiction
  case sel n d a b =>
    obtain rfl := Option.some.inj he
    exact decodeLaneRaw_sel_word n d a b
  all_goals
    have hop := congrArg (BitVec.extractLsb' 24 8) (Option.some.inj he)
    simp (disch := decide) only [field_above, field_whole, Nat.reduceSub, BitVec.reduceExtractLsb'] at hop
    rw [decodeLaneRaw, ← hop]
    obtain rfl := Option.some.inj he
  all_goals first | change some _ = _ | change ite _ _ _ = _ | change Option.bind _ _ = _
  all_goals simp (disch := decide) only [field_above, field_below, field_whole, bit_above, bit_below, bit_ofBool,
    scope_ofBits_bits, order_ofBits_bits, width_ofBits_bits, copySize_ofBits_bits, scribeSel_ofBits_bits,
    Nat.reduceSub, BitVec.reduceExtractLsb', BitVec.reduceGetLsb, Bool.false_eq_true, if_false, BitVec.ofNat_eq_ofNat,
    beq_self_eq_true, Bool.and_self, if_true, Option.bind_some]

/-! The instruction that a scribe word names. -/

theorem decodeScribeRaw_encode {i : Instr} {w : Word32} (hs : isScribe i = true) (he : encode i = some w) :
    decodeScribeRaw w = some i := by
  cases i
  all_goals try contradiction
  all_goals
    have hop := congrArg (BitVec.extractLsb' 26 6) (Option.some.inj he)
    simp (disch := decide) only [field_above, field_whole, Nat.reduceSub, BitVec.reduceExtractLsb'] at hop
    rw [decodeScribeRaw, ← hop]
    obtain rfl := Option.some.inj he
  all_goals first | change some _ = _ | change ite _ _ _ = _
  all_goals simp (disch := decide) only [field_above, field_below, field_whole, scope_ofBits_bits, kcond_ofBits_bits,
    reduceOp_ofBits_bits, Nat.reduceSub, BitVec.reduceExtractLsb', BitVec.ofNat_eq_ofNat, beq_self_eq_true, Bool.and_self,
    if_true, Option.bind_some]

/-! The operand field that an instruction does not use holds 0xAE in its word (R162). -/

theorem unusedField_encode {i : Instr} {w : Word32} (he : encode i = some w) : unusedField i w = none := by
  unfold unusedField
  split
  case h_6 =>
    obtain rfl := Option.some.inj he
    simp (disch := decide) only [field_above, Nat.reduceSub, BitVec.reduceExtractLsb', BitVec.ofNat_eq_ofNat,
      beq_self_eq_true, if_true]
  case h_7 => rfl
  all_goals
    obtain rfl := Option.some.inj he
    exact if_pos (beq_iff_eq.mpr (field_below _ _ (by decide)))

/-- Settles O4: the fields of a word name its instruction again, which passes the checks of R159 and R162. -/
theorem decodeEncode : Obligations.DecodeEncode := by
  unfold Obligations.DecodeEncode
  intro i w hwf he
  split
  · next hs =>
    rw [decodeScribe, decodeScribeRaw_encode hs he]
    exact if_pos hwf
  · next hs =>
    have hraw : decodeLaneRaw w = some i := by
      rcases hf : laneFormat i with _ | _ | _
      · exact decodeLaneRaw_three hf he
      · exact decodeLaneRaw_two hf he
      · exact decodeLaneRaw_other hf (Bool.not_eq_true _ ▸ hs) he
    exact decodeLane_of_raw hraw hwf (unusedField_encode he)

end Sys2Proof.Proofs
end

section
/-! PROOFS. The integer instructions of two sources (R183 to R187): what they complete with. -/

namespace Sys2Proof.Proofs

open Sys2Proof.Machine Sys2Proof.Safety Sys2Proof.Laws

theorem bitAt_eq_testBit (x i : Nat) : bitAt x i = x.testBit i := by
  rw [bitAt, bits_eq_div_mod, Nat.pow_one, Nat.testBit_eq_decide_div_mod_eq, beq_eq_decide]

theorem sval_mod (w x : Nat) : sval w (x % 2 ^ w) = sval w x := by
  rw [sval, sval, Nat.mod_mod]

theorem wrap_lt (w : Nat) (x : Int) : wrap w x < 2 ^ w := by
  have hpos : (0 : Int) < ((2 ^ w : Nat) : Int) := by positivity
  have hlt : x % ((2 ^ w : Nat) : Int) < ((2 ^ w : Nat) : Int) := Int.emod_lt_of_pos _ hpos
  rw [wrap]
  omega

theorem wrap_eq_of_emod_eq {w : Nat} {x y : Int} (h : x % ((2 ^ w : Nat) : Int) = y % ((2 ^ w : Nat) : Int)) :
    wrap w x = wrap w y := by
  rw [wrap, wrap, h]

/-- A signed reading differs from the number by a multiple of 2^w (R71). -/
theorem sval_emod (w x : Nat) : sval w x % ((2 ^ w : Nat) : Int) = (x : Int) % ((2 ^ w : Nat) : Int) := by
  unfold sval
  extract_lets y
  split
  · rw [Int.natCast_emod, Int.emod_emod]
  · rw [Int.sub_emod_right, Int.natCast_emod, Int.emod_emod]

theorem wrap_sval (w x : Nat) : wrap w (sval w x) = x % 2 ^ w := by
  rw [wrap, sval_emod, ← Int.natCast_emod, Int.toNat_natCast]

/-- Equal signed readings are of equal patterns, so that a tie in IMAX.S may go to either operand. -/
theorem imaxS_tie (w x y : Nat) :
    (if sval w x ≤ sval w y then y else x) % 2 ^ w = (if sval w y ≤ sval w x then x else y) % 2 ^ w := by
  split
  case isTrue hle =>
    split
    · next hge => rw [← wrap_sval, ← wrap_sval w x, Int.le_antisymm hle hge]
    · rfl
  case isFalse hlt => rw [if_pos (by omega)]

theorem int_two_pow (n : Nat) : ((2 ^ n : Nat) : Int) = 2 ^ n := by
  push_cast
  rfl

/-- Rounding adds half of the last place, and a shift by 0 has none (R73). -/
theorem wrap_shrRound (w x n : Nat) :
    wrap w (shrRound (sval w x) n) % 2 ^ w =
      (if n = 0 then x else wrap w ((sval w x + 2 ^ (n - 1)) / 2 ^ n)) % 2 ^ w := by
  rw [shrRound, int_two_pow, int_two_pow]
  split
  · rw [wrap_sval, Nat.mod_mod]
  · rfl

/-- All but IMIN.S, IMULH.S, SHR.S, SHRR.S and the unsigned minima, maxima and differences unfold to the table's function. -/
theorem exec_intTable_results :
    ∀ p ∈ intTable, ∃ f, (∀ d a b s, exec (p.1 d a b) s = runAlu int3 (binOp f) d a b s) ∧
      ∀ w x y, f w x y % 2 ^ w = p.2 w x y % 2 ^ w := by
  simp only [intTable, List.forall_mem_cons]
  refine ⟨?iadd, ?isub, ?iminS, ?imaxS, ?imul, ?imulhS, ?imulhU, ?iminU, ?imaxU, ?iabsdU, ?iavgU, ?band, ?bor, ?bxor, ?bandn,
    ?shl, ?shrU, ?shrS, ?shrrS, ?rotl, nofun⟩
  case iminS =>
    refine ⟨_, fun _ _ _ _ => rfl, fun w x y => ?_⟩
    simp only [← Int.not_le, ite_not]
  case imaxS =>
    exact ⟨_, fun _ _ _ _ => rfl, imaxS_tie⟩
  case imulhS => exact ⟨_, fun _ _ _ _ => rfl, fun w x y => by simp only [int_two_pow]⟩
  case iminU => exact ⟨_, fun _ _ _ _ => rfl, fun w x y => by simp only [Nat.min_def]⟩
  case imaxU => exact ⟨_, fun _ _ _ _ => rfl, fun w x y => by simp only [Nat.max_def]⟩
  case iabsdU =>
    refine ⟨_, fun _ _ _ _ => rfl, fun w x y => ?_⟩
    simp only [Nat.max_def, Nat.min_def]
    split <;> rfl
  case shrS => exact ⟨_, fun _ _ _ _ => rfl, fun w x y => by simp only [int_two_pow, shiftCount]⟩
  case shrrS => exact ⟨_, fun _ _ _ _ => rfl, fun w x y => wrap_shrRound w x _⟩
  all_goals exact ⟨_, fun _ _ _ _ => rfl, fun _ _ _ => rfl⟩

theorem binOp_eq_inWidth {f g : Nat → Nat → Nat → Nat} (h : ∀ w x y, f w x y % 2 ^ w = g w x y % 2 ^ w) :
    binOp f = inWidth g := by
  funext i l
  rw [binOp, inWidth, h]

/-- The sign-extended field of BFE.S; the reading of the field ignores what lies above it. -/
theorem sext_field (w x lo len : Nat) : sext len w (bits x lo len) = wrap w (sval len (x / 2 ^ lo)) := by
  rw [sext, bits_eq_div_mod, sval_mod]

/-! PRMB (R186). -/

/-- The statement's byte for a selector: bits 2 and 3 of the selector and bit 7 of the byte as bounds. -/
def selectedByte (acc : Bool) (a t : Nat) : Nat :=
  let byte := bits a (8 * (t % (if acc then 8 else 4))) 8
  if acc = false ∧ 4 ≤ t % 8 then 0 else if 8 ≤ t then (if 128 ≤ byte then 255 else 0) else byte

theorem bits_lt (x lo len : Nat) : bits x lo len < 2 ^ len := Nat.mod_lt _ (Nat.two_pow_pos len)

theorem bitAt_eq_true_iff (x i : Nat) : bitAt x i = true ↔ x / 2 ^ i % 2 = 1 := by
  rw [bitAt_eq_testBit, Nat.testBit_eq_decide_div_mod_eq, decide_eq_true_eq]

theorem permByte_eq (acc : Bool) (a : Nat) {t : Nat} (ht : t < 16) : permByte acc a t = selectedByte acc a t := by
  have hzero : (!acc && bitAt t 2) = true ↔ acc = false ∧ 4 ≤ t % 8 := by
    rw [Bool.and_eq_true, Bool.not_eq_true', bitAt_eq_true_iff]
    exact and_congr_right fun _ => by omega
  have hsign : bitAt t 3 = true ↔ 8 ≤ t := by
    rw [bitAt_eq_true_iff]
    omega
  have hhigh : ∀ byte < 2 ^ 8, bitAt byte 7 = true ↔ 128 ≤ byte := fun byte h => by
    rw [bitAt_eq_true_iff]
    omega
  rw [permByte, selectedByte]
  simp only [hzero, hsign, hhigh _ (bits_lt ..)]

theorem permBytes_eq_sum (acc : Bool) (a b j n : Nat) :
    permBytes acc a b j n =
      ((List.range n).map fun i => selectedByte acc a (bits b (4 * (j + i)) 4) * 256 ^ (j + i)).sum := by
  induction n generalizing j with
  | zero => rfl
  | succ n ih =>
    rw [permBytes, ih, permByte_eq acc a (bits_lt b (4 * j) 4), List.range_succ_eq_map, List.map_cons, List.sum_cons,
      List.map_map]
    simp only [Function.comp_def, Nat.add_zero, Nat.succ_eq_add_one, Nat.add_comm 1, Nat.add_assoc]

theorem prmb_op (i : OpIn) (l : Nat) :
    permBytes i.acc (qget i.a l) (qget i.b l) 0 (i.w / 8) = ((List.range (i.w / 8)).map fun j =>
      selectedByte i.acc (qget i.a l) (bits (qget i.b l) (4 * j) 4) * 256 ^ j).sum := by
  rw [permBytes_eq_sum]
  simp only [Nat.zero_add]

/-- Settles O10: the table's functions, then the fields, whose readings of bits the model writes with shifts, and PRMB as a sum
over its bytes. -/
theorem integerResults : Obligations.IntegerResults := by
  unfold Obligations.IntegerResults
  refine ⟨?table, ?imad, ?bfeU, ?bfeS, ?bfi, ?prmb, ?mulwU, ?mulwS, ?iadd64⟩
  case table =>
    intro p hp
    obtain ⟨f, hexec, hf⟩ := exec_intTable_results p hp
    rw [← binOp_eq_inWidth hf]
    exact givesAlu_of_exec hexec
  case bfeU =>
    simp only [← bits_eq_div_mod]
    exact givesAlu_of_exec fun _ _ _ _ => rfl
  case bfeS =>
    simp only [← sext_field]
    exact givesAlu_of_exec fun _ _ _ _ => rfl
  case bfi =>
    simp only [← bits_eq_div_mod]
    exact givesAlu_of_exec fun _ _ _ _ => rfl
  case prmb => exact (funext₂ fun i l => congrArg plainOut (prmb_op i l)) ▸ givesAlu_of_exec fun _ _ _ _ => rfl
  all_goals exact givesAlu_of_exec fun _ _ _ _ => rfl

end Sys2Proof.Proofs
end

section
/-! PROOFS. The packed integer instructions (R191, R192), the exchanges and reductions within a slice (R194 to R196), and the
immediates (R197). -/

namespace Sys2Proof.Proofs

open Sys2Proof.Machine Sys2Proof.Safety Sys2Proof.Laws

/-! Packed results. -/

theorem wrap_idem (w : Nat) (x : Int) : wrap w x % 2 ^ w = wrap w x := Nat.mod_eq_of_lt (wrap_lt w x)

/-- Two elements: their patterns side by side, their flags and clamps together. -/
theorem packOuts_two (w : Nat) (f : Nat → LaneOut) :
    packOuts w f 2 0 = ⟨(f 0).val % 2 ^ w + 2 ^ w * ((f 1).val % 2 ^ w), (f 0).flags ||| (f 1).flags,
      (f 0).clamp || (f 1).clamp⟩ := by
  simp [packOuts, Nat.mul_comm]

theorem packOuts_four (w : Nat) (f : Nat → LaneOut) :
    packOuts w f 4 0 = ⟨(f 0).val % 2 ^ w + 2 ^ w * ((f 1).val % 2 ^ w) + 2 ^ (w * 2) * ((f 2).val % 2 ^ w)
        + 2 ^ (w * 3) * ((f 3).val % 2 ^ w),
      (f 0).flags ||| (f 1).flags ||| (f 2).flags ||| (f 3).flags,
      (f 0).clamp || (f 1).clamp || (f 2).clamp || (f 3).clamp⟩ := by
  simp [packOuts, Nat.mul_comm, Nat.add_assoc, Nat.lor_assoc, Bool.or_assoc]

theorem satElem_signed (w : Nat) (x : Int) : satElem true w x = clampOut w (satS w x) := rfl

theorem satElem_unsigned (w : Nat) (x : Int) : satElem false w x = clampOut w (satU w x) := rfl

/-- A pair of clamped elements. -/
theorem packOuts_clampOut_two (w : Nat) (f : Nat → Int × Bool) :
    packOuts w (fun j => clampOut w (f j)) 2 0 =
      ⟨(clampOut w (f 0)).val + 2 ^ w * (clampOut w (f 1)).val, 0, (clampOut w (f 0)).clamp || (clampOut w (f 1)).clamp⟩ := by
  rw [packOuts_two]
  simp [clampOut, wrap_idem]

theorem packOuts_clampOut_four (w : Nat) (f : Nat → Int × Bool) :
    packOuts w (fun j => clampOut w (f j)) 4 0 =
      ⟨(clampOut w (f 0)).val + 2 ^ w * (clampOut w (f 1)).val + 2 ^ (w * 2) * (clampOut w (f 2)).val
          + 2 ^ (w * 3) * (clampOut w (f 3)).val, 0,
        (clampOut w (f 0)).clamp || (clampOut w (f 1)).clamp || (clampOut w (f 2)).clamp || (clampOut w (f 3)).clamp⟩ := by
  rw [packOuts_four]
  simp [clampOut, wrap_idem]

theorem packOuts_plainOut_two (w : Nat) (f : Nat → Nat) :
    packOuts w (fun j => plainOut (f j)) 2 0 = plainOut (f 0 % 2 ^ w + 2 ^ w * (f 1 % 2 ^ w)) := by
  rw [packOuts_two]
  simp [plainOut]

/-- The model's sum over elements is the statement's. -/
theorem dotSum_eq_sum (f : Nat → Int) (n : Nat) : dotSum f n = ((List.range n).map f).sum := by
  induction n with
  | zero => rfl
  | succ n ih => rw [dotSum, ih, List.sum_range_succ]

theorem dotProduct_signed (w n : Nat) (i : OpIn) (l : Nat) :
    dotProduct true w n i l = dotSum (fun j => elemS w (qget i.a l) j * elemS w (qget i.b l) j) n := by
  rw [dotSum_eq_sum]
  rfl

theorem dotProduct_unsigned (w n : Nat) (i : OpIn) (l : Nat) :
    dotProduct false w n i l = dotSum (fun j => ((elemU w (qget i.a l) j * elemU w (qget i.b l) j : Nat) : Int)) n := by
  rw [dotSum_eq_sum]
  rfl

/-- A sum modulo 2^w does not depend on the sign of its summand (R72). -/
theorem wrap_sval_add (w x : Nat) (y : Int) : wrap w (sval w x + y) = wrap w ((x : Int) + y) :=
  wrap_eq_of_emod_eq (by rw [Int.add_emod, sval_emod, ← Int.add_emod])

theorem wrap_sval_mul_sval (w x y : Nat) : wrap w (sval w x * sval w y) = x * y % 2 ^ w := by
  rw [← wrap_nat, Int.natCast_mul]
  exact wrap_eq_of_emod_eq (by rw [Int.mul_emod, sval_emod, sval_emod, ← Int.mul_emod])

/-- An issue whose results are, lane by lane, the ones stated. -/
theorem givesAlu_of_op {i : Code → Code → Code → Instr} {m : AluForm} {op op' : OpIn → Nat → LaneOut}
    (hexec : ∀ d a b s, exec (i d a b) s = runAlu m op d a b s) (hop : ∀ x l, op x l = op' x l) : GivesAlu i m op' :=
  funext₂ hop ▸ givesAlu_of_exec hexec

/-- The clamped elements of a pair and of a quadruple, in the statement's order. -/
theorem pair_satElem (w : Nat) (x : Nat → Int) :
    packOuts w (fun j => clampOut w (satS w (x j))) 2 0 =
      (let r := fun j => satElem true w (x j)
       ⟨(r 0).val + 2 ^ w * (r 1).val, 0, (r 0).clamp || (r 1).clamp⟩) := by
  simp only [satElem_signed]
  exact packOuts_clampOut_two w fun j => satS w (x j)

theorem quadruple_satElem (w : Nat) (x : Nat → Int) :
    packOuts w (fun j => clampOut w (satU w (x j))) 4 0 =
      (let r := fun j => satElem false w (x j)
       ⟨(r 0).val + 2 ^ w * (r 1).val + 2 ^ (w * 2) * (r 2).val + 2 ^ (w * 3) * (r 3).val, 0,
         (r 0).clamp || (r 1).clamp || (r 2).clamp || (r 3).clamp⟩) := by
  simp only [satElem_unsigned]
  exact packOuts_clampOut_four w fun j => satU w (x j)

theorem pair_wrap (w : Nat) (x : Nat → Int) :
    packOuts w (fun j => plainOut (wrap w (x j))) 2 0 = plainOut (wrap w (x 0) + 2 ^ w * wrap w (x 1)) := by
  rw [packOuts_plainOut_two, wrap_idem, wrap_idem]

theorem pair_product (i : OpIn) (l : Nat) :
    packOuts 16 (fun j => plainOut (elemU 16 (qget i.a l) j * elemU 16 (qget i.b l) j)) 2 0 =
      plainOut (wrap 16 (halves (· * ·) i l 0) + 2 ^ 16 * wrap 16 (halves (· * ·) i l 1)) := by
  rw [packOuts_plainOut_two]
  simp only [halves, wrap_sval_mul_sval, elemU]

/-- Settles O12: the elements of a packed result side by side, and dot products as sums. -/
theorem packedResults : Obligations.PackedResults := by
  unfold Obligations.PackedResults
  refine ⟨?dot2Sat, ?dot2Wrap, ?sums16, ?others16, ?pack2, ?isat, ?dot4S, ?dot4U, ?sums8⟩
  case dot2Sat =>
    refine givesAlu_of_op (fun _ _ _ _ => rfl) fun i l => ?_
    rw [dotProduct_signed, satElem_signed]
  case dot2Wrap =>
    refine givesAlu_of_op (fun _ _ _ _ => rfl) fun i l => ?_
    rw [dotProduct_signed, wrap_sval_add]
  case sums16 =>
    simp only [List.forall_mem_cons]
    exact ⟨givesAlu_of_op (fun _ _ _ _ => rfl) fun i l => pair_satElem 16 (halves (· + ·) i l),
      givesAlu_of_op (fun _ _ _ _ => rfl) fun i l => pair_satElem 16 (halves (· - ·) i l), nofun⟩
  case others16 =>
    simp only [List.forall_mem_cons]
    exact ⟨givesAlu_of_op (fun _ _ _ _ => rfl) pair_product,
      givesAlu_of_op (fun _ _ _ _ => rfl) fun i l => pair_wrap 16 (halves max i l),
      givesAlu_of_op (fun _ _ _ _ => rfl) fun i l => pair_wrap 16 (halves min i l), nofun⟩
  case pack2 =>
    refine givesAlu_of_op (fun _ _ _ _ => rfl) fun i l => ?_
    rw [Nat.mul_comm (2 ^ 16)]
  case isat => exact givesUnary_of_exec fun _ _ _ => rfl
  case dot4S =>
    refine givesAlu_of_op (fun _ _ _ _ => rfl) fun i l => ?_
    rw [dotProduct_signed, satElem_signed]
  case dot4U =>
    refine givesAlu_of_op (fun _ _ _ _ => rfl) fun i l => ?_
    rw [dotProduct_unsigned, satElem_unsigned]
  case sums8 =>
    simp only [List.forall_mem_cons]
    exact ⟨givesAlu_of_op (fun _ _ _ _ => rfl) fun i l => quadruple_satElem 8
        (fun j => (bits (qget i.a l) (8 * j) 8 : Int) + bits (qget i.b l) (8 * j) 8),
      givesAlu_of_op (fun _ _ _ _ => rfl) fun i l => quadruple_satElem 8
        (fun j => (bits (qget i.a l) (8 * j) 8 : Int) - bits (qget i.b l) (8 * j) 8), nofun⟩

/-! Exchanges. -/

theorem slidehDn_op (a b : Quad Nat) (l : Nat) :
    (let g := fun j => if j = 7 then qget b 3 % 2 ^ 16 else halfOf a (j + 1)
     g (2 * l) + 2 ^ 16 * g (2 * l + 1)) =
      bits (qget a l) 16 16 + 2 ^ 16 * (if l = 3 then qget b 3 % 2 ^ 16 else bits (qget a (l + 1)) 0 16) := by
  have hlow : (2 * l + 1) / 2 = l ∧ (2 * l + 1) % 2 = 1 := by omega
  have hhigh : (2 * l + 1 + 1) / 2 = l + 1 ∧ (2 * l + 1 + 1) % 2 = 0 := by omega
  have hlast : 2 * l + 1 = 7 ↔ l = 3 := by omega
  simp only [halfOf, hlow, hhigh, hlast, if_neg (show 2 * l ≠ 7 by omega), Nat.mul_one, Nat.mul_zero]

theorem slidehUp_op (a b : Quad Nat) (l : Nat) :
    (let g := fun j => if j = 0 then qget b 0 % 2 ^ 16 else halfOf a (j - 1)
     g (2 * l) + 2 ^ 16 * g (2 * l + 1)) =
      (if l = 0 then qget b 0 % 2 ^ 16 else bits (qget a (l - 1)) 16 16) + 2 ^ 16 * bits (qget a l) 0 16 := by
  have hhigh : 2 * l / 2 = l ∧ 2 * l % 2 = 0 := by omega
  have hfirst : 2 * l = 0 ↔ l = 0 := by omega
  simp only [halfOf, hfirst, if_neg (Nat.succ_ne_zero (2 * l)), Nat.add_sub_cancel, hhigh, Nat.mul_zero]
  split
  · rfl
  · have hlow : (2 * l - 1) / 2 = l - 1 ∧ (2 * l - 1) % 2 = 1 := by omega
    rw [hlow.1, hlow.2]

/-- The lanes of a mask as a sum of powers of two. -/
theorem ballot_op (act : BitVec 4) (f : Nat → Bool) :
    (act &&& maskOf f).toNat = (laneNums.map fun j => if act.getLsbD j ∧ f j = true then 2 ^ j else 0).sum := by
  simp only [laneNums, maskOf, List.map_cons, List.map_nil]
  generalize f 0 = f0, f 1 = f1, f 2 = f2, f 3 = f3
  revert act f0 f1 f2 f3
  decide

theorem sum_filter_map {α : Type} (p : α → Bool) (f : α → Nat) (xs : List α) :
    ((xs.filter p).map f).sum = (xs.map fun x => if p x then f x else 0).sum := by
  rw [List.sum_map_ite]
  simp

/-- Settles O13: the halves of SLIDEH by their lanes, and the lanes of a mask as sums. -/
theorem exchangeResults : Obligations.ExchangeResults := by
  unfold Obligations.ExchangeResults
  refine ⟨?shfl, ?slidewDn, ?slidehDn, ?slidehUp, ?ballot, ?redadd, ?redmin, ?redmax⟩
  case slidehDn =>
    simp only [← slidehDn_op]
    exact givesAlu_of_exec fun _ _ _ _ => rfl
  case slidehUp =>
    simp only [← slidehUp_op]
    exact givesAlu_of_exec fun _ _ _ _ => rfl
  case ballot =>
    simp only [← bne_iff_ne, ← ballot_op _ fun j => qget _ j != 0]
    exact givesUnary_of_exec fun _ _ _ => rfl
  case redadd =>
    simp only [← sum_filter_map]
    exact givesUnary_of_exec fun _ _ _ => rfl
  case redmin | redmax => exact givesUnary_of_exec fun _ _ _ => rfl
  all_goals exact givesAlu_of_exec fun _ _ _ _ => rfl

/-! Immediates. -/

theorem fiSlice_done {readsD : Bool} {f : Nat → Int → Nat → Nat} {imm : BitVec 16} {d : Nat} {e : Env} {sl sl1 : Slice}
    {vals : List (Quad Nat)} (h : Readable (fiOperands readsD d) (actLanes (streamOf e.acc sl)) e sl vals sl1) :
    fiSlice readsD f imm d e sl =
      (let act := actLanes (streamOf e.acc sl)
       let w := if e.acc then 64 else 32
       let r := writeDst e act false d (qof fun l =>
         f w (fiConstant (streamOf e.acc sl).hint imm) (qget (vals.headD (qfill 0)) l) % 2 ^ w) sl1
       .done (finishLane e sl act (fiOperands readsD d) none none r.1) r.2 none) := by
  obtain ⟨hlegal, hfree, hgood, hread⟩ := h
  unfold fiOperands at hlegal hfree hgood hread
  rw [fiSlice]
  simp only [hlegal, hfree, hgood, hread, Bool.false_eq_true, if_false]
  rfl

theorem readable_unit {o : Operands} {act : BitVec 4} {e : Env} {sl sl1 : Slice} {vals : List (Quad Nat)}
    (h : Readable o act e sl vals sl1) : sl1.unit = sl.unit :=
  readSrcs_unit _ _ _ _ _ _ h.read

theorem givesImmediate_of_exec {i : Code → BitVec 16 → Instr} {readsD : Bool} {f : Nat → Int → Nat → Nat}
    (hexec : ∀ d imm s, exec (i d imm) s = issueLane s .both true (fiSlice readsD f imm d.toNat)) :
    GivesImmediate i readsD f := by
  intro s k acc e d imm vals sl1 h hread
  rw [hexec]
  refine issueLane_done h rfl (fiSlice_done hread) ?_
  rw [finishLane_unit, writeDst_unit, readable_unit hread]

/-- Settles O14: the four immediates, whose functions are the statement's. -/
theorem immediateResults : Obligations.ImmediateResults := by
  unfold Obligations.ImmediateResults
  refine ⟨?movi, ?movhi, ?addi, ?muli⟩
  all_goals exact givesImmediate_of_exec fun _ _ _ => rfl

end Sys2Proof.Proofs
end

section
/-! PROOFS. The floating-point instructions (R200 to R217): arithmetic, functions, conversions, packing and insertion. -/

namespace Sys2Proof.Proofs

open Sys2Proof.Machine Sys2Proof.Safety Sys2Proof.Laws

/-- An issue of one source whose results are, lane by lane, the ones stated. -/
theorem givesUnary_of_op {i : Code → Code → Instr} {m : AluForm} {op op' : OpIn → Nat → LaneOut}
    (hexec : ∀ d a s, exec (i d a) s = runAlu m op d a 0 s) (hop : ∀ x l, op x l = op' x l) : GivesUnary i m op' :=
  funext₂ hop ▸ givesUnary_of_exec hexec

/-! Arithmetic. -/

/-- The model's pattern and flags of an operation are the statement's lane result. -/
theorem fltOut_fop (f : Fmt) (o : FOp) (i : OpIn) (x y z : Nat) : fltOut (fop f o i x y z) = fltTable f o i x y z := by
  cases o <;> rfl

theorem exec_scalarTable :
    ∀ p ∈ scalarTable, ∀ d a b s, exec (p.1 d a b) s = runAlu (fltForm p.2.1 p.2.2.2 .byMode) (fop3 p.2.1 p.2.2.1) d a b s := by
  simp only [scalarTable, List.forall_mem_cons]
  exact ⟨fun _ _ _ _ => rfl, fun _ _ _ _ => rfl, fun _ _ _ _ => rfl, fun _ _ _ _ => rfl, fun _ _ _ _ => rfl,
    fun _ _ _ _ => rfl, fun _ _ _ _ => rfl, fun _ _ _ _ => rfl, nofun⟩

theorem exec_pairTable :
    ∀ p ∈ pairTable, ∀ d a b s,
      exec (p.1 d a b) s = runAlu (fltForm p.2.1 p.2.2.2.2 p.2.2.2.1) (pair3 p.2.1 p.2.2.1) d a b s := by
  simp only [pairTable, List.forall_mem_cons]
  exact ⟨fun _ _ _ _ => rfl, fun _ _ _ _ => rfl, fun _ _ _ _ => rfl, fun _ _ _ _ => rfl, fun _ _ _ _ => rfl,
    fun _ _ _ _ => rfl, fun _ _ _ _ => rfl, fun _ _ _ _ => rfl, nofun⟩

theorem fltTable_clamp (f : Fmt) (o : FOp) (i : OpIn) (x y z : Nat) : (fltTable f o i x y z).clamp = false := by
  cases o <;> rfl

/-- Each half of a packed operation on its own (R207). -/
theorem pair3_eq (f : Fmt) (o : FOp) (i : OpIn) (l : Nat) :
    pair3 f o i l =
      (let r := fun j => fltTable f o i (bits (qget i.a l) (16 * j) 16) (bits (qget i.b l) (16 * j) 16)
        (bits (qget i.d l) (16 * j) 16)
       ⟨(r 0).val % 2 ^ 16 + 2 ^ 16 * ((r 1).val % 2 ^ 16), (r 0).flags ||| (r 1).flags, false⟩) := by
  rw [pair3, packOuts_two]
  simp only [fltOut_fop, fltTable_clamp, Bool.or_self]

/-- Settles O15: each operation by its table; the packed ones half by half. -/
theorem floatResults : Obligations.FloatResults := by
  unfold Obligations.FloatResults
  refine ⟨?scalar, ?minmax, ?compares, ?unordered, ?pairs, ?dots⟩
  case scalar =>
    exact fun p hp => givesAlu_of_op (exec_scalarTable p hp) fun i l => fltOut_fop ..
  case minmax =>
    simp only [List.forall_mem_cons]
    exact ⟨givesAlu_of_exec fun _ _ _ _ => rfl, givesAlu_of_exec fun _ _ _ _ => rfl,
      givesAlu_of_exec fun _ _ _ _ => rfl, givesAlu_of_exec fun _ _ _ _ => rfl, nofun⟩
  case compares =>
    simp only [List.forall_mem_cons]
    exact ⟨givesAlu_of_exec fun _ _ _ _ => rfl, givesAlu_of_exec fun _ _ _ _ => rfl,
      givesAlu_of_exec fun _ _ _ _ => rfl, nofun⟩
  case unordered => exact givesAlu_of_exec fun _ _ _ _ => rfl
  case pairs => exact fun p hp => givesAlu_of_op (exec_pairTable p hp) (pair3_eq p.2.1 p.2.2.1)
  case dots =>
    simp only [List.forall_mem_cons]
    exact ⟨givesAlu_of_exec fun _ _ _ _ => rfl, givesAlu_of_exec fun _ _ _ _ => rfl,
      givesAlu_of_exec fun _ _ _ _ => rfl, givesAlu_of_exec fun _ _ _ _ => rfl, nofun⟩

/-! Functions of one operand. -/

theorem exec_functionTable :
    ∀ p ∈ functionTable, ∀ d a s,
      exec (p.1 d a) s = runAlu (cvtForm (.flt p.2.1) (.flt p.2.1) .byMode) (unaryOp p.2.1 p.2.2) d a 0 s := by
  simp only [functionTable, List.forall_mem_cons]
  exact ⟨fun _ _ _ => rfl, fun _ _ _ => rfl, fun _ _ _ => rfl, fun _ _ _ => rfl, fun _ _ _ => rfl, fun _ _ _ => rfl,
    fun _ _ _ => rfl, fun _ _ _ => rfl, fun _ _ _ => rfl, fun _ _ _ => rfl, fun _ _ _ => rfl, nofun⟩

/-- Settles O16: the rounded functions by their table, the others as the model writes them. -/
theorem functionResults : Obligations.FunctionResults := by
  unfold Obligations.FunctionResults
  refine ⟨?table, ?fabs, ?fneg, ?fclass, ?directions⟩
  case table => exact fun p hp => givesUnary_of_op (exec_functionTable p hp) fun _ _ => rfl
  case directions =>
    simp only [List.forall_mem_cons]
    exact ⟨givesUnary_of_exec fun _ _ _ => rfl, givesUnary_of_exec fun _ _ _ => rfl,
      givesUnary_of_exec fun _ _ _ => rfl, nofun⟩
  all_goals exact givesUnary_of_exec fun _ _ _ => rfl

/-! Conversions. -/

theorem exec_widenTable :
    ∀ p ∈ widenTable, ∀ d a s,
      exec (p.1 d a) s = runAlu (cvtForm (.flt p.2.2) (.flt p.2.1) .no) (widenOp p.2.1 p.2.2) d a 0 s := by
  simp only [widenTable, List.forall_mem_cons]
  exact ⟨fun _ _ _ => rfl, fun _ _ _ => rfl, fun _ _ _ => rfl, fun _ _ _ => rfl, fun _ _ _ => rfl, fun _ _ _ => rfl, nofun⟩

theorem exec_narrowTable :
    ∀ p ∈ narrowTable, ∀ d a s,
      exec (p.1 d a) s = runAlu (cvtForm .int (.flt .f32) .byMode) (narrowOp p.2) d a 0 s := by
  simp only [narrowTable, List.forall_mem_cons]
  exact ⟨fun _ _ _ => rfl, fun _ _ _ => rfl, fun _ _ _ => rfl, fun _ _ _ => rfl, fun _ _ _ => rfl, nofun⟩

/-- The two halves of PACKBF and PACKH (R214). -/
theorem packfOp_eq (f : Fmt) (i : OpIn) (l : Nat) :
    packfOp f i l =
      (let r := fun x => roundedSat f i (decodeF .f32 i.ftz x)
       ⟨(r (qget i.a l)).val % 2 ^ 16 + 2 ^ 16 * ((r (qget i.b l)).val % 2 ^ 16),
         (r (qget i.a l)).flags ||| (r (qget i.b l)).flags, false⟩) := by
  rw [packfOp, packOuts_two]
  rfl

/-- Settles O17: the tables of R90 and R91, then the conversions, packing and insertion one by one. -/
theorem conversionResults : Obligations.ConversionResults := by
  unfold Obligations.ConversionResults
  refine ⟨?widen, ?narrow, ?d2f, ?f2i, ?i2fS, ?i2fU, ?i2dS, ?i2dU, ?pack, ?insert, ?fscale, ?fsignc⟩
  case widen => exact fun p hp => givesUnary_of_exec (exec_widenTable p hp)
  case narrow => exact fun p hp => givesUnary_of_exec (exec_narrowTable p hp)
  case f2i =>
    simp only [List.forall_mem_cons]
    exact ⟨givesUnary_of_exec fun _ _ _ => rfl, givesUnary_of_exec fun _ _ _ => rfl, nofun⟩
  case pack =>
    simp only [List.forall_mem_cons]
    exact ⟨givesAlu_of_op (fun _ _ _ _ => rfl) (packfOp_eq .bf16), givesAlu_of_op (fun _ _ _ _ => rfl) (packfOp_eq .f16), nofun⟩
  case insert =>
    simp only [List.forall_mem_cons]
    exact ⟨givesAlu_of_exec fun _ _ _ _ => rfl, givesAlu_of_exec fun _ _ _ _ => rfl, nofun⟩
  case fscale | fsignc => exact givesAlu_of_exec fun _ _ _ _ => rfl
  all_goals exact givesUnary_of_exec fun _ _ _ => rfl

end Sys2Proof.Proofs
end

section
/-! PROOFS. Where a lane instruction ends, MFSR and MTSR (R198), the hints (R164 to R167), the mask stack (R199), and branches,
calls and returns (R236 to R238). -/

namespace Sys2Proof.Proofs

open Sys2Proof.Machine Sys2Proof.Safety Sys2Proof.Laws

/-! What the end of an instruction leaves. -/

theorem setReg_keeps {α : Type} {acc : Bool} (g : Slice → α) (hinfo : ∀ sl r x, g (putInfo acc sl r x) = g sl)
    (har : ∀ sl x, g { sl with ar := x } = g sl) (hv : ∀ sl x, g { sl with v := x } = g sl) (sl : Slice) (r l x : Nat) :
    g (setReg acc sl r l x) = g sl := by
  unfold setReg
  extract_lets i sl1
  split
  · exact (har _ _).trans (hinfo ..)
  · exact (hv _ _).trans (hinfo ..)

theorem lastUse_keeps {α : Type} {e : Env} (g : Slice → α) (hinfo : ∀ sl r x, g (putInfo e.acc sl r x) = g sl)
    (har : ∀ sl x, g { sl with ar := x } = g sl) (hv : ∀ sl x, g { sl with v := x } = g sl) (b : Slice) (act : BitVec 4)
    (w : Bool) (c : Nat) (wr : Nat → List Nat) (sl : Slice) : g (lastUse e b act w c wr sl) = g sl := by
  unfold lastUse
  refine foldl_keeps _ _ (fun x y => foldl_keeps g _ (fun z r => ?_) _ x) _ _
  exact (hinfo ..).trans (setReg_keeps g hinfo har hv ..)

theorem bumpAll_keeps {α : Type} {e : Env} (g : Slice → α) (hx : ∀ sl x, g { sl with x := x } = g sl) (act : BitVec 4)
    (cs : List Nat) (sl : Slice) : g (bumpAll e act cs sl) = g sl := by
  unfold bumpAll
  refine foldl_keeps _ _ (fun y c => ?_) _ _
  split
  · exact hx ..
  · rfl

theorem touchRegs_keeps {α : Type} {acc : Bool} (g : Slice → α) (hinfo : ∀ sl r x, g (putInfo acc sl r x) = g sl)
    (rs : List Nat) (sl : Slice) : g (touchRegs acc rs sl) = g sl :=
  foldl_keeps _ _ (fun _ _ => hinfo ..) _ _

/-- A mark or index of the instruction's end, where it has one. -/
def endMarks (e : Env) (before : Slice) (act : BitVec 4) (o : Operands) (a b : Option (Bool × Nat)) (sl : Slice) : Slice :=
  let h := (streamOf e.acc before).hint
  let written : Nat → List Nat := fun l => match o.dst with
    | some p => laneRegs e before p.1 p.2 l
    | none => []
  let sl := match a with
    | some p => if h.modv && h.lasta then lastUse e before act p.1 p.2 written sl else sl
    | none => sl
  match b with
    | some p => if h.modv && h.lastb then lastUse e before act p.1 p.2 written sl else sl
    | none => sl

/-- The end of an instruction but for the step of its stream (R40, R41, R52, R63). -/
def endRegs (e : Env) (before : Slice) (act : BitVec 4) (o : Operands) (a b : Option (Bool × Nat)) (sl : Slice) : Slice :=
  let named := o.named e before act
  trimNew e named (touchRegs e.acc named (bumpAll e act ((a.toList ++ b.toList).map (·.2) ++ o.dst.toList.map (·.2))
    (endMarks e before act o a b sl)))

theorem finishLane_eq (e : Env) (before : Slice) (act : BitVec 4) (o : Operands) (a b : Option (Bool × Nat)) (sl : Slice) :
    finishLane e before act o a b sl = withStream (endRegs e before act o a b sl) e.acc retire := rfl

theorem endMarks_keeps {α : Type} {e : Env} (g : Slice → α) (hinfo : ∀ sl r x, g (putInfo e.acc sl r x) = g sl)
    (har : ∀ sl x, g { sl with ar := x } = g sl) (hv : ∀ sl x, g { sl with v := x } = g sl) (b : Slice) (act : BitVec 4)
    (o : Operands) (x y : Option (Bool × Nat)) (sl : Slice) : g (endMarks e b act o x y sl) = g sl := by
  have hmark : ∀ (z : Option (Bool × Nat)) (last : Bool) (wr : Nat → List Nat) (sl : Slice), g (match z with
      | some p => if (streamOf e.acc b).hint.modv && last then lastUse e b act p.1 p.2 wr sl else sl
      | none => sl) = g sl := by
    intro z last wr sl
    split
    · split
      · exact lastUse_keeps g hinfo har hv ..
      · rfl
    · rfl
  exact (hmark ..).trans (hmark ..)

/-- What depends on no register, on nothing that is kept about registers, and on no index register is as before. -/
theorem endRegs_keeps {α : Type} {e : Env} (g : Slice → α) (hinfo : ∀ sl r x, g (putInfo e.acc sl r x) = g sl)
    (har : ∀ sl x, g { sl with ar := x } = g sl) (hv : ∀ sl x, g { sl with v := x } = g sl)
    (hx : ∀ sl x, g { sl with x := x } = g sl) (b : Slice) (act : BitVec 4) (o : Operands) (x y : Option (Bool × Nat))
    (sl : Slice) : g (endRegs e b act o x y sl) = g sl :=
  calc g (endRegs e b act o x y sl)
      = g (touchRegs e.acc _ (bumpAll e act _ (endMarks e b act o x y sl))) := trimNew_keeps g hinfo ..
    _ = g (bumpAll e act _ (endMarks e b act o x y sl)) := touchRegs_keeps g hinfo ..
    _ = g (endMarks e b act o x y sl) := bumpAll_keeps g hx ..
    _ = g sl := endMarks_keeps g hinfo har hv ..

theorem putInfo_streamOf (acc acc' : Bool) (sl : Slice) (r : Nat) (x : RegInfo) :
    streamOf acc' (putInfo acc sl r x) = streamOf acc' sl := by
  cases acc <;> rfl

@[simp] theorem endRegs_streamOf (acc : Bool) (e : Env) (b : Slice) (act : BitVec 4) (o : Operands)
    (x y : Option (Bool × Nat)) (sl : Slice) : streamOf acc (endRegs e b act o x y sl) = streamOf acc sl :=
  endRegs_keeps _ (putInfo_streamOf e.acc acc) (fun _ _ => rfl) (fun _ _ => rfl) (fun _ _ => rfl) ..

theorem finishLane_streamOf (e : Env) (b : Slice) (act : BitVec 4) (o : Operands) (x y : Option (Bool × Nat)) (sl : Slice) :
    streamOf e.acc (finishLane e b act o x y sl) = retire (streamOf e.acc sl) := by
  rw [finishLane_eq, withStream, streamOf_setStream, endRegs_streamOf]

/-! Who issues. -/

theorem env_trap {s : State} {k : Nat} {acc : Bool} {e : Env} (h : envOf s k acc = some e) : e.trap = decide (trapBase ≤ k) := by
  unfold envOf at h
  by_cases hk : trapBase ≤ k
  · rw [if_pos hk] at h
    dsimp only at h
    split at h
    · split at h
      · rw [← Option.some.inj h, decide_eq_true hk]
      · exact nomatch h
    · exact nomatch h
  · rw [if_neg hk] at h
    split at h
    · split at h
      · rw [← Option.some.inj h, decide_eq_false hk]
      · exact nomatch h
    · exact nomatch h

theorem withStream_unit (sl : Slice) (acc : Bool) (f : Stream → Stream) : (withStream sl acc f).unit = sl.unit :=
  setStream_unit ..

/-- An instruction of both streams that only moves its stream. -/
theorem issueLane_moves {s : State} {k : Nat} {acc cmp : Bool} {e : Env} {f : Env → Slice → Verdict} {g : Stream → Stream}
    (h : Solo s k acc e) (hf : f e (sliceAt s k) = .done (withStream (sliceAt s k) e.acc g) [] none) :
    issueLane s .both cmp f = .next (issued s k acc (withStream (sliceAt s k) e.acc g) [] none) :=
  issueLane_done h rfl hf (withStream_unit ..)

/-! MFSR. -/

theorem mfsrSlice_done {s : State} {n d : Nat} {e : Env} {sl : Slice} (hsr : srFault e n = none)
    (h : Readable ⟨[], some (false, d)⟩ (actLanes (streamOf e.acc sl)) e sl [] sl) :
    mfsrSlice s n d e sl =
      (let act := actLanes (streamOf e.acc sl)
       let x := writeDst e act false d (qof fun l => readSr s e sl n l) sl
       let y := if e.acc = false ∧ srWide n = true
         then { x.1 with high := BitVec.ofNat 32 (readSr s e sl n 0 / 2 ^ 32) } else x.1
       .done (finishLane e sl act ⟨[], some (false, d)⟩ none none y) x.2 none) := by
  obtain ⟨hlegal, hfree, -, -⟩ := h
  rw [mfsrSlice]
  simp only [hsr, hlegal, hfree, Bool.and_eq_true, Bool.not_eq_true']

/-- Settles O18: the reading slice's verdict. -/
theorem mfsrResults : Obligations.MfsrResults := by
  intro s k acc e d r h hsr hread
  show execMfsr d r s = _
  refine issueLane_done h (r := .both) rfl (mfsrSlice_done hsr hread) ?_
  rw [finishLane_unit]
  split
  · exact writeDst_unit ..
  · exact writeDst_unit ..

/-! Hints and the mask stack. -/

/-- Settles O20: a hint's verdict is the slice with its stream past the hint. -/
theorem hintsPend : Obligations.HintsPend := by
  intro s k acc e h
  refine ⟨fun i => issueLane_moves h rfl, fun p n l => issueLane_moves h rfl, fun r x la lb hr => ?_,
    fun i => issueLane_moves h rfl⟩
  show execHintMod r x la lb s = _
  exact issueLane_moves h (by rw [if_neg (Nat.not_lt.mpr hr)]; rfl)

/-- Settles O21: none of the stack faults holds. -/
theorem maskStackResults : Obligations.MaskStackResults := by
  intro s k acc e h
  refine ⟨fun p n hdepth => ?ifP, fun hdepth => ?elseP, fun hdepth => ?endif⟩
  case ifP =>
    show execIfP p n s = _
    exact issueLane_moves h (by rw [if_neg hdepth]; rfl)
  case elseP =>
    show execElseP s = _
    exact issueLane_moves h (by rw [if_neg hdepth]; rfl)
  case endif =>
    show execEndif s = _
    exact issueLane_moves h (by rw [if_neg hdepth]; rfl)

end Sys2Proof.Proofs
end

section
/-! PROOFS. MTSR (R198), and branches, calls and returns (R236 to R238). -/

namespace Sys2Proof.Proofs

open Sys2Proof.Machine Sys2Proof.Safety Sys2Proof.Laws

/-! MTSR. -/

/-- A source that is no queue reads as it stands and leaves the slice. -/
theorem readSrcs_plain {e : Env} {c : Nat} (hc : popsFrom e.acc c = 0) (act : BitVec 4) (k : Kind) (sl : Slice) :
    readSrcs e act [(k, c)] sl = .got [plainSrc e sl act k c] sl := by
  rw [readSrcs, readSrc]
  simp only [hc, if_true, readSrcs]

theorem readSrcs_plain_vals {e : Env} {c : Nat} {act : BitVec 4} {k : Kind} {sl sl1 : Slice} {vals : List (Quad Nat)}
    (hc : popsFrom e.acc c = 0) (h : readSrcs e act [(k, c)] sl = .got vals sl1) :
    vals = [plainSrc e sl act k c] ∧ sl1 = sl := by
  rw [readSrcs_plain hc] at h
  obtain ⟨hvals, hsl⟩ := Srcs.got.inj h
  exact ⟨hvals.symm, hsl.symm⟩

/-- The early refusal of an FPMODE value is the one of the value that is read (R87). -/
theorem modeRefused_eq_false {s : State} {e : Env} {sl sl1 : Slice} {act : BitVec 4} {n a l : Nat} {vals : List (Quad Nat)}
    (hread : readSrcs e act [(.int, a)] sl = .got vals sl1) (hl : lowestLane act = some l)
    (hvalue : srUse e.acc e.trap n = .rw → srValueFault s e n (qget (vals.headD (qfill 0)) l) = none) :
    modeRefused e sl act n a = false := by
  refine Bool.eq_false_iff.mpr fun hrefused => ?_
  rw [modeRefused, hl] at hrefused
  simp only [Bool.and_eq_true, beq_iff_eq, Bool.not_eq_true', decide_eq_true_eq] at hrefused
  obtain ⟨⟨⟨⟨rfl, hacc⟩, hpops⟩, -⟩, hmode⟩ := hrefused
  obtain ⟨rfl, -⟩ := readSrcs_plain_vals hpops hread
  have hrw : srUse e.acc e.trap 0x10 = .rw := by rw [hacc]; rfl
  have hfault := hvalue hrw
  rw [srValueFault, List.headD_cons, if_pos (by simp [hacc, hmode])] at hfault
  exact nomatch hfault

theorem mtsrSlice_done {s : State} {n a l : Nat} {e : Env} {sl sl1 : Slice} {vals : List (Quad Nat)}
    (hsr : srFault e n = none) (h : Readable ⟨[(.int, a)], none⟩ (actLanes (streamOf e.acc sl)) e sl vals sl1)
    (hl : lowestLane (actLanes (streamOf e.acc sl)) = some l)
    (hvalue : srUse e.acc e.trap n = .rw → srValueFault s e n (qget (vals.headD (qfill 0)) l) = none) :
    mtsrSlice s n a e sl =
      (let act := actLanes (streamOf e.acc sl)
       let q := vals.headD (qfill 0)
       let writes := decide (srUse e.acc e.trap n = .rw)
       let y := if writes then writeSr n act q (qget q l) sl1 else sl1
       .done (finishLane e sl act ⟨[(.int, a)], none⟩ (some (false, a)) none y) []
         (if writes ∧ n = 0x24 then some (BitVec.ofNat 32 (qget q l)) else none)) := by
  obtain ⟨hlegal, hfree, hgood, hread⟩ := h
  have hfault : (if srUse e.acc e.trap n = .rw then srValueFault s e n (qget (vals.headD (qfill 0)) l) else none) = none := by
    split
    · next hrw => exact hvalue hrw
    · rfl
  rw [mtsrSlice]
  simp only [hsr, modeRefused_eq_false hread hl hvalue, hlegal, hfree, hgood, hread, hl, hfault, Bool.false_eq_true,
    if_false, beq_eq_decide, Bool.and_eq_true, decide_eq_true_eq]

theorem writeSr_keeps {α : Type} (g : Slice → α) (hmode : ∀ sl x y, g { sl with fpmode := x, modeWrites := y } = g sl)
    (hfp : ∀ sl x, g { sl with fpflags := x } = g sl) (hsat : ∀ sl x, g { sl with satflag := x } = g sl)
    (hpend : ∀ sl x, g { sl with pend := x } = g sl) (hnpc : ∀ sl x, g { sl with noticepc := x } = g sl)
    (hnret : ∀ sl x, g { sl with nret := x } = g sl) (hslip : ∀ sl x, g { sl with slip := x } = g sl)
    (hx : ∀ sl x, g { sl with x := x } = g sl) (n : Nat) (act : BitVec 4) (q : Quad Nat) (x : Nat) (sl : Slice) :
    g (writeSr n act q x sl) = g sl := by
  unfold writeSr
  extract_lets lanes w
  split
  case h_4 =>
    split
    · exact hpend ..
    · rfl
  case h_12 => rfl
  · exact hmode ..
  · exact hfp ..
  · exact hsat ..
  · exact hnpc ..
  · exact hnret ..
  · exact hslip ..
  all_goals exact hx ..

theorem writeSr_unit (n : Nat) (act : BitVec 4) (q : Quad Nat) (x : Nat) (sl : Slice) :
    (writeSr n act q x sl).unit = sl.unit :=
  writeSr_keeps Slice.unit (fun _ _ _ => rfl) (fun _ _ => rfl) (fun _ _ => rfl) (fun _ _ => rfl) (fun _ _ => rfl)
    (fun _ _ => rfl) (fun _ _ => rfl) (fun _ _ => rfl) ..

theorem writeSr_streamOf (acc : Bool) (n : Nat) (act : BitVec 4) (q : Quad Nat) (x : Nat) (sl : Slice) :
    streamOf acc (writeSr n act q x sl) = streamOf acc sl :=
  writeSr_keeps (streamOf acc) (fun _ _ _ => rfl) (fun _ _ => rfl) (fun _ _ => rfl) (fun _ _ => rfl) (fun _ _ => rfl)
    (fun _ _ => rfl) (fun _ _ => rfl) (fun _ _ => rfl) ..

theorem issueMtsr_done {s : State} {k l : Nat} {acc : Bool} {e : Env} {a : Code} {r : BitVec 16} {vals : List (Quad Nat)}
    {sl1 : Slice} (h : Solo s k acc e) (hsr : srFault e r.toNat = none)
    (hread : Readable ⟨[(.int, a.toNat)], none⟩ (actLanes (streamOf e.acc (sliceAt s k))) e (sliceAt s k) vals sl1)
    (hl : lowestLane (actLanes (streamOf e.acc (sliceAt s k))) = some l)
    (hvalue : srUse e.acc e.trap r.toNat = .rw → srValueFault s e r.toNat (qget (vals.headD (qfill 0)) l) = none) :
    issueLane s .both true (mtsrSlice s r.toNat a.toNat) = .next
      (let sl := sliceAt s k
       let act := actLanes (streamOf e.acc sl)
       let q := vals.headD (qfill 0)
       let writes := decide (srUse e.acc e.trap r.toNat = .rw)
       let y := if writes then writeSr r.toNat act q (qget q l) sl1 else sl1
       issued s k acc (finishLane e sl act ⟨[(.int, a.toNat)], none⟩ (some (false, a.toNat)) none y) []
         (if writes ∧ r.toNat = 0x24 then some (BitVec.ofNat 32 (qget q l)) else none)) := by
  refine issueLane_done h rfl (mtsrSlice_done hsr hread hl hvalue) ?_
  rw [finishLane_unit]
  split
  · rw [writeSr_unit, readable_unit hread]
  · exact readable_unit hread

/-- A source of the trap context is no queue (R321). -/
theorem popsFrom_trap {e : Env} {k : Kind} {c : Nat} (hacc : e.acc = true) (htrap : e.trap = true)
    (hlegal : srcIllegal e k c = false) : popsFrom e.acc c = 0 := by
  rw [srcIllegal, hacc, htrap] at hlegal
  rw [popsFrom, hacc]
  by_cases h8 : c = 0xA8
  · subst h8
    exact nomatch hlegal
  · by_cases h9 : c = 0xA9
    · subst h9
      exact nomatch hlegal
    · rw [if_pos rfl, if_neg h8, if_neg h9]

theorem checkOperands_legal {e : Env} {sl : Slice} {act : BitVec 4} {o : Operands} (h : checkOperands e sl act o false = none)
    {p : Kind × Nat} (hp : p ∈ o.srcs) : srcIllegal e p.1 p.2 = false := by
  unfold checkOperands at h
  split at h
  · exact nomatch h
  · next hnot =>
    simp only [Bool.false_or, Bool.or_eq_true, List.any_eq_true, not_or, not_exists, not_and, Bool.not_eq_true] at hnot
    exact hnot.1 p hp

theorem wdlimitValue_eq {s : State} {core : Nat} {e : Env} {a : Code} (h : Solo s (trapBase + core) true e)
    (hlegal : srcIllegal e .int a.toNat = false) (hlane : (actLanes (sliceAt s (trapBase + core)).a).getLsbD 0 = true) :
    wdlimitValue s core a.toNat =
      some (qget (plainSrc e (sliceAt s (trapBase + core)) (actLanes (sliceAt s (trapBase + core)).a) .int a.toNat) 0) := by
  rw [wdlimitValue]
  simp only [h.env, hlegal, Bool.false_eq_true, if_false, hlane, if_true]

theorem sliceAt_issued_access (s : State) (k : Nat) (sl : Slice) (sw : SWrites) (pin : Option Word32) :
    sliceAt (issued s k true sl sw pin) k = sl := by
  rw [issued, if_pos rfl, sliceAt, putPin_slices]
  exact sliceAt_putSlice_self ..

theorem lowestLane_zero {act : BitVec 4} (h : act.getLsbD 0 = true) : lowestLane act = some 0 := by
  rw [lowestLane, laneNums, List.find?_cons_of_pos h]

/-- Outside the trap context MTSR has no follow-up. -/
theorem execMtsr_untrapped {s : State} (h : ∀ core, s.issuer ≠ .trap core) (a : Code) (r : BitVec 16) :
    execMtsr a r s = issueLane s .both true (mtsrSlice s r.toNat a.toNat) := by
  rw [execMtsr]
  split
  · next core _ hi _ => exact absurd hi (h core)
  · rfl

/-- In the trap context WDLIMIT and PINMASK reach the bound team once the MTSR has gone on. -/
theorem execMtsr_trap {s t : State} {core : Nat} {a : Code} {r : BitVec 16} {x : Nat} (hi : s.issuer = .trap core)
    (ht : issueLane s .both true (mtsrSlice s r.toNat a.toNat) = .next t)
    (hran : (sliceAt t (trapBase + core)).a.pc = (sliceAt s (trapBase + core)).a.pc + 4)
    (hx : wdlimitValue s core a.toNat = some x) :
    execMtsr a r s = .next (if r = 0x104 then putWdlimit t core (boundCtx s core) x
      else if r = 0x24 then putPin t (teamKey core (coreAt s core).tteam) (some (BitVec.ofNat 32 x)) else t) := by
  rw [execMtsr, hi, ht]
  simp only [hran, hx, trapPin, Option.map_some, BEq.rfl, Bool.and_true, decide_eq_true_eq]
  split
  · rfl
  · split <;> rfl

theorem mtsr_trap_results {s : State} {core : Nat} {e : Env} {a : Code} {r : BitVec 16} {vals : List (Quad Nat)} {sl1 : Slice}
    (h : Solo s (trapBase + core) true e) (htrap : e.trap = true) (hsr : srFault e r.toNat = none)
    (hread : Readable ⟨[(.int, a.toNat)], none⟩ (actLanes (sliceAt s (trapBase + core)).a) e (sliceAt s
        (trapBase + core)) vals sl1)
    (hlane : (actLanes (sliceAt s (trapBase + core)).a).getLsbD 0 = true)
    (hvalue : srUse true true r.toNat = .rw → srValueFault s e r.toNat (qget (vals.headD (qfill 0)) 0) = none) :
    exec (.mtsr a r) s = .next
      (let sl := sliceAt s (trapBase + core)
       let act := actLanes sl.a
       let q := vals.headD (qfill 0)
       let writes := decide (srUse true true r.toNat = .rw)
       let y := if writes then writeSr r.toNat act q (qget q 0) sl1 else sl1
       let word := BitVec.ofNat 32 (qget q 0)
       let t := issued s (trapBase + core) true (finishLane e sl act ⟨[(.int, a.toNat)], none⟩ (some (false, a.toNat)) none y) []
         (if writes ∧ r.toNat = 0x24 then some word else none)
       if r = 0x104 then putWdlimit t core (boundCtx s core) (qget q 0)
       else if r = 0x24 then putPin t (teamKey core (coreAt s core).tteam) (some word)
       else t) := by
  have hacc : e.acc = true := env_acc h.env
  have hstream : streamOf e.acc (sliceAt s (trapBase + core)) = (sliceAt s (trapBase + core)).a := by rw [hacc]; rfl
  have hlegal : srcIllegal e .int a.toNat = false := checkOperands_legal hread.legal (List.mem_singleton_self _)
  obtain ⟨rfl, rfl⟩ := readSrcs_plain_vals (popsFrom_trap hacc htrap hlegal) hread.read
  have hissue := issueMtsr_done h hsr (l := 0) (a := a) (by rw [hstream]; exact hread)
    (by rw [hstream]; exact lowestLane_zero hlane) (by rw [hacc, htrap]; exact hvalue)
  simp only [hacc, htrap] at hissue
  refine execMtsr_trap (by rw [h.issuer, issuerOf_trap]) hissue ?_ (wdlimitValue_eq h hlegal hlane)
  rw [sliceAt_issued_access]
  have hpc : ∀ sl, (finishLane e (sliceAt s (trapBase + core)) (actLanes (sliceAt s (trapBase + core)).a)
      ⟨[(.int, a.toNat)], none⟩ (some (false, a.toNat)) none sl).a.pc = sl.a.pc + 4 := fun sl => by
    have hend := finishLane_streamOf e (sliceAt s (trapBase + core)) (actLanes (sliceAt s (trapBase + core)).a)
      ⟨[(.int, a.toNat)], none⟩ (some (false, a.toNat)) none sl
    rw [hacc] at hend
    exact congrArg Stream.pc hend
  rw [hpc]
  split
  · rw [show (writeSr _ _ _ _ _).a = _ from writeSr_streamOf true ..]
    rfl
  · rfl

/-- Settles O19: outside the trap context the issue alone, in it with what reaches the bound team. -/
theorem mtsrResults : Obligations.MtsrResults := by
  refine ⟨?slice, ?trap⟩
  case slice =>
    intro s k acc e a r l vals sl1 h htrap hsr hread hl hvalue
    show execMtsr a r s = _
    rw [execMtsr_untrapped (issuer_ne_trap h htrap)]
    exact issueMtsr_done h hsr hread hl hvalue
  case trap =>
    intro s core e a r vals sl1 h htrap hsr sl act q hread hlane hvalue
    exact mtsr_trap_results h htrap hsr hread hlane hvalue

end Sys2Proof.Proofs
end

section
/-! PROOFS. Branches, calls and returns (R236 to R238). -/

namespace Sys2Proof.Proofs

open Sys2Proof.Machine Sys2Proof.Safety Sys2Proof.Laws

/-! Control transfers. -/

/-- A transfer's verdict is the slice with its stream at the target or past the transfer. -/
theorem issueLane_goIf {s : State} {k : Nat} {acc : Bool} {e : Env} {taken : Stream → Bool} {target : Stream → Word64}
    (h : Solo s k acc e) :
    issueLane s .both true (fun e sl => goIf e sl (taken (streamOf e.acc sl)) (target (streamOf e.acc sl))) =
      .next (issued s k acc (withStream (sliceAt s k) e.acc fun st => if taken st then retireTo st (target st) else retire st)
        [] none) :=
  issueLane_moves h rfl

theorem withStream_congr {acc : Bool} {sl : Slice} {f g : Stream → Stream}
    (h : f (streamOf acc sl) = g (streamOf acc sl)) : withStream sl acc f = withStream sl acc g := by
  rw [withStream, withStream, h]

theorem ret_pops {s : State} {k : Nat} {acc : Bool} {e : Env} (h : Solo s k acc e)
    (hdepth : (streamOf e.acc (sliceAt s k)).rstk.depth ≠ 0)
    (hnotice : e.acc = true ∨ ∀ v, (sliceAt s k).notice = some v → (streamOf e.acc (sliceAt s k)).rstk.depth ≠ v.depth) :
    exec .ret s = .next (issued s k acc (withStream (sliceAt s k) e.acc fun st =>
      { retireTo st (aget 0 st.rstk.ents (st.rstk.depth - 1)) with rstk := ⟨st.rstk.depth - 1, st.rstk.ents⟩ }) [] none) := by
  show execRet s = _
  refine issueLane_moves h ?_
  extract_lets st pop
  split
  · next v hv =>
    have hstays : ¬((!e.acc && (streamOf e.acc (sliceAt s k)).rstk.depth == v.depth) = true) := by
      rcases hnotice with hacc | hne
      · simp [hacc]
      · simp [hne v hv]
    rw [if_neg hstays]
    exact if_neg hdepth
  · exact if_neg hdepth

theorem ret_notice {s : State} {k : Nat} {e : Env} {v : NoticeSave} (h : Solo s k false e)
    (hnotice : (sliceAt s k).notice = some v) (hdepth : (sliceAt s k).c.rstk.depth = v.depth) :
    exec .ret s = .next (issued s k false { sliceAt s k with
      notice := none
      c := { retireTo (sliceAt s k).c (BitVec.ofNat 64 (sliceAt s k).nret.toNat) with
        mask := v.mask, mstk := v.mstk, hint := v.hint } } [] none) := by
  show execRet s = _
  have hacc : e.acc = false := env_acc h.env
  refine issueLane_done h rfl ?_ ?_
  · rw [hnotice]
    have htakes : (!e.acc && (streamOf e.acc (sliceAt s k)).rstk.depth == v.depth) = true := by
      rw [hacc, streamOf, if_neg Bool.false_ne_true, hdepth]
      exact BEq.rfl
    dsimp only
    rw [if_pos htakes, hacc]
    rfl
  · rfl

theorem brx_goes {s : State} {k : Nat} {acc : Bool} {e : Env} {a : Code} {vals : List (Quad Nat)} {sl1 : Slice} {l : Nat}
    (h : Solo s k acc e)
    (hread : Readable ⟨[(.int, a.toNat)], none⟩ (streamOf e.acc (sliceAt s k)).mask e (sliceAt s k) vals sl1)
    (hl : lowestLane (streamOf e.acc (sliceAt s k)).mask = some l) :
    exec (.brx a) s = .next (issued s k acc
      (withStream (finishLane e (sliceAt s k) (streamOf e.acc (sliceAt s k)).mask ⟨[(.int, a.toNat)], none⟩
        (some (false, a.toNat)) none sl1) e.acc
        fun x => { x with pc := BitVec.ofNat 64 (qget (vals.headD (qfill 0)) l) }) [] none) := by
  show execBrx a s = _
  have hunit := readable_unit hread
  obtain ⟨hlegal, hfree, hgood, hread⟩ := hread
  refine issueLane_done h rfl ?_ ?_
  · simp only [hlegal, hfree, hgood, hread, hl, Bool.false_eq_true, if_false]
    rfl
  · rw [withStream_unit, finishLane_unit, hunit]

/-- Settles O22: where each transfer leaves its stream. -/
theorem controlFlowResults : Obligations.ControlFlowResults := by
  refine ⟨fun s k acc e h => ⟨?any, ?all, ?jmp, ?call, ?ret, ?brx⟩, fun s k e v h => ret_notice h⟩
  case any =>
    intro p n o
    show execBraAny p n o s = _
    refine (issueLane_goIf (taken := fun st => branchLanes st p n != 0) (target := fun st => branchTarget st.pc o) h).trans ?_
    congr 2
    refine withStream_congr ?_
    simp only [bne_iff_ne]
    rfl
  case all =>
    intro p n o
    show execBraAll p n o s = _
    refine (issueLane_goIf (taken := fun st => st.mask != 0 && branchLanes st p n == st.mask)
      (target := fun st => branchTarget st.pc o) h).trans ?_
    congr 2
    refine withStream_congr ?_
    simp only [Bool.and_eq_true, bne_iff_ne, beq_iff_eq]
    rfl
  case jmp =>
    intro o
    show execJmp o s = _
    exact issueLane_moves h rfl
  case call =>
    intro o hdepth
    show execCall o s = _
    exact issueLane_moves h (by rw [if_neg hdepth]; rfl)
  case ret => exact ret_pops h
  case brx => exact fun a vals sl1 l => brx_goes h

end Sys2Proof.Proofs
end

section
/-! PROOFS. MERGE, YIELD and the barriers (R239 to R241), and REGION, TRAP and EXIT (R247 to R249). -/

namespace Sys2Proof.Proofs

open Sys2Proof.Machine Sys2Proof.Safety Sys2Proof.Laws

/-! MERGE, YIELD and the barriers. -/

theorem issuer_compute {s : State} {k : Nat} {e : Env} (h : Solo s k false e) : s.issuer = .compute k := h.issuer

theorem issuer_access {s : State} {k : Nat} {e : Env} (h : Solo s k true e) (hk : k < trapBase) : s.issuer = .access k := by
  rw [h.issuer, issuerOf, if_pos rfl, if_neg (Nat.not_le.mpr hk)]

theorem issuer_trap {s : State} {k : Nat} {e : Env} (h : Solo s k true e) (hk : trapBase ≤ k) :
    s.issuer = .trap (k - trapBase) := by
  rw [h.issuer, issuerOf, if_pos rfl, if_pos hk]

theorem merge_compute {s : State} {k : Nat} {e : Env} (h : Solo s k false e) (i : BitVec 16) :
    exec (.merge i) s = .next (tryMerge (issued s k false
      (withStream (sliceAt s k) false fun st => waiting st (.merge i)) [] none) (k / 32) (k % 32 / 8)) := by
  show execMerge i s = _
  rw [execMerge, issueLane_done (sl := withStream (sliceAt s k) false fun st => waiting st (.merge i)) h rfl
    (by rw [env_acc h.env]; rfl) (withStream_unit ..), issuer_compute h]
  rfl

@[simp] theorem takeNotice_unit (sl : Slice) : (takeNotice sl).unit = sl.unit := by
  unfold takeNotice
  split <;> rfl

/-- The slice that a YIELD leaves. -/
def yielded (s : State) (acc : Bool) (sl : Slice) : Slice :=
  let x := withStream sl acc fun st => { retire st with age := s.clock.toNat }
  if acc then x else takeNotice x

theorem yield_issues {s : State} {k : Nat} {acc : Bool} {e : Env} (h : Solo s k acc e) :
    issueLane s .both true (fun e sl =>
      let st := { retire (streamOf e.acc sl) with age := s.clock.toNat }
      .done (if e.acc then setStream true sl st else takeNotice (setStream false sl st)) [] none) =
      .next (issued s k acc (yielded s acc (sliceAt s k)) [] none) := by
  refine issueLane_done h rfl ?_ ?_
  · dsimp only
    rw [env_acc h.env]
    cases acc <;> rfl
  · cases acc <;> simp [yielded, withStream_unit]

theorem yield_completes {s : State} {k : Nat} {acc : Bool} {e : Env} (h : Solo s k acc e) :
    exec .yield s = .next
      (let s1 := issued s k acc (yielded s acc (sliceAt s k)) [] none
       if trapBase ≤ k then s1 else yieldTeam (if acc = false then spendUnits s1 (k / 32) [k % 32]
         else if (sliceAt s k).c.exited = true then spendUnit s1 (k / 32) (sliceAt s k).unit else s1) (k / 32)) := by
  show execYield s = _
  rw [execYield, yield_issues h, andThen]
  cases acc with
  | false =>
    rw [issuer_compute h, if_neg (Nat.not_le.mpr (h.low rfl)), if_pos rfl]
    simp only [(h.alone rfl).1]
  | true =>
    by_cases hk : trapBase ≤ k
    · rw [issuer_trap h hk, if_pos hk]
    · rw [issuer_access h (Nat.lt_of_not_le hk), if_neg hk, if_neg nofun]

/-- The trap context is no participant of a barrier and goes on. -/
theorem barSlice_trap {s : State} {k : Nat} {acc : Bool} {e : Env} (h : Solo s k acc e) (hk : trapBase ≤ k) {n : Nat}
    (hn : n < barCount s e) (w : Wait) :
    issueLane s .both true (barSlice s w n) = .next (issued s k acc (withStream (sliceAt s k) acc retire) [] none) := by
  have hacc : acc = true := by
    cases acc
    · exact absurd (h.low rfl) (Nat.not_lt.mpr hk)
    · rfl
  subst hacc
  refine issueLane_done h rfl ?_ (withStream_unit ..)
  rw [barSlice, if_neg (Nat.not_le.mpr hn), env_trap h.env, if_pos (decide_eq_true hk), env_acc h.env]
  rfl

/-- A stream arrives at a barrier with the accesses before it told by their numbers. -/
theorem barSlice_waits {s : State} {k : Nat} {acc : Bool} {e : Env} (h : Solo s k acc e) (hk : k < trapBase) {n : Nat}
    (hn : n < barCount s e) (hacq : acc = true → acqPending s e.key = false) (w : Wait) :
    issueLane s .both true (barSlice s w n) =
      .next (issued s k acc (withStream (sliceAt s k) acc fun st => arriving s st w) [] none) := by
  have hfree : (acc && acqPending s e.key) = false := by
    cases acc
    · rfl
    · rw [hacq rfl]
      rfl
  refine issueLane_done h rfl ?_ (withStream_unit ..)
  rw [barSlice, if_neg (Nat.not_le.mpr hn), env_trap h.env, decide_eq_false (Nat.not_le.mpr hk), env_acc h.env, hfree]
  rfl

theorem issuerTeam_slice {s : State} {k : Nat} {acc : Bool} {e : Env} (h : Solo s k acc e) (hk : k < trapBase) :
    issuerTeam s.issuer = some (k / 32, acc) := by
  cases acc with
  | false => rw [issuer_compute h]; rfl
  | true => rw [issuer_access h hk]; rfl

theorem issuerTeam_trap {s : State} {k : Nat} {acc : Bool} {e : Env} (h : Solo s k acc e) (hk : trapBase ≤ k) :
    issuerTeam s.issuer = none := by
  cases acc with
  | false => exact absurd (h.low rfl) (Nat.not_lt.mpr hk)
  | true => rw [issuer_trap h hk]; rfl

/-- Settles O23: each joining instruction's issue, and then the release that follows it. -/
theorem joinResults : Obligations.JoinResults := by
  intro s k acc e h
  refine ⟨?merge, yield_completes h, ?trap, ?bar, ?qbar⟩
  case merge =>
    intro i
    cases acc with
    | false => exact merge_compute h i
    | true => exact merge_access h i
  case trap =>
    intro n hn hk
    show execBar n s = _ ∧ execQbar n s = _
    rw [execBar, execQbar, barSlice_trap h hk hn, barSlice_trap h hk hn, issuerTeam_trap h hk]
    exact ⟨rfl, rfl⟩
  case bar =>
    intro n hn hk hacq
    show execBar n s = _
    rw [execBar, barSlice_waits h hk hn hacq, issuerTeam_slice h hk]
    rfl
  case qbar =>
    intro n team hn hk hacq hteam
    show execQbar n s = _
    rw [execQbar, barSlice_waits h hk hn hacq, issuerTeam_slice h hk, andThen]
    simp only [hteam]

/-! REGION, TRAP and EXIT. -/

theorem region_opens {s : State} {k : Nat} {acc : Bool} {e : Env} (h : Solo s k acc e)
    (hcheck : acc = true → (sliceAt s k).check = none) :
    exec .region s = .next (issued s k acc { withStream (sliceAt s k) acc (fun st =>
      { retire st with region := st.pc, regSave := ⟨st.mask, st.mstk, st.rstk⟩ }) with strikes := 0, rolled := false }
      [] none) := by
  have hgoes : ¬(acc && (sliceAt s k).check.isSome) = true := by
    cases acc
    · exact nofun
    · rw [hcheck rfl]
      exact nofun
  show execRegion s = _
  refine issueLane_done h rfl ?_ ?_
  · dsimp only
    rw [env_acc h.env, if_neg hgoes]
    rfl
  · exact withStream_unit ..

theorem commit_trap {s : State} {k : Nat} {sl : Slice} {f : FaultInfo} (hb : (sliceAt s k).unit = k % 32) :
    commitIssue s (k / 32) (sliceAt s k).unit [(k % 32, .trap sl f)] = trapped s k false sl f := by
  rw [hb]
  show actOn false (countUnit s (k / 32) (k % 32)) (32 * (k / 32) + k % 32) (.trap sl f) = _
  rw [key_split]
  rfl

theorem issueLane_trap {s : State} {k : Nat} {acc : Bool} {e : Env} {r : Streams} {cmp : Bool} {f : Env → Slice → Verdict}
    {sl : Slice} {ft : FaultInfo} (h : Solo s k acc e) (hr : streamFault r e = none)
    (hf : f e (sliceAt s k) = .trap sl ft) : issueLane s r cmp f = .next (trapped s k acc sl ft) := by
  cases acc with
  | true => rw [issueLane_access h.issuer h.env hr, hf]; rfl
  | false => rw [issueLane_compute h hr, hf, commit_trap (h.alone rfl).2]

theorem trap_traps {s : State} {k : Nat} {acc : Bool} {e : Env} (h : Solo s k acc e) (c : BitVec 16) :
    exec (.trapOp c) s = .next (if trapBase ≤ k then takeFault s k acc ⟨codeTRAP, c.toNat, 0, 0⟩
      else trapped s k acc (withStream (sliceAt s k) acc fun st => { st with pc := st.pc + 4, prev := st.pc })
        ⟨codeTRAP, c.toNat, 0, 0⟩) := by
  show execTrapOp c s = _
  have htrap := env_trap h.env
  by_cases hk : trapBase ≤ k
  · rw [if_pos hk]
    cases acc with
    | false => exact absurd (h.low rfl) (Nat.not_lt.mpr hk)
    | true =>
      rw [execTrapOp, issueLane_access h.issuer h.env rfl, htrap, if_pos (decide_eq_true hk)]
      rfl
  · rw [if_neg hk]
    refine issueLane_trap h rfl ?_
    dsimp only
    rw [htrap, decide_eq_false hk, env_acc h.env]
    rfl

/-- The slice that an EXIT leaves. -/
def exited (acc : Bool) (sl : Slice) : Slice := withStream sl acc exitStream

theorem sliceAt_issued_compute (s : State) (k : Nat) (sl : Slice) : sliceAt (issued s k false sl [] none) k = sl := by
  rw [issued, if_neg Bool.false_ne_true, sliceAt, putPin_slices]
  exact sliceAt_putSlice_self ..

theorem exited_exited (acc : Bool) (sl : Slice) : (streamOf acc (exited acc sl)).exited = true := by
  rw [exited, withStream, streamOf_setStream]
  rfl

/-- An access stream may end where nothing of its slice is outstanding. -/
structure AccessQuiet (sl : Slice) : Prop where
  check : sl.check = none
  nld : sl.nld = 0
  nst : sl.nst = 0
  ncp : sl.ncp = 0
  ntl : sl.ntl = 0
  anvil : sl.anvErr = none
  scribe : sl.scbErr = none

theorem exit_ends {s : State} {k : Nat} {acc : Bool} {e : Env} (h : Solo s k acc e)
    (hquiet : acc = true → AccessQuiet (sliceAt s k)) :
    exec .exit s = .next
      (let t := issued s k acc (exited acc (sliceAt s k)) [] none
       if trapBase ≤ k then t else afterExit t k acc) := by
  show execExit s = _
  rw [execExit, issueLane_done (sl := exited acc (sliceAt s k)) h rfl ?verdict (withStream_unit ..), andThen]
  case verdict =>
    rw [env_acc h.env]
    cases acc with
    | false => rfl
    | true =>
      obtain ⟨hcheck, hld, hst, hcp, htl, hanvil, hscribe⟩ := hquiet rfl
      simp only [hcheck, hld, hst, hcp, htl, pendingFault, hanvil, hscribe, if_true]
      rfl
  cases acc with
  | false =>
    have hexited : (sliceAt (issued s k false (exited false (sliceAt s k)) [] none) k).c.exited = true := by
      rw [sliceAt_issued_compute]
      exact exited_exited false _
    rw [issuer_compute h, if_neg (Nat.not_le.mpr (h.low rfl))]
    simp only [(h.alone rfl).1, List.foldl_cons, List.foldl_nil, key_split, hexited, if_true]
  | true =>
    have hexited : (sliceAt (issued s k true (exited true (sliceAt s k)) [] none) k).a.exited = true := by
      rw [sliceAt_issued_access]
      exact exited_exited true _
    by_cases hk : trapBase ≤ k
    · rw [issuer_trap h hk, if_pos hk]
    · rw [issuer_access h (Nat.lt_of_not_le hk), if_neg hk]
      simp only [hexited, if_true]

/-- Settles O24: REGION, TRAP and EXIT by their verdicts. -/
theorem regionTrapExitResults : Obligations.RegionTrapExitResults := by
  intro s k acc e h
  refine ⟨region_opens h, trap_traps h, fun hquiet => exit_ends h fun hacc => ?_⟩
  obtain ⟨hcheck, hld, hst, hcp, htl, hanvil, hscribe⟩ := hquiet hacc
  exact ⟨hcheck, hld, hst, hcp, htl, hanvil, hscribe⟩

end Sys2Proof.Proofs
end

section
/-! PROOFS. Loads, stores, atomics and descriptor accesses start (R219 to R228). -/

namespace Sys2Proof.Proofs

open Sys2Proof.Machine Sys2Proof.Safety Sys2Proof.Laws

theorem issueLane_start {s : State} {k : Nat} {e : Env} {r : Streams} {cmp : Bool} {f : Env → Slice → Verdict}
    {sl : Slice} {fl : Flight} (h : Solo s k true e) (hr : streamFault r e = none)
    (hf : f e (sliceAt s k) = .start sl fl) : issueLane s r cmp f = .next (started s k true sl fl) := by
  rw [issueLane_access h.issuer h.env hr, hf]
  rfl

/-! Loads. -/

/-- A load whose lanes pass their checks starts (R219). -/
theorem loadIssue_starts {s : State} {e : Env} {sl : Slice} {d n : Nat} (h : LoadFree s e sl d n) {act : BitVec 4}
    (hact : act ≠ 0) (acq : Bool) (ts : List (Nat × Target)) (kind : List Nat → FlightKind) (fin : Slice → Slice)
    (accs : List (Nat × Target) → List LaneAcc) :
    loadIssue s e sl act d n acq (.ok ts) kind fin accs =
      .start (loadEnd sl d n fin) ⟨0, e.key, kind (loadSeqs sl d n), accs ts, acq, false, false, sl.a.pc, 0, []⟩ := by
  obtain ⟨-, hroom, hcount, horder⟩ := h
  have hqueue : ¬(!ldqRoom sl (if (d == 0xAE) = true then 0 else n) && !(d == 0xAE)) = true := by
    rcases hroom with rfl | hroom
    · simp
    · by_cases hd : d = 0xAE
      · simp [hd]
      · simp [hd, hroom]
  rw [loadIssue]
  dsimp only
  rw [if_neg hqueue, if_neg hact, if_neg (by simp [hcount, horder])]
  simp only [beq_iff_eq]
  rfl

theorem ldSlice_starts {s : State} {e : Env} {sl : Slice} {d b : Nat} {o : Order} {w : Width} {ts : List (Nat × Target)}
    (hready : FmReady e sl false d b) (hfree : LoadFree s e sl d (widthEntries w))
    (hchecks : checkLanes s (laneSpec e (widthBytes w) false false) sl (laneAddrs sl b) = .ok ts) :
    ldSlice s d b o w e sl = .start (loadEnd sl d (widthEntries w) (fmFinish e (actLanes sl.a) false d b))
      ⟨0, e.key, .load (widthBytes w) (loadSeqs sl d (widthEntries w)), loadAccs ts, isAcq o, false, false, sl.a.pc, 0, []⟩ := by
  rw [laneAddrs] at hchecks
  rw [ldSlice]
  dsimp only
  rw [hready, hchecks]
  exact loadIssue_starts hfree hfree.act ..

/-- One read for every lane (R223). -/
theorem broadcast_accs (ls : List Nat) (l0 : Nat) (t : Target) :
    (ls.flatMap fun l => (loadAccs [(l0, t)]).map fun a => { a with lane := l }) = ls.map fun l => ⟨l, t, t, 0, 0, false⟩ := by
  exact List.flatMap_pure_eq_map (fun l => (⟨l, t, t, 0, 0, false⟩ : LaneAcc)) ls

theorem ldBcSlice_starts {s : State} {e : Env} {sl : Slice} {d b l0 : Nat} {o : Order} {w : Width} {t : Target}
    (hready : FmReady e sl false d b) (hfree : LoadFree s e sl d (widthEntries w)) (hl : lowestLane (actLanes sl.a) = some l0)
    (hcheck : checkLanes s (laneSpec e (widthBytes w) false false) sl [(l0, laneAddr sl b l0)] = .ok [(l0, t)]) :
    ldBcSlice s d b o w e sl = .start (loadEnd sl d (widthEntries w) (fmFinish e (actLanes sl.a) false d b))
      ⟨0, e.key, .load (widthBytes w) (loadSeqs sl d (widthEntries w)),
        (maskLanes (actLanes sl.a)).map fun l => ⟨l, t, t, 0, 0, false⟩, isAcq o, false, false, sl.a.pc, 0, []⟩ := by
  rw [ldBcSlice]
  dsimp only
  rw [hready, hl, Option.getD_some, hcheck]
  refine (loadIssue_starts hfree hfree.act ..).trans ?_
  rw [broadcast_accs]

theorem lddescSlice_starts {s : State} {e : Env} {sl : Slice} {d b : Nat} {o : Order} {ts : List (Nat × Target)}
    (hready : FmReady e sl false d b) (hfree : LoadFree s e sl d 1)
    (hchecks : joinChks ((maskLanes (actLanes sl.a)).map fun l => ⟨l, laneAddr sl b l,
      descCheck s e false (refusedOf sl) (laneAddr sl b l)⟩) = .ok ts) :
    lddescSlice s d b o e sl = .start (loadEnd sl d 1 (fmFinish e (actLanes sl.a) false d b))
      ⟨0, e.key, .lddesc (loadSeqs sl d 1), loadAccs ts, isAcq o, false, false, sl.a.pc, 0, []⟩ := by
  rw [lddescSlice]
  dsimp only
  rw [hready, hchecks]
  exact loadIssue_starts hfree hfree.act ..

theorem ldxSlice_starts {s : State} {e : Env} {sl x : Slice} {d b c : Nat} {o : Order} {w : Width} {q : Quad Nat}
    {ts : List (Nat × Target)} (htrap : e.trap = false) (hready : FmReady e sl true d b)
    (hfree : LoadFree s e sl 0xA8 (widthEntries w)) (hdata : readData e (actLanes sl.a) (widthEntries w) d sl = .got q x)
    (hchecks : joinChks ((maskLanes (actLanes sl.a)).map fun l => ⟨l, laneAddr sl b l,
      ldxChk s c (ldxRaw w (actLanes sl.a) q) (checkAddr s (laneSpec e (widthBytes w) false true) (refusedOf sl)
        (laneAddr sl b l))⟩) = .ok ts) :
    ldxSlice s d b o w c e sl = .start
      (loadEnd sl 0xA8 (widthEntries w) fun y => match readData e (actLanes sl.a) (widthEntries w) d y with
        | .got _ z => fmFinish e (actLanes sl.a) true d b z
        | _ => fmFinish e (actLanes sl.a) true d b y)
      ⟨0, e.key, .ldx (widthBytes w) (loadSeqs sl 0xA8 (widthEntries w)) c, ts.map fun p =>
        ⟨p.1, p.2, p.2, if c = 0 then 2 else (tileNibbles s (p.2.loc / 4096 * 4096) (ldxRaw w (actLanes sl.a) q)).getD 2, 0,
          false⟩, isAcq o, false, false, sl.a.pc, 0, []⟩ := by
  rw [ldxSlice]
  dsimp only
  rw [htrap, hready, hdata]
  dsimp only
  rw [hchecks]
  refine (loadIssue_starts hfree hfree.act ..).trans ?_
  rw [loadAccs, List.map_map]
  rfl

/-- No descriptor lies in the SRAM windows, so that one that is asked for there passes (R83, R228). -/
theorem descCheck_sram {s : State} {e : Env} {a core off : Nat} (ha : a < 2 ^ 56) (hregion : regionOf e.core a = .sram core off)
    (write : Bool) (refused : Nat → Bool) :
    descCheck s e write refused a = .ok ⟨.sram, sramAddr core off, none, 0, a⟩ := by
  rw [descCheck, if_neg (Nat.not_le.mpr ha), hregion]

theorem stdescCheck_sram {s : State} {e : Env} {a core off : Nat} (ha : a < 2 ^ 56) (hregion : regionOf e.core a = .sram core off)
    (refused : Nat → Bool) (val : Nat) :
    stdescCheck s e refused val a = .ok ⟨.sram, sramAddr core off, none, 0, a⟩ := by
  rw [stdescCheck, descCheck_sram ha hregion]
  rfl

theorem fmFinish_unit (e : Env) (act : BitVec 4) (src : Bool) (d base : Nat) (sl : Slice) :
    (fmFinish e act src d base sl).unit = sl.unit := finishLane_unit ..

/-- Settles O25: each load's verdict where its checks pass, PREF's, and the descriptors' checks in the SRAM windows. -/
theorem loadsStart : Obligations.LoadsStart := by
  intro s k e b sc o w h
  have hstream := stream_access h
  refine ⟨?ld, ?ldBc, ?desc, ?pref, ?lddesc, ?ldx⟩
  case ld =>
    intro d ts hready hfree hchecks
    show execLd d b sc o w s = _
    exact issueLane_start h hstream (ldSlice_starts hready hfree hchecks)
  case ldBc =>
    intro d l0 t hready hfree hl hcheck
    show execLdBc d b sc o w s = _
    exact issueLane_start h hstream (ldBcSlice_starts hready hfree hl hcheck)
  case desc =>
    exact fun write refused a core off ha hregion =>
      ⟨descCheck_sram ha hregion write refused, stdescCheck_sram ha hregion refused⟩
  case pref =>
    intro hready
    show execPref b sc w s = _
    exact issueLane_done h hstream (by dsimp only; rw [hready]) (fmFinish_unit ..)
  case lddesc =>
    intro d ts hready hfree hchecks
    show execLddesc d b sc o s = _
    exact issueLane_start h hstream (lddescSlice_starts hready hfree hchecks)
  case ldx =>
    intro d c q x ts htrap hready hfree hdata raw hchecks
    show execLdx d b sc o w c s = _
    exact issueLane_start h hstream (ldxSlice_starts htrap hready hfree hdata hchecks)

/-! Stores and atomics. -/

/-- A write whose lanes pass their checks starts with the data that it has read (R224). -/
theorem writeIssue_starts {s : State} {e : Env} {sl : Slice} {ret : Option Nat} (h : WriteFree s e sl ret) (sl1 : Slice)
    {act : BitVec 4} (hact : act ≠ 0) (o : Order) (ts : List (Nat × Target)) (kind : List Nat → FlightKind) (fin : Slice → Slice)
    (acc : Nat → Target → LaneAcc) :
    writeIssue s e sl sl1 act o ret (.ok ts) kind fin acc =
      .start (writeEnd sl sl1 ret fin) ⟨0, e.key, kind (seqsFrom sl (ret.getD 0)), ts.map fun p => acc p.1 p.2, isAcq o,
        isRel o, false, sl.a.pc, 0, []⟩ := by
  obtain ⟨-, hroom, hcheck, hcount, horder⟩ := h
  have hqueue : ¬(ret.isSome && !ldqRoom sl (ret.getD 0)) = true := by
    cases ret with
    | none => exact nofun
    | some n => simp [(hroom n rfl).1]
  have hcounts : ¬(sl.nst = 63 || (ret.isSome && sl.nld == 63) || acqPending s e.key) = true := by
    cases ret with
    | none => simp [hcount, horder]
    | some n => simp [hcount, horder, (hroom n rfl).2]
  rw [writeIssue]
  dsimp only
  rw [if_neg hqueue, if_neg hact, hcheck, if_neg (by exact nofun), if_neg hcounts]
  rfl

theorem stSlice_starts {s : State} {e : Env} {sl sl1 : Slice} {d b : Nat} {o : Order} {w : Width} {q : Quad Nat}
    {ts : List (Nat × Target)} (hready : FmReady e sl true d b) (hfree : WriteFree s e sl none)
    (hdata : readData e (actLanes sl.a) (widthEntries w) d sl = .got q sl1)
    (hchecks : checkLanes s (laneSpec e (widthBytes w) true false) sl (laneAddrs sl b) = .ok ts) :
    stSlice s d b o w e sl = .start (writeEnd sl sl1 none (fmFinish e (actLanes sl.a) true d b))
      ⟨0, e.key, .store (widthBytes w), ts.map fun p => ⟨p.1, p.2, p.2, qget q p.1 % 256 ^ widthBytes w, 0, false⟩,
        isAcq o, isRel o, false, sl.a.pc, 0, []⟩ := by
  rw [laneAddrs] at hchecks
  rw [stSlice]
  dsimp only
  rw [hready, hdata]
  dsimp only
  rw [hchecks]
  exact writeIssue_starts hfree sl1 hfree.act ..

theorem stdescSlice_starts {s : State} {e : Env} {sl sl1 : Slice} {d b : Nat} {o : Order} {q : Quad Nat}
    {ts : List (Nat × Target)} (hready : FmReady e sl true d b) (hfree : WriteFree s e sl none)
    (hdata : readData e (actLanes sl.a) 1 d sl = .got q sl1)
    (hchecks : joinChks ((maskLanes (actLanes sl.a)).map fun l => ⟨l, laneAddr sl b l,
      stdescCheck s e (refusedOf sl) (qget q l) (laneAddr sl b l)⟩) = .ok ts) :
    stdescSlice s d b o e sl = .start (writeEnd sl sl1 none (fmFinish e (actLanes sl.a) true d b))
      ⟨0, e.key, .stdesc, ts.map fun p => ⟨p.1, p.2, p.2, qget q p.1 % 2 ^ 16, 0, false⟩,
        isAcq o, isRel o, false, sl.a.pc, 0, []⟩ := by
  rw [stdescSlice]
  dsimp only
  rw [hready, hdata]
  dsimp only
  rw [hchecks]
  exact writeIssue_starts hfree sl1 hfree.act ..

/-- The second operand of an ACAS, which the other atomics do not have (R226). -/
theorem swap_read {e : Env} {act : BitVec 4} {op n : Nat} {x : Quad Nat} {sl1 sl2 : Slice}
    (h : if op = 9 then readData e act n 0xA8 sl1 = .got x sl2 else x = qfill 0 ∧ sl2 = sl1) :
    (if op = 9 then readData e act n 0xA8 sl1 else .got (qfill 0) sl1) = .got x sl2 := by
  split
  · next hop => rwa [if_pos hop] at h
  · next hop =>
    rw [if_neg hop] at h
    obtain ⟨rfl, rfl⟩ := h
    rfl

theorem atomicSlice_starts {s : State} {e : Env} {sl sl1 sl2 : Slice} {op d b : Nat} {o : Order} {w : Width} {nr : Bool}
    {q x : Quad Nat} {ts : List (Nat × Target)} (hready : FmReady e sl true d b) (htrap : e.trap = true → nr = true ∧ op ≠ 9)
    (hfree : WriteFree s e sl (if nr then none else some (widthEntries w)))
    (hdata : readData e (actLanes sl.a) (widthEntries w) d sl = .got q sl1)
    (hswap : if op = 9 then readData e (actLanes sl.a) (widthEntries w) 0xA8 sl1 = .got x sl2 else x = qfill 0 ∧ sl2 = sl1)
    (hchecks : checkLanes s (laneSpec e (widthBytes w) true false) sl (laneAddrs sl b) = .ok ts) :
    atomicSlice s op d b o w nr e sl =
      (let ret := if nr then none else some (widthEntries w)
       .start (writeEnd sl sl2 ret (fmFinish e (actLanes sl.a) true d b))
        ⟨0, e.key, .atomic op (widthBytes w) (seqsFrom sl (ret.getD 0)) !nr,
          ts.map fun t => ⟨t.1, t.2, t.2, qget q t.1 % 256 ^ widthBytes w, qget x t.1 % 256 ^ widthBytes w, false⟩,
          isAcq o, isRel o, false, sl.a.pc, 0, []⟩) := by
  have hextra : (e.trap && (!nr || op == 9)) = false := by
    cases he : e.trap
    · rfl
    · obtain ⟨rfl, hop⟩ := htrap he
      simp [hop]
  rw [laneAddrs] at hchecks
  rw [atomicSlice]
  dsimp only
  rw [hextra, hready, hchecks]
  dsimp only
  rw [hdata]
  dsimp only
  rw [swap_read hswap]
  exact writeIssue_starts hfree sl2 hfree.act ..

theorem exec_atomicTable : ∀ p ∈ atomicTable, ∀ (d : Code) (b : AReg) (sc : Scope) (o : Order) (w : Width) (nr : Bool)
    (s : State),
    exec (p.1 d b sc o w nr) s = issueLane s .access false (atomicSlice s p.2 d.toNat b.toNat o (atomicWidth p.2 w) nr) := by
  simp only [atomicTable, List.forall_mem_cons]
  exact ⟨fun _ _ _ _ _ _ _ => rfl, fun _ _ _ _ _ _ _ => rfl, fun _ _ _ _ _ _ _ => rfl, fun _ _ _ _ _ _ _ => rfl,
    fun _ _ _ _ _ _ _ => rfl, fun _ _ _ _ _ _ _ => rfl, fun _ _ _ _ _ _ _ => rfl, fun _ _ _ _ _ _ _ => rfl,
    fun _ _ _ _ _ _ _ => rfl, fun _ _ _ _ _ _ _ => rfl, fun _ _ _ _ _ _ _ => rfl, fun _ _ _ _ _ _ _ => rfl, nofun⟩

/-- Settles O26: each write's verdict where its checks pass. -/
theorem writesStart : Obligations.WritesStart := by
  intro s k e d b sc o w q sl1 ts h hready
  have hstream := stream_access h
  refine ⟨?st, ?stdesc, ?atomic⟩
  case st =>
    simp only [List.forall_mem_cons]
    refine ⟨fun hfree hdata hchecks => ?st, fun hfree hdata hchecks => ?stNt, nofun⟩
    case st =>
      show execSt d b sc o w s = _
      exact issueLane_start h hstream (stSlice_starts hready hfree hdata hchecks)
    case stNt =>
      show execStNt d b sc o w s = _
      exact issueLane_start h hstream (stSlice_starts hready hfree hdata hchecks)
  case stdesc =>
    intro hfree hdata hchecks
    show execStdesc d b sc o s = _
    exact issueLane_start h hstream (stdescSlice_starts hready hfree hdata hchecks)
  case atomic =>
    intro p hp nr x sl2 htrap v ret hfree hdata hswap hchecks
    rw [exec_atomicTable p hp]
    exact issueLane_start h hstream (atomicSlice_starts hready htrap hfree hdata hswap hchecks)

end Sys2Proof.Proofs
end

section
/-! PROOFS. Lane copies start (R229 to R231), the fences and WAITCNT retire (R232, R233, R245). -/

namespace Sys2Proof.Proofs

open Sys2Proof.Machine Sys2Proof.Safety Sys2Proof.Laws

/-! Lane copies. -/

/-- The operands of a lane copy, and its slice past it. -/
def copyOperands (t sr ds : Nat) : Operands := ⟨[(.int, t), (.int, sr), (.int, ds)], none⟩

def copyEnd (e : Env) (sl : Slice) (t sr ds : Nat) : Slice :=
  { finishLane e sl (actLanes sl.a) (copyOperands t sr ds) none none sl with park := none }

/-- The check of a copy's barrier, where it has one (R231). -/
def copyBarrier (s : State) (e : Env) (sl : Slice) (t : Nat) (arv : Bool) : Chk :=
  if arv then checkAddr s (barrierSpec e) (refusedOf sl) (regVal true sl t ((lowestLane (actLanes sl.a)).getD 0)) else .stall

/-- A barrier that lets its copy go on: passed, or not asked for. -/
def BarrierPasses (arv : Bool) (c : Chk) : Prop := arv = true → ∃ b, c = .ok b

theorem barrier_bad {arv : Bool} {c : Chk} (h : BarrierPasses arv c) : (if arv then chkBad c else none) = none := by
  split
  · next harv =>
    obtain ⟨b, rfl⟩ := h harv
    rfl
  · rfl

theorem barrier_waits {arv : Bool} {c : Chk} (h : BarrierPasses arv c) :
    ¬(arv && (chkStall c || (chkMiss c).isSome)) = true := by
  rw [Bool.and_eq_true]
  rintro ⟨harv, hwaits⟩
  obtain ⟨b, rfl⟩ := h harv
  exact nomatch hwaits

/-- The checks of a copy's lanes where the barrier, if any, passes. -/
theorem copyChecks_pass {s : State} {e : Env} {sl : Slice} {src dst : SpaceRule} {n sr ds l0 x : Nat} {arv : Bool} {c : Chk}
    (h : BarrierPasses arv c) (ls : List Nat) :
    (ls.map fun l => copyLaneChk s e sl src dst n (regVal true sl sr l) (regVal true sl ds l)
      (if arv && l == l0 then some (x, c) else none) l) =
      ls.map fun l => ⟨l, copyAddr s e sl src n (regVal true sl sr l) (regVal true sl ds l),
        copyChk s e sl src dst n (regVal true sl sr l) (regVal true sl ds l)⟩ := by
  refine List.map_congr_left fun l _ => copyLaneChk_pass fun p hp => ?_
  split at hp
  · next hlane =>
    rw [← Option.some.inj hp]
    exact h (Bool.and_eq_true_iff.mp hlane).1
  · exact nomatch hp

/-- A lane copy is legal, free and sound. -/
structure CopyFit (e : Env) (sl : Slice) (t sr ds : Nat) : Prop where
  legal : checkOperands e sl (actLanes sl.a) (copyOperands t sr ds) false = none
  free : stallOperands e sl (actLanes sl.a) (copyOperands t sr ds) = none
  good : badSrc e sl (actLanes sl.a) (copyOperands t sr ds) = false

theorem acpSlice_starts {s : State} {e : Env} {sl : Slice} {src dst : SpaceRule} {t sr ds : Nat} {z : CopySize} {arv : Bool}
    {ts : List (Nat × Target)} (hfit : CopyFit e sl t sr ds) (hact : actLanes sl.a ≠ 0) (hcheck : sl.check = none)
    (hcount : sl.ncp ≠ 63) (horder : acqPending s e.key = false) (hbar : BarrierPasses arv (copyBarrier s e sl t arv))
    (hchecks : joinChks ((maskLanes (actLanes sl.a)).map fun l =>
      ⟨l, copyAddr s e sl src (copyBytes z) (regVal true sl sr l) (regVal true sl ds l),
        copyChk s e sl src dst (copyBytes z) (regVal true sl sr l) (regVal true sl ds l)⟩) = .ok ts) :
    acpSlice s src dst t sr ds z arv e sl = .start
      { copyEnd e sl t sr ds with
        ncp := (copyEnd e sl t sr ds).ncp + 1
        statPend := (copyEnd e sl t sr ds).statPend ++ [(t, actLanes sl.a)] }
      ⟨0, e.key, .acp (copyBytes z) t (chkTarget (copyBarrier s e sl t arv)), (maskLanes (actLanes sl.a)).map fun l =>
        ⟨l, copyTarget s e sl (copyBytes z) false (regVal true sl sr l),
          copyTarget s e sl (copyBytes z) true (regVal true sl ds l), 0, 0, false⟩, false, false, false, sl.a.pc, 0, []⟩ := by
  obtain ⟨hlegal, hfree, hgood⟩ := hfit
  unfold copyOperands at hlegal hfree hgood
  rw [acpSlice]
  dsimp only
  rw [hlegal]
  dsimp only
  rw [hfree]
  dsimp only
  rw [hgood, if_neg Bool.false_ne_true, decide_eq_false hact, if_neg (by exact nofun), hcheck, if_neg (by exact nofun),
    if_neg (by simp [hcount, horder]), ← copyBarrier, copyChecks_pass hbar, hchecks]
  dsimp only
  rw [barrier_bad hbar]
  dsimp only
  rw [if_neg (barrier_waits hbar), if_neg hact]
  rfl

theorem acpSlice_idles {s : State} {e : Env} {sl : Slice} {src dst : SpaceRule} {t sr ds : Nat} {z : CopySize}
    (hfit : CopyFit e sl t sr ds) (hact : actLanes sl.a = 0) :
    acpSlice s src dst t sr ds z false e sl = .done (copyEnd e sl t sr ds) [] none := by
  obtain ⟨hlegal, hfree, hgood⟩ := hfit
  unfold copyOperands at hlegal hfree hgood
  rw [acpSlice]
  dsimp only
  rw [hlegal]
  dsimp only
  rw [hfree]
  dsimp only
  rw [hgood, if_neg Bool.false_ne_true, if_pos (by simp [hact])]
  rfl

theorem maskLanes_zero : maskLanes 0 = [] := rfl

/-- Without lanes a copy with a barrier starts an access that has none, for its arrival. -/
theorem acpSlice_arrives {s : State} {e : Env} {sl : Slice} {src dst : SpaceRule} {t sr ds : Nat} {z : CopySize} {b : Target}
    (hfit : CopyFit e sl t sr ds) (hact : actLanes sl.a = 0) (hcheck : sl.check = none) (horder : acqPending s e.key = false)
    (hbar : copyBarrier s e sl t true = .ok b) :
    acpSlice s src dst t sr ds z true e sl = .start (copyEnd e sl t sr ds)
      ⟨0, e.key, .acp (copyBytes z) 64 (some b), [], false, true, false, sl.a.pc, 0, []⟩ := by
  obtain ⟨hlegal, hfree, hgood⟩ := hfit
  unfold copyOperands at hlegal hfree hgood
  rw [acpSlice]
  dsimp only
  rw [hlegal]
  dsimp only
  rw [hfree]
  dsimp only
  rw [hgood, if_neg Bool.false_ne_true, if_neg (by simp), hcheck, if_neg (by exact nofun),
    if_neg (by simp [hact, horder]), ← copyBarrier, hbar, hact, maskLanes_zero]
  rw [copyEnd, hact]
  rfl

/-- A copy with lanes makes no arrival at issue. -/
theorem arriveAtIssue_lanes {s : State} {k : Nat} (h : ∀ f ∈ s.flights, f.lanes ≠ []) : arriveAtIssue k s = s := by
  have hnone : s.flights.find? (fun f => f.owner = k && f.lanes.isEmpty) = none :=
    List.find?_eq_none.mpr fun f hf => by simp [h f hf]
  rw [arriveAtIssue, hnone]

theorem maskLanes_ne_nil {act : BitVec 4} (h : act ≠ 0) : maskLanes act ≠ [] := by
  revert act
  decide

/-- The access without lanes that a copy has started is the one whose arrival is made, and it is gone then. -/
theorem arriveAtIssue_started {s : State} {k n stat : Nat} {sl : Slice} {fl : Flight} {b : Target}
    (hflights : ∀ f ∈ s.flights, f.id < s.serial ∧ f.lanes ≠ []) (howner : fl.owner = k) (hlanes : fl.lanes = [])
    (hkind : fl.kind = .acp n stat (some b)) :
    arriveAtIssue k (started s k true sl fl) = arriveAt { putSlice s k sl with serial := s.serial + 1 } b.loc 1 := by
  obtain ⟨added, hadded, hid, hkind', howner', hlanes'⟩ : ∃ x : Flight, (started s k true sl fl).flights = s.flights ++ [x] ∧
      x.id = s.serial ∧ x.kind = fl.kind ∧ x.owner = fl.owner ∧ x.lanes = fl.lanes := ⟨_, rfl, rfl, rfl, rfl, rfl⟩
  have hfind : (started s k true sl fl).flights.find? (fun f => f.owner = k && f.lanes.isEmpty) = some added := by
    rw [hadded, List.find?_append, List.find?_eq_none.mpr fun f hf => by simp [(hflights f hf).2], Option.none_or]
    simp [howner', howner, hlanes', hlanes]
  have hrest : (started s k true sl fl).flights.filter (fun g => g.id != added.id) = s.flights := by
    rw [hadded, List.filter_append, List.filter_eq_self.mpr fun f hf => by
      rw [hid, bne_iff_ne]
      exact (hflights f hf).1.ne]
    simp
  rw [arriveAtIssue, hfind]
  dsimp only
  rw [hrest, hkind', hkind]
  rfl

theorem exec_copyTable : ∀ p ∈ copyTable, ∀ (t sr ds : AReg) (z : CopySize) (arv : Bool) (s : State),
    exec (p.1 t sr ds z arv) s = andThen (issueLane s .access false (acpSlice s p.2.1 p.2.2 t.toNat sr.toNat ds.toNat z arv))
      (arriveAtIssue (accessKey s.issuer)) := by
  simp only [copyTable, List.forall_mem_cons]
  exact ⟨fun _ _ _ _ _ _ => rfl, fun _ _ _ _ _ _ => rfl, fun _ _ _ _ _ _ => rfl, nofun⟩

/-- Settles O27: the copy's verdict with lanes and without, and the arrival at issue. -/
theorem copiesStart : Obligations.CopiesStart := by
  intro p hp s k e t sr ds z arv ts h sl act n o fin bar hlegal hfree hgood hflights
  have hstream := stream_access h
  have hkey := accessKey_issuer h
  have hfit : CopyFit e sl t.toNat sr.toNat ds.toNat := ⟨hlegal, hfree, hgood⟩
  rw [exec_copyTable p hp, hkey]
  refine ⟨?lanes, ?idle, ?arrive⟩
  case lanes =>
    intro hact hcheck hcount horder hchecks hbar
    have htarget : chkTarget (copyBarrier s e sl t.toNat arv) = if arv then chkTarget bar else none := by
      cases arv <;> rfl
    have hpasses : BarrierPasses arv (copyBarrier s e sl t.toNat arv) := fun harv => by
      rw [copyBarrier, if_pos harv]
      exact hbar harv
    rw [issueLane_start h hstream (acpSlice_starts hfit hact hcheck hcount horder hpasses hchecks), andThen,
      arriveAtIssue_lanes, htarget]
    · rfl
    · intro f hf
      rcases List.mem_append.mp hf with hf | hf
      · exact (hflights f hf).2
      · rw [List.mem_singleton.mp hf]
        exact fun hnil => maskLanes_ne_nil hact (List.map_eq_nil_iff.mp hnil)
  case idle =>
    rintro hact rfl
    rw [issueLane_done h hstream (acpSlice_idles hfit hact) (finishLane_unit ..), andThen, arriveAtIssue_lanes]
    · rfl
    · exact fun f hf => (hflights f hf).2
  case arrive =>
    rintro b hact rfl hcheck horder hbar
    rw [issueLane_start h hstream (acpSlice_arrives hfit hact hcheck horder hbar), andThen,
      arriveAtIssue_started hflights (env_key h.env) rfl rfl]
    rfl

/-! Fences and WAITCNT. -/

theorem issueLane_retires {s : State} {k : Nat} {e : Env} {f : Env → Slice → Verdict} {x : Slice} (h : Solo s k true e)
    (hf : f e (sliceAt s k) = .done (withStream x true retire) [] none) (hunit : x.unit = (sliceAt s k).unit) :
    issueLane s .access false f = .next (issued s k true (withStream x true retire) [] none) :=
  issueLane_done h (stream_access h) hf hunit

/-- Settles O28: what each waits for is done. -/
theorem fencesRetire : Obligations.FencesRetire := by
  intro s k e h
  refine ⟨fun sc o hact hcheck hwrites hreads => ?fence, fun wm rm hact hcheck hwrites hcopies => ?xfence,
    fun l st c t hcheck hld hst hcp htl hanvil hscribe => ?waitcnt⟩
  case fence =>
    have hdone : ¬((isRel o && (s.flights.filter fun f => f.owner = e.key).any isLaneWrite)
        || (isAcq o && (s.flights.filter fun f => f.owner = e.key).any isLaneRead)) = true := by
      simp only [Bool.or_eq_true, Bool.and_eq_true, not_or, not_and, Bool.not_eq_true]
      exact ⟨hwrites, hreads⟩
    show execFence sc o s = _
    refine issueLane_retires h ?_ ?_
    · dsimp only
      rw [if_neg hact, hcheck, if_neg (by exact nofun), if_neg hdone]
      rfl
    · split <;> rfl
  case xfence =>
    have hdone : ¬((wm.getLsbD 0 && (s.flights.filter fun f => f.owner = e.key).any isLaneWrite)
        || (wm.getLsbD 1 && (s.flights.filter fun f => f.owner = e.key).any isCopy)) = true := by
      simp only [Bool.or_eq_true, Bool.and_eq_true, not_or, not_and, Bool.not_eq_true]
      exact ⟨hwrites, hcopies⟩
    show execXfence wm rm s = _
    refine issueLane_retires h ?_ rfl
    dsimp only
    rw [if_neg hact, hcheck, if_neg (by exact nofun), if_neg hdone]
    rfl
  case waitcnt =>
    have hchecked : ¬(decide (l.toNat < 63) && (sliceAt s k).check.isSome) = true := by
      rw [Bool.and_eq_true, decide_eq_true_eq]
      rintro ⟨hl, hsome⟩
      rw [hcheck hl] at hsome
      exact nomatch hsome
    have hcounts : ¬(decide (l.toNat < (sliceAt s k).nld) || decide (st.toNat < (sliceAt s k).nst)
        || decide (c.toNat < (sliceAt s k).ncp) || decide (t.toNat < (sliceAt s k).ntl)) = true := by
      simp only [Bool.or_eq_true, decide_eq_true_eq]
      omega
    have hpending : pendingFault (sliceAt s k) (decide (t.toNat < 63)) (decide (c.toNat < 63)) = none := by
      have hnoAnvil : (if decide (t.toNat < 63) then (sliceAt s k).anvErr else none) = none := by
        split
        · next ht => exact hanvil (of_decide_eq_true ht)
        · rfl
      rw [pendingFault, hnoAnvil]
      dsimp only
      split
      · next hc => rw [hscribe (of_decide_eq_true hc)]; rfl
      · rfl
    show execWaitcnt l st c t s = _
    refine issueLane_retires h ?_ rfl
    rw [if_neg hchecked, if_neg hcounts, hpending]
    rfl

end Sys2Proof.Proofs
end

section
/-! PROOFS. WAITADDR and SLEEPUNTIL go on or wait (R234, R235, R246), and ARRIVE starts its arrival (R243, R244). -/

namespace Sys2Proof.Proofs

open Sys2Proof.Machine Sys2Proof.Safety Sys2Proof.Laws

/-! What reading a queue leaves. -/

theorem seeMode_keeps {α : Type} (g : Slice → α) (h : ∀ sl x y, g { sl with fpmodeA := x, modeSeen := y } = g sl) (e : QEntry)
    (sl : Slice) : g (seeMode e sl) = g sl := by
  unfold seeMode
  split
  · exact h ..
  · rfl

/-- What depends on no queue, on no checkpoint and on nothing of the FPMODE that a pop shows is as before. -/
theorem popN_keeps {α : Type} (g : Slice → α) (hldq : ∀ sl x, g { sl with ldq := x } = g sl)
    (hsdq : ∀ sl x y, g { sl with sdq := x, check := y } = g sl) (hcq : ∀ sl x y, g { sl with cq := x, check := y } = g sl)
    (hmode : ∀ sl x y, g { sl with fpmodeA := x, modeSeen := y } = g sl) {q n : Nat} {sl sl' : Slice}
    {xs : List (Quad Word32)} (h : popN q n sl = .got xs sl') : g sl' = g sl := by
  induction n generalizing sl xs with
  | zero =>
    obtain ⟨-, rfl⟩ := Pop.got.inj h
    rfl
  | succ n ih =>
    have hrest : ∀ {x : Quad Word32} {y : Slice}, (match popN q n y with
        | .got xs sl' => .got (x :: xs) sl'
        | r => r) = Pop.got xs sl' → g sl' = g y := by
      intro x y hy
      split at hy
      · next hpop =>
        obtain ⟨-, rfl⟩ := Pop.got.inj hy
        exact ih hpop
      · next hnot => exact absurd hy (hnot _ _)
    unfold popN at h
    split at h
    · split at h
      · exact nomatch h
      · split at h
        · exact nomatch h
        · exact nomatch h
        · exact (hrest h).trans (hldq ..)
    · split at h
      · split at h
        · exact nomatch h
        · exact (hrest h).trans ((hsdq ..).trans (seeMode_keeps g hmode ..))
      · split at h
        · exact nomatch h
        · exact (hrest h).trans ((hcq ..).trans (seeMode_keeps g hmode ..))

theorem readData_keeps {α : Type} (g : Slice → α) (hldq : ∀ sl x, g { sl with ldq := x } = g sl)
    (hsdq : ∀ sl x y, g { sl with sdq := x, check := y } = g sl) (hcq : ∀ sl x y, g { sl with cq := x, check := y } = g sl)
    (hmode : ∀ sl x y, g { sl with fpmodeA := x, modeSeen := y } = g sl) {e : Env} {act : BitVec 4} {n c : Nat}
    {sl sl' : Slice} {q : Quad Nat} (h : readData e act n c sl = .got q sl') : g sl' = g sl := by
  unfold readData at h
  extract_lets r x signed at h
  split at h
  · obtain ⟨-, rfl⟩ := Src.got.inj h
    rfl
  · split at h
    · next hpop =>
      obtain ⟨-, rfl⟩ := Src.got.inj h
      exact popN_keeps g hldq hsdq hcq hmode hpop
    · exact nomatch h
    · exact nomatch h

theorem readData_a {e : Env} {act : BitVec 4} {n c : Nat} {sl sl' : Slice} {q : Quad Nat}
    (h : readData e act n c sl = .got q sl') : sl'.a = sl.a :=
  readData_keeps Slice.a (fun _ _ => rfl) (fun _ _ _ => rfl) (fun _ _ _ => rfl) (fun _ _ _ => rfl) h

theorem readData_unit {e : Env} {act : BitVec 4} {n c : Nat} {sl sl' : Slice} {q : Quad Nat}
    (h : readData e act n c sl = .got q sl') : sl'.unit = sl.unit :=
  readData_keeps Slice.unit (fun _ _ => rfl) (fun _ _ _ => rfl) (fun _ _ _ => rfl) (fun _ _ _ => rfl) h

/-! WAITADDR. -/

theorem wokenSlice_unit (s : State) (e : Env) (act : BitVec 4) (codes : List Nat) (sl : Slice) :
    (wokenSlice s e act codes sl).unit = sl.unit := finishLane_unit ..

theorem wokenSlice_pc {s : State} {e : Env} (hacc : e.acc = true) (act : BitVec 4) (codes : List Nat) (sl : Slice) :
    (wokenSlice s e act codes sl).a.pc = sl.a.pc + 4 := by
  have hend := finishLane_streamOf e sl act ⟨codes.map fun c => (.int, c), none⟩ none none sl
  rw [hacc] at hend
  exact congrArg Stream.pc hend

/-- The slice that a WAITADDR leaves waiting. -/
def watching (s : State) (sl sl1 : Slice) (w : Wait) : Slice :=
  { sl1 with park := none, watch := some (watchPoint s sl sl1), a := waiting sl1.a w }

theorem watching_unit (s : State) (sl sl1 : Slice) (w : Wait) : (watching s sl sl1 w).unit = sl1.unit := rfl

theorem waitaddrSlice_eq {s : State} {e : Env} {sl sl1 : Slice} {d b l : Nat} {o : Order} {w : Width} {q : Quad Nat} {t : Target}
    (hready : FmReady e sl true d b) (hdata : readData e (actLanes sl.a) (widthEntries w) d sl = .got q sl1)
    (hl : lowestLane (actLanes sl.a) = some l)
    (hcheck : checkLanes s (laneSpec e (widthBytes w) false false) sl [(l, laneAddr sl b l)] = .ok [(l, t)])
    (horder : acqPending s e.key = false) :
    waitaddrSlice s d b o w e sl =
      (let x := qget q l % 256 ^ widthBytes w
       match (if servedFree s (vdevOf e.ctx) t then probe s e.key t (widthBytes w) x else .wait) with
       | .go => .done (wokenSlice s e (actLanes sl.a) [d, b] sl1) [] none
       | .error => .error ⟨codeUNCORRECTABLE, 0, BitVec.ofNat 64 (laneAddr sl b l), BitVec.ofNat 4 (2 ^ l)⟩
       | .wait => .done (watching s sl sl1 (.addr t (widthBytes w) x (isAcq o) [d, b])) [] none) := by
  rw [waitaddrSlice]
  dsimp only
  rw [hready]
  dsimp only
  rw [hdata]
  dsimp only
  rw [hl]
  dsimp only
  rw [hcheck]
  dsimp only
  rw [horder]
  rfl

/-- One lane's checks pass where the lane's own does. -/
theorem joinChks_single {l a : Nat} {c : Chk} {t : Target} (h : joinChks [⟨l, a, c⟩] = .ok [(l, t)]) : c = .ok t := by
  cases c with
  | ok u =>
    have hu : Chks.ok [(l, u)] = .ok [(l, t)] := h
    injection hu with hu
    injection hu with hu
    rw [(Prod.mk.inj hu).2]
  | bad code =>
    unfold joinChks at h
    split at h
    · exact nomatch h
    · exact nomatch h
  | miss p => exact nomatch h
  | stall => exact nomatch h

theorem waitaddrRead_eq {s : State} {k b l n : Nat} {e : Env} {t : Target} (henv : envOf s k true = some e)
    (hl : lowestLane (actLanes (sliceAt s k).a) = some l)
    (hcheck : checkLanes s (laneSpec e n false false) (sliceAt s k) [(l, laneAddr (sliceAt s k) b l)] = .ok [(l, t)]) :
    waitaddrRead s k b n = if servedFree s (vdevOf e.ctx) t then some t else none := by
  rw [waitaddrRead, henv, hl]
  dsimp only
  rw [joinChks_single hcheck]

theorem lowestLane_ne_zero {act : BitVec 4} {l : Nat} (h : lowestLane act = some l) : act ≠ 0 := by
  rintro rfl
  exact nomatch h

/-- What a WAITADDR that has gone on or waits counts as (R235, R368): a YIELD and a read, of a team's own stream. -/
theorem execWaitaddr_follows {s : State} {k : Nat} {e : Env} {d : Code} {b : AReg} {sc : Scope} {o : Order} {w : Width} {x : Slice}
    (h : Solo s k true e)
    (hissue : issueLane s .access false (waitaddrSlice s d.toNat b.toNat o w) = .next (issued s k true x [] none))
    (hgone : x.a.wait ≠ .none ∨ (x.a.pc = (sliceAt s k).a.pc + 4 ∧ actLanes (sliceAt s k).a ≠ 0)) :
    execWaitaddr d b sc o w s = .next (if trapBase ≤ k then issued s k true x [] none
      else yieldTeam (spendFor (issued s k true x [] none) (keyCtx s k) (waitaddrRead s k b.toNat (widthBytes w)).toList)
        (k / 32)) := by
  rw [execWaitaddr, hissue, andThen]
  by_cases hk : trapBase ≤ k
  · rw [issuer_trap h hk, if_pos hk]
  · rw [issuer_access h (Nat.lt_of_not_le hk), if_neg hk]
    dsimp only
    rw [sliceAt_issued_access, if_pos]
    simp only [Bool.or_eq_true, Bool.and_eq_true, bne_iff_ne, beq_iff_eq]
    exact hgone

theorem waitaddr_results {s : State} {k l : Nat} {e : Env} {d : Code} {b : AReg} {sc : Scope} {o : Order} {w : Width} {q : Quad Nat}
    {sl1 : Slice} {t : Target} (h : Solo s k true e) (hready : FmReady e (sliceAt s k) true d.toNat b.toNat)
    (hdata : readData e (actLanes (sliceAt s k).a) (widthEntries w) d.toNat (sliceAt s k) = .got q sl1)
    (hl : lowestLane (actLanes (sliceAt s k).a) = some l)
    (hcheck : checkLanes s (laneSpec e (widthBytes w) false false) (sliceAt s k) [(l, laneAddr (sliceAt s k) b.toNat l)]
      = .ok [(l, t)])
    (horder : acqPending s e.key = false) (x : Slice)
    (hx : (servedFree s (vdevOf e.ctx) t = true ∧ probe s e.key t (widthBytes w) (qget q l % 256 ^ widthBytes w) = .go ∧
        x = wokenSlice s e (actLanes (sliceAt s k).a) [d.toNat, b.toNat] sl1) ∨
      ((servedFree s (vdevOf e.ctx) t = true → probe s e.key t (widthBytes w) (qget q l % 256 ^ widthBytes w) = .wait) ∧
        x = watching s (sliceAt s k) sl1
          (.addr t (widthBytes w) (qget q l % 256 ^ widthBytes w) (isAcq o) [d.toNat, b.toNat]))) :
    exec (.waitaddr d b sc o w) s = .next (if trapBase ≤ k then issued s k true x [] none
      else yieldTeam (spendFor (issued s k true x [] none) (keyCtx s k)
        (if servedFree s (vdevOf e.ctx) t then some t else none).toList) (k / 32)) := by
  have hslice := waitaddrSlice_eq (o := o) hready hdata hl hcheck horder
  dsimp only at hslice
  show execWaitaddr d b sc o w s = _
  rw [← waitaddrRead_eq h.env hl hcheck]
  rcases hx with ⟨hserved, hgo, rfl⟩ | ⟨hwait, rfl⟩
  · rw [hserved, if_pos rfl, hgo] at hslice
    refine execWaitaddr_follows h (issueLane_done h (stream_access h) hslice ?_) (.inr ⟨?_, lowestLane_ne_zero hl⟩)
    · rw [wokenSlice_unit, readData_unit hdata]
    · rw [wokenSlice_pc (env_acc h.env), readData_a hdata]
  · have hprobe : (if servedFree s (vdevOf e.ctx) t = true then
        probe s e.key t (widthBytes w) (qget q l % 256 ^ widthBytes w) else .wait) = .wait := by
      split
      · next hserved => exact hwait hserved
      · rfl
    rw [hprobe] at hslice
    refine execWaitaddr_follows h (issueLane_done h (stream_access h) hslice ?_) (.inl nofun)
    rw [watching_unit, readData_unit hdata]

/-! SLEEPUNTIL. -/

/-- The slice that a SLEEPUNTIL leaves waiting. -/
def sleeping (sl : Slice) (w : Wait) : Slice := { sl with a := waiting sl.a w }

/-- What a SLEEPUNTIL that has gone on or waits counts as (R235): a YIELD of a team's own stream. -/
theorem sleep_follows {s : State} {k : Nat} {e : Env} {f : Env → Slice → Verdict} {x : Slice} (h : Solo s k true e)
    (hf : f e (sliceAt s k) = .done x [] none) (hunit : x.unit = (sliceAt s k).unit)
    (hgone : x.a.wait ≠ .none ∨ x.a.pc = (sliceAt s k).a.pc + 4) :
    andThen (issueLane s .access false f) (afterSleep s) = .next (if trapBase ≤ k then issued s k true x [] none
      else yieldTeam (issued s k true x [] none) (k / 32)) := by
  rw [issueLane_done h (stream_access h) hf hunit, andThen, afterSleep]
  by_cases hk : trapBase ≤ k
  · rw [issuer_trap h hk, if_pos hk]
  · rw [issuer_access h (Nat.lt_of_not_le hk), if_neg hk]
    dsimp only
    rw [sliceAt_issued_access, if_pos]
    simp only [Bool.or_eq_true, bne_iff_ne, beq_iff_eq]
    exact hgone

theorem sleep_ends {s : State} {k : Nat} {e : Env} {f : Env → Slice → Verdict} {codes : List Nat} (h : Solo s k true e)
    (hf : f e (sliceAt s k) = .done (wokenSlice s e (sliceAt s k).a.mask codes (sliceAt s k)) [] none) :
    andThen (issueLane s .access false f) (afterSleep s) =
      .next (if trapBase ≤ k then issued s k true (wokenSlice s e (sliceAt s k).a.mask codes (sliceAt s k)) [] none
        else yieldTeam (issued s k true (wokenSlice s e (sliceAt s k).a.mask codes (sliceAt s k)) [] none) (k / 32)) :=
  sleep_follows h hf (wokenSlice_unit ..) (.inr (wokenSlice_pc (env_acc h.env) ..))

theorem sleepuntil_results {s : State} {k : Nat} {e : Env} {c : AReg} (h : Solo s k true e)
    (hfit : Fit ⟨[(.int, c.toNat)], none⟩ (sliceAt s k).a.mask e (sliceAt s k)) :
    let l := (lowestLane (sliceAt s k).a.mask).getD 0
    let clk := regVal true (sliceAt s k) c.toNat l
    let ends := fun (x : Slice) => Host.Outcome.next (φ := Fault) (ρ := Refusal)
      (if trapBase ≤ k then issued s k true x [] none else yieldTeam (issued s k true x [] none) (k / 32))
    (s.clock.toNat < clk → exec (.sleepuntil c) s =
      ends (sleeping (sliceAt s k) (.sleep (BitVec.ofNat 64 clk) none l [c.toNat]))) ∧
    (¬s.clock.toNat < clk → exec (.sleepuntil c) s =
      ends (wokenSlice s e (sliceAt s k).a.mask [c.toNat] (sliceAt s k))) := by
  obtain ⟨hlegal, hfree, hgood⟩ := hfit
  intro l clk ends
  have hslice : sleepSlice s c.toNat none e (sliceAt s k) =
      if s.clock.toNat < clk then .done (sleeping (sliceAt s k) (.sleep (BitVec.ofNat 64 clk) none l [c.toNat])) [] none
      else .done (wokenSlice s e (sliceAt s k).a.mask [c.toNat] (sliceAt s k)) [] none := by
    rw [sleepSlice]
    dsimp only
    rw [hlegal]
    dsimp only
    rw [hfree]
    dsimp only
    rw [hgood]
    rfl
  refine ⟨fun hlt => ?_, fun hge => ?_⟩
  · show execSleepuntil c s = _
    rw [if_pos hlt] at hslice
    exact sleep_follows h hslice rfl (.inl nofun)
  · show execSleepuntil c s = _
    rw [if_neg hge] at hslice
    exact sleep_ends h hslice

theorem sleepuntilBar_results {s : State} {k : Nat} {e : Env} {c b : AReg} {t : Target} (h : Solo s k true e)
    (hfit : Fit ⟨[(.int, c.toNat), (.int, b.toNat)], none⟩ (sliceAt s k).a.mask e (sliceAt s k))
    (hcheck : checkAddr s (barrierSpec e) (fun _ => false)
      (regVal true (sliceAt s k) b.toNat ((lowestLane (sliceAt s k).a.mask).getD 0)
        - regVal true (sliceAt s k) b.toNat ((lowestLane (sliceAt s k).a.mask).getD 0) % 2) = .ok t) :
    let l := (lowestLane (sliceAt s k).a.mask).getD 0
    let clk := regVal true (sliceAt s k) c.toNat l
    let bar := BitVec.ofNat 64 (regVal true (sliceAt s k) b.toNat l)
    let ends := fun (x : Slice) => Host.Outcome.next (φ := Fault) (ρ := Refusal)
      (if trapBase ≤ k then issued s k true x [] none else yieldTeam (issued s k true x [] none) (k / 32))
    (s.clock.toNat < clk → exec (.sleepuntilBar c b) s =
      ends (sleeping (sliceAt s k) (.sleep (BitVec.ofNat 64 clk) (some bar) l [c.toNat, b.toNat]))) ∧
    (clk ≤ s.clock.toNat → acqPending s e.key = false → (s.flights.any fun f => f.owner = e.key && touches f t.loc 16) = false →
      promiseKept s bar t.loc = true →
      exec (.sleepuntilBar c b) s = ends (wokenSlice s e (sliceAt s k).a.mask [c.toNat, b.toNat] (sliceAt s k))) := by
  obtain ⟨hlegal, hfree, hgood⟩ := hfit
  intro l clk bar ends
  have hslice : sleepSlice s c.toNat (some b.toNat) e (sliceAt s k) =
      if s.clock.toNat < clk then
        .done (sleeping (sliceAt s k) (.sleep (BitVec.ofNat 64 clk) (some bar) l [c.toNat, b.toNat])) [] none
      else if acqPending s e.key || s.flights.any fun f => f.owner = e.key && touches f t.loc 16 then .stall [] []
      else if promiseKept s bar t.loc then
        .done (wokenSlice s e (sliceAt s k).a.mask [c.toNat, b.toNat] (sliceAt s k)) [] none
      else .fault (plainFault codePROMISE_MISSED) := by
    rw [sleepSlice]
    dsimp only
    rw [hlegal]
    dsimp only
    rw [hfree]
    dsimp only
    rw [hgood, hcheck]
    rfl
  refine ⟨fun hlt => ?_, fun hle horder hquiet hkept => ?_⟩
  · show execSleepuntilBar c b s = _
    rw [if_pos hlt] at hslice
    exact sleep_follows h hslice rfl (.inl nofun)
  · show execSleepuntilBar c b s = _
    rw [if_neg (Nat.not_lt.mpr hle), horder, hquiet, if_neg (by exact nofun), hkept, if_pos rfl] at hslice
    exact sleep_ends h hslice

/-- Settles O29: the two instructions' verdicts, and the YIELD that each counts as. -/
theorem waitResults : Obligations.WaitResults := by
  refine ⟨?waitaddr, ?sleep⟩
  case waitaddr =>
    intro s k e d b sc o w q sl1 l t h hready yields reads sl act n x hdata hl hcheck horder parked
    refine ⟨fun hserved hgo => ?go, fun hserved hwait => ?wait, fun hserved => ?unserved⟩
    case go =>
      rw [waitaddr_results h hready hdata hl hcheck horder _ (.inl ⟨hserved, hgo, rfl⟩), hserved]
      simp only [yields, reads]
      split <;> rfl
    case wait =>
      rw [waitaddr_results h hready hdata hl hcheck horder _ (.inr ⟨fun _ => hwait, rfl⟩), hserved]
      simp only [yields, reads]
      split <;> rfl
    case unserved =>
      have hnever : servedFree s (vdevOf e.ctx) t = true → probe s e.key t n x = .wait := fun hs => by
        rw [hserved] at hs
        exact nomatch hs
      rw [waitaddr_results h hready hdata hl hcheck horder _ (.inr ⟨hnever, rfl⟩), hserved]
      simp only [yields, reads]
      split <;> rfl
  case sleep =>
    intro s k e c b h yields sl l clk x ends sleeps plain both
    refine ⟨fun hlegal hfree hgood => ?plain, fun t hlegal hfree hgood hcheck => ?bar⟩
    case plain =>
      obtain ⟨hsleeps, hends⟩ := sleepuntil_results h ⟨hlegal, hfree, hgood⟩
      split
      · next hlt => exact hsleeps hlt
      · next hge => exact hends hge
    case bar => exact sleepuntilBar_results h ⟨hlegal, hfree, hgood⟩ hcheck

end Sys2Proof.Proofs
end

section
/-! PROOFS. ARRIVE starts its arrival (R243, R244), and anvil requests enter the reservation table (R250, R255, R268, R269). -/

namespace Sys2Proof.Proofs

open Sys2Proof.Machine Sys2Proof.Safety Sys2Proof.Laws

/-! ARRIVE. -/

theorem commit_start {s : State} {k : Nat} {sl : Slice} {fl : Flight} (hu : sl.unit = k % 32)
    (hb : (sliceAt s k).unit = k % 32) :
    commitIssue s (k / 32) (sliceAt s k).unit [(k % 32, .start sl fl)] = started s k false sl fl := by
  have hstays : (sliceAt (addFlight (putSlice (countUnit s (k / 32) (k % 32)) k sl) fl) k).unit = k % 32 :=
    (congrArg Slice.unit (sliceAt_putSlice_self ..)).trans hu
  rw [hb]
  show partUnit (addFlight (putSlice (countUnit s (k / 32) (k % 32)) (32 * (k / 32) + k % 32) sl) fl) (k / 32)
    (sliceAt (addFlight (putSlice (countUnit s (k / 32) (k % 32)) (32 * (k / 32) + k % 32) sl) fl)
      (32 * (k / 32) + k % 32)).unit [k % 32] = _
  rw [key_split, hstays, partUnit_one]
  rfl

theorem issueLane_starts {s : State} {k : Nat} {acc : Bool} {e : Env} {r : Streams} {cmp : Bool} {f : Env → Slice → Verdict}
    {sl : Slice} {fl : Flight} (h : Solo s k acc e) (hr : streamFault r e = none)
    (hf : f e (sliceAt s k) = .start sl fl) (hu : sl.unit = (sliceAt s k).unit) :
    issueLane s r cmp f = .next (started s k acc sl fl) := by
  cases acc with
  | true => exact issueLane_start h hr hf
  | false => rw [issueLane_compute h hr, hf, commit_start (hu.trans (h.alone rfl).2) (h.alone rfl).2]

theorem arriveEnd_unit (e : Env) (sl : Slice) (a c : Nat) (sl1 : Slice) : (arriveEnd e sl a c sl1).unit = sl1.unit := by
  rw [arriveEnd, finishLane_unit, bumpAll_unit]

theorem arriveSlice_eq {s : State} {e : Env} {sl sl1 : Slice} {a c : Nat} {vals : List (Quad Nat)}
    (h : Readable (arriveOperands e.acc a c) (streamOf e.acc sl).mask e sl vals sl1) :
    arriveSlice s a c e sl =
      (let l := (lowestLane (streamOf e.acc sl).mask).getD 0
       let r := arriveValues e.acc a l vals
       if e.acc then arriveAccess s r.1 r.2 l sl e (arriveEnd e sl a c sl1)
       else arriveCompute s r.1 r.2 l sl e (arriveEnd e sl a c sl1)) := by
  obtain ⟨hlegal, hfree, hgood, hread⟩ := h
  rw [arriveSlice]
  dsimp only
  rw [hlegal]
  dsimp only
  rw [hfree]
  dsimp only
  rw [hgood, hread]
  rfl

theorem arriveAccess_starts {s : State} {e : Env} {sl0 sl : Slice} {addr count lane : Nat} {t : Target}
    (hcheck : checkAddr s (barrierSpec e) (fun _ => false) addr = .ok t) (hfailed : sl0.check = none) (hcount : sl0.nst ≠ 63)
    (horder : acqPending s e.key = false) :
    arriveAccess s addr count lane sl0 e sl = .start { sl with nst := sl.nst + 1 }
      ⟨0, e.key, .arrive false, [⟨lane, t, t, count % 2 ^ 32, 0, false⟩], false, true, false, sl0.a.pc, 0, []⟩ := by
  rw [arriveAccess, hcheck]
  dsimp only
  rw [hfailed, if_neg (by exact nofun), if_neg (by simp [hcount, horder])]
  rfl

theorem arriveCompute_starts {s : State} {e : Env} {sl0 sl : Slice} {off count lane : Nat} {team : Team}
    (hteam : teamAt s (e.key / 32) = some team) (haligned : off % 16 = 0) (hinside : off + 16 ≤ team.size)
    (hready : sramWaits team (team.base + off) 16 = false) :
    arriveCompute s off count lane sl0 e sl =
      (let t : Target := ⟨.sram, sramAddr e.core (team.base + off), none, 0, Config.aliasBase + off⟩
       .start { sl with c := { sl.c with wait := .arrive } }
        ⟨0, e.key, .arrive true, [⟨lane, t, t, count % 2 ^ 32, 0, false⟩], false, true, false, sl0.c.pc, 0, []⟩) := by
  rw [arriveCompute, hteam]
  dsimp only
  rw [if_neg (not_not.mpr haligned), if_neg (Nat.not_lt.mpr hinside), hready]
  rfl

/-- Settles O30: the two streams' arrivals. -/
theorem arriveStarts : Obligations.ArriveStarts := by
  intro s k acc e a c sc vals sl1 h sl st l addr count fin hread
  have hacc := env_acc h.env
  have hkey := env_key h.env
  subst hacc
  have hslice := arriveSlice_eq (s := s) hread
  have hunit : fin.unit = sl.unit := (arriveEnd_unit ..).trans (readable_unit hread)
  refine ⟨?access, ?compute⟩
  case access =>
    intro t hacc hcheck hfailed hcount horder
    show execArrive a c sc s = _
    refine issueLane_starts h rfl (hslice.trans ((if_pos hacc).trans ?_)) ?_
    · exact arriveAccess_starts hcheck hfailed hcount horder
    · exact hunit
  case compute =>
    intro team hacc hteam haligned hinside hready t
    show execArrive a c sc s = _
    refine issueLane_starts h rfl (hslice.trans ((if_neg (by rw [hacc]; exact nofun)).trans ?_)) ?_
    · exact arriveCompute_starts (by rw [hkey]; exact hteam) haligned hinside hready
    · exact hunit

end Sys2Proof.Proofs
end

section
/-! PROOFS. Requests to anvils (R250, R255, R268, R269) and scribes (R278 to R287), and the privileged instructions (R328 to
R330, R343). -/

namespace Sys2Proof.Proofs

open Sys2Proof.Machine Sys2Proof.Safety Sys2Proof.Laws

/-! Anvil requests. -/

theorem mxloop_issues {s : State} {k : Nat} {e : Env} {c : AReg} {t : Target} (h : Solo s k true e)
    (hfit : RequestFit (regOperands [c.toNat]) (actLanes (sliceAt s k).a) e (sliceAt s k)) (hfree : RequestFree s e (sliceAt s k))
    (hcheck : checkAddr s (cbSpec e) (fun _ => false)
      (regVal true (sliceAt s k) c.toNat ((lowestLane (actLanes (sliceAt s k).a)).getD 0)) = .ok t)
    (hquiet : (s.flights.any fun f => f.owner = e.key && isLaneWrite f && touches f t.loc 64) = false)
    (hsound : poisoned s t.loc 64 = false) :
    exec (.mxloop c) s = .next (requested s k e (sliceAt s k) (regOperands [c.toNat])
      (let cb := BitVec.ofNat 512 (readBytes s.mem t.loc 64)
       newReq s e (sliceAt s k) 0 cb (regVal true (sliceAt s k) c.toNat ((lowestLane (actLanes (sliceAt s k).a)).getD 0)) 0 0
        (cmdOf cb).tile)) := by
  have hloc : cbLoc s e (regVal true (sliceAt s k) c.toNat ((lowestLane (actLanes (sliceAt s k).a)).getD 0)) = t.loc := by
    rw [cbLoc, hcheck]
  show execMxloop c s = _
  refine (issueRequest_done h hfit hfree ?_).trans ?_
  · simp only [reqVals, List.map_cons, List.headD_cons, hcheck, hquiet, hsound, Bool.false_eq_true, if_false]
  · simp only [reqVals, List.map_cons, List.headD_cons, hloc]

/-- Settles O31: each request's issue, with lanes and without. -/
theorem anvilRequestsIssue : Obligations.AnvilRequestsIssue := by
  intro s k e h
  refine ⟨?loop, ?ldb, ?tiles⟩
  case loop =>
    intro c t o hfit
    refine ⟨fun hfree hcheck hquiet hsound => mxloop_issues h hfit hfree hcheck hquiet hsound, fun hact => ?_⟩
    show execMxloop c s = _
    exact issueRequest_idle h hfit hact
  case ldb =>
    intro w src c o hfit
    refine ⟨fun hfree => ?_, fun hact => ?_⟩
    · show execMxldb w src c s = _
      exact issueRequest_done h hfit hfree rfl
    · show execMxldb w src c s = _
      exact issueRequest_idle h hfit hact
  case tiles =>
    simp only [List.forall_mem_cons]
    refine ⟨fun n r hfit => ⟨fun hfree => ?st, fun hact => ?stIdle⟩, fun n r hfit => ⟨fun hfree => ?ldt, fun hact => ?ldtIdle⟩,
      nofun⟩
    case st =>
      show execMxst n r s = _
      exact issueRequest_done h hfit hfree rfl
    case stIdle =>
      show execMxst n r s = _
      exact issueRequest_idle h hfit hact
    case ldt =>
      show execMxldt n r s = _
      exact issueRequest_done h hfit hfree rfl
    case ldtIdle =>
      show execMxldt n r s = _
      exact issueRequest_idle h hfit hact

/-! Scribe requests. -/

/-- The value of a register in the lowest acting lane (R277). -/
def lowVal (sl : Slice) (r : AReg) : Nat := regVal true sl r.toNat ((lowestLane (actLanes sl.a)).getD 0)

/-- An issue that raises CP by one enters its program (R278). -/
theorem enterProg_done {s : State} {k prog args : Nat} {e : Env} {x : Slice} {sel : ScribeSel} {res : Bool} (h : Solo s k true e)
    (hcount : x.ncp = (sliceAt s k).ncp + 1) :
    enterProg s (issued s k true x [] none) prog args sel res =
      enqueue (putSlice s k x) (pickScribe s e.core (vdevOf e.ctx % 8) sel)
        (newProg s e k (queueAt s (pickScribe s e.core (vdevOf e.ctx % 8) sel) (vdevOf e.ctx % 8)) prog args res) := by
  rw [enterProg, accessKey_issuer h, h.env]
  dsimp only
  rw [sliceAt_issued_access, if_pos hcount]
  rfl

theorem scstart_enters {s : State} {k budget : Nat} {e : Env} {h p a : AReg} {sel : ScribeSel} {res : Bool}
    (hsolo : Solo s k true e) (hfree : ScribeFree s e (sliceAt s k) [p.toNat, a.toNat] [h.toNat, h.toNat + 1] true)
    (hroom : (queueAt s (pickScribe s e.core (vdevOf e.ctx % 8) sel) (vdevOf e.ctx % 8)).items.length < 16)
    (hheader : headerOf s e.ctx (launchOf s e) (lowVal (sliceAt s k) p) = some budget) :
    let sl := sliceAt s k
    let n := pickScribe s e.core (vdevOf e.ctx % 8) sel
    let q := queueAt s n (vdevOf e.ctx % 8)
    exec (.scstart h p a sel res) s = .next (enqueue (putSlice s k
      (let x := scribeEnd e sl [p.toNat, a.toNat] [h.toNat, h.toNat + 1]
         (setActing (actLanes sl.a) (setActing (actLanes sl.a) sl h.toNat (handleOf n (vdevOf e.ctx % 8) q.next)) (h.toNat + 1)
           (promiseOf s q budget))
       { x with ncp := x.ncp + 1 })) n (newProg s e k q (lowVal sl p) (lowVal sl a) res)) := by
  intro sl n q
  have hvals : scstartVals s sel e sl (reqVals sl (actLanes sl.a) [p.toNat, a.toNat]) =
      .inr [handleOf n (vdevOf e.ctx % 8) q.next, promiseOf s q budget] := by
    rw [scstartVals]
    simp only [reqVals, List.map_cons, List.headD_cons]
    unfold lowVal at hheader
    rw [hheader]
    exact if_neg (Nat.not_le.mpr hroom)
  show execScstart h p a sel res s = _
  rw [execScstart, issueScribe_done hsolo hfree hvals, andThen, accessKey_issuer hsolo]
  dsimp only
  rw [enterProg_done hsolo]
  · rfl
  · exact congrArg (· + 1) ((scribeEnd_ncp ..).trans ((setActing_ncp ..).trans (setActing_ncp ..)))

/-- A stream that has gone on drops the copies (R287). -/
theorem rflush_drops {s : State} {k : Nat} {e : Env} {r : AReg} (h : Solo s k true e)
    (hfree : ScribeFree s e (sliceAt s k) [r.toNat] [] false) (hheld : (sliceAt s k).held = false) :
    exec (.rflush r) s = .next (flushRecords (issued s k true (scribeEnd e (sliceAt s k) [r.toNat] [] (sliceAt s k)) [] none)
      (keyCtx s k) (coreOfKey k) (lowVal (sliceAt s k) r)) := by
  show execRflush r s = _
  have hissue : issueLane s .access false (scribeSlice s [r.toNat] [] false fun _ _ _ => .inr []) =
      .next (issued s k true (scribeEnd e (sliceAt s k) [r.toNat] [] (sliceAt s k)) [] none) :=
    issueScribe_done (vals := []) h hfree rfl
  rw [execRflush, hissue, andThen, accessKey_issuer h]
  dsimp only
  rw [sliceAt_issued_access, if_pos]
  · rfl
  · simp only [Bool.and_eq_true, decide_eq_true_eq, Bool.not_eq_true']
    exact ⟨⟨scribeEnd_pc _ _ _ _ _ (env_acc h.env), hfree.act⟩, (scribeEnd_held ..).trans hheld⟩

theorem cancelSlice_done {s : State} {e : Env} {sl : Slice} {h : AReg} (hfree : ScribeFree s e sl [h.toNat] [] false)
    (hgood : handleBad s e (lowVal sl h) = false) :
    ∃ x, cancelSlice s h.toNat e sl = .done x [] none := by
  rw [cancelSlice, scribeSlice_done (vals := []) hfree]
  · exact ⟨_, rfl⟩
  · unfold lowVal at hgood
    simp only [reqVals, List.map_cons, List.headD_cons, hgood]
    rfl

theorem cancelReaches_access {s : State} {k : Nat} {e : Env} {h : AReg} (hsolo : Solo s k true e)
    (hfree : ScribeFree s e (sliceAt s k) [h.toNat] [] false) (hgood : handleBad s e (lowVal (sliceAt s k) h) = false) :
    cancelReaches s h.toNat = some (lowVal (sliceAt s k) h) := by
  obtain ⟨x, hx⟩ := cancelSlice_done hfree hgood
  have hkey := accessKey_issuer hsolo
  rw [cancelReaches]
  split
  · next j hj => exact absurd hj (by rw [hsolo.issuer, issuerOf, if_pos rfl]; split <;> exact nofun)
  · next u hu =>
    rw [hkey, hsolo.env]
    dsimp only
    rw [hx]
    exact if_neg hfree.act

theorem sccancel_cancels {s : State} {k : Nat} {e : Env} {h : AReg} (hsolo : Solo s k true e)
    (hfree : ScribeFree s e (sliceAt s k) [h.toNat] [] false) (hgood : handleBad s e (lowVal (sliceAt s k) h) = false)
    (hidle : handleBusy s (lowVal (sliceAt s k) h) = false) :
    exec (.sccancel h) s = .next (cancelHandle
      (issued s k true (scribeEnd e (sliceAt s k) [h.toNat] [] (sliceAt s k)) [] none) (lowVal (sliceAt s k) h)) := by
  show execSccancel h s = _
  rw [execSccancel, issueScribe_done (vals := []) hsolo hfree, andThen, cancelReaches_access hsolo hfree hgood]
  · rfl
  · unfold lowVal at hgood hidle
    simp only [reqVals, List.map_cons, List.headD_cons, hgood, hidle]
    rfl

theorem scpoll_reads {s : State} {k : Nat} {e : Env} {d h : AReg} (hsolo : Solo s k true e)
    (hfree : ScribeFree s e (sliceAt s k) [h.toNat] [d.toNat] false) (hgood : handleBad s e (lowVal (sliceAt s k) h) = false) :
    exec (.scpoll d h) s = .next (issued s k true (scribeEnd e (sliceAt s k) [h.toNat] [d.toNat]
      (setActing (actLanes (sliceAt s k).a) (sliceAt s k) d.toNat (statusWord s (lowVal (sliceAt s k) h)))) [] none) := by
  have hvals : (if handleBad s e ((reqVals (sliceAt s k) (actLanes (sliceAt s k).a) [h.toNat]).headD 0) = true
      then (.inl (.fault (plainFault codeSCRIBE_HANDLE)) : Verdict ⊕ List Nat)
      else .inr [statusWord s ((reqVals (sliceAt s k) (actLanes (sliceAt s k).a) [h.toNat]).headD 0)]) =
      .inr [statusWord s (lowVal (sliceAt s k) h)] := by
    unfold lowVal at hgood
    simp only [reqVals, List.map_cons, List.headD_cons, hgood]
    rfl
  show execScpoll d h s = _
  rw [execScpoll, issueScribe_done hsolo hfree hvals]
  rfl

/-- Settles O32: each request's issue, and what follows it. -/
theorem scribeRequestsIssue : Obligations.ScribeRequestsIssue := by
  intro s k e hsolo
  refine ⟨?start, ?poll, fun r hfree hheld => rflush_drops hsolo hfree hheld,
    fun h hfree hgood hidle => sccancel_cancels hsolo hfree hgood hidle⟩
  case start =>
    intro h p a sel res budget n q hfree hroom hheader
    exact scstart_enters hsolo hfree hroom hheader
  case poll =>
    intro d h hfree hgood
    exact scpoll_reads hsolo hfree hgood

end Sys2Proof.Proofs
end

section
/-! PROOFS. The privileged instructions of the trap context (R328 to R330, R343). -/

namespace Sys2Proof.Proofs

open Sys2Proof.Machine Sys2Proof.Safety Sys2Proof.Laws

/-- A privileged instruction that does not retire leaves the state that it has made. -/
theorem runPrivileged_waits {s s1 : State} {core : Nat} {e : Env} {rs : List Nat} {dst : Option Nat}
    {bad : List Nat → Option FaultInfo} {f : Nat → List Nat → State → State × Option Nat} (h : Privileged s core e rs dst)
    (hbad : bad (rs.map fun r => trapReg s core r) = none)
    (hf : f core (rs.map fun r => trapReg s core r) s = (s1, none)) : runPrivileged rs dst s bad f = .next s1 := by
  obtain ⟨hissuer, henv, hkey, ⟨hlegal, hfree, hgood⟩, hact⟩ := h
  unfold trapReg at hbad hf
  rw [← hkey] at hbad hf
  rw [runPrivileged, hissuer]
  dsimp only
  rw [henv]
  dsimp only
  rw [hlegal, hfree]
  simp only [Option.or_none]
  rw [hgood, if_neg Bool.false_ne_true, if_neg hact, hbad]
  dsimp only
  rw [hf]

/-- One that retires in an invocation that is still open ends there (R330). -/
theorem runPrivileged_retires {s s1 : State} {core x : Nat} {e : Env} {rs : List Nat} {dst : Option Nat}
    {bad : List Nat → Option FaultInfo} {f : Nat → List Nat → State → State × Option Nat} (h : Privileged s core e rs dst)
    (hbad : bad (rs.map fun r => trapReg s core r) = none)
    (hf : f core (rs.map fun r => trapReg s core r) s = (s1, some x)) (hopen : (coreAt s1 core).invoc = true) :
    runPrivileged rs dst s bad f = .next (putSlice s1 (trapBase + core)
      (privilegedEnd e (sliceAt s (trapBase + core)) rs (dst.map fun d => (d, x)))) := by
  rw [runPrivileged_next h hbad (congrArg Prod.snd hf), hf]
  exact congrArg _ (if_pos hopen)

theorem issuerBound_eq {s : State} {core : Nat} {team : Team} (hi : s.issuer = .trap core)
    (hteam : boundTeam s core = some team) : issuerBound s = some team := by
  rw [issuerBound, hi]
  exact hteam

theorem eret_resumes {s : State} {core : Nat} {e : Env} {team : Team} {r : AReg} (hteam : boundTeam s core = some team)
    (h : Privileged s core e [r.toNat] none) (hslice : trapReg s core r.toNat < team.s) :
    exec (.eret r) s = .next
      (let s1 := resumeSlice s core (trapReg s core r.toNat)
       if (coreAt s1 core).invoc then
         putSlice s1 (trapBase + core) (privilegedEnd e (sliceAt s (trapBase + core)) [r.toNat] none) else s1) := by
  show execEret r s = _
  refine runPrivileged_next h ?_ rfl
  rw [issuerBound_eq h.issuer hteam]
  exact if_neg (Nat.not_le.mpr hslice)

theorem rdsl_reads {s : State} {core : Nat} {e : Env} {team : Team} {d r : AReg} (hteam : boundTeam s core = some team)
    (h : Privileged s core e [r.toNat] (some d.toNat)) (hopen : (coreAt s core).invoc = true)
    (hselector : selectorBad team (trapReg s core r.toNat) = false)
    (hsound : itemBad (sliceAt s (32 * teamKey core (coreAt s core).tteam + (selectorOf (trapReg s core r.toNat)).slice))
      (selectorOf (trapReg s core r.toNat)) = false) :
    exec (.rdsl d r) s = .next (putSlice s (trapBase + core) (privilegedEnd e (sliceAt s (trapBase + core)) [r.toNat]
      (some (d.toNat, readItem s
        (32 * teamKey core (coreAt s core).tteam + (selectorOf (trapReg s core r.toNat)).slice)
        (selectorOf (trapReg s core r.toNat)))))) := by
  show execRdsl d r s = _
  refine runPrivileged_retires h ?_ rfl hopen
  rw [issuerBound_eq h.issuer hteam, h.issuer]
  simp only [List.map_cons, List.headD_cons, hselector, hsound, Bool.false_eq_true, if_false]

theorem forgetWait_cores (s : State) (k : Nat) : (forgetWait s k).cores = s.cores := rfl

theorem putPin_cores (s : State) (t : Nat) (p : Option Word32) : (putPin s t p).cores = s.cores := by
  unfold putPin
  split <;> rfl

theorem writeHeld_cores (s : State) (core sel x : Nat) : (writeHeld s core sel x).cores = s.cores := by
  unfold writeHeld
  extract_lets q t k s1
  have hforgot : s1.cores = s.cores := by
    unfold s1
    split
    · exact forgetWait_cores ..
    · rfl
  split
  · exact (putPin_cores ..).trans hforgot
  · exact hforgot

theorem putPin_some {s : State} {t : Nat} {team : Team} (h : teamAt s t = some team) (x : Word32) :
    putPin s t (some x) = putTeam s t (some { team with pin := x }) := by
  simp only [putPin, h]

/-- A write of a held slice's item, with PINMASK in its team (R329). -/
theorem writeHeld_eq {s : State} {core : Nat} {team : Team} (hteam : boundTeam s core = some team) (sel x : Nat) :
    writeHeld s core sel x =
      (let q := selectorOf sel
       let k := 32 * teamKey core (coreAt s core).tteam + q.slice
       let s := if q.cls = 6 ∧ q.index = 0 ∧ q.acc = true then forgetWait s k else s
       if q.cls = 5 ∧ q.index = 0x24 then
         putTeam s (teamKey core (coreAt s core).tteam) (some { team with pin := BitVec.ofNat 32 x })
       else putSlice s k (writeItem q x (sliceAt s k))) := by
  rw [writeHeld]
  simp only [Bool.and_eq_true, decide_eq_true_eq, beq_iff_eq, and_assoc]
  have hafter : ∀ s1 : State, s1.teams = s.teams → s1.cores = s.cores →
      putPin s1 (teamKey core (coreAt s core).tteam) (some (BitVec.ofNat 32 x)) =
        putTeam s1 (teamKey core (coreAt s1 core).tteam) (some { team with pin := BitVec.ofNat 32 x }) := by
    intro s1 hteams hcores
    rw [coreAt, coreAt, hcores]
    exact putPin_some (by rw [teamAt, hteams]; exact hteam) _
  have hforgot : ∀ c : Prop, [Decidable c] → (if c then forgetWait s
      (32 * teamKey core (coreAt s core).tteam + (selectorOf sel).slice) else s).teams = s.teams ∧
      (if c then forgetWait s (32 * teamKey core (coreAt s core).tteam + (selectorOf sel).slice) else s).cores = s.cores := by
    intro c _
    split <;> exact ⟨rfl, rfl⟩
  rw [hafter _ (hforgot _).1 (hforgot _).2]

/-- The state after a WRSL (R328, R329): it acts on held slices alone. -/
def wrslState (s : State) (core sel x : Nat) : State :=
  if selectedHeld s core sel then writeHeld s core sel x else s

theorem wrsl_writes {s : State} {core : Nat} {e : Env} {team : Team} {r x : AReg} (hteam : boundTeam s core = some team)
    (h : Privileged s core e [r.toNat, x.toNat] none) (hopen : (coreAt s core).invoc = true)
    (hselector : selectorBad team (trapReg s core r.toNat) = false)
    (hitem : selectedHeld s core (trapReg s core r.toNat) = true →
      itemFault team (selectorOf (trapReg s core r.toNat)) (trapReg s core x.toNat) = none) :
    exec (.wrsl r x) s = .next (putSlice (wrslState s core (trapReg s core r.toNat) (trapReg s core x.toNat))
      (trapBase + core) (privilegedEnd e (sliceAt s (trapBase + core)) [r.toNat, x.toNat] none)) := by
  show execWrsl r x s = _
  have hstate : (coreAt (wrslState s core (trapReg s core r.toNat) (trapReg s core x.toNat)) core).invoc = true := by
    unfold wrslState
    split
    · rw [coreAt, writeHeld_cores]
      exact hopen
    · exact hopen
  refine runPrivileged_retires (x := 0) h ?_ ?_ hstate
  · rw [issuerBound_eq h.issuer hteam, h.issuer]
    simp only [List.map_cons, List.headD_cons, List.drop_succ_cons, List.drop_zero, hselector, Bool.false_eq_true, if_false]
    split
    · next hheld => exact hitem hheld
    · rfl
  · simp only [List.map_cons, List.headD_cons, List.drop_succ_cons, List.drop_zero, wrslState]
    split <;> rfl

/-- In the statement's words, which reads the value once what waits is forgotten. -/
theorem wrslState_eq {s : State} {core : Nat} {team : Team} (hteam : boundTeam s core = some team) (sel r : Nat) :
    wrslState s core sel (trapReg s core r) =
      (let q := selectorOf sel
       let base := 32 * teamKey core (coreAt s core).tteam
       let held := (sliceAt s (base + q.slice)).held
       let s1 := if held = true ∧ q.cls = 6 ∧ q.index = 0 ∧ q.acc = true then forgetWait s (base + q.slice) else s
       if held = false then s1
       else if q.cls = 5 ∧ q.index = 0x24 then putTeam s1 (teamKey core (coreAt s1 core).tteam)
         (some { team with pin := BitVec.ofNat 32 (trapReg s1 core r) })
       else putSlice s1 (base + q.slice) (writeItem q (trapReg s1 core r) (sliceAt s1 (base + q.slice)))) := by
  have hreg : ∀ c : Prop, [Decidable c] → ∀ k, trapReg (if c then forgetWait s k else s) core r = trapReg s core r := by
    intro c _ k
    split <;> rfl
  rw [wrslState, writeHeld_eq hteam, selectedHeld]
  simp only [hreg]
  cases hheld : (sliceAt s (32 * teamKey core (coreAt s core).tteam + (selectorOf sel).slice)).held with
  | false => simp
  | true => simp

theorem foldctl_results {s : State} {core : Nat} {e : Env} {d r : AReg} (h : Privileged s core e [r.toNat] (some d.toNat))
    (hgood : foldReqBad s core (trapReg s core r.toNat) = false) :
    let q := foldReqOf (trapReg s core r.toNat)
    let x := foldCore s core q 256
    (levelsDue x.1 core = false → foldHeld s x.1 core = false → (coreAt x.1 core).invoc = true →
      exec (.foldctl d r) s = .next (putSlice x.1 (trapBase + core)
        (privilegedEnd e (sliceAt s (trapBase + core)) [r.toNat] (some (d.toNat, foldResult x.1 core q x.2))))) ∧
    (levelsDue x.1 core = true ∨ foldHeld s x.1 core = true → exec (.foldctl d r) s = .next
      (let y := sliceAt x.1 (trapBase + core)
       putSlice x.1 (trapBase + core) { y with a := { y.a with wait := .fold d.toNat (trapReg s core r.toNat) x.2 } })) := by
  intro q x
  refine ⟨fun hlevels hheld hopen => ?_, fun hdue => ?_⟩
  · show execFoldctl d r s = _
    refine runPrivileged_retires h ?_ ?_ hopen
    · rw [h.issuer]
      simp only [List.map_cons, List.headD_cons, hgood, Bool.false_eq_true, if_false]
    · simp only [List.map_cons, List.headD_cons]
      exact if_neg (by rw [hlevels, hheld]; exact nofun)
  · show execFoldctl d r s = _
    refine runPrivileged_waits h ?_ ?_
    · rw [h.issuer]
      simp only [List.map_cons, List.headD_cons, hgood, Bool.false_eq_true, if_false]
    · simp only [List.map_cons, List.headD_cons]
      exact if_pos (Bool.or_eq_true_iff.mpr hdue)

/-- Settles O33: each privileged instruction on the bound team. -/
theorem privilegedResults : Obligations.PrivilegedResults := by
  intro s core e team hteam
  refine ⟨fun r h hslice => eret_resumes hteam h hslice, ?rdsl, ?wrsl, ?foldctl⟩
  case rdsl => exact fun d r h hopen hselector hsound => rdsl_reads hteam h hopen hselector hsound
  case wrsl =>
    intro r x q held h hopen hselector hitem
    rw [wrsl_writes hteam h hopen hselector hitem, wrslState_eq hteam]
  case foldctl => exact fun d r h hgood => foldctl_results h hgood

end Sys2Proof.Proofs
end

section
/-! PROOFS. What the instructions of a scribe program do: k registers, control, generators, and the start of the data
instructions. -/

namespace Sys2Proof.Proofs

open Sys2Proof.Machine Sys2Proof.Safety Sys2Proof.Laws

theorem stepProg_runsOut {s n x p q} (h : runsOut s p = true) : stepProg s n x p q = faultProg s n x p ⟨9, p.regs.pc + 4, 0⟩ := by
  unfold stepProg; rw [if_pos h]

/-- An instruction that steps its program gives the program it steps to, and faults at the section's last word. -/
theorem exec_steps {s n x p q i} (he : exec i s = .next (stepProg s n x p q)) :
    (runsOut s p = false → exec i s = .next (becomes s n x (retireProg q))) ∧
      (runsOut s p = true → exec i s = .next (faultProg s n x p ⟨9, p.regs.pc + 4, 0⟩)) :=
  ⟨fun h => he.trans (by rw [stepProg_inside h]), fun h => he.trans (by rw [stepProg_runsOut h])⟩

/-- An instruction that branches goes to its target, or faults with it. -/
theorem exec_branches {s n x p i pc} (he : exec i s = .next (branchTo s n x p pc)) :
    (Inside s p pc → exec i s = .next (becomes s n x (atPc p pc))) ∧
      (¬ Inside s p pc → exec i s = .next (faultProg s n x p ⟨9, pc, 0⟩)) := by
  refine ⟨fun h => he.trans (by rw [branchTo_inside h]), fun h => he.trans ?_⟩
  unfold branchTo
  rw [if_neg fun hb => h (inside_iff.mpr hb)]

theorem wrap_add_nat (w a b : Nat) : wrap w ((a : Int) + b) = (a + b) % 2 ^ w := by
  rw [← Int.natCast_add, wrap_nat]

theorem wrap_mul_nat (w a b : Nat) : wrap w ((a : Int) * b) = a * b % 2 ^ w := by
  rw [← Int.natCast_mul, wrap_nat]

theorem wrap_sub_nat {a b : Nat} (hb : b < 2 ^ 64) : wrap 64 ((a : Int) - b) = (a + 2 ^ 64 - b) % 2 ^ 64 := by
  unfold wrap; omega

/-- Settles O34: each k instruction runs its function of the table, brought to the same residue. -/
theorem scribeArithmetic : Obligations.ScribeArithmetic := by
  intro s n x p h
  dsimp only
  refine ⟨?table, fun d i => ?_, fun d i => ?_, fun d a i => ?_⟩
  case table =>
    unfold kTable
    simp only [List.forall_mem_cons]
    refine ⟨fun d a b => ?add, fun d a b => ?sub, fun d a b => ?mul, fun d a b => ?shl, fun d a b => ?shr,
      fun d a b => runK_next h rfl rfl, fun d a b => runK_next h rfl rfl, fun d a b => ?eq, fun d a b => ?ne,
      fun d a b => ?ltS, fun d a b => ?leS, fun d a b => ?ltU, fun d a b => ?leU, nofun⟩
    case add => exact runK_next h rfl (by rw [wrap_add_nat])
    case sub => exact runK_next h rfl (by rw [wrap_sub_nat (kreg_lt p b)])
    case mul => exact runK_next h rfl (by rw [wrap_mul_nat])
    case shl => exact runK_next h rfl (by rw [Nat.shiftLeft_eq])
    case shr => exact runK_next h rfl (by rw [Nat.shiftRight_eq_div_pow])
    case eq => exact runK_next h rfl (by by_cases hc : kreg p a = kreg p b <;> simp [kcond, hc, beq_eq_false_iff_ne.mpr])
    case ne => exact runK_next h rfl (by by_cases hc : kreg p a = kreg p b <;> simp [kcond, hc, bne_iff_ne.mpr])
    case ltS => exact runK_next h rfl (by by_cases hc : sval 64 (kreg p a) < sval 64 (kreg p b) <;> simp [kcond, hc])
    case leS => exact runK_next h rfl (by by_cases hc : sval 64 (kreg p a) ≤ sval 64 (kreg p b) <;> simp [kcond, hc])
    case ltU => exact runK_next h rfl (by by_cases hc : kreg p a < kreg p b <;> simp [kcond, hc])
    case leU => exact runK_next h rfl (by by_cases hc : kreg p a ≤ kreg p b <;> simp [kcond, hc])
  · exact runK_next h rfl rfl
  · exact runK_next h rfl (by rw [kmovhi_or _ _ i.isLt])
  · exact runK_next h rfl rfl

/-- A program with the count and start of a loop. -/
def setLoop (p : Prog) (l : KReg) (c : Nat × Nat) : Prog := { p with regs := { p.regs with l := aput (0, 0) p.regs.l l.toNat c } }

/-- The word of an instruction that has one. -/
theorem wordOf_encode {i w} (h : encode i = some w) : wordOf i = w.toNat := by
  unfold wordOf; rw [h]

/-- Unit `i` of a record that a GSET finds a copy of is the copy's or what memory shows. -/
theorem heldUnit_old_or_new (p : Prog) (old new : BitVec 1536) (i : Nat) :
    heldUnit p old new i = fld old (32 * i) 32 ∨ heldUnit p old new i = fld new (32 * i) 32 := by
  unfold heldUnit
  dsimp only
  split
  · exact .inl rfl
  · split
    · exact .inr rfl
    · exact .inl rfl

/-- A GSET whose record has a copy binds what it reads of it. -/
theorem bindRec_cached {s n x p a q r} (hq : recordPlace s p (plainSpan a 192 64 false) = some q)
    (hr : cachedRec s n p.ctx a q = some r) :
    bindRec s n x p a = .got (heldRec s n x p (plainSpan a 192 64 false) r) s := by
  unfold bindRec
  dsimp only
  rw [hq, Option.bind_some, hr]

theorem partBlocks_single (t n) : partBlocks [[(t, n)]] = blocksOf t n := by
  simp only [partBlocks, List.flatMap_cons, List.flatMap_nil, List.append_nil]

theorem nthT_single (t n) : nthT [[(t, n)]] 0 = t := rfl

theorem chkSpan_here_place {s p r t} (h : Reach s p r t) : recordPlace s p r = some (placeOfTarget t) := by
  unfold recordPlace; rw [h.good]

/-- A GSET whose record lies here, with no copy, reads it and keeps it. -/
theorem bindRec_read {s n x p a t} (hc : cachedRec s n p.ctx a (placeOfTarget t) = none)
    (h : Here s p (plainSpan a 192 64 false) t) :
    let r := BitVec.ofNat 1536 (seenVal (withOlds p.olds s) t 192)
    bindRec s n x p a = .got r (cacheRec (spendFor s p.ctx (blocksOf t 192)) n p.ctx a (placeOfTarget t) r) := by
  intro r
  have hg : partWaits s n x p 0 t (plainSpan a 192 64 false).bytes (plainSpan a 192 64 false).write = false :=
      here_goes h.toReach rfl
  have hv : bytesVal (sread s p [(t, 192)]) = seenVal (withOlds p.olds s) t 192 := by
    rw [sread_here h.here, bytesVal_readList]; rfl
  unfold bindRec
  dsimp only
  rw [chkSpan_here_place h.toReach, Option.bind_some, hc, fetchSpans_one h hg]
  dsimp only [plainSpan]
  rw [nth_zero, nthT_single, hv, partBlocks_single]

/-- What a GSET does once its record is known. -/
theorem exec_gset {s n x p g a r s'} (h : Runs s n x p) (hb : bindRec s n x p (kreg p a) = .got r s') :
    exec (.gset g a) s = .next (match recordBad r with
      | some d => faultProg s' n x p ⟨3, d, 0⟩
      | none => stepProg s' n x p (setG p g ⟨BitVec.ofNat 64 (kreg p a), r, []⟩)) := by
  refine (runScribe_next h).trans ?_
  rw [hb] <;> rfl

theorem runsOut_cacheRec (s : State) (n ctx a place r) (p : Prog) : runsOut (cacheRec s n ctx a place r) p = runsOut s p := rfl

/-- Settles O35: each control instruction steps or branches its program; a GSET goes by what binding its record gives. -/
theorem scribeControl : Obligations.ScribeControl := by
  intro s n x p h
  dsimp only
  refine ⟨fun o => exec_branches (runScribe_next h), fun d o => ⟨fun hd => ?brc, fun hd => ?nobrc⟩,
      fun l a i => ⟨fun hc => ?loop0, fun h0 h1 => ?loop, fun hc w hw => ?loopBig⟩,
    fun l => ⟨fun hc w hw => ?end0, fun hc => ?end1, fun hc => ?endMore⟩, fun g a q r hq hr => ⟨fun hb => ?gset,
        fun d hb => ?gsetBad⟩, fun old new i _ => heldUnit_old_or_new p old new i,
    fun g a t hc hh hb ho => ?gsetRead, fun d g i => ⟨fun q hq hi => ?gstep, fun hi w hw => ?gstepBad⟩,
    fun d g => ⟨fun q hq he => ?gaddr, fun q hq ho => ?gaddrOdd, fun hg w hw => ?gaddrBad⟩⟩
  case brc => exact exec_branches ((runScribe_next h).trans (by rw [if_pos hd]))
  case nobrc => exact exec_steps ((runScribe_next h).trans (by rw [if_neg (not_not.mpr hd)]))
  case loop0 => exact exec_branches ((runScribe_next h).trans (by dsimp only; rw [if_pos hc]))
  case loop =>
    exact exec_steps ((runScribe_next h).trans (by dsimp only; rw [if_neg h0, if_neg (Nat.not_le.mpr h1)]))
  case loopBig =>
    refine (runScribe_next h).trans ?_
    dsimp only
    rw [if_neg (by omega), if_pos hc, wordOf_encode hw]
  case end0 =>
    refine (runScribe_next h).trans ?_
    dsimp only
    rw [if_pos hc, wordOf_encode hw]
  case end1 =>
    refine exec_steps ((runScribe_next h).trans ?_)
    dsimp only
    rw [if_neg (by omega), if_pos hc, hc]
  case endMore =>
    have he : exec (.kendloop l) s = .next (branchTo s n x (setLoop p l ((aget (0, 0) p.regs.l l.toNat).1 - 1, (aget (0,
        0) p.regs.l l.toNat).2))
        (aget (0, 0) p.regs.l l.toNat).2) := by
      refine (runScribe_next h).trans ?_
      dsimp only
      rw [if_neg (by omega), if_neg (by omega)]
      rfl
    exact exec_branches he
  case gset => exact exec_steps ((exec_gset h (bindRec_cached hq hr)).trans (by rw [hb]))
  case gsetBad => exact (exec_gset h (bindRec_cached hq hr)).trans (by rw [hb])
  case gsetRead =>
    rw [exec_gset h (bindRec_read hc hh), hb]
    dsimp only
    rw [stepProg_inside ((runsOut_cacheRec _ _ _ _ _ _ _).trans ((runsOut_spend _ _ _ _).trans ho))]
  case gstep =>
    refine exec_steps ((runScribe_next h).trans ?_)
    rw [hq]
    dsimp only
    rw [if_neg (Nat.not_le.mpr hi)]
  case gstepBad =>
    refine (runScribe_next h).trans ?_
    cases hq : genOf p g with
    | none => dsimp only; rw [wordOf_encode hw]
    | some q => dsimp only; rw [if_pos (hi q hq), wordOf_encode hw]
  case gaddr =>
    refine exec_steps ((runScribe_next h).trans ?_)
    rw [hq]
    dsimp only
    rw [if_neg (by omega)]
  case gaddrOdd =>
    refine (runScribe_next h).trans ?_
    rw [hq]
    dsimp only
    rw [if_pos ho]
  case gaddrBad =>
    refine (runScribe_next h).trans ?_
    rw [hg]
    dsimp only
    rw [wordOf_encode hw]

/-- A GATHER or SCATTER whose generator is bound goes by its record. -/
theorem beginRows_of_gen {s n x p g i rows q} (hq : genOf p g = some q) : beginRows s n x p g i rows =
    match rowsBad q.record with
    | some d => faultProg s n x p ⟨3, d, 0⟩
    | none => beginData s n x p i (rows * rowOps q.record) := by
  unfold beginRows
  rw [hq] <;> rfl

/-- Settles O37: LINE and REDUCE always start; the others once the checks of their records have passed. -/
theorem scribeDataStarts : Obligations.ScribeDataStarts := by
  intro s n x p h
  dsimp only
  refine ⟨fun d a c => runScribe_next h, fun d a op c => runScribe_next h, fun d a g c q hq => ⟨fun hr => ?_, fun o hr => ?_⟩,
    fun g a b c q hq => ⟨fun hr => ?_, fun o hr => ?_⟩, fun gd gs c d q hd hq hf hc ht hs => ?convert⟩
  · exact (runScribe_next h).trans (by rw [beginRows_of_gen hq, hr]; rfl)
  · exact (runScribe_next h).trans (by rw [beginRows_of_gen hq, hr])
  · exact (runScribe_next h).trans (by rw [beginRows_of_gen hq, hr]; rfl)
  · exact (runScribe_next h).trans (by rw [beginRows_of_gen hq, hr])
  case convert =>
    have hfmt : convertFmt (recFmt d.record) = true := by unfold convertFmt; simpa using hf
    refine (runScribe_next h).trans ?_
    rw [hd, hq]
    dsimp only
    rw [hfmt, if_neg (by simp), if_neg (not_not.mpr hc), if_neg (not_not.mpr ht)]
    cases hcs : codeScaled (recFmt d.record)
    · rw [hcs, if_neg Bool.false_ne_true] at hs
      have : c = 0 := BitVec.eq_of_toNat_eq hs
      simp [this, becomes, beginData]
    · rw [hcs, if_pos rfl] at hs
      obtain ⟨h0, hff⟩ := hs
      have hc0 : c ≠ 0 := fun e => h0 (by rw [e]; rfl)
      have hcf : c ≠ 0xFF := fun e => hff (by rw [e]; rfl)
      have hno : ¬ (c = 0#8 ∨ c = 255#8) := not_or.mpr ⟨hc0, hcf⟩
      simp [hno, becomes, beginData]

end Sys2Proof.Proofs
end

section
/-! PROOFS. Scribe programs on memory of this package, and the events of programs. -/

namespace Sys2Proof.Proofs

open Sys2Proof.Machine Sys2Proof.Safety Sys2Proof.Laws

theorem partBlocks_pair (t u m n) : partBlocks [[(t, m)], [(u, n)]] = blocksOf t m ++ blocksOf u n := by
  simp only [partBlocks, List.flatMap_cons, List.flatMap_nil, List.append_nil]

theorem runsOut_storeDesc (s : State) (key loc bs d) (p : Prog) : runsOut (storeDesc s key loc bs d) p = runsOut s p := rfl

/-- A range that a program may write here is fetched. -/
theorem fetchSpans_takes {s n x p u tc r t} (h : Takes s p r t) : fetchSpans s n x p u tc [r] = .got [[(t, r.bytes)]] :=
  fetchSpans_one h.toHere (takes_goes h)

/-- A range of a barrier that is read, whose PHASE holds a stored error, rolls the program back (R304). -/
theorem fetchWith_phase_error {s n x p a t} (h : Reach s p (barSpan a false) t) (he : poisoned s (t.loc + 8) 1 = true) :
    fetchWith (phaseError s) s n x p 1 0 [barSpan a false] = .stop (rollbackProg s n x p 1 a) := by
  have hg := here_goes (n := n) (x := x) (tc := 0) h rfl
  unfold fetchWith
  rw [chkSpans_here h]
  dsimp only
  simp only [List.zip_cons_cons, List.zip_nil_left, List.any_cons, List.any_nil, hg, Bool.or_false, Bool.false_eq_true,
    if_false]
  simp [barSpan, phaseError, he]

/-- A WAITB that finds PHASE sound goes by its bit. -/
theorem waitbRead_sound {s n x p a ph t} (h : Reach s p (barSpan a false) t) (he : poisoned s (t.loc + 8) 1 = false) :
    waitbRead s n x p a ph =
      if bitAt (readByte s.mem (t.loc + 8)).toNat 0 = ph then stepProg s n x p { p with waitb := none }
      else putProg s n x (some { p with waitb := some (BitVec.ofNat 64 a, ph), park := none }) := by
  have hb : (barSpan a false).write = false → phaseError s [(t, (barSpan a false).bytes)] = false := fun _ => by
    unfold phaseError
    rw [List.any_cons, List.any_nil, he]
    rfl
  unfold waitbRead
  rw [fetchWith_one h hb (here_goes h rfl)]
  rfl

/-- Settles O36: each access goes by the one range it names; the releases by what they wait for. -/
theorem scribeMemory : Obligations.ScribeMemory := by
  intro s n x p t h
  dsimp only
  refine ⟨fun d a e ht ho => ?kld, fun a b e ht ho => ?kst, fun a b ht hr hm hp ho => ?arrive, fun a b ht he => ?phaseBad,
    fun a b ht he => ⟨fun hm ho => ?met, fun hm => ?unmet⟩, fun wm rm hw ho => ?sfence, fun a b sc ht hr hm ho => ?signal,
    fun hr ho => ?region, runScribe_next h⟩
  case kld =>
    refine (runScribe_next h).trans ?_
    rw [fetchSpans_one ht (here_goes ht.toReach rfl)]
    dsimp only [plainSpan]
    rw [nth_zero, partBlocks_single, sread_here ht.here, bytesVal_readList, stepProg_inside ((runsOut_spend _ _ _ _).trans ho)]
    rfl
  case kst =>
    refine (runScribe_next h).trans ?_
    rw [fetchSpans_takes ht]
    dsimp only
    rw [if_neg (by rw [ho]; decide), nth_zero, swriteParts_here ht (valBytes_length 8 _), partBlocks_single]
    rfl
  case arrive =>
    refine (runScribe_next h).trans ?_
    rw [fetchSpans_takes ht]
    dsimp only
    rw [nthT_single, hm, hp, ho, hr]
    rfl
  case phaseBad =>
    refine (runScribe_next h).trans ?_
    unfold waitbRead
    rw [fetchWith_phase_error ht he]
  case met =>
    refine (runScribe_next h).trans ?_
    rw [waitbRead_sound ht he, if_pos hm, stepProg_inside ho]
  case unmet =>
    refine (runScribe_next h).trans ?_
    rw [waitbRead_sound ht he, if_neg hm]
    rfl
  case sfence =>
    refine (runScribe_next h).trans ?_
    rw [if_neg, stepProg_inside ho]
    rcases hw with hw | hw <;> simp [hw]
  case signal =>
    refine (runScribe_next h).trans ?_
    rw [fetchSpans_takes ht]
    dsimp only
    rw [if_neg (by rw [hr, hm]; decide), if_neg (by rw [ho]; decide), nth_zero, swriteParts_here ht (valBytes_length 4 _),
        partBlocks_single]
    rfl
  case region =>
    refine (runScribe_next h).trans ?_
    rw [if_neg (not_not.mpr hr), if_neg (by rw [ho]; decide)]
    rfl

/-- No program resumes where every program that is to resume waits for a miss. -/
theorem resumers_nil {s n} (h : ∀ y ∈ ctxNums, ∀ r, progAt s n y = some r → r.res = true → ∃ k, r.park = some k ∧
    k.refused = false) :
    resumers s n = [] := by
  unfold resumers
  rw [List.filterMap_eq_nil_iff]
  intro y hy
  cases hp : progAt s n y with
  | none => rfl
  | some r =>
    dsimp only
    rw [if_neg]
    intro hc
    simp only [Bool.and_eq_true] at hc
    obtain ⟨⟨⟨⟨hres, -⟩, -⟩, hpark⟩, -⟩ := hc
    obtain ⟨k, hk, hf⟩ := h y hy r hp hres
    rw [hk, Option.all_some, hf] at hpark
    exact Bool.false_ne_true hpark

/-- The lowest free context is the one with none free below. -/
theorem find_free_context {s : State} {n x} (hx : x ∈ ctxNums) (hn : progAt s n x = none) (hlow : ∀ y < x, progAt s n y ≠ none) :
    ctxNums.find? (fun y => (progAt s n y).isNone) = some x := by
  have hr : ctxNums = List.range 4 := rfl
  rw [hr] at hx ⊢
  rw [List.find?_range_eq_some]
  refine ⟨by rw [hn]; rfl, hx, fun y hy => ?_⟩
  have := hlow y hy
  rw [Bool.not_eq_true', Option.isNone_eq_false_iff, Option.isSome_iff_ne_none]
  exact this

/-- What a line operation of LINE or REDUCE fetches where both ends lie here. -/
theorem fetchSpans_line {s n x p a d src dst} (hs : Here s p (plainSpan a 64 64 false) src) (hd : Takes s p
    (plainSpan d 64 64 true) dst) :
    fetchSpans s n x p 1 2 [plainSpan a 64 64 false, plainSpan d 64 64 true] = .got [[(src, 64)], [(dst, 64)]] :=
  fetchSpans_two hs hd.toHere (here_goes hs.toReach rfl) (takes_goes hd)

theorem reduceBytes_length (op : Nat) (m : Memory) (a : Nat) (bs : List Byte) (n : Nat) :
    (reduceBytes op m a bs n).length = 4 * n := by
  induction n generalizing a bs with
  | zero => rfl
  | succ n ih => rw [reduceBytes, List.length_append, valBytes_length, ih]; omega

theorem readList_length (m : Memory) (a n : Nat) : (readList m a n).length = n := by
  induction n generalizing a with
  | zero => rfl
  | succ n ih => rw [readList, List.length_cons, ih]

/-- A line of a LINE whose ends lie here copies its bytes (R295). -/
theorem lineOp_here {s n x p} {o : DataOp} {d a : Nat} {src dst} (hc : p.cancel = false)
    (hm : o.next + 1 < o.total ∨ runsOut s p = false)
    (hs : Here s p (plainSpan (wrap 64 ((a : Int) + 64 * o.next)) 64 64 false) src) (ht : Takes s p (plainSpan (wrap 64
        ((d : Int) + 64 * o.next)) 64 64 true) dst) :
    let s1 := spendFor (storeTo s dst (readList (seen (withOlds p.olds s) src 64) src.loc 64)) p.ctx
        (blocksOf src 64 ++ blocksOf dst 64)
    lineOp s n x p o d a = becomes s1 n x
        (if o.next + 1 < o.total then { p with park := none, inbox := [], data := some { o with next := o.next + 1, dst := [] } }
          else retireProg { p with data := none }) := by
  intro s1
  unfold lineOp
  dsimp only
  rw [fetchSpans_line hs ht]
  dsimp only
  have hw : ∀ tc bs, bs.length = 64 → swriteParts s n x p tc 0 bs 0 [(dst, 64)] = (storeDesc s dst.key dst.loc bs 0, 0) :=
    fun tc bs hl => swriteParts_here (r := plainSpan (wrap 64 ((d : Int) + 64 * o.next)) 64 64 true) ht hl
  rw [nth_zero, nth_one, sread_here hs.here, hw _ _ (readList_length _ _ _), partBlocks_pair]
  exact nextLine_eq hc (hm.imp_right ((runsOut_spend _ _ _ _).trans (runsOut_storeDesc _ _ _ _ _ _)).trans)

/-- A line of a REDUCE whose ends lie here combines its elements at the destination (R297). -/
theorem reduceOp_here {s n x p} {o : DataOp} {d a op : Nat} {src dst} (hc : p.cancel = false)
    (hm : o.next + 1 < o.total ∨ runsOut s p = false)
    (hs : Here s p (plainSpan (wrap 64 ((a : Int) + 64 * o.next)) 64 64 false) src) (ht : Takes s p (plainSpan (wrap 64
        ((d : Int) + 64 * o.next)) 64 64 true) dst)
    (hp : poisoned s dst.loc 64 = false) :
    let s1 := spendFor (storeTo s dst (reduceBytes op (seen s dst 64) dst.loc
      (readList (seen (withOlds p.olds s) src 64) src.loc 64) 16)) p.ctx (blocksOf src 64 ++ blocksOf dst 64)
    reduceOp s n x p o d a op = becomes s1 n x
        (if o.next + 1 < o.total then { p with park := none, inbox := [], data := some { o with next := o.next + 1, dst := [] } }
          else retireProg { p with data := none }) := by
  intro s1
  unfold reduceOp
  dsimp only
  rw [fetchSpans_line hs ht]
  dsimp only
  have hn : nthT [[(src, 64)], [(dst, 64)]] 1 = dst := rfl
  rw [hn, nth_zero, sread_here hs.here, ht.here, if_neg Bool.false_ne_true, hp, if_neg Bool.false_ne_true, swrite_here ht,
      partBlocks_pair]
  exact nextLine_eq hc (hm.imp_right ((runsOut_spend _ _ _ _).trans (runsOut_storeDesc _ _ _ _ _ _)).trans)

/-- Settles O38: each event by the conditions it checks. -/
theorem scribeEvents : Obligations.ScribeEvents := by
  intro s n x p
  refine ⟨fun vq q rest hx hn hlow hres hq hi => ?start, fun hp => ?_⟩
  case start =>
    show Host.Outcome.next (startHead ((resumers s n).foldl _ s) n) = _
    rw [resumers_nil hres, List.foldl_nil]
    unfold startHead
    rw [find_free_context hx hn hlow, hq]
    dsimp only
    rw [hi]
    rfl
  dsimp only
  refine ⟨fun d a c o src dst hd hi hl hc hm hs ht => ?line, fun d a op c o src dst hd hi hl hc hm hs ht hpo => ?reduce,
      fun a ph t hw hc hf hk ho hr he hm hro => ?wake,
    fun hr hf hc => ?cancel, fun hr hf hc he => ?done, fun c hr hf hw => ?failed, fun hi => runScribe_next ⟨hi, hp⟩,
    fun hi => runScribe_next ⟨hi, hp⟩⟩
  case line =>
    show execLineOperation n x s = _
    unfold execLineOperation
    rw [hp]
    dsimp only
    rw [hd]
    dsimp only
    rw [hl, if_neg (by decide)]
    obtain ⟨i, no, total, ends, row⟩ := o
    cases hi
    exact congrArg _ (lineOp_here hc hm hs ht)
  case reduce =>
    show execLineOperation n x s = _
    unfold execLineOperation
    rw [hp]
    dsimp only
    rw [hd]
    dsimp only
    rw [hl, if_neg (by decide)]
    obtain ⟨i, no, total, ends, row⟩ := o
    cases hi
    exact congrArg _ (reduceOp_here hc hm hs ht hpo)
  case wake =>
    show execWaitbWake n x s = _
    unfold execWaitbWake
    rw [hp]
    dsimp only
    rw [hw]
    dsimp only
    have hgo : (p.cancel || p.failed.isSome || !(p.park.all fun k => k.refused) || !onOwned s n p) = false := by
      rw [hc, hf, hk, ho]; rfl
    rw [hgo, if_neg Bool.false_ne_true, waitbRead_sound hr he, if_pos hm, stepProg_inside hro]
  case cancel =>
    show execScribeProgramEnd n x s = _
    unfold execScribeProgramEnd
    rw [hp]
    dsimp only
    rw [if_neg (not_not.mpr hr), hf, hc]
    rfl
  case done =>
    show execScribeProgramEnd n x s = _
    unfold execScribeProgramEnd
    rw [hp]
    dsimp only
    rw [if_neg (not_not.mpr hr), hf, hc, he]
    rfl
  case failed =>
    show execScribeProgramEnd n x s = _
    unfold execScribeProgramEnd
    rw [hp]
    dsimp only
    rw [if_neg (not_not.mpr hr), hf, Option.isSome_some, if_pos rfl]
    unfold settleProg
    rw [hp]
    dsimp only
    rw [hf]
    dsimp only
    rw [hr, hw]
    rfl

end Sys2Proof.Proofs
end

section
/-! PROOFS. Accesses in flight are performed: loads fill their entries, writes store their lanes, copies complete. -/

namespace Sys2Proof.Proofs

open Sys2Proof.Machine Sys2Proof.Safety Sys2Proof.Laws

/-! States that differ in memory alone. -/

/-- A state that differs from another in memory, key ids, descriptors and stored errors alone, with no new stored error. -/
def OnlyMemory (s t : State) : Prop :=
  ∃ m k d p, t = { s with mem := m, keyed := k, desc := d, poison := p } ∧ ∀ u ∈ p, u ∈ s.poison

namespace OnlyMemory

theorem refl (s : State) : OnlyMemory s s := ⟨_, _, _, _, rfl, fun _ h => h⟩

theorem trans {s t u : State} (h : OnlyMemory s t) (g : OnlyMemory t u) : OnlyMemory s u := by
  obtain ⟨m, k, d, p, rfl, hp⟩ := h
  obtain ⟨m', k', d', p', rfl, hp'⟩ := g
  exact ⟨m', k', d', p', rfl, fun u hu => hp u (hp' u hu)⟩

theorem storeDesc (s : State) (key loc : Nat) (bs : List Byte) (d : BitVec 16) : OnlyMemory s (storeDesc s key loc bs d) :=
  ⟨_, _, _, _, rfl, fun _ h => List.mem_of_mem_filter h⟩

theorem storeTo (s : State) (t : Target) (bs : List Byte) : OnlyMemory s (storeTo s t bs) := storeDesc ..

theorem setDesc (s : State) (loc : Nat) (d : BitVec 16) : OnlyMemory s (setDesc s loc d) := by
  unfold Machine.setDesc
  split
  · exact ⟨_, _, _, _, rfl, fun _ h => h⟩
  · exact refl s

theorem arriveAt (s : State) (loc count : Nat) : OnlyMemory s (arriveAt s loc count) := by
  unfold Machine.arriveAt
  dsimp only
  split
  · exact (storeDesc ..).trans (storeDesc ..)
  · exact storeDesc ..

theorem foldl {α} {f : State → α → State} (h : ∀ s a, OnlyMemory s (f s a)) (l : List α) (s : State) : OnlyMemory s
    (l.foldl f s) := by
  induction l generalizing s with
  | nil => exact refl s
  | cons a l ih => exact (h s a).trans (ih _)

theorem mayWrite {s t : State} (h : OnlyMemory s t) (c : Nat) (x : Target) : mayWrite t c x = mayWrite s c x := by
  obtain ⟨m, k, d, p, rfl, -⟩ := h
  rfl

theorem sliceAt {s t : State} (h : OnlyMemory s t) (k : Nat) : sliceAt t k = sliceAt s k := by
  obtain ⟨m, k, d, p, rfl, -⟩ := h
  rfl

theorem keyCtx {s t : State} (h : OnlyMemory s t) (k : Nat) : keyCtx t k = keyCtx s k := by
  obtain ⟨m, k, d, p, rfl, -⟩ := h
  rfl

theorem flightAwaits {s t : State} (h : OnlyMemory s t) (id : Nat) : flightAwaits t id = flightAwaits s id := by
  obtain ⟨m, k, d, p, rfl, -⟩ := h
  rfl

theorem goneLanes {s t : State} (h : OnlyMemory s t) (f : Flight) : goneLanes t f = goneLanes s f := by
  obtain ⟨m, k, d, p, rfl, -⟩ := h
  rfl

/-- What holds no stored error holds none after a write. -/
theorem poisoned_false {s t : State} (h : OnlyMemory s t) {loc n : Nat}
    (hp : poisoned s loc n = false) : poisoned t loc n = false := by
  obtain ⟨m, k, d, p, rfl, hs⟩ := h
  unfold poisoned at hp ⊢
  rw [List.any_eq_false] at hp ⊢
  exact fun u hu => hp u (hs u hu)

end OnlyMemory

/-! What ends an access. -/

/-- A slice that is not rolling back is brought back to no region. -/
theorem finishRollback_settled {s : State} {k : Nat} (h : (sliceAt s k).rollback = false) : finishRollback s k = s := by
  unfold finishRollback
  dsimp only
  rw [h]
  rfl

theorem finishRollback_putSlice {s : State} {k : Nat} {sl : Slice} (h : sl.rollback = false) :
    finishRollback (putSlice s k sl) k = putSlice s k sl :=
  finishRollback_settled (by rw [sliceAt_putSlice_self]; exact h)

theorem spendToken_dropFlight (v : Nat) (s : State) (i c : Nat) :
    spendToken v (dropFlight s i) c = dropFlight (spendToken v s c) i := by
  by_cases h : vdevRate s v = 0
  · have hs : spendToken v s c = s := if_pos h
    rw [hs]
    exact if_pos h
  · have hs : spendToken v s c = _ := if_neg h
    rw [hs]
    exact if_neg h

theorem spendFor_dropFlight (s : State) (ctx i : Nat) (ts : List Target) :
    spendFor (dropFlight s i) ctx ts = dropFlight (spendFor s ctx ts) i := by
  unfold spendFor
  show (if vdevRate s (vdevOf ctx) = 0 then _ else _) = _
  split
  · rfl
  · exact List.foldl_hom (fun t => dropFlight t i) fun t c => spendToken_dropFlight _ t i c

theorem sliceAt_spendFor (s : State) (ctx k : Nat) (ts : List Target) : sliceAt (spendFor s ctx ts) k = sliceAt s k := by
  rw [spendFor_eq]; rfl

theorem goneLanes_spendFor (s : State) (ctx : Nat) (ts : List Target) (f : Flight) : goneLanes
    (spendFor s ctx ts) f = goneLanes s f := by
  rw [spendFor_eq]; rfl

/-- What fills the entries of a read changes nothing else of its slice. -/
theorem fillReach_keeps {α} (g : Slice → α) (hg : ∀ sl q, g { sl with ldq := q } = g sl) (s f sl vals bad) :
    g (fillReach s f sl vals bad) = g sl := by
  unfold fillReach
  split
  · exact hg sl _
  · exact hg sl _

theorem fillReach_congr {s t : State} {f : Flight} (h : goneLanes t f = goneLanes s f) (sl vals bad) :
    fillReach t f sl vals bad = fillReach s f sl vals bad := by
  unfold fillReach
  rw [h]

/-- A slice's answers to a read, and the lanes that met an error. -/
theorem finishLoad_here {s : State} {f : Flight} (hr : (sliceAt s f.owner).rollback = false)
    (hh : ∀ a ∈ f.lanes, isRemote a.tgt = false) :
    finishLoad s f = ended s f (laneBlocks f)
      { fillReach s f (sliceAt s f.owner) (f.lanes.map fun a => (a.lane, localRead s f a)) (f.lanes.filter (localBad s f)) with
        nld := (sliceAt s f.owner).nld - 1 } := by
  have hv : (f.lanes.map fun a => (a.lane, if isRemote a.tgt then a.data else localRead s f a)) = f.lanes.map fun a => (a.lane,
      localRead s f a) :=
    List.map_congr_left fun a ha => by rw [hh a ha]; rfl
  have hb : (f.lanes.filter fun a => if isRemote a.tgt then a.bad else localBad s f a) = f.lanes.filter (localBad s f) :=
    List.filter_congr fun a ha => by rw [hh a ha]; rfl
  unfold finishLoad
  dsimp only
  rw [hv, hb, ← spendFor_dropFlight, sliceAt_spendFor, fillReach_congr (goneLanes_spendFor ..),
    fillReach_keeps (fun sl => sl.nld) fun _ _ => rfl, finishRollback_putSlice]
  · rfl
  · exact (fillReach_keeps (fun sl => sl.rollback) (fun _ _ => rfl) ..).trans hr

theorem flightAt_id {s : State} {id : Nat} {f : Flight} (h : flightAt s id = some f) : f.id = id := by
  have := List.find?_some h
  simpa using this

/-- A load of this package's memory that is due fills its entries. -/
theorem loadFill_due {s : State} {id : Nat} {f : Flight} (h : Due s id f) (hl : isLoad f = true) :
    exec (.loadFill id) s = .next (ended s f (laneBlocks f)
      { fillReach s f (sliceAt s f.owner) (f.lanes.map fun a => (a.lane, localRead s f a)) (f.lanes.filter (localBad s f)) with
        nld := (sliceAt s f.owner).nld - 1 }) := by
  have hfar : f.lanes.any (fun a => isRemote a.tgt) = false := List.any_eq_false.mpr fun a ha => by rw [(h.here a ha).1]; decide
  rw [← finishLoad_here h.settled fun a ha => (h.here a ha).1]
  show execLoadFill id s = _
  unfold execLoadFill
  rw [h.flight]
  dsimp only
  rw [hl, h.free, hfar, Bool.and_false]
  rfl

/-- A read with every byte in reach and no error fills its entries with what its lanes found. -/
theorem fillReach_good {s f sl vals} (hg : goneLanes s f = []) : fillReach s f sl vals [] = fillEntries sl (flightSeqs f)
    (entryOf vals) := by
  unfold fillReach
  rw [hg]
  rfl

/-- One with an error poisons them. -/
theorem fillReach_bad {s f sl vals bad} (hg : goneLanes s f = []) (hb : bad ≠ []) :
    fillReach s f sl vals bad = fillEntries sl (flightSeqs f) fun _ => .poisoned (errorFault bad) := by
  unfold fillReach fillRead
  rw [hg]
  dsimp only
  rw [if_neg (by rwa [List.isEmpty_iff])]

section

variable {s : State} {f : Flight}

theorem localRead_load {n seqs} (hk : f.kind = .load n seqs) : localRead s f = fun a => seenVal (withOlds f.olds s) a.tgt n := by
  funext a; unfold localRead flightBytes; rw [hk]

theorem localBad_load {n seqs} (hk : f.kind = .load n seqs) : localBad s f = fun a => poisoned s a.tgt.loc n := by
  funext a; unfold localBad flightBytes; rw [hk]

theorem localRead_lddesc {seqs} (hk : f.kind = .lddesc seqs) : localRead s f = fun a => (descAt s a.tgt.loc).toNat := by
  funext a; unfold localRead; rw [hk]

theorem localBad_lddesc {seqs} (hk : f.kind = .lddesc seqs) : localBad s f = fun _ => false := by
  funext a; unfold localBad; rw [hk]

theorem goneLanes_lddesc {seqs} (hk : f.kind = .lddesc seqs) : goneLanes s f = [] := by
  unfold goneLanes; rw [hk]

theorem localRead_ldx {n seqs conv} (hk : f.kind = .ldx n seqs conv) : localRead s f = fun a =>
    tileValue (underKey (withOlds f.olds s) a.tgt.key (a.tgt.loc / 4096 * 4096) 4096) (a.tgt.loc / 4096 * 4096) conv a.data
      (2 * n) (2 * (a.tgt.loc % 4096)) := by
  funext a; unfold localRead; rw [hk]

end

theorem isLoad_load {f : Flight} {n seqs} (hk : f.kind = .load n seqs) : isLoad f = true := by unfold isLoad; rw [hk]
theorem isLoad_lddesc {f : Flight} {seqs} (hk : f.kind = .lddesc seqs) : isLoad f = true := by unfold isLoad; rw [hk]
theorem isLoad_ldx {f : Flight} {n seqs conv} (hk : f.kind = .ldx n seqs conv) : isLoad f = true := by unfold isLoad; rw [hk]
theorem flightSeqs_load {f : Flight} {n seqs} (hk : f.kind = .load n seqs) : flightSeqs f = seqs := by unfold flightSeqs; rw [hk]
theorem flightSeqs_lddesc {f : Flight} {seqs} (hk : f.kind = .lddesc seqs) : flightSeqs f = seqs := by unfold flightSeqs; rw [hk]
theorem flightSeqs_ldx {f : Flight} {n seqs conv} (hk : f.kind = .ldx n seqs conv) : flightSeqs f = seqs :=
    by unfold flightSeqs; rw [hk]

/-- Settles O39: what a due load fills, by its kind and by whether a lane's bytes are out of reach. -/
theorem loadsFill : Obligations.LoadsFill := by
  intro s id f h
  dsimp only
  refine ⟨fun n seqs hk hg => ⟨fun hb => ?good, fun hb => ?bad⟩, fun seqs hk => ?desc, fun n seqs conv hk hg hb => ?conv,
      fun a as hl hg => ?gone⟩
  case good =>
    rw [loadFill_due h (isLoad_load hk), localRead_load hk, localBad_load hk, hb, fillReach_good hg, flightSeqs_load hk]
  case bad =>
    rw [loadFill_due h (isLoad_load hk), localRead_load hk, localBad_load hk, fillReach_bad hg hb, flightSeqs_load hk]
  case desc =>
    rw [loadFill_due h (isLoad_lddesc hk), localRead_lddesc hk, localBad_lddesc hk, List.filter_false, fillReach_good
        (goneLanes_lddesc hk), flightSeqs_lddesc hk]
  case conv =>
    have hnone : f.lanes.filter (localBad s f) = [] := List.filter_eq_nil_iff.mpr fun a ha => by rw [hb a ha]; decide
    rw [loadFill_due h (isLoad_ldx hk), localRead_ldx hk, hnone, fillReach_good hg, flightSeqs_ldx hk]
  case gone =>
    rw [loadFill_due h hl]
    unfold fillReach
    rw [hg]

end Sys2Proof.Proofs
end

section
/-! PROOFS. Writes, atomics and lane copies are performed. -/

namespace Sys2Proof.Proofs

open Sys2Proof.Machine Sys2Proof.Safety Sys2Proof.Laws

/-- An access that may be performed waits for no answer. -/
theorem flightAwaits_due {s : State} {id : Nat} {f : Flight} (h : Due s id f) : flightAwaits s id = false := by
  have hc := h.free
  unfold canPerform atMemory at hc
  simp only [Bool.and_eq_true, Bool.not_eq_true'] at hc
  obtain ⟨⟨-, ha⟩, -⟩ := hc
  rwa [flightAt_id h.flight] at ha

/-- A write of this package's memory that is due performs its lanes and ends. -/
theorem storePerformed_due {s : State} {id : Nat} {f : Flight} {r : State × List LaneAcc} (h : Due s id f)
    (hw : isLaneWrite f = true)
    (hr : performLanes f (keyCtx s f.owner) f.lanes s = r) (ho : OnlyMemory s r.1) :
    exec (.storePerformed id) s = .next (finishWrite r.1 { f with sent := true, lanes := r.2 }) := by
  show execStorePerformed id s = _
  unfold execStorePerformed isWrite
  rw [h.flight]
  dsimp only
  rw [hw, h.free, h.fresh, hr, ho.flightAwaits, flightAwaits_due h]
  rfl

/-- Lanes that each do one thing to memory and stay as they are do it in turn. -/
theorem performLanes_foldl {f : Flight} {ctx : Nat} {step : State → LaneAcc → State} (ho : ∀ s a, OnlyMemory s (step s a))
    (l : List LaneAcc) (s : State) (hl : ∀ a ∈ l, ∀ t, OnlyMemory s t → performLane f ctx t a = (step t a, a)) :
    performLanes f ctx l s = (l.foldl step s, l) := by
  induction l generalizing s with
  | nil => rfl
  | cons a l ih =>
    have ha := hl a (List.mem_cons_self ..) s (.refl s)
    have hrest := ih (step s a) fun b hb t ht => hl b (List.mem_cons_of_mem _ hb) t ((ho s a).trans ht)
    rw [performLanes, ha]
    dsimp only
    rw [hrest]
    rfl

/-- A lane of a write that lies here, may be written and has no copy elsewhere. -/
structure PlainLane (s : State) (ctx : Nat) (t : Target) : Prop where
  here : isRemote t = false
  may : mayWrite s ctx t = true
  single : t.dup = none

theorem PlainLane.of_onlyMemory {s t : State} {ctx : Nat} {x : Target} (h : PlainLane s ctx x)
    (ho : OnlyMemory s t) : PlainLane t ctx x :=
  ⟨h.here, (ho.mayWrite ctx x).trans h.may, h.single⟩

/-- Such a lane's bytes are stored here and sent nowhere. -/
theorem sendDup_laneStore_plain {s : State} {ctx : Nat} {t : Target} (h : PlainLane s ctx t) (f : Flight) (lane : Nat)
    (bs cs : List Byte) :
    sendDup (laneStore s ctx t bs) f ctx lane t cs = storeTo s t bs := by
  unfold sendDup laneStore
  rw [h.single, h.may]
  rfl

theorem plainLane_due {s : State} {id : Nat} {f : Flight} (h : Due s id f) (hw : Writable s f (·.tgt)) {a : LaneAcc}
    (ha : a ∈ f.lanes) :
    PlainLane s (keyCtx s f.owner) a.tgt :=
  ⟨(h.here a ha).1, (hw a ha).1, (hw a ha).2⟩

/-- Each lane's bytes stored at its target, in order. -/
def storeLanes (n : Nat) (l : List LaneAcc) (s : State) : State := l.foldl (fun x a => storeTo x a.tgt (valBytes n a.data)) s

theorem performLanes_store {s : State} {id : Nat} {f : Flight} {n : Nat} (h : Due s id f) (hw : Writable s f (·.tgt))
    (hk : f.kind = .store n) :
    performLanes f (keyCtx s f.owner) f.lanes s = (storeLanes n f.lanes s, f.lanes) := by
  refine performLanes_foldl (fun s a => .storeTo s a.tgt _) f.lanes s fun a ha t ht => ?_
  have hp := (plainLane_due h hw ha).of_onlyMemory ht
  have hn : flightBytes f = n := by unfold flightBytes; rw [hk]
  unfold performLane
  dsimp only
  rw [hk]
  dsimp only
  rw [hp.here, hn, if_neg Bool.false_ne_true, sendDup_laneStore_plain hp]

theorem performLanes_stdesc {s : State} {id : Nat} {f : Flight} (h : Due s id f) (hk : f.kind = .stdesc) :
    performLanes f (keyCtx s f.owner) f.lanes s = (f.lanes.foldl (fun x a => setDesc x a.tgt.loc (BitVec.ofNat 16 a.data)) s,
        f.lanes) := by
  refine performLanes_foldl (fun s a => .setDesc s ..) f.lanes s fun a ha t ht => ?_
  unfold performLane
  dsimp only
  rw [hk]
  dsimp only
  rw [(h.here a ha).1, if_neg Bool.false_ne_true]

theorem performLanes_arrive {s : State} {id : Nat} {f : Flight} {c a} (h : Due s id f) (hw : Writable s f (·.tgt))
    (hk : f.kind = .arrive c)
    (hl : f.lanes = [a]) (hp : poisoned s a.tgt.loc 9 = false) :
    performLanes f (keyCtx s f.owner) f.lanes s = (arriveAt s a.tgt.loc a.data, [a]) := by
  have hm := (plainLane_due h hw (a := a) (by rw [hl]; exact List.mem_singleton_self a)).may
  rw [hl, performLanes, performLanes]
  unfold performLane
  dsimp only
  rw [hk]
  dsimp only
  rw [hp, hm, if_neg Bool.false_ne_true, if_pos rfl]

theorem atomicLanes_onlyMemory (op n : Nat) (l : List LaneAcc) (s : State) : OnlyMemory s (atomicLanes op n l s).1 := by
  induction l generalizing s with
  | nil => exact .refl s
  | cons a l ih => exact (OnlyMemory.storeTo ..).trans (ih _)

/-- What the lanes of an atomic leave: memory as reading and writing them in order does, and in each lane what it read. -/
theorem performLanes_atomic {f : Flight} {ctx op n : Nat} {seqs : List Nat} {ret : Bool} (hk : f.kind = .atomic op n seqs ret)
    (l : List LaneAcc) (s : State)
    (hl : ∀ a ∈ l, PlainLane s ctx a.tgt ∧ poisoned s a.tgt.loc n = false ∧ a.bad = false) :
    ∃ l', performLanes f ctx l s = ((atomicLanes op n l s).1, l') ∧ (l'.map fun a => (a.lane, a.data)) =
        (atomicLanes op n l s).2 ∧
      l'.map (·.tgt) = l.map (·.tgt) ∧ ∀ a ∈ l', a.bad = false := by
  induction l generalizing s with
  | nil => exact ⟨[], rfl, rfl, rfl, nofun⟩
  | cons a l ih =>
    obtain ⟨hp, hs, hb⟩ := hl a (List.mem_cons_self ..)
    have hn : flightBytes f = n := by unfold flightBytes; rw [hk]
    have ha : performLane f ctx s a = (storeTo s a.tgt (valBytes n (atomicNew op (8 * n) (seenVal s a.tgt n) a.data a.swap)),
        { a with data := seenVal s a.tgt n }) := by
      unfold performLane
      dsimp only
      rw [hk]
      dsimp only
      rw [hp.here, hn, hs, if_neg Bool.false_ne_true, if_neg Bool.false_ne_true, sendDup_laneStore_plain hp]
    have ho := OnlyMemory.storeTo s a.tgt (valBytes n (atomicNew op (8 * n) (seenVal s a.tgt n) a.data a.swap))
    obtain ⟨l', hr, hv, ht, hg⟩ := ih _ fun b hb =>
      let ⟨hp', hs', hb'⟩ := hl b (List.mem_cons_of_mem _ hb)
      ⟨hp'.of_onlyMemory ho, ho.poisoned_false hs', hb'⟩
    refine ⟨{ a with data := seenVal s a.tgt n } :: l', ?_, ?_, ?_, ?_⟩
    · rw [performLanes, ha]
      dsimp only
      rw [hr]
      rfl
    · rw [List.map_cons, hv]; rfl
    · rw [List.map_cons, ht]; rfl
    · exact List.forall_mem_cons.mpr ⟨hb, hg⟩

/-! What ends a write. -/

theorem spendToken_eq (v : Nat) (s : State) (c : Nat) : ∃ x, spendToken v s c = { s with tokens := x } := by
  unfold spendToken
  split
  · exact ⟨s.tokens, rfl⟩
  · exact ⟨_, rfl⟩

theorem spendEach_eq (s : State) (ctx : Nat) (ts : List Target) : ∃ x, spendEach s ctx ts = { s with tokens := x } := by
  unfold spendEach
  generalize List.map _ _ = l
  induction l generalizing s with
  | nil => exact ⟨s.tokens, rfl⟩
  | cons c l ih =>
    obtain ⟨x, hx⟩ := spendToken_eq (vdevOf ctx) s c
    obtain ⟨y, hy⟩ := ih { s with tokens := x }
    exact ⟨y, by rw [List.foldl_cons, hx, hy]⟩

theorem goneLanes_spendEach (s : State) (ctx : Nat) (ts : List Target) (f : Flight) : goneLanes
    (spendEach s ctx ts) f = goneLanes s f := by
  obtain ⟨x, hx⟩ := spendEach_eq s ctx ts
  rw [hx]
  rfl

section

variable {s : State} {f : Flight} (hr : (sliceAt s f.owner).rollback = false) (hb : f.lanes.filter (fun a => a.bad) = [])

include hr hb

theorem finishWrite_counts (hk : (∃ n, f.kind = .store n) ∨ f.kind = .stdesc ∨ f.kind = .arrive false) :
    finishWrite s f = ended s f (f.lanes.map (·.tgt)) { sliceAt s f.owner with nst := (sliceAt s f.owner).nst - 1 } := by
  rcases hk with ⟨n, hk⟩ | hk | hk <;>
  · unfold finishWrite
    rw [hk]
    dsimp only
    rw [hb, finishRollback_putSlice]
    · rfl
    · exact hr

theorem finishWrite_arrive (hk : f.kind = .arrive true) :
    finishWrite s f = ended s f (f.lanes.map (·.tgt)) { sliceAt s f.owner with
      c := { (sliceAt s f.owner).c with wait := if (sliceAt s f.owner).c.wait = .arrive then .none else
          (sliceAt s f.owner).c.wait } } := by
  unfold finishWrite
  rw [hk]
  dsimp only
  rw [hb, finishRollback_putSlice]
  · rfl
  · exact hr

theorem finishWrite_atomic {op n seqs} (hk : f.kind = .atomic op n seqs false) :
    finishWrite s f = endedEach s f (f.lanes.map (·.tgt)) { sliceAt s f.owner with nst := (sliceAt s f.owner).nst - 1 } := by
  unfold finishWrite
  rw [hk]
  dsimp only
  rw [hb, finishRollback_putSlice]
  · rfl
  · exact hr

theorem finishWrite_atomic_ret {op n seqs} (hk : f.kind = .atomic op n seqs true) (hg : goneLanes s f = []) :
    finishWrite s f = endedEach s f (f.lanes.map (·.tgt))
      { fillEntries (sliceAt s f.owner) seqs (entryOf (f.lanes.map fun a => (a.lane, a.data))) with
        nld := (sliceAt s f.owner).nld - 1, nst := (sliceAt s f.owner).nst - 1 } := by
  have hs : flightSeqs f = seqs := by unfold flightSeqs; rw [hk]
  have hg' : goneLanes (spendEach (dropFlight s f.id) (keyCtx s f.owner) (f.lanes.map (·.tgt))) f = [] := by
    rw [goneLanes_spendEach]; exact hg
  unfold finishWrite
  rw [hk]
  dsimp only
  rw [hb, fillReach_good hg', hs, finishRollback_putSlice]
  · rfl
  · exact hr

end

theorem filter_bad_nil {l : List LaneAcc} (h : ∀ a ∈ l, a.bad = false) : l.filter (fun a => a.bad) = [] :=
  List.filter_eq_nil_iff.mpr fun a ha => by rw [h a ha]; decide

/-- Every lane of a write that may be written is in reach. -/
theorem goneLanes_writable {s : State} {f : Flight} (h : ∀ a ∈ f.lanes, mayWrite s
    (keyCtx s f.owner) a.tgt = true) : goneLanes s f = [] := by
  unfold goneLanes
  split
  · rfl
  · refine List.filter_eq_nil_iff.mpr fun a ha => ?_
    unfold laneGone
    rw [h a ha]
    decide

theorem storeLanes_onlyMemory (n : Nat) (l : List LaneAcc) (s : State) : OnlyMemory s (storeLanes n l s) :=
  OnlyMemory.foldl (fun s (a : LaneAcc) => .storeTo s a.tgt (valBytes n a.data)) l s

/-- A write that only counts in ST ends once its lanes are done. -/
theorem exec_counts_due {s t : State} {id : Nat} {f : Flight} (h : Due s id f)
    (hk : (∃ n, f.kind = .store n) ∨ f.kind = .stdesc ∨ f.kind = .arrive false)
    (hr : performLanes f (keyCtx s f.owner) f.lanes s = (t, f.lanes)) (ho : OnlyMemory s t) :
    exec (.storePerformed id) s = .next (ended t f (f.lanes.map (·.tgt))
      { sliceAt s f.owner with nst := (sliceAt s f.owner).nst - 1 }) := by
  have hw : isLaneWrite f = true := by
    unfold isLaneWrite
    rcases hk with ⟨n, hk⟩ | hk | hk <;> rw [hk]
  have hroll : (sliceAt t f.owner).rollback = false := (congrArg Slice.rollback (ho.sliceAt _)).trans h.settled
  rw [storePerformed_due h hw hr ho, finishWrite_counts (f := { f with sent := true }) hroll (filter_bad_nil h.good) hk]
  dsimp only
  rw [ho.sliceAt]
  rfl

/-- A store that is due stores its lanes' bytes; ST falls. -/
theorem exec_store_due {s : State} {id : Nat} {f : Flight} {n : Nat} (h : Due s id f) (hw : Writable s f (·.tgt))
    (hk : f.kind = .store n) :
    exec (.storePerformed id) s = .next (ended (storeLanes n f.lanes s) f (f.lanes.map (·.tgt))
      { sliceAt s f.owner with nst := (sliceAt s f.owner).nst - 1 }) :=
  exec_counts_due h (.inl ⟨n, hk⟩) (performLanes_store h hw hk) (storeLanes_onlyMemory n f.lanes s)

/-- An atomic that is due reads and writes lane by lane. -/
theorem exec_atomic_due {s : State} {id : Nat} {f : Flight} {op n seqs ret} (h : Due s id f) (hw : Writable s f (·.tgt))
    (hk : f.kind = .atomic op n seqs ret) (hp : ∀ a ∈ f.lanes, poisoned s a.tgt.loc n = false) :
    exec (.storePerformed id) s = .next (endedEach (atomicLanes op n f.lanes s).1 f (f.lanes.map (·.tgt))
      (if ret then { fillEntries (sliceAt s f.owner) seqs (entryOf (atomicLanes op n f.lanes s).2) with
          nld := (sliceAt s f.owner).nld - 1, nst := (sliceAt s f.owner).nst - 1 }
        else { sliceAt s f.owner with nst := (sliceAt s f.owner).nst - 1 })) := by
  obtain ⟨l', hr, hv, ht, hb⟩ := performLanes_atomic (ctx := keyCtx s f.owner) hk f.lanes s fun a ha => ⟨plainLane_due h hw ha,
      hp a ha, h.good a ha⟩
  have ho := atomicLanes_onlyMemory op n f.lanes s
  have hroll : (sliceAt (atomicLanes op n f.lanes s).1 f.owner).rollback = false := (congrArg Slice.rollback
      (ho.sliceAt _)).trans h.settled
  have hmay : ∀ a ∈ l', mayWrite s (keyCtx s f.owner) a.tgt = true := fun a ha => by
    obtain ⟨b, hb, he⟩ := List.mem_map.mp (ht ▸ List.mem_map_of_mem (f := LaneAcc.tgt) ha)
    exact he ▸ (hw b hb).1
  rw [storePerformed_due h (by unfold isLaneWrite; rw [hk]) hr ho]
  cases ret with
  | false =>
    rw [finishWrite_atomic (f := { f with sent := true, lanes := l' }) hroll (filter_bad_nil hb) hk]
    dsimp only
    rw [ht, ho.sliceAt]
    rfl
  | true =>
    have hg : goneLanes (atomicLanes op n f.lanes s).1 { f with sent := true, lanes := l' } = [] := by
      rw [ho.goneLanes]
      exact goneLanes_writable hmay
    rw [finishWrite_atomic_ret (f := { f with sent := true, lanes := l' }) hroll (filter_bad_nil hb) hk hg]
    dsimp only
    rw [ht, hv, ho.sliceAt]
    rfl

/-- Settles O40: each kind of write performs its lanes here and ends. -/
theorem storesPerform : Obligations.StoresPerform := by
  intro s id f h hw
  dsimp only
  refine ⟨fun n hk => exec_store_due h hw hk, fun hk => ?desc, fun op n seqs ret hk hp => exec_atomic_due h hw hk hp,
      fun c a hk hl hp => ?arrive⟩
  case desc =>
    exact exec_counts_due h (.inr (.inl hk)) (performLanes_stdesc h hk)
      (OnlyMemory.foldl (f := fun x a => setDesc x a.tgt.loc (BitVec.ofNat 16 a.data)) (fun s a => .setDesc s ..) f.lanes s)
  case arrive =>
    have ho := OnlyMemory.arriveAt s a.tgt.loc a.data
    have hb : [a].filter (fun a => a.bad) = [] := filter_bad_nil (hl ▸ h.good)
    have hroll := (congrArg Slice.rollback (ho.sliceAt f.owner)).trans h.settled
    have hperf := performLanes_arrive h hw hk hl hp
    cases c with
    | true =>
      rw [storePerformed_due h (by unfold isLaneWrite; rw [hk]) hperf ho,
        finishWrite_arrive (f := { f with sent := true, lanes := [a] }) hroll hb hk]
      dsimp only
      rw [ho.sliceAt, hl]
      rfl
    | false => exact exec_counts_due h (.inr (.inr hk)) (hl ▸ hperf) ho

end Sys2Proof.Proofs
end

section
/-! PROOFS. Lane copies are performed. -/

namespace Sys2Proof.Proofs

open Sys2Proof.Machine Sys2Proof.Safety Sys2Proof.Laws

/-- A lane of a copy of n bytes with what it has read. -/
def readLane (s : State) (f : Flight) (n : Nat) (a : LaneAcc) : LaneAcc :=
  { a with data := seenVal (withOlds f.olds s) a.tgt n, bad := false }

theorem flightBytes_acp {f : Flight} {n stat arv} (hk : f.kind = .acp n stat arv) : flightBytes f = n := by
  unfold flightBytes; rw [hk]

theorem copyLane_here {s : State} {f : Flight} {n stat arv a} (hk : f.kind = .acp n stat arv) (hh : isRemote a.tgt = false)
    (hm : mayWrite s (keyCtx s f.owner) a.tgt = true) (hp : poisoned s a.tgt.loc n = false) : copyLane s f a = readLane s f n a := by
  unfold copyLane laneGone
  rw [hh, hm, flightBytes_acp hk, hp]
  rfl

/-- What the lanes of a copy write, each its source's bytes as they were at the start. -/
def copyLanes (s0 : State) (f : Flight) (n : Nat) (l : List LaneAcc) (s : State) : State :=
  l.foldl (fun x a => storeTo x a.dst (valBytes n (seenVal (withOlds f.olds s0) a.tgt n))) s

theorem copyLanes_onlyMemory (s0 : State) (f : Flight) (n : Nat) (l : List LaneAcc) (s : State) : OnlyMemory s (copyLanes s0 f n l s) :=
  .foldl (fun s (a : LaneAcc) => .storeTo s a.dst (valBytes n (seenVal (withOlds f.olds s0) a.tgt n))) l s

/-- Writing the lanes that have been read stores their bytes here. -/
theorem writeCopies_here {s0 : State} {f g : Flight} {n stat arv ctx} (hk : g.kind = .acp n stat arv) (l : List LaneAcc)
    (hg : g.lanes = l.map (readLane s0 f n)) (s : State) (hl : ∀ a ∈ l, PlainLane s ctx a.dst) :
    writeCopies s g ctx = copyLanes s0 f n l s := by
  unfold writeCopies copyLanes
  rw [hg, List.foldl_map, flightBytes_acp hk]
  clear hg
  induction l generalizing s with
  | nil => rfl
  | cons a l ih =>
    have hp := hl a (List.mem_cons_self ..)
    rw [List.foldl_cons, List.foldl_cons, ← ih _ fun b hb => (hl b (List.mem_cons_of_mem _ hb)).of_onlyMemory (.storeTo ..)]
    congr 1
    show (if false = true then s else if isRemote a.dst = true then _ else _) = _
    rw [if_neg Bool.false_ne_true, hp.here, if_neg Bool.false_ne_true]
    exact sendDup_laneStore_plain hp g a.lane _ _

theorem filter_map_putFlight (l : List Flight) (g : Flight) :
    (l.map fun x => if x.id = g.id then g else x).filter (fun x => x.id != g.id) = l.filter fun x => x.id != g.id := by
  induction l with
  | nil => rfl
  | cons x l ih =>
    rw [List.map_cons, List.filter_cons, List.filter_cons, ih]
    by_cases h : x.id = g.id
    · simp [h]
    · simp [h]

/-- An access that is replaced and then leaves has left. -/
theorem dropFlight_putFlight (s : State) (g : Flight) : dropFlight (putFlight s g) g.id = dropFlight s g.id := by
  unfold dropFlight putFlight
  dsimp only
  rw [filter_map_putFlight]

/-- The slice after the status words of a copy that has read good data: in its registers, and in those of the checkpoint. -/
def copyWords (l : List LaneAcc) (stat n : Nat) (sl : Slice) : Slice := l.foldl (fun x a => setReg true x stat a.lane (2 ^ 31 + n)) sl

theorem statWord_readLane {s : State} {f g : Flight} {n stat arv a} (hk : g.kind = .acp n stat arv) :
    statWord g (readLane s f n a) = 2 ^ 31 + n := by
  unfold statWord
  rw [flightBytes_acp hk]
  rfl

theorem mayWrite_spend (s : State) (c : Nat) (ts : List Target) (k : Nat) (sl : Slice) (x : Nat) (i : Nat) (t : Target) :
    mayWrite (putSlice (spendFor (dropFlight s i) c ts) k sl) x t = mayWrite s x t := by
  rw [spendFor_eq]; rfl

theorem keyCtx_spend (s : State) (c : Nat) (ts : List Target) (k : Nat) (sl : Slice) (x : Nat) (i : Nat) :
    keyCtx (putSlice (spendFor (dropFlight s i) c ts) k sl) x = keyCtx s x := by
  rw [spendFor_eq]; rfl

/-- The slice after a copy of good data. -/
def copiedEnd (f : Flight) (stat n : Nat) (was : Slice) : Slice :=
  let sl := copyWords f.lanes stat n was
  { sl with
    check := sl.check.map fun c =>
      let x := copyWords f.lanes stat n { sl with ar := c.ar, arInfo := c.arInfo }
      { c with ar := x.ar, arInfo := x.arInfo }
    ncp := sl.ncp - 1
    statPend := sl.statPend.erase (stat, maskOf fun l => f.lanes.any fun a => a.lane = l) }

/-- A copy whose lanes have all read good data ends with its status words. -/
theorem finishCopy_read {s0 s : State} {f g : Flight} {n stat arv} (hk : g.kind = .acp n stat arv) (hi : g.id = f.id) (ho : g.owner = f.owner)
    (hg : g.lanes = f.lanes.map (readLane s0 f n)) :
    finishCopy (putFlight s g) g stat arv =
      let t := ended s f (f.lanes.map (·.tgt) ++ f.lanes.map (·.dst)) (copiedEnd f stat n (sliceAt s f.owner))
      match arv with
      | some b => if mayWrite s (keyCtx s f.owner) b then arriveAt t b.loc 1 else t
      | none => t := by
  have htgt : (f.lanes.map (readLane s0 f n)).map (·.tgt) = f.lanes.map (·.tgt) := by rw [List.map_map]; rfl
  have hdst : (f.lanes.map (readLane s0 f n)).map (·.dst) = f.lanes.map (·.dst) := by rw [List.map_map]; rfl
  have hwords : ∀ sl, (f.lanes.map (readLane s0 f n)).foldl (fun sl a => setReg true sl stat a.lane (statWord g a)) sl = copyWords f.lanes stat n sl := by
    intro sl
    rw [List.foldl_map]
    simp only [statWord_readLane hk]
    rfl
  have hany : ∀ l, ((f.lanes.map (readLane s0 f n)).any fun a => a.lane = l) = f.lanes.any fun a => a.lane = l := by
    intro l; rw [List.any_map]; rfl
  unfold finishCopy
  dsimp only
  simp only [hg, htgt, hdst, hwords, hany]
  rw [← spendFor_dropFlight, dropFlight_putFlight, ho, hi]
  cases arv with
  | none => rfl
  | some b =>
    dsimp only
    rw [mayWrite_spend, keyCtx_spend]
    rfl

/-- Settles O41: the lanes read, write and end in one event. -/
theorem copiesComplete : Obligations.CopiesComplete := by
  intro s id f n stat arv h hk hw har hcm hsrc harv
  have hlanes : f.lanes.map (copyLane s f) = f.lanes.map (readLane s f n) :=
    List.map_congr_left fun a ha => copyLane_here hk (h.here a ha).1 (hsrc a ha).1 (hsrc a ha).2
  have hfar : (f.lanes.any fun a => isRemote a.tgt && a.swap == 0) = false :=
    List.any_eq_false.mpr fun a ha => by rw [(h.here a ha).1]; simp
  have ho := copyLanes_onlyMemory s f n f.lanes s
  have hwrite : writeCopies s { f with sent := true, lanes := f.lanes.map (readLane s f n) } (keyCtx s f.owner) = copyLanes s f n f.lanes s :=
    writeCopies_here (g := { f with sent := true, lanes := f.lanes.map (readLane s f n) }) hk f.lanes rfl s
      fun a ha => ⟨(h.here a ha).2, (hw a ha).1, (hw a ha).2⟩
  have hexec : exec (.acpComplete id) s = .next (finishCopy (putFlight (copyLanes s f n f.lanes s)
      { f with sent := true, lanes := f.lanes.map (readLane s f n) }) { f with sent := true, lanes := f.lanes.map (readLane s f n) } stat arv) := by
    show execAcpComplete id s = _
    unfold execAcpComplete
    rw [h.flight]
    dsimp only
    have haw : ∀ g, flightAwaits (putFlight (copyLanes s f n f.lanes s) g) id = false := fun g =>
      (ho.flightAwaits id).trans (flightAwaits_due h)
    split
    · next _ _ _ he =>
      cases hk.symm.trans he
      rw [h.free, har, hfar, h.fresh, hcm, hlanes, hwrite, haw]
      rfl
    · next hno => exact absurd hk (hno n stat arv)
  dsimp only
  rw [hexec, finishCopy_read (f := f) (g := { f with sent := true, lanes := f.lanes.map (readLane s f n) }) hk rfl rfl rfl]
  dsimp only
  rw [ho.sliceAt, ho.keyCtx]
  cases arv with
  | none => rfl
  | some b =>
    dsimp only
    rw [ho.mayWrite, harv b rfl]
    rfl

end Sys2Proof.Proofs
end

section
/-! PROOFS. The wakes of WAITADDR and SLEEPUNTIL. -/

namespace Sys2Proof.Proofs

open Sys2Proof.Machine Sys2Proof.Safety Sys2Proof.Laws

/-- No address check fails with the code of an uncorrectable error. -/
theorem checkAddr_bad_code {s : State} {q : AccSpec} {refused : Nat → Bool} {a c : Nat} (hq : q.space = .any)
    (h : checkAddr s q refused a = .bad c) : c ≠ codeUNCORRECTABLE := by
  have hcode : c ∈ [codeNONCANONICAL, codeMISALIGNED, codeSRAM_RANGE, codeAPERTURE, codeSRAM_ACCESS, codePAGE_FAULT] := by
    unfold checkAddr at h
    rw [hq] at h
    dsimp only at h
    split at h
    · cases h; simp
    split at h
    · cases h; simp
    split at h
    · cases h; simp
    · split at h
      · cases h; simp
      split at h
      · cases h; simp
      · split at h <;> cases h
    · split at h
      · split at h
        · cases h; simp
        · cases h
      · split at h
        · cases h; simp
        · split at h
          · split at h
            · cases h; simp
            · cases h
          · cases h
  rintro rfl
  exact absurd hcode (by decide)

/-- Whether an access has come to its memory depends on no slice but for its releasing FENCE. -/
theorem atMemory_putSlice {s : State} {k : Nat} {now : Slice} (h : now.relMark = (sliceAt s k).relMark) (f : Flight) :
    atMemory (putSlice s k now) f = atMemory s f := by
  have hm : ∀ j, (sliceAt (putSlice s k now) j).relMark = (sliceAt s j).relMark := fun j => by
    by_cases hj : j = k
    · rw [hj, sliceAt_putSlice_self, h]
    · rw [sliceAt_putSlice_ne _ _ _ hj]
  unfold atMemory
  simp only [hm]
  rfl

theorem served_putSlice {s : State} {k : Nat} {now : Slice} (h : now.relMark = (sliceAt s k).relMark) (v : Nat) (t : Target) :
    served (putSlice s k now) v t = served s v t := by
  unfold served tokenWaits
  simp only [atMemory_putSlice h]
  rfl

/-- A WAITADDR that no miss holds goes by the check of its address. -/
theorem exec_waitaddrWake {s : State} {k : Nat} {e : Env} {t0 : Target} {n x : Nat} {acq : Bool} {codes : List Nat}
    (hh : (sliceAt s k).held = false) (hw : (sliceAt s k).a.wait = .addr t0 n x acq codes) (he : envOf s k true = some e)
    (hp : ((sliceAt s k).park.all fun p => p.refused) = true) :
    exec (.waitaddrWake k) s = .next (match checkAddr s (laneSpec e n false false) (refusedOf (sliceAt s k)) t0.va with
      | .miss page => parkSlice s k page false
      | .stall => s
      | .bad c => failWatch s k ⟨c, 0, BitVec.ofNat 64 t0.va, lowMask (actLanes (sliceAt s k).a)⟩
      | .ok t =>
        let sl := { sliceAt s k with park := none, a := { (sliceAt s k).a with wait := .addr t n x acq codes } }
        let s := putSlice s k sl
        if isRemote t then
          (if s.fabric.reqs.any (fun r => r.owner == .waitaddr k) || watchLate s k t n then s
           else sendRemote s (.waitaddr k) e.ctx (remoteDest t) 0 (readMsg (ordCode acq false) t.loc n (isClear t)))
        else if !served s (vdevOf e.ctx) t then s
        else match probe s k t n x with
          | .wait => s
          | .error => failWatch (spendFor s e.ctx [t]) k
              ⟨codeUNCORRECTABLE, 0, BitVec.ofNat 64 t.va, lowMask (actLanes sl.a)⟩
          | .go => let s := spendFor s e.ctx [t]
              yieldTeam (putSlice s k (wokenSlice s e (actLanes sl.a) codes sl)) (k / 32)) := by
  have hpark : ((sliceAt s k).park.any fun p => !p.refused) = false := by
    cases hpk : (sliceAt s k).park with
    | none => rfl
    | some p => rw [hpk] at hp; simpa using hp
  show execWaitaddrWake k s = _
  unfold execWaitaddrWake
  dsimp only
  rw [hw, he]
  dsimp only
  rw [hh, hpark, if_neg (by decide)] <;> rfl

/-- Settles O42: what the address check gives decides, then what the word or the barrier holds. -/
theorem waitsEnd : Obligations.WaitsEnd := by
  intro s k hh
  dsimp only
  refine ⟨fun e t0 n x acq codes hw he hp => ⟨fun page hc => (exec_waitaddrWake hh hw he hp).trans (by rw [hc]),
      fun c hc => ?bad, fun t hc hr hs hg => ?go⟩,
    fun e clk l codes hw hclk he => ?slept, fun clk b l codes e hw hclk he => ⟨fun c hc => ?badBar, fun t hc ha ht hpo => ?bar⟩⟩
  case bad =>
    rw [exec_waitaddrWake hh hw he hp, hc]
    dsimp only [failWatch]
    rw [if_neg (checkAddr_bad_code rfl hc)]
  case go =>
    rw [exec_waitaddrWake hh hw he hp, hc]
    dsimp only
    rw [hr, if_neg Bool.false_ne_true, served_putSlice, hs, if_neg (by decide), hg]
    · rfl
    · rfl
  case slept =>
    show execSleepuntilWake k s = _
    unfold execSleepuntilWake
    dsimp only
    rw [hw, he]
    dsimp only
    rw [hh, if_neg (by simpa using hclk)]
  case badBar =>
    show execSleepuntilWake k s = _
    unfold execSleepuntilWake
    dsimp only
    rw [hw, he]
    dsimp only
    rw [hh, if_neg (by simpa using hclk), hc]
    dsimp only [failNow]
    cases (sliceAt s k).check <;> rfl
  case bar =>
    show execSleepuntilWake k s = _
    unfold execSleepuntilWake
    dsimp only
    rw [hw, he]
    dsimp only
    rw [hh, if_neg (by simpa using hclk), hc]
    dsimp only
    rw [ha, ht, hpo]
    cases promiseKept s b t.loc <;> rfl

end Sys2Proof.Proofs
end

section
/-! PROOFS. The frame of arithmetic: a pop of the access stream also moves what it has seen of FPMODE (R70). -/

namespace Sys2Proof.Proofs

open Sys2Proof.Machine Sys2Proof.Safety Sys2Proof.Laws

/-- A slice whose access stream is to issue, with one SDQ entry that was pushed after a write of FPMODE. -/
def oneQueued : State :=
  let s := State.reset.withFetchWord 32 0x1C_03_07_00
  { putSlice s 0 { sliceAt s 0 with sdq := [⟨⟨1, 2, 3, 4⟩, 0, 1⟩] } with issuer := .access 0 }

/-- The environment of its issue. -/
def oneQueuedEnv : Env := ⟨0, true, false, 128, 64, 0, 0, 0, none, 0⟩

theorem oneQueued_solo : Solo oneQueued 0 true oneQueuedEnv :=
  ⟨rfl, by decide +kernel, nofun, nofun, nofun⟩

/-- The slice once the entry has been popped. -/
def oneQueuedPopped : Slice := { seeMode ⟨⟨1, 2, 3, 4⟩, 0, 1⟩ (sliceAt oneQueued 0) with sdq := [] }

/-- IADD of the entry and of register 1 into register 0 may be read. -/
theorem oneQueued_ready : AluReady int3 0 0xA8 1 oneQueuedEnv (sliceAt oneQueued 0) [⟨1, 2, 3, 4⟩, qfill 0] oneQueuedPopped where
  stream := rfl
  pred := nofun
  mode := nofun
  legal := by decide +kernel
  free := by decide +kernel
  good := by decide +kernel
  read := by decide +kernel

/-- The pop shows the stream the write of FPMODE that came before the push. -/
theorem oneQueued_modeSeen : (sliceAt oneQueued 0).modeSeen = 0 ∧
    ∃ t, exec (.iadd 0 0xA8 1) oneQueued = .next t ∧ (sliceAt t 0).modeSeen = 1 := by
  refine ⟨by decide +kernel, _, runAlu_done (d := 0) (a := 0xA8) (b := 1) _ oneQueued_solo oneQueued_ready, by decide +kernel⟩

/-- Refutes O43: an access-stream IADD that pops SDQ sets the stream's last seen write of FPMODE (`modeSeen`, R70), which the
frame asks to stay as it was. -/
theorem not_arithmeticFrame : ¬ Obligations.ArithmeticFrame := by
  intro h
  have hmem : ((.iadd : Code → Code → Code → Instr), int3) ∈ aluTable := List.mem_append_left _ (List.mem_append_left _
    (List.mem_append_left _ (List.mem_cons_self ..)))
  obtain ⟨t, ht, -, hframe⟩ := h _ hmem oneQueued 0 true oneQueuedEnv 0 0xA8 1 _ _ oneQueued_solo oneQueued_ready
  obtain ⟨hwas, u, hu, hnow⟩ := oneQueued_modeSeen
  cases ht.symm.trans hu
  have hrest := congrArg Slice.modeSeen hframe.rest
  dsimp only at hrest
  rw [hwas, hnow] at hrest
  exact absurd hrest (by decide)

end Sys2Proof.Proofs
end

section
/-! PROOFS. The frame of performed accesses: SRAM has no key blocks, so that the blocks "that no lane touches" include those of a
store to SRAM. -/

namespace Sys2Proof.Proofs

open Sys2Proof.Machine Sys2Proof.Safety Sys2Proof.Laws

/-- Byte 0x40 of core 0's scratchpad, as a store of the slice's team reaches it. -/
def scratchTarget : Target := ⟨.sram, sramAddr 0 0x40, none, 0, Config.aliasBase + 0x40⟩

/-- A store of 7 in 4 bytes there, by lane 0 of slice 0. -/
def scratchStore : Flight := ⟨0, 0, .store 4, [⟨0, scratchTarget, scratchTarget, 7, 0, false⟩], false, false, false, 0, 0, []⟩

/-- A running team with that store in flight. -/
def storingScratch : State := { State.reset.withFetchWord 32 0x1C_03_07_00 with flights := [scratchStore] }

theorem storingScratch_due : Due storingScratch 0 scratchStore where
  flight := rfl
  free := by decide +kernel
  here := by decide +kernel
  fresh := rfl
  good := by decide +kernel
  settled := by decide +kernel

theorem storingScratch_writable : Writable storingScratch scratchStore (·.tgt) := by unfold Writable; decide +kernel

/-- The store changes a byte, although its lane names no key block. -/
theorem storingScratch_changes : keyBlocks scratchTarget.loc 4 = [] ∧ readByte storingScratch.mem scratchTarget.loc = 0 ∧
    readByte (ended (storeLanes 4 scratchStore.lanes storingScratch) scratchStore (scratchStore.lanes.map (·.tgt))
      { sliceAt storingScratch 0 with nst := (sliceAt storingScratch 0).nst - 1 }).mem scratchTarget.loc = 7 := by
  decide +kernel

/-- Refutes O44: a store to SRAM, where no block has a key id (`keyBlocks` is empty, R356), changes the byte that it stores, which
the first clause of the frame asks to stay as it was. -/
theorem not_memoryFrame : ¬ Obligations.MemoryFrame := by
  intro h
  obtain ⟨hstore, -⟩ := h storingScratch 0 scratchStore storingScratch_due
  obtain ⟨t, ht, -, -, ⟨hblocks, -⟩, -⟩ := hstore 4 rfl storingScratch_writable
  have hend := Host.Outcome.next.inj (ht.symm.trans (exec_store_due storingScratch_due storingScratch_writable (n := 4) rfl))
  obtain ⟨hnone, hwas, hnow⟩ := storingScratch_changes
  have hkept := hblocks scratchTarget.loc fun x hx => by
    rw [List.mem_singleton.mp hx, hnone]
    exact List.not_mem_nil
  rw [hend] at hkept
  exact absurd (hnow.symm.trans (hkept.trans hwas)) (by decide)

end Sys2Proof.Proofs
end

section
/-! PROOFS. A precise fault: the slice that takes it, and the record that it leaves (R322, R324). -/

namespace Sys2Proof.Proofs

open Sys2Proof.Machine Sys2Proof.Safety Sys2Proof.Laws

/-! A slice that is held. -/

theorem holdAt_eq (sl : Slice) : holdAt sl = { sl with held := true, stop := (holdAt sl).stop } := by
  unfold holdAt
  by_cases h : sl.held = true
  · rw [if_pos h]
    obtain ⟨⟩ := sl
    cases h
    rfl
  · rw [if_neg h]

theorem holdAt_held (sl : Slice) : (holdAt sl).held = true := by rw [holdAt_eq]

/-- A slice that is held stays where it stopped. -/
theorem holdAt_of_held {sl : Slice} (h : sl.held = true) : holdAt sl = sl := by unfold holdAt; rw [if_pos h]

/-- Where a slice stops depends on no unit. -/
theorem holdAt_stop_unit (sl : Slice) (u : Nat) : (holdAt { sl with unit := u }).stop = (holdAt sl).stop := by
  unfold holdAt
  dsimp only
  split <;> rfl

/-! A slice that leaves its unit. -/

theorem setUnits_shape (s : State) (t u : Nat) (js : List Nat) : ∃ S, setUnits s t u js = { s with slices := S } := by
  unfold setUnits
  induction js generalizing s with
  | nil => exact ⟨_, rfl⟩
  | cons j js ih => exact ih (putSlice s (32 * t + j) _)

theorem putSlice_keeps {α : Type} (g : Slice → α) {s : State} {k : Nat} {x : Slice} (h : g x = g (sliceAt s k)) (j : Nat) :
    g (sliceAt (putSlice s k x) j) = g (sliceAt s j) := by
  by_cases hj : j = k
  · rw [hj, sliceAt_putSlice_self, h]
  · rw [sliceAt_putSlice_ne _ _ _ hj]

theorem setUnits_keeps {α : Type} (g : Slice → α) (hg : ∀ sl u, g { sl with unit := u } = g sl) (s : State) (t u : Nat)
    (js : List Nat) (j : Nat) :
    g (sliceAt (setUnits s t u js) j) = g (sliceAt s j) :=
  foldl_keeps (fun s => g (sliceAt s j)) _ (fun _ _ => putSlice_keeps g (hg ..) j) js s

/-- The state of a slice that leaves its unit, but for the team's list of mapped units. -/
def leftUnit (s : State) (k : Nat) (team : Team) : State :=
  let rest := (unitSlices s (k / 32) team (sliceAt s k).unit).filter fun j => j != k % 32
  let s := match rest.take 1 with
    | [] => s
    | m :: _ => setUnits s (k / 32) m rest
  putSlice s k { sliceAt s k with unit := k % 32 }

theorem leftUnit_shape (s : State) (k : Nat) (team : Team) : ∃ S, leftUnit s k team = { s with slices := S } := by
  unfold leftUnit
  dsimp only
  split
  · exact ⟨_, rfl⟩
  · next m _ _ =>
    obtain ⟨S, h⟩ := setUnits_shape s (k / 32) m _
    rw [h]
    exact ⟨_, rfl⟩

theorem leftUnit_keeps {α : Type} (g : Slice → α) (hg : ∀ sl u, g { sl with unit := u } = g sl) (s : State) (k : Nat)
    (team : Team) (j : Nat) :
    g (sliceAt (leftUnit s k team) j) = g (sliceAt s j) := by
  unfold leftUnit
  dsimp only
  refine (putSlice_keeps g (hg ..) j).trans ?_
  split
  · rfl
  · exact setUnits_keeps g hg ..

theorem leftUnit_self (s : State) (k : Nat) (team : Team) : sliceAt (leftUnit s k team) k = { sliceAt s k with unit :=
    k % 32 } := by
  have h := leftUnit_keeps (fun sl => { sl with unit := k % 32 }) (fun _ _ => rfl) s k team k
  have hu : (sliceAt (leftUnit s k team) k).unit = k % 32 := by
    unfold leftUnit
    dsimp only
    rw [sliceAt_putSlice_self]
  exact hu ▸ h

theorem leaveUnit_eq {s : State} {k : Nat} {team : Team} (ht : teamAt s (k / 32) = some team) :
    ∃ T, leaveUnit s k = { leftUnit s k team with teams := T } := by
  unfold leaveUnit
  dsimp only
  rw [ht]
  dsimp only
  split
  · exact ⟨_, rfl⟩
  · exact ⟨_, rfl⟩

/-- The slice after a fault of one of its streams (R322). -/
def faultedSlice (k : Nat) (acc : Bool) (was : Slice) : Slice :=
  let sl := { was with unit := k % 32 }
  { holdAt sl with
    park := if acc then none else sl.park
    parts := if acc then [] else sl.parts
    watch := if acc then none else sl.watch
    c := { sl.c with wait := if acc then stopWait sl.c.wait else .none }
    a := { sl.a with wait := if acc then .none else sl.a.wait } }

/-- The state after a fault, but for its record. -/
def faulted (s : State) (k : Nat) (acc : Bool) : State :=
  let x := putSlice (leaveUnit s k) k (faultedSlice k acc (sliceAt s k))
  let c := coreAt x (k / 32 / 16)
  if c.invoc && c.tteam == k / 32 % 16 then
    putCore x (k / 32 / 16) { c with theld := c.theld ||| BitVec.ofNat 32 (2 ^ (k % 32)) } else x

theorem sliceAt_leaveUnit_self {s : State} {k : Nat} {team : Team} (ht : teamAt s (k / 32) = some team) :
    sliceAt (leaveUnit s k) k = { sliceAt s k with unit := k % 32 } := by
  obtain ⟨T, hT⟩ := leaveUnit_eq ht
  rw [hT]
  exact leftUnit_self s k team

/-- A fault of a slice holds it and leaves its record (R322). -/
theorem takeFault_eq {s : State} {k : Nat} {acc : Bool} {f : FaultInfo} {team : Team} (hk : k < trapBase) (ht : teamAt s
    (k / 32) = some team) :
    takeFault s k acc f = submitRecord (faulted s k acc) team.ctx (k / 32 / 16) (sliceRecord (faulted s k acc) 1 k acc.toNat 0 f)
      (some ⟨k / 32, k % 32, 0, acc.toNat, f.faddr⟩) .none := by
  unfold takeFault
  rw [if_neg (Nat.not_le.mpr hk)]
  dsimp only
  rw [ht]
  dsimp only
  rw [sliceAt_leaveUnit_self ht]
  rfl

theorem sliceAt_faulted_self (s : State) (k : Nat) (acc : Bool) : sliceAt (faulted s k acc) k = faultedSlice k acc
    (sliceAt s k) := by
  unfold faulted
  dsimp only
  split
  · exact sliceAt_putSlice_self ..
  · exact sliceAt_putSlice_self ..

section

variable {s : State} {k : Nat} {team : Team} (ht : teamAt s (k / 32) = some team) (acc : Bool)

include ht

/-- What a fault changes before its record: slices, teams and the core. -/
theorem faulted_shape : ∃ S T C, faulted s k acc = { s with slices := S, teams := T, cores := C } ∧
    ∀ c, (coreAt (faulted s k acc) c).places = (coreAt s c).places := by
  obtain ⟨T, hT⟩ := leaveUnit_eq ht
  obtain ⟨S, hS⟩ := leftUnit_shape s k team
  unfold faulted
  dsimp only
  rw [hT, hS]
  split
  · refine ⟨_, _, _, rfl, fun c => ?_⟩
    by_cases hc : c = k / 32 / 16
    · rw [hc, coreAt_putCore_self]; rfl
    · rw [coreAt_putCore_ne _ _ _ hc]; rfl
  · exact ⟨_, _, _, rfl, fun _ => rfl⟩

/-- The other slices change their unit alone. -/
theorem faulted_keeps {α : Type} (g : Slice → α) (hg : ∀ sl u, g { sl with unit := u } = g sl) {j : Nat} (hj : j ≠ k) :
    g (sliceAt (faulted s k acc) j) = g (sliceAt s j) := by
  have hput : g (sliceAt (putSlice (leaveUnit s k) k (faultedSlice k acc (sliceAt s k))) j) = g (sliceAt s j) := by
    rw [sliceAt_putSlice_ne _ _ _ hj]
    obtain ⟨T, hT⟩ := leaveUnit_eq ht
    rw [hT]
    exact leftUnit_keeps g hg ..
  unfold faulted
  dsimp only
  split
  · exact hput
  · exact hput

end

theorem faultedSlice_held (k : Nat) (acc : Bool) (sl : Slice) : (faultedSlice k acc sl).held = true := holdAt_held _

/-- The record of a fault tells where the slice stood before it. -/
theorem sliceRecord_faulted {s : State} {k : Nat} {team : Team} (ht : teamAt s (k / 32) = some team) (acc : Bool)
    (f : FaultInfo) :
    sliceRecord (faulted s k acc) 1 k acc.toNat 0 f = sliceRecord s 1 k acc.toNat 0 f := by
  have hstop : (holdAt (sliceAt (faulted s k acc) k)).stop = (holdAt (sliceAt s k)).stop := by
    rw [sliceAt_faulted_self, holdAt_of_held (faultedSlice_held ..)]
    exact holdAt_stop_unit _ _
  obtain ⟨S, T, C, hshape, -⟩ := faulted_shape ht acc
  have hclock : (faulted s k acc).clock = s.clock := by rw [hshape]
  unfold sliceRecord
  dsimp only
  rw [hstop, hclock]

/-! Records. -/

theorem ctxRecord_congr {s t : State} {core ctx : Nat} (hp : (coreAt t core).places = (coreAt s core).places)
    (hv : t.vdevs = s.vdevs) :
    ctxRecord t core ctx = ctxRecord s core ctx := by
  unfold ctxRecord ctxPlaceOf vdevSt
  rw [hp, hv]

/-- Where a record of an area is written in one event: the area's header and the record's place. -/
structure RecordPlace (s : State) (ctx core : Nat) (refused : Nat → Bool) (head place : Target) : Prop where
  idle : recordBusy s ctx s.serial = false
  headAt : soloLoc s (vdevOf ctx) (recLoc s (vdevOf ctx) refused (recErrrec (ctxRecord s core ctx))) = .at head
  nent : nentBad (areaNent s head) = false
  placeAt : soloLoc s (vdevOf ctx) (recLoc s (vdevOf ctx) refused
    (recordAddr (recErrrec (ctxRecord s core ctx)) (seenVal s head 4) (areaNent s head))) = .at place

/-- The state after a record of an area has been written. -/
def withRecord (s : State) (ctx : Nat) (head place : Target) (bytes : List Byte) : State :=
  storeTo (storeTo (spendFor s ctx (head :: blocksOf place bytes.length)) place bytes) head (valBytes 4 (seenVal s head 4 + 1))

/-- A record is written exactly where it has such a place. -/
theorem tryRecord_written_iff {s s1 : State} {ctx core a : Nat} {refused : Nat → Bool} {bytes : List Byte} :
    tryRecord s ctx core refused bytes = .written s1 a ↔ ∃ head place, RecordPlace s ctx core refused head place ∧
      s1 = withRecord s ctx head place bytes ∧ a = recordAddr (recErrrec (ctxRecord s core ctx)) (seenVal s head 4)
          (areaNent s head) := by
  constructor
  · intro h
    unfold tryRecord at h
    extract_lets base at h
    split at h
    · exact nomatch h
    next hbusy =>
    split at h
    · exact nomatch h
    · exact nomatch h
    · exact nomatch h
    next head hhead =>
    extract_lets nent w at h
    split at h
    · exact nomatch h
    next hnent =>
    split at h
    · exact nomatch h
    · exact nomatch h
    · exact nomatch h
    next place hplace =>
    obtain ⟨rfl, rfl⟩ := RecOut.written.inj h
    exact ⟨head, place, ⟨Bool.not_eq_true _ ▸ hbusy, hhead, Bool.not_eq_true _ ▸ hnent, hplace⟩, rfl, rfl⟩
  · rintro ⟨head, place, h, rfl, rfl⟩
    unfold tryRecord
    dsimp only
    rw [h.idle, if_neg Bool.false_ne_true, h.headAt]
    dsimp only
    rw [h.nent, if_neg Bool.false_ne_true, h.placeAt]
    rfl

/-- A record is written to the same place whatever slices and teams there are. -/
theorem tryRecord_written {s t : State} {S T C} {ctx core a : Nat} {refused : Nat → Bool} {bytes : List Byte} {s1 : State}
    (ht : t = { s with slices := S, teams := T, cores := C }) (hp : (coreAt t core).places = (coreAt s core).places)
    (h : tryRecord s ctx core refused bytes = .written s1 a) :
    ∃ t1, tryRecord t ctx core refused bytes = .written t1 a ∧ t1.mem = s1.mem ∧
      t1.slices = S ∧ t1.teams = T ∧ t1.cores = C ∧ t1.flights = s.flights := by
  have hc : ctxRecord t core ctx = ctxRecord s core ctx := ctxRecord_congr hp (by rw [ht])
  obtain ⟨head, place, hpl, rfl, rfl⟩ := tryRecord_written_iff.mp h
  have hpt : RecordPlace t ctx core refused head place := by
    obtain ⟨h1, h2, h3, h4⟩ := hpl
    rw [← hc] at h2 h4
    subst ht
    exact ⟨h1, h2, h3, h4⟩
  refine ⟨_, tryRecord_written_iff.mpr ⟨head, place, hpt, rfl, by rw [hc, ht]; rfl⟩, ?_⟩
  unfold withRecord
  rw [spendFor_eq, spendFor_eq s]
  subst ht
  exact ⟨rfl, rfl, rfl, rfl, rfl⟩

/-- A record that has been written touches no slice. -/
theorem recordDone_shape (s : State) (core a : Nat) (trap : Option PendRec) : ∃ C, recordDone s core a trap = { s with cores :=
    C } := by
  cases trap with
  | none => exact ⟨_, rfl⟩
  | some p =>
    unfold recordDone
    dsimp only
    split
    · exact ⟨_, rfl⟩
    · exact ⟨_, rfl⟩

/-- A fault whose record is written leaves the slices as the fault does. -/
theorem takeFault_written {s : State} {k : Nat} {acc : Bool} {f : FaultInfo} {team : Team} {s1 : State} {a : Nat}
    (hk : k < trapBase)
    (ht : teamAt s (k / 32) = some team) (h : tryRecord s team.ctx (k / 512) (fun _ => false)
        (sliceRecord s 1 k acc.toNat 0 f) = .written s1 a) :
    (∀ j, sliceAt (takeFault s k acc f) j = sliceAt (faulted s k acc) j) ∧ (takeFault s k acc f).mem = s1.mem ∧
      (takeFault s k acc f).flights = s.flights := by
  obtain ⟨S, T, C, hshape, hplaces⟩ := faulted_shape ht acc
  have hcore : k / 32 / 16 = k / 512 := Nat.div_div_eq_div_mul ..
  obtain ⟨t1, htry, hmem, hslices, -, -, hflights⟩ := tryRecord_written hshape (hplaces (k / 512)) h
  rw [takeFault_eq hk ht, sliceRecord_faulted ht, hcore]
  unfold submitRecord
  rw [htry]
  dsimp only
  obtain ⟨C', hdone⟩ := recordDone_shape t1 (k / 512) a (some ⟨k / 32, k % 32, 0, acc.toNat, f.faddr⟩)
  rw [hdone]
  refine ⟨fun j => ?_, hmem, hflights⟩
  unfold sliceAt
  rw [hshape]
  exact congrArg (fun S => aget Slice.zero S j) hslices

/-- Settles O45: the fault's own slice is as `faultedSlice` says, every other keeps all but its unit. -/
theorem faultHoldsSlice : Obligations.FaultHoldsSlice := by
  intro s k acc f team s1 a hk ht hrec
  obtain ⟨hsl, hmem, hflights⟩ := takeFault_written hk ht hrec
  have hself : sliceAt (takeFault s k acc f) k = faultedSlice k acc (sliceAt s k) :=
    (hsl k).trans (sliceAt_faulted_self ..)
  dsimp only
  rw [hself]
  unfold faultedSlice
  dsimp only
  rw [holdAt_eq]
  refine ⟨rfl, rfl, rfl, rfl, rfl, rfl, rfl, rfl, rfl, rfl, rfl, rfl, rfl, rfl, rfl, rfl, hflights, hmem, fun j hj => ?_⟩
  rw [hsl j]
  exact faulted_keeps ht acc (fun sl => sl.held) (fun _ _ => rfl) hj

end Sys2Proof.Proofs
end

section
/-! PROOFS. Traps of a stream, a slice or a team: what the faults of one slice leave of the others. -/

namespace Sys2Proof.Proofs

open Sys2Proof.Machine Sys2Proof.Safety Sys2Proof.Laws

/-- A relation of a slice before and after, which a change of unit and a hold meet. -/
structure Mild (r : Slice → Slice → Prop) : Prop where
  refl : ∀ x, r x x
  trans : ∀ {x y z}, r x y → r y z → r x z
  unit : ∀ x u, r x { x with unit := u }
  hold : ∀ x, r x (holdAt x)

/-- Every slice of a team is related to what it was, and no team has gone. -/
structure Moved (r : Slice → Slice → Prop) (s t : State) : Prop where
  slices : ∀ j < trapBase, r (sliceAt s j) (sliceAt t j)
  teams : ∀ i, (teamAt s i).isSome = true → (teamAt t i).isSome = true

namespace Moved

section

variable {r : Slice → Slice → Prop} (hr : Mild r)

include hr

theorem of_eq {s t : State} (hs : t.slices = s.slices) (ht : t.teams = s.teams) : Moved r s t :=
  ⟨fun j _ => by unfold Machine.sliceAt; rw [hs]; exact hr.refl _, fun i h => by unfold teamAt at h ⊢; rwa [ht]⟩

theorem refl (s : State) : Moved r s s := of_eq hr rfl rfl

theorem trans {s t u : State} (h : Moved r s t) (g : Moved r t u) : Moved r s u :=
  ⟨fun j hj => hr.trans (h.slices j hj) (g.slices j hj), fun i hi => g.teams i (h.teams i hi)⟩

theorem foldl {β : Type} {f : State → β → State} (l : List β) (s : State) (h : ∀ s, ∀ x ∈ l, Moved r s (f s x)) : Moved r s
    (l.foldl f s) := by
  induction l generalizing s with
  | nil => exact refl hr s
  | cons x l ih =>
    exact trans hr (h s x (List.mem_cons_self ..)) (ih _ fun t y hy => h t y (List.mem_cons_of_mem _ hy))

theorem putSlice {s : State} {k : Nat} {sl : Slice} (h : k < trapBase → r (sliceAt s k) sl) : Moved r s (putSlice s k sl) := by
  refine ⟨fun j hj => ?_, fun _ h => h⟩
  by_cases hjk : j = k
  · subst hjk
    rw [sliceAt_putSlice_self]
    exact h hj
  · rw [sliceAt_putSlice_ne _ _ _ hjk]
    exact hr.refl _

theorem putTeam (s : State) (t : Nat) (x : Team) : Moved r s (putTeam s t (some x)) := by
  refine ⟨fun _ _ => hr.refl _, fun i h => ?_⟩
  by_cases hi : i = t
  · rw [hi, teamAt_putTeam_self]; rfl
  · rwa [teamAt_putTeam_ne _ _ _ hi]

theorem setUnits (s : State) (t u : Nat) (js : List Nat) : Moved r s (setUnits s t u js) :=
  foldl hr js s fun _ _ _ => putSlice hr fun _ => hr.unit ..

theorem leaveUnit (s : State) (k : Nat) : Moved r s (leaveUnit s k) := by
  unfold Machine.leaveUnit
  extract_lets t
  split
  · exact refl hr s
  · extract_lets rest ids s1 _ s2
    have hjoined : Moved r s s1 := by
      unfold s1
      clear_value ids
      split
      · exact refl hr s
      · exact setUnits hr ..
    have hleft : Moved r s s2 := hjoined.trans hr (putSlice hr fun _ => hr.unit ..)
    split
    · exact hleft
    · exact hleft.trans hr (putTeam hr ..)

theorem holdTeam (s : State) (t : Nat) (team : Team) : Moved r s (holdTeam s t team) :=
  foldl hr _ s fun _ _ _ => putSlice hr fun _ => hr.hold _

theorem closeInvocation (s : State) (core : Nat) : Moved r s (closeInvocation s core) := by
  unfold Machine.closeInvocation
  extract_lets s1
  refine (of_eq hr rfl rfl : Moved r s (putCore s1 core { coreAt s1 core with invoc := false, theld := 0 })).trans hr ?_
  exact putSlice hr fun h => absurd h (Nat.not_lt.mpr (Nat.le_add_right _ _))

theorem checkStop (s : State) (t : Nat) : Moved r s (checkStop s t) := by
  unfold Machine.checkStop
  split
  · exact refl hr s
  · next team _ =>
    extract_lets core s1 c s2 c2 s3
    have hclosed : Moved r s s2 := by
      unfold s2
      split
      · exact (holdTeam hr s t team).trans hr (closeInvocation hr s1 core)
      · exact holdTeam hr s t team
    have hdropped : Moved r s s3 := hclosed.trans hr (of_eq hr rfl rfl)
    split
    · exact hdropped.trans hr (of_eq hr rfl rfl)
    · exact hdropped

theorem of_tryRecord {s t : State} {ctx core a : Nat} {refused : Nat → Bool} {bytes : List Byte}
    (h : tryRecord s ctx core refused bytes = .written t a) : Moved r s t := by
  obtain ⟨head, place, -, rfl, -⟩ := tryRecord_written_iff.mp h
  unfold withRecord
  rw [spendFor_eq]
  exact of_eq hr rfl rfl

theorem waitRecord (s : State) (ctx core : Nat) (bytes : List Byte) (trap : Option PendRec) (unit : RecUnit) (page : Option Nat) :
    Moved r s (waitRecord s ctx core bytes trap unit page) := by
  unfold Machine.waitRecord
  split
  · rw [addWalk_eq]
    exact of_eq hr rfl rfl
  · exact of_eq hr rfl rfl

/-- A record, whatever becomes of it. -/
theorem submitRecord (s : State) (ctx core : Nat) (bytes : List Byte) (trap : Option PendRec) (unit : RecUnit) :
    Moved r s (submitRecord s ctx core bytes trap unit) := by
  unfold Machine.submitRecord
  split
  · next t a h =>
    obtain ⟨C, hC⟩ := recordDone_shape t core a trap
    rw [hC]
    exact (of_tryRecord hr h).trans hr (of_eq hr rfl rfl)
  · exact waitRecord hr ..
  · exact waitRecord hr ..
  · cases trap with
    | none => exact refl hr s
    | some p => exact checkStop hr s p.team

/-- A precise fault of one stream of a slice. -/
theorem takeFault {acc : Bool} {k : Nat} (hf : ∀ sl, r sl (faultedSlice k acc sl)) (hk : k < trapBase) (s : State)
    (f : FaultInfo) :
    Moved r s (takeFault s k acc f) := by
  cases ht : teamAt s (k / 32) with
  | none =>
    unfold Machine.takeFault
    rw [if_neg (Nat.not_le.mpr hk)]
    dsimp only
    rw [ht]
    exact refl hr s
  | some team =>
    rw [takeFault_eq hk ht]
    refine Moved.trans hr ?_ (submitRecord hr ..)
    have hself : ∀ sl, r { sl with unit := k % 32 } (faultedSlice k acc sl) := fun sl => hf { sl with unit := k % 32 }
    have hput : Moved r s (Machine.putSlice (Machine.leaveUnit s k) k (faultedSlice k acc (sliceAt s k))) :=
      (leaveUnit hr s k).trans hr (putSlice hr fun _ => by rw [sliceAt_leaveUnit_self ht]; exact hself _)
    unfold faulted
    dsimp only
    split
    · exact hput.trans hr (of_eq hr rfl rfl)
    · exact hput

end

end Moved

/-- A slice that is held stays so. -/
def StaysHeld (x y : Slice) : Prop := x.held = true → y.held = true

theorem staysHeld_mild : Mild StaysHeld :=
  ⟨fun _ h => h, fun h g hx => g (h hx), fun _ _ h => h, fun x _ => holdAt_held x⟩

/-- The access stream stays as it is. -/
def SameAccess (x y : Slice) : Prop := y.a = x.a

theorem sameAccess_mild : Mild SameAccess :=
  ⟨fun _ => rfl, fun h g => g.trans h, fun _ _ => rfl, fun x => by unfold SameAccess; rw [holdAt_eq]⟩

theorem staysHeld_takeFault {acc : Bool} {k : Nat} (hk : k < trapBase) (s : State) (f : FaultInfo) : Moved StaysHeld s
    (takeFault s k acc f) :=
  .takeFault staysHeld_mild (fun sl _ => faultedSlice_held k acc sl) hk s f

/-- A fault of the compute stream leaves the access streams. -/
theorem sameAccess_takeFault {k : Nat} (hk : k < trapBase) (s : State) (f : FaultInfo) : Moved SameAccess s
    (takeFault s k false f) :=
  .takeFault sameAccess_mild (acc := false) (k := k) (fun _ => rfl) hk s f

/-- The slice of a fault is held after it. -/
theorem takeFault_held {s : State} {k : Nat} {acc : Bool} {f : FaultInfo} (hk : k < trapBase) (ht : (teamAt s
    (k / 32)).isSome = true) :
    (sliceAt (takeFault s k acc f) k).held = true := by
  obtain ⟨team, ht⟩ := Option.isSome_iff_exists.mp ht
  rw [takeFault_eq hk ht]
  refine (Moved.submitRecord staysHeld_mild ..).slices k hk ?_
  rw [sliceAt_faulted_self]
  exact faultedSlice_held ..

/-! BAR_MISMATCH. -/

section

variable {t : Nat} {team : Team} {acc : Bool}

/-- The fault of one slice of a mismatch, where it is not held yet. -/
def mismatchOne (t : Nat) (acc : Bool) (s : State) (j : Nat) : State :=
  if (sliceAt s (32 * t + j)).held then s else takeFault s (32 * t + j) acc (plainFault codeBAR_MISMATCH)

theorem mismatchOne_staysHeld {s : State} {j : Nat} (hj : 32 * t + j < trapBase) : Moved StaysHeld s (mismatchOne t acc s j) := by
  unfold mismatchOne
  split
  · exact .refl staysHeld_mild s
  · exact staysHeld_takeFault hj s _

theorem mismatchOne_held {s : State} {j : Nat} (hj : 32 * t + j < trapBase) (hj32 : j < 32) (ht : (teamAt s t).isSome = true) :
    (sliceAt (mismatchOne t acc s j) (32 * t + j)).held = true := by
  unfold mismatchOne
  split
  · assumption
  · exact takeFault_held hj (by rwa [show (32 * t + j) / 32 = t by omega])

/-- Slices that fault in turn are all held. -/
theorem foldl_mismatchOne_held (l : List Nat) (hl : ∀ j ∈ l, j < 32) (htop : 32 * t + 32 ≤ trapBase) (s : State)
    (ht : (teamAt s t).isSome = true) :
    Moved StaysHeld s (l.foldl (mismatchOne t acc) s) ∧ ∀ j ∈ l, (sliceAt (l.foldl (mismatchOne t acc) s)
        (32 * t + j)).held = true := by
  induction l generalizing s with
  | nil => exact ⟨.refl staysHeld_mild s, nofun⟩
  | cons i l ih =>
    have hi := hl i (List.mem_cons_self ..)
    have hone : Moved StaysHeld s (mismatchOne t acc s i) := mismatchOne_staysHeld (by omega)
    obtain ⟨hmoved, hheld⟩ := ih (fun j hj => hl j (List.mem_cons_of_mem _ hj)) (mismatchOne t acc s i) (hone.teams t ht)
    refine ⟨hone.trans staysHeld_mild hmoved, List.forall_mem_cons.mpr ⟨?_, hheld⟩⟩
    exact hmoved.slices _ (by omega) (mismatchOne_held (by omega) hi ht)

theorem raiseMismatch_eq (s : State) : raiseMismatch s t team acc =
    if barMismatched s t team acc = true then (liveSlices s t team acc).foldl (mismatchOne t acc) s else s := rfl

theorem liveSlices_lt {s : State} (hs : team.s ≤ 32) : ∀ j ∈ liveSlices s t team acc, j < 32 := by
  intro j hj
  have := List.mem_range.mp (List.mem_of_mem_filter hj)
  omega

theorem raiseMismatch_staysHeld (s : State) (hs : team.s ≤ 32) (htop : 32 * t + 32 ≤ trapBase) (ht : (teamAt s t).isSome = true) :
    Moved StaysHeld s (raiseMismatch s t team acc) := by
  rw [raiseMismatch_eq]
  split
  · exact (foldl_mismatchOne_held _ (liveSlices_lt hs) htop s ht).1
  · exact .refl staysHeld_mild s

/-- A mismatch of the compute streams leaves the access streams. -/
theorem raiseMismatch_sameAccess (s : State) (hs : team.s ≤ 32) (htop : 32 * t + 32 ≤ trapBase) :
    Moved SameAccess s (raiseMismatch s t team false) := by
  rw [raiseMismatch_eq]
  split
  · refine .foldl sameAccess_mild _ s fun x j hj => ?_
    have hj32 := liveSlices_lt hs j hj
    unfold mismatchOne
    split
    · exact .refl sameAccess_mild x
    · exact sameAccess_takeFault (by omega) x _
  · exact .refl sameAccess_mild s

theorem raiseMismatch_held {s : State} (hs : team.s ≤ 32) (htop : 32 * t + 32 ≤ trapBase) (ht : (teamAt s t).isSome = true)
    (hm : barMismatched s t team acc = true) : ∀ j ∈ liveSlices s t team acc, (sliceAt (raiseMismatch s t team acc)
        (32 * t + j)).held = true := by
  rw [raiseMismatch_eq, if_pos hm]
  exact (foldl_mismatchOne_held _ (liveSlices_lt hs) htop s ht).2

/-- Whether the access streams of a team mismatch depends on the access streams alone. -/
theorem barMismatched_access {s x : State} (h : Moved SameAccess s x) (hs : team.s ≤ 32) (htop : 32 * t + 32 ≤ trapBase) :
    liveSlices x t team true = liveSlices s t team true ∧ barMismatched x t team true = barMismatched s t team true := by
  have ha : ∀ j < 32, (sliceAt x (32 * t + j)).a = (sliceAt s (32 * t + j)).a := fun j hj => h.slices _ (by omega)
  have hlive : liveSlices x t team true = liveSlices s t team true :=
    List.filter_congr fun j hj => by
      have := List.mem_range.mp hj
      show (!(sliceAt x (32 * t + j)).a.exited) = !(sliceAt s (32 * t + j)).a.exited
      rw [ha j (by omega)]
  refine ⟨hlive, ?_⟩
  have hslots : (liveSlices s t team true).map (fun j => barSlot (streamOf true (sliceAt x (32 * t + j))).wait) =
      (liveSlices s t team true).map fun j => barSlot (streamOf true (sliceAt s (32 * t + j))).wait :=
    List.map_congr_left fun j hj => by
      show barSlot (sliceAt x (32 * t + j)).a.wait = barSlot (sliceAt s (32 * t + j)).a.wait
      rw [ha j (liveSlices_lt hs j hj)]
  unfold barMismatched
  dsimp only
  rw [hlive, hslots]

end

/-! WATCHDOG. -/

theorem holdSlice_staysHeld (s : State) (k : Nat) : Moved StaysHeld s (holdSlice s k) :=
  (Moved.leaveUnit staysHeld_mild s k).trans staysHeld_mild (.putSlice staysHeld_mild fun _ _ => holdAt_held _)

theorem holdSlice_held (s : State) (k : Nat) : (sliceAt (holdSlice s k) k).held = true := by
  unfold holdSlice
  dsimp only
  rw [sliceAt_putSlice_self]
  exact holdAt_held _

theorem foldl_holdSlice_held {t : Nat} (l : List Nat) (hl : ∀ j ∈ l, 32 * t + j < trapBase) (s : State) :
    Moved StaysHeld s (l.foldl (fun s j => holdSlice s (32 * t + j)) s) ∧
      ∀ j ∈ l, (sliceAt (l.foldl (fun s j => holdSlice s (32 * t + j)) s) (32 * t + j)).held = true := by
  induction l generalizing s with
  | nil => exact ⟨.refl staysHeld_mild s, nofun⟩
  | cons i l ih =>
    obtain ⟨hmoved, hheld⟩ := ih (fun j hj => hl j (List.mem_cons_of_mem _ hj)) (holdSlice s (32 * t + i))
    exact ⟨(holdSlice_staysHeld s _).trans staysHeld_mild hmoved,
      List.forall_mem_cons.mpr ⟨hmoved.slices _ (hl i (List.mem_cons_self ..)) (holdSlice_held ..), hheld⟩⟩

theorem checkStop_teams (s : State) (t : Nat) : (checkStop s t).teams = s.teams := by
  have hhold : ∀ team, (holdTeam s t team).teams = s.teams := fun team =>
    foldl_keeps (·.teams) (fun s j => putSlice s (32 * t + j) (holdAt (sliceAt s (32 * t + j)))) (fun _ _ => rfl) _ s
  unfold checkStop
  split
  · rfl
  · next team _ =>
    extract_lets core s1 c s2 c2 s3
    have hclosed : s2.teams = s.teams := by
      unfold s2
      split
      · exact hhold team
      · exact hhold team
    split
    · exact hclosed
    · exact hclosed

/-- A record changes no team. -/
theorem submitRecord_teams (s : State) (ctx core : Nat) (bytes : List Byte) (trap : Option PendRec) (unit : RecUnit) :
    (submitRecord s ctx core bytes trap unit).teams = s.teams := by
  have hwait : ∀ page, (waitRecord s ctx core bytes trap unit page).teams = s.teams := by
    intro page
    unfold waitRecord
    split
    · rw [addWalk_eq]
    · rfl
  unfold submitRecord
  split
  · next t a h =>
    obtain ⟨C, hC⟩ := recordDone_shape t core a trap
    obtain ⟨head, place, -, rfl, -⟩ := tryRecord_written_iff.mp h
    rw [hC]
    unfold withRecord
    rw [spendFor_eq]
    rfl
  · exact hwait _
  · exact hwait _
  · cases trap with
    | none => rfl
    | some p => exact checkStop_teams s p.team

/-- A watchdog that runs out holds every slice of its team, and its count is 0 after it. -/
theorem watchdog_holds {s : State} {t : Nat} {team : Team} (htop : 32 * t + 32 ≤ trapBase) (ht : teamAt s t = some team)
    (hs : team.s ≤ 32)
    (hp : team.phase = .running) (hw : watchdogLimit s t team ≤ team.wd) (hm : heldMask s t team = 0) :
    ∃ x, exec (.watchdog t) s = .next x ∧ (∀ j < team.s, (sliceAt x (32 * t + j)).held = true) ∧ ∃ y, teamAt x t = some y ∧
        y.wd = 0 := by
  obtain ⟨hmoved, hheld⟩ := foldl_holdSlice_held (t := t) (sliceNums team) (fun j hj => by have := List.mem_range.mp hj; omega) s
  obtain ⟨h, hh⟩ : ∃ h, h = (sliceNums team).foldl (fun s j => holdSlice s (32 * t + j)) s := ⟨_, rfl⟩
  rw [← hh] at hmoved hheld
  obtain ⟨y, hy⟩ := Option.isSome_iff_exists.mp (hmoved.teams t (by rw [ht]; rfl))
  have hexec : exec (.watchdog t) s = .next (submitRecord (putTeam h t (some { y with wd := 0 })) team.ctx (t / 16)
      (sliceRecord s 1 (32 * t) 0 1 (plainFault codeWATCHDOG)) (some ⟨t, 0, 0, 0, 0⟩) .none) := by
    show execWatchdog t s = _
    unfold execWatchdog
    rw [ht]
    dsimp only
    rw [← hh, hy, hm, hp, if_pos (by simpa using hw)]
  refine ⟨_, hexec, fun j hj => ?_, { y with wd := 0 }, ?_, rfl⟩
  · refine (Moved.submitRecord staysHeld_mild ..).slices _ (by omega) ?_
    exact hheld j (List.mem_range.mpr hj)
  · unfold teamAt
    rw [submitRecord_teams]
    exact teamAt_putTeam_self ..

/-- A fault of the stream that issues on its own account. -/
theorem issueLane_faults {s : State} {k : Nat} {acc : Bool} {e : Env} {cmp : Bool} {f : Env → Slice → FaultInfo}
    (h : Solo s k acc e) :
    issueLane s .both cmp (fun e sl => .fault (f e sl)) = .next
      (takeFault (if acc then s else countUnit s (k / 32) (k % 32)) k acc (f e (sliceAt s k))) := by
  cases acc with
  | true =>
    rw [issueLane_access h.issuer h.env rfl]
    rfl
  | false =>
    obtain ⟨-, hunit⟩ := h.alone rfl
    rw [issueLane_compute h rfl, hunit]
    unfold commitIssue
    simp only [List.any_cons, List.any_nil, isStall, Bool.or_false, Bool.false_eq_true, if_false, List.filter_cons, isDone,
      List.filter_nil, List.map_nil, List.foldl_cons, List.foldl_nil, writeDone, actOn, key_split, List.map_cons,
      List.findSome?_cons, List.findSome?_nil, verdictPin]
    rfl

/-- Settles O46. -/
theorem teamTraps : Obligations.TeamTraps := by
  refine ⟨fun s t team htop ht hs => ⟨fun j hj hd => ?deadlock, fun acc hm => ?mismatch, watchdog_holds htop ht hs⟩,
    fun s k acc e h => ⟨?illegal, ?fetch⟩⟩
  case deadlock =>
    show execStreamDeadlock _ s = _
    unfold execStreamDeadlock
    dsimp only
    rw [hd, if_pos (by simp only [Bool.true_and, decide_eq_true_eq]; omega)]
  case mismatch =>
    have hsome : (teamAt s t).isSome = true := by rw [ht]; rfl
    have hfirst : Moved StaysHeld s (raiseMismatch s t team false) := raiseMismatch_staysHeld s hs htop hsome
    refine ⟨raiseMismatch (raiseMismatch s t team false) t team true, ?_, fun j hj => ?_⟩
    · show execBarMismatch t s = _
      unfold execBarMismatch
      rw [ht]
    · cases acc with
      | false =>
        have hj32 := liveSlices_lt hs j hj
        refine (raiseMismatch_staysHeld _ hs htop (hfirst.teams t hsome)).slices _ (by omega) ?_
        exact raiseMismatch_held hs htop hsome hm j hj
      | true =>
        obtain ⟨hlive, hmis⟩ := barMismatched_access (raiseMismatch_sameAccess s hs htop) hs htop
        exact raiseMismatch_held hs htop (hfirst.teams t hsome) (hmis.trans hm) j (hlive ▸ hj)
  case illegal => exact issueLane_faults (f := fun _ _ => plainFault codeILLEGAL_OP) h
  case fetch =>
    refine (issueLane_faults (f := fun e sl => ⟨codeFETCH_RANGE, (streamOf e.acc sl).prev.toNat, (streamOf e.acc sl).pc,
        0⟩) h).trans ?_
    rw [env_acc h.env]

end Sys2Proof.Proofs
end

section
/-! PROOFS. A trap invocation begins (R320, R323). -/

namespace Sys2Proof.Proofs

open Sys2Proof.Machine Sys2Proof.Safety Sys2Proof.Laws

theorem qget_zero (l : Nat) : qget (⟨0, 0, 0, 0⟩ : Quad Word64) l = 0 :=
  match l with
  | 0 | 1 | 2 => rfl
  | _ + 3 => rfl

/-- a0 holds the record's address, a1 its slice, and every other register 0. -/
theorem handlerSlice_regs (tvec addr slice : Nat) :
    regVal true (handlerSlice tvec addr slice) 0 0 = addr % 2 ^ 64 ∧ regVal true
        (handlerSlice tvec addr slice) 1 0 = slice % 2 ^ 64 ∧
      ∀ r l, 1 < r → regVal true (handlerSlice tvec addr slice) r l = 0 := by
  unfold regVal handlerSlice
  simp only [if_true]
  refine ⟨?_, ?_, fun r l hr => ?_⟩
  · rw [aget_aput_ne _ _ _ _ _ (by decide), aget_aput_self]
    exact BitVec.toNat_ofNat ..
  · rw [aget_aput_self]
    exact BitVec.toNat_ofNat ..
  · rw [aget_aput_ne _ _ _ _ _ (by omega), aget_aput_ne _ _ _ _ _ (by omega)]
    exact congrArg BitVec.toNat (qget_zero l)

/-- The core once an invocation of a record has opened. -/
def openedCore (s : State) (c : Core) (p : PendRec) (team : Team) : Core :=
  { c with
    pend := c.pend.filter fun q => q.team != p.team
    invoc := true
    tcause := p.addr
    theld := heldMask s p.team team
    tteam := p.team % 16
    tslice := p.slice
    tstream := p.stream
    tfaddr := p.faddr }

/-- An invocation of the oldest pending record opens, where its context names a handler. -/
theorem openInvocation_opens {s : State} {core : Nat} {p : PendRec} {team : Team} (hopen : (coreAt s core).invoc = false)
    (hfind : (coreAt s core).pend.find? (fun q => (teamAt s q.team).any fun t => t.phase != .saved) = some p)
    (ht : teamAt s p.team = some team) (htvec : recTvec (ctxRecord s core team.ctx) ≠ 0) :
    ∃ w, openInvocation s core = putSlice { putCore s core (openedCore s (coreAt s core) p team) with farCode := w }
        (trapBase + core)
      (handlerSlice (recTvec (ctxRecord s core team.ctx)) p.addr.toNat p.slice) := by
  unfold openInvocation
  dsimp only
  rw [hopen, if_neg Bool.false_ne_true, hfind]
  dsimp only
  rw [ht]
  dsimp only
  rw [if_neg htvec]
  exact ⟨_, rfl⟩

/-- Settles O47: the core is as `openedCore` says, and its trap context as `handlerSlice`. -/
theorem invocationOpens : Obligations.InvocationOpens := by
  intro s core p team hopen hfind ht tvec htvec
  obtain ⟨w, hw⟩ := openInvocation_opens hopen hfind ht htvec
  refine ⟨_, congrArg Host.Outcome.next hw, rfl, ?_⟩
  have hcore : ∀ w sl, coreAt (putSlice { putCore s core (openedCore s (coreAt s core) p team) with farCode := w }
      (trapBase + core) sl) core =
      openedCore s (coreAt s core) p team := fun w sl => coreAt_putCore_self ..
  dsimp only
  rw [hcore, sliceAt_putSlice_self]
  obtain ⟨h0, h1, hother⟩ := handlerSlice_regs tvec p.addr.toNat p.slice
  refine ⟨rfl, rfl, rfl, rfl, fun q hq => ?_, rfl, rfl, ?_, h1, hother, fun k hk => sliceAt_putSlice_ne _ _ _ hk⟩
  · simpa using (List.mem_filter.mp hq).2
  · exact h0.trans (Nat.mod_eq_of_lt p.addr.isLt)

end Sys2Proof.Proofs
end

section
/-! PROOFS. Reset and the words of the manual: what a fresh package reads as, and what the manual's own words decode to. -/

namespace Sys2Proof.Proofs

open Sys2Proof.Machine Sys2Proof.Safety Sys2Proof.Laws

/-- A quad of zeros holds 0 in every lane, at every width. -/
theorem qget_zeros (w l : Nat) : qget (⟨0, 0, 0, 0⟩ : Quad (BitVec w)) l = 0 :=
  match l with
  | 0 | 1 | 2 => rfl
  | _ + 3 => rfl

/-- Every register of a slice that nothing has written reads 0. -/
theorem regVal_zero (acc : Bool) (r l : Nat) : regVal acc Slice.zero r l = 0 := by
  cases acc
  case true => exact congrArg BitVec.toNat (qget_zeros 64 l)
  case false => exact congrArg BitVec.toNat (qget_zeros 32 l)

/-- Right after reset no destination entry is set. -/
theorem destAt_reset (i : Nat) (h : i < 2 ^ 16) : destAt State.reset i = DestEntry.zero :=
  (if_neg (Nat.not_le.mpr h))

/-- Settles O1: the lists of a fresh state are empty, so every accessor answers its default. -/
theorem resetState : Obligations.ResetState := by
  refine ⟨rfl, rfl, rfl, rfl, rfl, fun _ => rfl, fun _ => rfl, fun _ _ => rfl, destAt_reset,
    fun _ => rfl, fun _ => rfl, fun _ => rfl, fun a => ?desc, fun _ => rfl, fun k r l acc => regVal_zero acc r l,
    fun _ _ => rfl, rfl⟩
  case desc => exact ite_self 0

/-- Settles O2: an empty map is in canonical form. -/
theorem resetKept : Obligations.ResetKept := ⟨rfl, rfl⟩

/-- Settles O3: the decoders evaluate on each word. -/
theorem wordsDecode : Obligations.WordsDecode := by
  refine ⟨?_, ?_, ?_, ?_, ?_, ?_, ?_, ?_, ?_, ?_, ?_, ?_, ?_, ?_, ?_, ?_, ?_, ?_, ?_, ?_, ?_, ?_, ?_, ?_, ?_, ?_⟩ <;> rfl

end Sys2Proof.Proofs
end

section
/-! PROOFS. CONFIG packets: one rule for a packet that is in order and one for a packet that is not; each kind is then what its
writer does. -/

namespace Sys2Proof.Proofs

open Sys2Proof.Machine Sys2Proof.Safety Sys2Proof.Laws

/-- A packet that may start is started. -/
theorem runPkt_starts {s : State} {id typ : Nat} {p : Packet} (h : Starts s id typ p) (f : State → Packet → State) :
    runPkt s id typ f = .next (f s p) := by
  obtain ⟨hp, ht, ho⟩ := h
  unfold runPkt
  rw [hp]
  exact congrArg _ (if_pos (by rw [ho, decide_eq_true ht]; rfl))

theorem putVdev_tokens (s : State) (v : Nat) (d : VDev) : (putVdev s v d).tokens = s.tokens := rfl

theorem donePkt_eq (s : State) (p : Packet) (n : Nat) : donePkt s p n = putPkt s { p with phase := .done n, park := none } := rfl

/-- A CONFIG packet in order runs the writer of its kind. -/
theorem runCfg_configures {s : State} {id kind v : Nat} {p : Packet} (h : Configures s id kind p v)
    (f : State → Packet → Nat → State) : runCfg s id kind f = .next (f s p v) := by
  obtain ⟨hs, ok, hk, hv⟩ := h
  refine (runPkt_starts hs _).trans ?_
  rw [ok, hv]
  exact congrArg _ (if_pos hk)

/-- One that is not in order completes with status 5, whatever its writer. -/
theorem runCfg_bad {s : State} {id kind : Nat} {p : Packet} (h : Starts s id 0x10 p) (hbad : cfgOk s p = false)
    (f : State → Packet → Nat → State) : runCfg s id kind f = .next (donePkt s p 5) := by
  refine (runPkt_starts h _).trans ?_
  rw [hbad]
  rfl

/-- The configuration events are the writers of the seven kinds. -/
theorem exec_configures (s : State) (id : Nat) {f : Nat → Instr} (hf : f ∈ [Instr.contextRecordConfig, .vdevRecordConfig,
    .ringRecordConfig, .partitionRecordConfig, .destinationEntryConfig, .fabricRecordConfig, .msixEntriesConfig]) :
    ∃ kind g, exec (f id) s = runCfg s id kind g := by
  simp only [List.mem_cons, List.not_mem_nil, or_false] at hf
  rcases hf with rfl | rfl | rfl | rfl | rfl | rfl | rfl
  · exact ⟨_, _, show execContextRecordConfig id s = _ by unfold execContextRecordConfig; rfl⟩
  · exact ⟨_, _, show execVdevRecordConfig id s = _ by unfold execVdevRecordConfig; rfl⟩
  · exact ⟨_, _, show execRingRecordConfig id s = _ by unfold execRingRecordConfig; rfl⟩
  · exact ⟨_, _, show execPartitionRecordConfig id s = _ by unfold execPartitionRecordConfig; rfl⟩
  · exact ⟨_, _, show execDestinationEntryConfig id s = _ by unfold execDestinationEntryConfig; rfl⟩
  · exact ⟨_, _, show execFabricRecordConfig id s = _ by unfold execFabricRecordConfig; rfl⟩
  · exact ⟨_, _, show execMsixEntriesConfig id s = _ by unfold execMsixEntriesConfig; rfl⟩

/-- Settles O54: each kind by the rule of its writer. -/
theorem configResults : Obligations.ConfigResults := by
  intro s id v p completes i r e d
  refine ⟨?context, ?vdev, ?ring, ?partition, ?dest, ?fabric, ?msix, ?bad⟩
  case context =>
    intro h
    show execContextRecordConfig id s = _
    unfold execContextRecordConfig
    rw [runCfg_configures h]
    exact apply_ite _ _ _ _
  case vdev =>
    intro h
    show execVdevRecordConfig id s = _
    unfold execVdevRecordConfig
    rw [runCfg_configures h]
    dsimp only
    rw [putVdev_tokens]
    exact congrArg Host.Outcome.next (donePkt_eq _ p 0)
  case ring =>
    intro h
    show execRingRecordConfig id s = _
    unfold execRingRecordConfig
    rw [runCfg_configures h]
    rfl
  case partition =>
    intro h
    show execPartitionRecordConfig id s = _
    unfold execPartitionRecordConfig
    rw [runCfg_configures h]
    exact apply_ite _ _ _ _
  case dest =>
    intro h
    show execDestinationEntryConfig id s = _
    unfold execDestinationEntryConfig
    rw [runCfg_configures h]
    exact apply_ite _ _ _ _
  case fabric =>
    intro h
    show execFabricRecordConfig id s = _
    unfold execFabricRecordConfig
    rw [runCfg_configures h]
    simp only [Bool.or_eq_true, bne_iff_ne]
    exact apply_ite _ _ _ _
  case msix =>
    intro h
    show execMsixEntriesConfig id s = _
    unfold execMsixEntriesConfig
    rw [runCfg_configures h]
    rfl
  case bad =>
    intro h hbad f hf
    obtain ⟨kind, g, hg⟩ := exec_configures s id hf
    exact hg.trans (runCfg_bad h hbad g)

end Sys2Proof.Proofs
end

section
/-! PROOFS. Starts: what a cold and a warm start and a power loss leave, and how maps that a fold writes key by key read. -/

namespace Sys2Proof.Proofs

open Sys2Proof.Machine Sys2Proof.Safety Sys2Proof.Laws

/-- A map written key by key holds what was written under each key. -/
theorem aget_foldl_aput {α} [DecidableEq α] (d : α) (f : Nat → α) (l : List Nat) (m : Assoc α) (j : Nat) :
    aget d (l.foldl (fun m k => aput d m k (f k)) m) j = if j ∈ l then f j else aget d m j := by
  induction l generalizing m with
  | nil => rfl
  | cons k l ih =>
    rw [List.foldl_cons, ih]
    by_cases hl : j ∈ l
    · rw [if_pos hl, if_pos (List.mem_cons_of_mem _ hl)]
    · rw [if_neg hl]
      by_cases hk : j = k
      · rw [hk, aget_aput_self, if_pos List.mem_cons_self]
      · rw [aget_aput_ne _ _ _ _ _ hk, if_neg (List.not_mem_cons_of_ne_of_not_mem hk hl)]

/-- A filter that keeps whatever lies under a key leaves it. -/
theorem aget_filter {α} (d : α) (p : Nat × α → Bool) (m : Assoc α) (a : Nat) (h : ∀ y, p (a, y) = true) :
    aget d (m.filter p) a = aget d m a := by
  induction m with
  | nil => rfl
  | cons q m ih =>
    obtain ⟨j, y⟩ := q
    by_cases hj : j = a
    · subst hj
      rw [List.filter_cons_of_pos (h y)]
      exact (if_pos rfl).trans (if_pos rfl).symm
    · refine Eq.trans ?_ (if_neg hj).symm
      rw [List.filter_cons]
      split
      · exact (if_neg hj).trans ih
      · exact ih

/-- A warm start keeps memory below the scratchpads. -/
theorem warmState_readByte (plan : List (Nat × BitVec 3)) (s : State) {a : Nat} (h : a < Config.sramBase) :
    readByte (warmState plan s).mem a = readByte s.mem a :=
  aget_filter 0 _ s.mem a fun _ => Bool.or_eq_true_iff.mpr (.inl (decide_eq_true h))

/-- A warm start raises the generation of a virtual device in use and keeps its record. -/
theorem warmState_vdev (plan : List (Nat × BitVec 3)) (s : State) {v : Nat} (h : v < Config.vdevs)
    (hv : vdevSt s v ≠ VDev.zero) : vdevSt (warmState plan s) v = warmVdev (vdevSt s v) := by
  show aget VDev.zero (warmState plan s).vdevs v = _
  unfold warmState
  dsimp only
  rw [aget_foldl_aput, if_pos (List.mem_range.mpr h), if_neg hv]

/-- Settles O58: a cold start is the reset state with the boot made, a warm start keeps what `warmState` names, and a power
loss keeps of the boot state what flash and fuses hold. -/
theorem startEvents : Obligations.StartEvents := by
  intro s plan
  refine ⟨?cold, ?warm, ?loss⟩
  case cold =>
    have h : ∃ t, Host.Outcome.next (φ := Fault) (ρ := Refusal) (coldState plan s) = .next t ∧ t.clock = 0 ∧ t.mem = [] ∧
        t.desc = [] ∧ t.keyed = [] ∧ t.slices = [] ∧ t.teams = [] ∧ t.vdevs = [] ∧ t.partitions = [] ∧ t.boot.ready = 0 ∧
        t.boot.bootstat = bootStat s.boot 1 ∧ t.boot.powered = true :=
      ⟨_, rfl, rfl, rfl, rfl, rfl, rfl, rfl, rfl, rfl, rfl, rfl, rfl⟩
    exact List.forall_mem_cons.mpr ⟨h, List.forall_mem_singleton.mpr h⟩
  case warm =>
    refine ⟨_, rfl, rfl, rfl, rfl, rfl, rfl, rfl, rfl, rfl, rfl, fun a ha => warmState_readByte plan s ha, fun v hv hu => ?_⟩
    rw [warmState_vdev plan s hv hu]
    exact ⟨rfl, rfl⟩
  case loss =>
    intro torn
    refine ⟨_, rfl, rfl, rfl, rfl, ?_⟩
    cases torn with
    | none => exact ⟨rfl, rfl, rfl, rfl⟩
    | some w =>
      cases w with
      | slot b => cases b <;> exact ⟨rfl, rfl, rfl, rfl⟩
      | marker c => exact ⟨rfl, rfl, rfl, rfl⟩

end Sys2Proof.Proofs
end

section
/-! PROOFS. Readiness, retraining, margins, refills, the service window and error events. -/

namespace Sys2Proof.Proofs

open Sys2Proof.Machine Sys2Proof.Safety Sys2Proof.Laws

/-- Setting a bit sets it. -/
theorem getLsbD_or_bit {w : Nat} (x : BitVec w) {i : Nat} (h : i < w) : (x ||| BitVec.ofNat w (2 ^ i)).getLsbD i = true := by
  rw [BitVec.getLsbD_or, BitVec.getLsbD_ofNat, decide_eq_true h, Nat.testBit_two_pow_self, Bool.and_self, Bool.or_true]

/-- Clearing a bit clears it. -/
theorem getLsbD_and_not_bit {w : Nat} (x : BitVec w) {i : Nat} (h : i < w) :
    (x &&& ~~~(BitVec.ofNat w (2 ^ i))).getLsbD i = false := by
  rw [BitVec.getLsbD_and, BitVec.getLsbD_not, BitVec.getLsbD_ofNat, decide_eq_true h, Nat.testBit_two_pow_self, Bool.and_self,
    Bool.not_true, Bool.and_false, Bool.and_false]

/-! What sending leaves. -/

/-- A state that differs in the streams that this package sends alone. -/
def OnlyTx (s t : State) : Prop := ∃ tx, t = { s with fabric := { s.fabric with tx := tx } }

theorem OnlyTx.refl (s : State) : OnlyTx s s := ⟨_, rfl⟩

theorem OnlyTx.trans {s t u : State} (h : OnlyTx s t) (h' : OnlyTx t u) : OnlyTx s u := by
  obtain ⟨_, rfl⟩ := h
  obtain ⟨_, rfl⟩ := h'
  exact ⟨_, rfl⟩

theorem OnlyTx.putTx (s : State) (node tc : Nat) (x : TxStream) : OnlyTx s (putTx s node tc x) := ⟨_, rfl⟩

theorem OnlyTx.foldl {α} {f : State → α → State} (hf : ∀ s a, OnlyTx s (f s a)) (l : List α) (s : State) :
    OnlyTx s (l.foldl f s) := by
  induction l generalizing s with
  | nil => exact .refl s
  | cons a l ih => exact (hf s a).trans (ih _)

theorem OnlyTx.pumpMessages (s : State) (node tc n : Nat) : OnlyTx s (pumpMessages s node tc n) := by
  induction n generalizing s with
  | zero => exact .refl s
  | succ n ih =>
    unfold Machine.pumpMessages
    extract_lets
    split
    · split <;> exact .putTx _ _ _ _
    · split
      · exact .putTx _ _ _ _
      · extract_lets
        split
        · exact (OnlyTx.putTx _ _ _ _).trans (ih _)
        · exact .putTx _ _ _ _

theorem OnlyTx.pump (s : State) (node tc : Nat) : OnlyTx s (pump s node tc) := by
  unfold Machine.pump
  extract_lets
  split
  · exact .refl s
  · exact .pumpMessages s node tc _

theorem OnlyTx.pumpAll (s : State) : OnlyTx s (pumpAll s) := .foldl (fun _ _ => .pump _ _ _) _ _

theorem OnlyTx.boot {s t : State} (h : OnlyTx s t) : t.boot = s.boot := by
  obtain ⟨_, rfl⟩ := h
  rfl

theorem OnlyTx.mem {s t : State} (h : OnlyTx s t) : t.mem = s.mem := by
  obtain ⟨_, rfl⟩ := h
  rfl

/-! Readiness. -/

/-- A unit that may be ready gets its bit, and memory stays. -/
theorem exec_unitReady {s : State} {bit : Nat} (hb : bit < 148) (h : mayBeReady s bit = true) :
    ∃ t, exec (.unitReady bit) s = .next t ∧ t.boot.ready.getLsbD bit = true ∧ t.mem = s.mem := by
  have hset : (setReady s bit).boot.ready.getLsbD bit = true := getLsbD_or_bit _ (by omega)
  have hp := OnlyTx.pumpAll (setReady s bit)
  show ∃ t, execUnitReady bit s = _ ∧ _
  unfold execUnitReady
  rw [if_pos h]
  refine ⟨_, rfl, ?_⟩
  dsimp only
  split
  · split <;> exact ⟨hset, rfl⟩
  · split
    · exact ⟨hp.boot ▸ hset, hp.mem⟩
    · exact ⟨hset, rfl⟩

/-! Retraining. -/

theorem exec_retrainingStart {s : State} {n : Nat} (hn : n < 24) (hr : s.boot.retrain.getLsbD n = true)
    (hready : s.boot.ready.getLsbD n = true) (hd1 : deadlineDues s (2 * n) = []) (hd2 : deadlineDues s (2 * n + 1) = []) :
    ∃ t, exec (.retrainingStart n) s = .next t ∧ t.boot.training.getLsbD n = true := by
  have hready : bitAt s.boot.ready.toNat n = true := by
    rw [bitAt_eq_testBit]
    exact hready
  show ∃ t, execRetrainingStart n s = _ ∧ _
  unfold execRetrainingStart
  rw [hr, hd1, hd2, decide_eq_true hn, hready]
  exact ⟨_, rfl, getLsbD_or_bit _ (by omega)⟩

theorem exec_retrainingEnd {s : State} {n : Nat} (hn : n < 24) (ht : s.boot.training.getLsbD n = true) :
    ∃ t, exec (.retrainingEnd n) s = .next t ∧ t.boot.training.getLsbD n = false ∧ t.boot.retrain.getLsbD n = false ∧
      aget 0 t.boot.params n = aget 0 s.boot.params n + 1 := by
  show ∃ t, execRetrainingEnd n s = _ ∧ _
  unfold execRetrainingEnd
  rw [if_pos ht]
  refine ⟨_, rfl, getLsbD_and_not_bit _ (by omega), getLsbD_and_not_bit _ (by omega), ?_⟩
  exact aget_aput_self 0 s.boot.params n (aget 0 s.boot.params n + 1)

/-! Margins. -/

/-- The bin that a margin solution writes. -/
theorem fld_newBin {b : Nat} (h : b < 4) : fld (BitVec.ofNat 8 (b + 4)) 0 2 = b := by
  have : ∀ b < 4, fld (BitVec.ofNat 8 (b + 4)) 0 2 = b := by decide
  exact this b h

/-- Bins written only where they rise stay as high as they were. -/
theorem bins_rise (was : Nat → Nat) (plan : Nat → Nat) (hp : ∀ c, plan c < 4) (l : List Nat) (m : Assoc (BitVec 8))
    (h : ∀ c, was c ≤ fld (aget 0 m c) 0 2) (c : Nat) :
    was c ≤ fld (aget 0 (l.foldl (fun m c => if was c < plan c then aput 0 m c (BitVec.ofNat 8
        (plan c + 4)) else m) m) c) 0 2 := by
  induction l generalizing m with
  | nil => exact h c
  | cons k l ih =>
    refine ih _ fun j => ?_
    dsimp only
    split
    · next hk =>
      by_cases hj : j = k
      · rw [hj, aget_aput_self, fld_newBin (hp k)]
        exact hk.le
      · rw [aget_aput_ne _ _ _ _ _ hj]
        exact h j
    · exact h j

theorem exec_marginResolve {s : State} (plan : List (Nat × BitVec 3)) (h : resolveCycles ≤ s.clock.toNat - s.boot.solved) :
    ∃ t, exec (.marginResolve plan) s = .next t ∧ t.boot.solved = s.clock.toNat ∧
      ∀ c < Config.clusters, binOf s c ≤ binOf t c := by
  show ∃ t, execMarginResolve plan s = _ ∧ _
  unfold execMarginResolve
  rw [if_pos h]
  refine ⟨_, rfl, rfl, fun c _ => ?_⟩
  exact bins_rise (binOf s) (fun c => min 3 (planBin plan c)) (fun c => by omega) _ s.boot.bins (fun c => Nat.le_refl _) c

/-! Token buckets. -/

/-- What a refill leaves in a bucket. -/
theorem aget_refilled (rate : Nat → Nat) (m : Assoc Nat) (b : Nat) (h : awf 0 m = true) :
    aget 0 (m.filterMap fun t => if t.2 - rate (t.1 / 64) = 0 || rate (t.1 / 64) = 0 then none
      else some (t.1, t.2 - rate (t.1 / 64))) b =
    if rate (b / 64) = 0 then 0 else aget 0 m b - rate (b / 64) := by
  induction m with
  | nil => exact ((if_congr Iff.rfl rfl (Nat.zero_sub _)).trans (ite_self 0)).symm
  | cons p m ih =>
    obtain ⟨j, y⟩ := p
    obtain ⟨-, hlt, hm⟩ := awf_cons.mp h
    have ih := ih hm
    by_cases hj : j = b
    · subst hj
      have habs : aget 0 (m.filterMap fun t => if t.2 - rate (t.1 / 64) = 0 || rate (t.1 / 64) = 0 then none
          else some (t.1, t.2 - rate (t.1 / 64))) j = 0 := by
        refine aget_absent _ _ _ fun q hq => ?_
        obtain ⟨a, ha, he⟩ := List.mem_filterMap.mp hq
        have := hlt a ha
        split at he
        · cases he
        · cases he
          exact Nat.ne_of_gt this
      rw [List.filterMap_cons]
      dsimp only
      have hself : aget 0 ((j, y) :: m) j = y := if_pos rfl
      rw [hself]
      by_cases hr : rate (j / 64) = 0
      · rw [if_pos (by simp [hr]), if_pos hr]
        exact habs
      · rw [if_neg hr]
        by_cases hn : y - rate (j / 64) = 0
        · rw [if_pos (by simp [hn])]
          exact habs.trans hn.symm
        · rw [if_neg (by simp [hn, hr])]
          exact if_pos rfl
    · have hskip : aget 0 ((j, y) :: m) b = aget 0 m b := if_neg hj
      rw [List.filterMap_cons, hskip]
      dsimp only
      by_cases hc : y - rate (j / 64) = 0 ∨ rate (j / 64) = 0
      · rw [if_pos (by simpa using hc)]
        exact ih
      · rw [if_neg (by simpa using hc)]
        exact (if_neg hj).trans ih

/-! The firmware slots. -/

/-- The bytes that a write of an image puts at its offset. -/
theorem writeImage_in (img bs : List Byte) (off i : Nat) (h : i < bs.length) : (writeImage img off bs)[off + i]? = bs[i]? := by
  unfold writeImage
  split
  · next ho => rw [ho, Nat.zero_add]
  · have hlen : ((img ++ List.replicate (off - img.length) 0).take off).length = off := by simp; omega
    rw [List.append_assoc, List.getElem?_append_right (by omega), hlen, Nat.add_sub_cancel_left, List.getElem?_append_left h]

/-- The bytes outside a write stay, but of an image that begins anew. -/
theorem writeImage_out {img bs : List Byte} {off i : Nat} (ho : off ≠ 0) (h : i < off ∨ off + bs.length ≤ i)
    (hi : i < img.length) : (writeImage img off bs)[i]? = img[i]? := by
  have hlen : ((img ++ List.replicate (off - img.length) 0).take off).length = off := by simp; omega
  unfold writeImage
  rw [if_neg ho, List.append_assoc]
  rcases h with h | h
  · rw [List.getElem?_append_left (by omega), List.getElem?_take_of_lt h, List.getElem?_append_left hi]
  · rw [List.getElem?_append_right (by omega), hlen, List.getElem?_append_right (by omega), List.getElem?_drop]
    congr 1
    omega

/-! Stored errors. -/

/-- What is kept about a register after it is written. -/
theorem regInfo_putInfo_self (acc : Bool) (sl : Slice) (r : Nat) (x : RegInfo) : regInfo acc (putInfo acc sl r x) r = x := by
  cases acc <;> exact aget_aput_self _ _ _ _

/-- An error in a register of a team marks its lanes. -/
theorem errorIn_register (acc : Bool) (s : State) (k r : Nat) (lanes : BitVec 4) :
    (regInfo acc (sliceAt (putSlice s k (putInfo acc (sliceAt s k) r
      { regInfo acc (sliceAt s k) r with bad := (regInfo acc (sliceAt s k) r).bad ||| lanes })) k) r).bad =
      (regInfo acc (sliceAt s k) r).bad ||| lanes := by
  rw [sliceAt_putSlice_self, regInfo_putInfo_self]

/-- An error event that marks a part of an anvil marks what it puts there. -/
theorem errorIn_anvil (e : ErrorPlace) (s : State) (n : Nat) (v : Anvil) {P : Anvil → Prop}
    (h : execUncorrectableError e s = .next (putAnvil s n v)) (hp : P v) :
    ∃ t, exec (.uncorrectableError e) s = .next t ∧ P (anvilAt t n) :=
  ⟨_, h, Eq.mpr (congrArg P (aget_aput_self Anvil.zero s.anvils n v)) hp⟩

/-! Registers of the window. -/

/-- An event that goes on is what the state it gives says. -/
theorem next_nextOr (s : State) (o : Host.Outcome State Fault Refusal) (h : ∃ t, o = .next t) : .next (nextOr s o) = o := by
  obtain ⟨t, rfl⟩ := h
  rfl

theorem windowWrite_reset (s : State) (n x : Nat) : windowWrite s 0x028 n x = writeReset s x := if_pos rfl

theorem windowWrite_retrain (s : State) (n x : Nat) :
    windowWrite s 0x030 n x = nextOr s (execRetrain (BitVec.ofNat 32 x) s) := by
  unfold windowWrite
  rw [if_neg (by decide), if_pos rfl]

theorem windowWrite_evcons (s : State) (n x : Nat) :
    windowWrite s 0x038 n x = nextOr s (execEvcons (BitVec.ofNat 32 x) s) := by
  unfold windowWrite
  rw [if_neg (by decide), if_neg (by decide), if_pos rfl]

/-- RESET takes 1 and 2 alone. -/
theorem writeReset_other (s : State) {x : Nat} (h1 : x ≠ 1) (h2 : x ≠ 2) : writeReset s x = s := by
  unfold writeReset
  rw [if_neg h1, if_neg h2]

/-- A write of a register is a write of the window. -/
theorem exec_registerWrite_reg (s : State) (off : Nat) (x : Word64) :
    exec (.registerWrite (.reg off x)) s = .next (windowWrite s off 8 x.toNat) := rfl

/-- Settles O59: each event by what its branch writes. -/
theorem serviceEvents : Obligations.ServiceEvents := by
  intro s
  refine ⟨fun bit hb h => exec_unitReady hb h, fun _ => rfl, ?start, ?stop, ?margin, ?refill, ?slot, ?marker, ?mem, ?tile, ?table,
    ?weight, ?reset, ?retrain, ?evcons, ?register⟩
  case start => exact fun n hn hr hready hd1 hd2 => exec_retrainingStart hn hr hready hd1 hd2
  case stop => exact fun n hn ht => exec_retrainingEnd hn ht
  case margin => exact fun plan h => exec_marginResolve plan h
  case refill =>
    intro h
    show ∃ t, execTokenRefill s = _ ∧ _
    unfold execTokenRefill
    rw [if_pos h]
    exact ⟨_, rfl, rfl, fun hw b => aget_refilled (vdevRate s) s.tokens b hw⟩
  case slot =>
    intro b off bs
    cases b
    case false =>
      exact ⟨_, rfl, fun i hi => writeImage_in s.boot.slotA bs off i hi, rfl, fun h => if_pos h,
        fun ho i hi hl => writeImage_out ho hi hl, rfl, rfl, rfl⟩
    case true =>
      exact ⟨_, rfl, fun i hi => writeImage_in s.boot.slotB bs off i hi, rfl, fun h => if_pos h,
        fun ho i hi hl => writeImage_out ho hi hl, rfl, rfl, rfl⟩
  case marker =>
    intro c x
    cases c
    case false => exact ⟨_, rfl, rfl, by simp⟩
    case true => exact ⟨_, rfl, rfl, by simp⟩
  case mem => exact fun u => ⟨_, rfl, aget_aput_self false s.poison u true, rfl⟩
  case tile =>
    intro n x hn hx
    refine errorIn_anvil (.tile n x) s n { anvilAt s n with badTile := x :: (anvilAt s n).badTile } (P :=
        fun v => x ∈ v.badTile) ?_ List.mem_cons_self
    exact congrArg Host.Outcome.next (if_pos (by simp [hn, hx]))
  case table =>
    intro n x hn hx
    refine errorIn_anvil (.table n x) s n { anvilAt s n with badTab := x :: (anvilAt s n).badTab } (P :=
        fun v => x ∈ v.badTab) ?_ List.mem_cons_self
    exact congrArg Host.Outcome.next (if_pos (by simp [hn, hx]))
  case weight =>
    intro n b hn hx
    refine errorIn_anvil (.weight n b) s n { anvilAt s n with badWb := b :: (anvilAt s n).badWb } (P :=
        fun v => b ∈ v.badWb) ?_ List.mem_cons_self
    exact congrArg Host.Outcome.next (if_pos (by simp [hn, hx]))
  case reset =>
    intro x h1 h2
    have h1 : x.toNat ≠ 1 := fun h => h1 (BitVec.eq_of_toNat_eq h)
    have h2 : x.toNat ≠ 2 := fun h => h2 (BitVec.eq_of_toNat_eq h)
    rw [exec_registerWrite_reg, windowWrite_reset, writeReset_other s h1 h2]
  case retrain =>
    intro x
    rw [exec_registerWrite_reg, windowWrite_retrain]
    exact next_nextOr s (execRetrain _ s) ⟨_, rfl⟩
  case evcons =>
    intro x
    rw [exec_registerWrite_reg, windowWrite_evcons]
    exact next_nextOr s (execEvcons _ s) ⟨_, rfl⟩
  case register =>
    intro k r team lanes ht hk
    refine ⟨fun hr => ⟨_, ?_, errorIn_register false s k r lanes⟩, fun hr => ⟨_, ?_, errorIn_register true s k r lanes⟩⟩
    · exact congrArg Host.Outcome.next (if_pos (by rw [ht]; simp [hk, hr]))
    · exact congrArg Host.Outcome.next (if_pos (by rw [ht]; simp [hk, hr]))

end Sys2Proof.Proofs
end

section
/-! PROOFS. The step: a scheduled move of a powered machine runs its turn, and an issue runs what its unit fetches. -/

namespace Sys2Proof.Proofs

open Sys2Proof.Machine Sys2Proof.Safety Sys2Proof.Laws

/-- A powered machine runs the turn that its schedule names. -/
theorem step_scheduled {s : State} {m : Move} {rest : List Move} (hs : s.sched = m :: rest) (hp : s.boot.powered = true) :
    step s = runTurn exec (beginMove s m rest) m.turn := by
  unfold step runMove
  rw [hs]
  dsimp only
  rw [hp, Bool.true_or, if_pos rfl]

/-- A unit that is there and may issue runs the instruction that it fetches. -/
theorem runIssue_instr {ex : Instr → State → Host.Outcome State Fault Refusal} {s : State} {u : Issuer} {i : Instr}
    (hp : unitPresent s u = true) (hi : unitIssues s u = true) (hf : fetchUnit s u = .instr i) :
    runIssue ex s u = mapNext (afterIssue ex s u (strokeCycles i)) (onUnit (ex i) s u) := by
  unfold runIssue
  rw [hp, hi, Bool.not_true, if_neg Bool.false_ne_true, if_neg Bool.false_ne_true, hf]

/-! What a unit fetches. -/

theorem fetchedLane_ok {w : Word32} {i : Instr} (h : decodeLane w = .ok i) : fetchedLane w = .instr i := by
  unfold fetchedLane
  rw [h]

theorem fetchedLane_illegal {w : Word32} (h : decodeLane w = .error .illegalOp) : fetchedLane w = .instr .illegalOp := by
  unfold fetchedLane
  rw [h]

theorem fetchedScribe_ok {w : Word32} {i : Instr} (h : decodeScribe w = .ok i) : fetchedScribe w = .instr i := by
  unfold fetchedScribe
  rw [h]

theorem fetchedScribe_error {w : Word32} {r} (h : decodeScribe w = .error r) : fetchedScribe w = .instr .scribeIllegal := by
  unfold fetchedScribe
  rw [h]

theorem fetchImage_word {s : State} {ctx launch off : Nat} {w : Word32} (h : imageWord s ctx launch off = some w)
    (dec : Word32 → Fetched) : fetchImage s ctx launch off dec = dec w := by
  unfold fetchImage
  rw [h]

/-- A unit of a slice fetches by its stream. -/
theorem fetchUnit_lane (s : State) (k : Nat) (acc : Bool) :
    fetchUnit s (if acc then .access k else .compute k) = fetchLane s k acc := by cases acc <;> rfl

/-- A stream fetches from its launch's image, inside its code section alone. -/
theorem fetchLane_eq {s : State} {k : Nat} {team : Team} {l : Launch} (ht : teamAt s (k / 32) = some team)
    (hl : launchAt s team.launch = some l) (acc : Bool) : fetchLane s k acc =
      if inCode l.hdr acc (streamOf acc (sliceAt s k)).pc.toNat
      then fetchImage s team.ctx team.launch (streamOf acc (sliceAt s k)).pc.toNat fetchedLane else .instr .fetchRange := by
  unfold fetchLane
  rw [ht]
  dsimp only
  rw [hl]

/-- A trap context fetches the word that its PC translates to, in ready memory of this package. -/
theorem fetchTrap_word {s : State} {core : Nat} {leaf : TlbLeaf} (hpc : (sliceAt s
    (trapBase + core)).a.pc.toNat < Config.sramBase)
    (hal : (sliceAt s (trapBase + core)).a.pc.toNat % 4 = 0)
    (hl : tlbFind s (vdevOf (keyCtx s (trapBase + core))) (sliceAt s (trapBase + core)).a.pc.toNat = some leaf)
    (hc : bitAt leaf.pte.toNat 3 = false)
    (hh : isRemote (leafTarget leaf (sliceAt s (trapBase + core)).a.pc.toNat) = false)
    (hr : targetReady s (leafTarget leaf (sliceAt s (trapBase + core)).a.pc.toNat) = true)
    (hv : served s (vdevOf (keyCtx s (trapBase + core))) (leafTarget leaf (sliceAt s (trapBase + core)).a.pc.toNat) = true) :
    fetchTrap s core =
      fetchedLane (BitVec.ofNat 32 (seenVal s (leafTarget leaf (sliceAt s (trapBase + core)).a.pc.toNat) 4)) := by
  unfold fetchTrap
  dsimp only
  rw [if_neg (by rw [decide_eq_false (Nat.not_le.mpr hpc), decide_eq_false (not_not.mpr hal)]; exact Bool.false_ne_true), hl]
  dsimp only
  rw [hc, if_neg Bool.false_ne_true, hh, if_neg Bool.false_ne_true, hr, hv, Bool.and_self, if_pos rfl]

/-- A scribe program in its section fetches from its launch's image. -/
theorem fetchScribe_word {s : State} {p : Prog} {w : Word32} (hc : p.count < 65536) (hi : inScribe s p.launch p.regs.pc = true)
    (hw : imageWord s p.ctx p.launch p.regs.pc = some w) : fetchScribe s p = fetchedScribe w := by
  unfold fetchScribe
  rw [if_neg (Nat.not_le.mpr hc), hi, Bool.not_true, if_neg Bool.false_ne_true, fetchImage_word hw]

/-- Settles O5: a scheduled event runs as itself, and an issue runs what each kind of unit fetches. -/
theorem stepRunsDecoded : Obligations.StepRunsDecoded := by
  intro s m rest hs hp s0
  refine ⟨fun i hi => ?event, fun u hu hpres hiss => ?issue⟩
  case event =>
    rw [step_scheduled hs hp, hi]
    rfl
  have issues : ∀ i, fetchUnit s0 u = .instr i →
      step s = mapNext (afterIssue exec s0 u (strokeCycles i)) (onUnit (exec i) s0 u) := by
    intro i hf
    rw [step_scheduled hs hp, hu]
    exact runIssue_instr hpres hiss hf
  intro runs
  refine ⟨?lane, ?trap, ?scribe⟩
  case lane =>
    intro k acc team l huk ht hl pc
    have hf : fetchUnit s0 u = fetchLane s0 k acc := huk ▸ fetchUnit_lane s0 k acc
    refine ⟨fun hc => issues _ ?_, fun w hc hw => ⟨fun i hd => issues i ?_, fun hd => issues _ ?_⟩⟩
    · rw [hf, fetchLane_eq ht hl, hc, if_neg Bool.false_ne_true]
    · rw [hf, fetchLane_eq ht hl, hc, if_pos rfl, fetchImage_word hw, fetchedLane_ok hd]
    · rw [hf, fetchLane_eq ht hl, hc, if_pos rfl, fetchImage_word hw, fetchedLane_illegal hd]
  case trap =>
    intro core leaf huc pc t hpc hal hl hc hh hr hv i hd
    refine issues i ?_
    rw [huc]
    exact (fetchTrap_word hpc hal hl hc hh hr hv).trans (fetchedLane_ok hd)
  case scribe =>
    intro n x p w hus hprog hcount hin hw
    have hf : fetchUnit s0 u = fetchedScribe w := by
      rw [hus]
      unfold fetchUnit
      dsimp only
      rw [hprog]
      exact fetchScribe_word hcount hin hw
    exact ⟨fun i hd => issues i (hf.trans (fetchedScribe_ok hd)), fun r hd => issues _ (hf.trans (fetchedScribe_error hd))⟩

end Sys2Proof.Proofs
end

section
/-! PROOFS. Placement: a launch that a cluster can hold is placed, and the slices of a team start at their entries. -/

namespace Sys2Proof.Proofs

open Sys2Proof.Machine Sys2Proof.Safety Sys2Proof.Laws

/-- A slice as a start leaves it (R23). -/
def startedSlice (s : State) (l : Launch) (j : Nat) : Slice :=
  { Slice.zero with
    c := { Stream.zero with pc := BitVec.ofNat 64 (fld l.hdr 224 32), age := s.clock.toNat }
    a := { Stream.zero with pc := BitVec.ofNat 64 (fld l.hdr 160 32), age := s.clock.toNat }
    unit := j / 8 * 8
    since := s.clock.toNat }

/-- Slices written one after another under rising keys: each written one is what was written. -/
theorem sliceAt_foldl_putSlice (f : State → Nat → Slice) (hf : ∀ s k x j, f (putSlice s k x) j = f s j) (t : Nat) (l : List Nat)
    (s : State) (j : Nat) :
    sliceAt (l.foldl (fun s j => putSlice s (32 * t + j) (f s j)) s) (32 * t + j) =
      if j ∈ l then f s j else sliceAt s (32 * t + j) := by
  induction l generalizing s with
  | nil => rfl
  | cons k l ih =>
    rw [List.foldl_cons, ih, hf]
    by_cases hl : j ∈ l
    · rw [if_pos hl, if_pos (List.mem_cons_of_mem _ hl)]
    · rw [if_neg hl]
      by_cases hk : j = k
      · rw [hk, sliceAt_putSlice_self, if_pos List.mem_cons_self]
      · rw [sliceAt_putSlice_ne _ _ _ (by omega), if_neg (List.not_mem_cons_of_ne_of_not_mem hk hl)]

/-- The slices of a team that starts. -/
theorem sliceAt_startSlices (s : State) (t : Nat) (team : Team) (l : Launch) {j : Nat} (h : j < team.s) :
    sliceAt (startSlices s t team l) (32 * t + j) = startedSlice s l j :=
  (sliceAt_foldl_putSlice (fun s j => startedSlice s l j) (fun _ _ _ _ => rfl) t (sliceNums team) s j).trans
    (if_pos (List.mem_range.mpr h))

/-- Settles O51: placement by its branch, and a started slice by its definition. -/
theorem teamsStart : Obligations.TeamsStart := by
  refine ⟨?placement, ?team, ?slices⟩
  case placement =>
    intro s lid l c n hl hp hq
    show execTeamPlacement lid s = _
    unfold execTeamPlacement
    rw [hl]
    dsimp only
    rw [if_pos hp, hq]
  case team =>
    intro s lid l core base save q size rank
    exact ⟨BitVec.toNat_ofNat _ _, rfl, rfl, rfl, rfl, rfl, rfl⟩
  case slices =>
    intro s t team l j hj sl
    have h : sl = startedSlice s l j := sliceAt_startSlices s t team l hj
    rw [h]
    exact ⟨rfl, rfl, fun r i => ⟨regVal_zero true r i, regVal_zero false r i⟩, fun _ => rfl, rfl, rfl, rfl, rfl, rfl, rfl, rfl,
      rfl, rfl, rfl, rfl, rfl, rfl, rfl, rfl, fun _ i => qget_zeros _ i, rfl, rfl⟩

end Sys2Proof.Proofs
end

section
/-! PROOFS. The scratchpad's allotments (R105): whose bytes the pieces of an access are. -/

namespace Sys2Proof.Proofs

open Sys2Proof.Machine Sys2Proof.Safety Sys2Proof.Laws

/-- A value that a map gives, other than its default, stands in it. -/
theorem mem_of_aget {α} {d x : α} {m : Assoc α} {k : Nat} (h : aget d m k = x) (hx : x ≠ d) : (k, x) ∈ m := by
  induction m with
  | nil => exact absurd h.symm hx
  | cons p m ih =>
    obtain ⟨j, y⟩ := p
    by_cases hj : j = k
    · have hy : aget d ((j, y) :: m) k = y := if_pos hj
      rw [← hj, ← h, hy]
      exact List.mem_cons_self
    · have hm : aget d ((j, y) :: m) k = aget d m k := if_neg hj
      exact List.mem_cons_of_mem _ (ih (hm ▸ h))

/-- What holds for every element of a list that an optional map has gone through. -/
theorem exists_of_mapM {α β} {f : α → Option β} {l : List α} {r : List β} (h : l.mapM f = some r) {a : α} (ha : a ∈ l) :
    ∃ b ∈ r, f a = some b := by
  induction l generalizing r with
  | nil => cases ha
  | cons x l ih =>
    simp only [List.mapM_cons, Option.bind_eq_bind, Option.bind_eq_some_iff, Option.pure_def, Option.some.injEq] at h
    obtain ⟨y, hy, ys, hys, rfl⟩ := h
    rcases List.mem_cons.mp ha with rfl | ha
    · exact ⟨y, List.mem_cons_self, hy⟩
    · obtain ⟨b, hb, hf⟩ := ih hys ha
      exact ⟨b, List.mem_cons_of_mem _ hb, hf⟩

/-- The team that owns a byte for a context holds it, on the core or saved from it. -/
theorem sramOwner_holds {s : State} {ctx core off : Nat} {x : Nat × Team} (h : sramOwner s ctx core off = some x) :
    holdsByte ctx off x.2 = true ∧ ∃ k, (k, some x.2) ∈ s.teams ∧ (k / 16 = core ∨ x.2.phase = .saved ∧ x.2.home = core) := by
  unfold sramOwner at h
  split at h
  · next y hy =>
    cases h
    obtain ⟨p, hp, hf⟩ := List.exists_of_findSome?_eq_some hy
    split at hf
    · next t ht =>
      split at hf
      · next hh =>
        cases hf
        have hp16 : p < 16 := (by decide : ∀ p ∈ placeNums, p < 16) p hp
        exact ⟨hh, _, mem_of_aget ht (Option.some_ne_none t), .inl (by unfold teamKey; omega)⟩
      · cases hf
    · cases hf
  · obtain ⟨p, hp, hf⟩ := List.exists_of_findSome?_eq_some h
    split at hf
    · next t ht =>
      split at hf
      · next hh =>
        cases hf
        rw [Bool.and_eq_true, Bool.and_eq_true, beq_iff_eq, beq_iff_eq] at hh
        exact ⟨hh.2, p.1, ht ▸ hp, .inr hh.1⟩
      · cases hf
    · cases hf

/-- The owner of a piece holds each byte from the piece's start to the end of its page or of the access. -/
theorem pieceOwner_holds {s : State} {ctx core stop o b : Nat} {x : Nat × Team} (h : pieceOwner s ctx core stop o = some x)
    (ho : o ≤ b) (hs : b < stop) (hp : b < (o / 4096 + 1) * 4096) : x.2.ctx = ctx ∧ x.2.base ≤ b ∧ b < x.2.base + x.2.size ∧
      ∃ k, (k, some x.2) ∈ s.teams ∧ (k / 16 = core ∨ x.2.phase = .saved ∧ x.2.home = core) := by
  unfold pieceOwner at h
  split at h
  · next y hy =>
    split at h
    · next hlen =>
      cases h
      obtain ⟨hh, hk⟩ := sramOwner_holds hy
      simp only [holdsByte, Bool.and_eq_true, decide_eq_true_eq] at hh
      obtain ⟨⟨hctx, hbase⟩, -⟩ := hh
      refine ⟨hctx, hbase.trans ho, ?_, hk⟩
      dsimp only
      omega
    · cases h
  · cases h

/-- The piece of an access that a byte lies in: the first, or one that begins with the byte's page. -/
theorem piece_of_byte (off n i : Nat) (h : i < n) :
    ∃ o ∈ off :: ((List.range (n / 4096 + 1)).map fun j => (off / 4096 + 1 + j) * 4096).filter fun o => decide (o < off + n),
      o ≤ off + i ∧ off + i < (o / 4096 + 1) * 4096 := by
  by_cases hp : (off + i) / 4096 = off / 4096
  · exact ⟨off, List.mem_cons_self, by omega, by omega⟩
  · refine ⟨(off + i) / 4096 * 4096, List.mem_cons_of_mem _ (List.mem_filter.mpr ⟨?_, decide_eq_true (by omega)⟩), by omega,
        by omega⟩
    refine List.mem_map.mpr ⟨(off + i) / 4096 - off / 4096 - 1, List.mem_range.mpr (by omega), ?_⟩
    congr 1
    omega

/-- Where teams of the context own every piece of an access, one of them holds each of its bytes. -/
theorem rangeOwners_holds {s : State} {ctx core off n i : Nat} {ts : List (Nat × Team)}
    (h : rangeOwners s ctx core off n = some ts) (hi : i < n) : ∃ x ∈ ts, x.2.ctx = ctx ∧ x.2.base ≤ off + i ∧
      off + i < x.2.base + x.2.size ∧ ∃ k, (k, some x.2) ∈ s.teams ∧ (k / 16 = core ∨ x.2.phase = .saved ∧ x.2.home = core) := by
  obtain ⟨o, ho, hle, hlt⟩ := piece_of_byte off n i hi
  obtain ⟨x, hx, hf⟩ := exists_of_mapM h ho
  exact ⟨x, hx, pieceOwner_holds hf hle (by omega) hlt⟩

/-- Settles O9: an access that succeeds waits for no team that holds a piece, so none of these is saved; a byte that no team of the
context holds leaves its piece without an owner. -/
theorem scratchRules : Obligations.ScratchRules := by
  intro s q refused a core off hr
  refine ⟨fun t ht => ?inside, fun i hi hout ha hal hsp hconv => ?outside⟩
  case inside =>
    obtain ⟨-, -, ⟨-, -, ts, hts, hw⟩, rfl⟩ := (checkAddr_sram_ok_iff hr).mp ht
    refine ⟨rfl, fun i hi => ?_⟩
    obtain ⟨x, hx, hctx, hlo, hhi, k, hk, hc⟩ := rangeOwners_holds hts hi
    have hlive : x.2.phase ≠ .saved := by
      intro hsaved
      have := List.any_eq_false.mp hw x hx
      exact this (by simp [sramWaits, hsaved])
    exact ⟨k, x.2, hk, hc.resolve_right fun h => hlive h.1, hlive, hctx, hlo, hhi⟩
  case outside =>
    have hnone : rangeOwners s q.ctx core off q.bytes = none := by
      refine Option.eq_none_iff_forall_ne_some.mpr fun ts hts => ?_
      obtain ⟨x, -, hctx, hlo, hhi, k, hk, hc⟩ := rangeOwners_holds hts hi
      rcases hout k x.2 hk hc hctx with h | h <;> omega
    rw [checkAddr, if_neg (Nat.not_le.mpr ha), if_neg (not_not.mpr hal), hr]
    dsimp only
    split
    · next c hc => exact absurd hc (hsp c)
    · rw [hconv, if_neg Bool.false_ne_true, hnone]

end Sys2Proof.Proofs
end

section
/-! PROOFS. What sending, posting and failing leave: the rest of the machine, streams that have failed, and requests that are
noted. -/

namespace Sys2Proof.Proofs

open Sys2Proof.Machine Sys2Proof.Safety Sys2Proof.Laws

/-- The stream under a key. -/
def txKey (s : State) (k : Nat) : TxStream := aget TxStream.zero s.fabric.tx k

theorem txAt_eq_txKey (s : State) (node tc : Nat) : txAt s node tc = txKey s (4 * node + tc) := rfl

theorem txKey_putTx (s : State) (node tc : Nat) (x : TxStream) (k : Nat) :
    txKey (putTx s node tc x) k = if k = 4 * node + tc then x else txKey s k := by
  by_cases h : k = 4 * node + tc
  · rw [if_pos h, h]
    exact aget_aput_self _ _ _ _
  · rw [if_neg h]
    exact aget_aput_ne _ _ _ _ _ h

/-- What sending and posting leave: all but memory, what waits for memory, and the fabric; there a failed stream stays failed with
its code, and a noted request stays noted, and lost where it was. -/
structure FabricKept (s t : State) : Prop where
  rest : ∃ n m k d p q f, t = { s with serial := n, mem := m, keyed := k, desc := d, poison := p, posted := q, fabric := f }
  failed : ∀ k c, (txKey s k).failed = some c → (txKey t k).failed = some c
  reqs : ∀ r ∈ s.fabric.reqs, ∃ u ∈ t.fabric.reqs, u.id = r.id ∧ (r.doomed.isSome = true → u.doomed.isSome = true)

namespace FabricKept

theorem of_reqs {s t : State} (rest : ∃ n m k d p q f,
      t = { s with serial := n, mem := m, keyed := k, desc := d, poison := p, posted := q, fabric := f })
    (failed : ∀ k c, (txKey s k).failed = some c → (txKey t k).failed = some c)
    (reqs : ∀ r ∈ s.fabric.reqs, r ∈ t.fabric.reqs) : FabricKept s t :=
  ⟨rest, failed, fun r hr => ⟨r, reqs r hr, rfl, id⟩⟩

theorem refl (s : State) : FabricKept s s := of_reqs ⟨_, _, _, _, _, _, _, rfl⟩ (fun _ _ h => h) fun _ h => h

theorem trans {s t u : State} (h : FabricKept s t) (g : FabricKept t u) : FabricKept s u := by
  refine ⟨?_, fun k c hk => g.failed k c (h.failed k c hk), fun r hr => ?_⟩
  · obtain ⟨_, _, _, _, _, _, _, rfl⟩ := h.rest
    obtain ⟨_, _, _, _, _, _, _, rfl⟩ := g.rest
    exact ⟨_, _, _, _, _, _, _, rfl⟩
  · obtain ⟨x, hx, hid, hd⟩ := h.reqs r hr
    obtain ⟨y, hy, hid', hd'⟩ := g.reqs x hx
    exact ⟨y, hy, hid'.trans hid, fun h => hd' (hd h)⟩

theorem foldl {α} {f : State → α → State} (l : List α) (s : State) (h : ∀ s, ∀ x ∈ l, FabricKept s (f s x)) :
    FabricKept s (l.foldl f s) := by
  induction l generalizing s with
  | nil => exact refl s
  | cons a l ih => exact (h s a List.mem_cons_self).trans (ih _ fun t x hx => h t x (List.mem_cons_of_mem _ hx))

/-- A stream written with the mark that it had, or that had none. -/
theorem putTx {s : State} {node tc : Nat} {x : TxStream}
    (h : (txAt s node tc).failed = none ∨ x.failed = (txAt s node tc).failed) : FabricKept s (putTx s node tc x) := by
  refine of_reqs ⟨_, _, _, _, _, _, _, rfl⟩ (fun k c hk => ?_) fun _ h => h
  rw [txKey_putTx]
  split
  · next he =>
    rw [he, ← txAt_eq_txKey] at hk
    rcases h with h | h
    · rw [h] at hk
      cases hk
    · rw [h, hk]
  · exact hk

theorem putRx (s : State) (node tc : Nat) (x : RxStream) : FabricKept s (putRx s node tc x) :=
  of_reqs ⟨_, _, _, _, _, _, _, rfl⟩ (fun _ _ h => h) fun _ h => h

theorem pumpMessages (s : State) (node tc n : Nat) : FabricKept s (pumpMessages s node tc n) := by
  induction n generalizing s with
  | zero => exact refl s
  | succ n ih =>
    unfold Machine.pumpMessages
    extract_lets
    split
    · split <;> exact putTx (.inr rfl)
    · split
      · exact putTx (.inr rfl)
      · extract_lets
        split
        · refine trans ?_ (ih _)
          exact putTx (.inr rfl)
        · exact putTx (.inr rfl)

theorem pump (s : State) (node tc : Nat) : FabricKept s (pump s node tc) := by
  unfold Machine.pump
  extract_lets
  split
  · exact refl s
  · exact pumpMessages s node tc _

theorem pumpAll (s : State) : FabricKept s (pumpAll s) := foldl _ _ fun _ _ _ => pump _ _ _

theorem sendOn (s : State) (entry node tc : Nat) (m : Msg) : FabricKept s (sendOn s entry node tc m) := by
  unfold Machine.sendOn
  extract_lets
  refine trans ?_ (pump _ _ _)
  exact putTx (.inr rfl)

theorem addReq (s : State) (owner : RemoteOwner) (part node tc : Nat) (doomed : Option Nat) :
    FabricKept s (addReq s owner part node tc doomed) :=
  of_reqs ⟨_, _, _, _, _, _, _, rfl⟩ (fun _ _ h => h) fun _ h => List.mem_append_left _ h

theorem storeDesc (s : State) (key loc : Nat) (bs : List Byte) (d : BitVec 16) : FabricKept s (storeDesc s key loc bs d) :=
  of_reqs ⟨_, _, _, _, _, _, _, rfl⟩ (fun _ _ h => h) fun _ h => h

theorem storeAt (s : State) (loc : Nat) (bs : List Byte) : FabricKept s (storeAt s loc bs) := by
  unfold Machine.storeAt
  split
  · exact refl s
  · split
    · exact of_reqs ⟨_, _, _, _, _, _, _, rfl⟩ (fun _ _ h => h) fun _ h => h
    · exact storeDesc _ _ _ _ _

theorem peerReset (s : State) (node : Nat) : FabricKept s (peerReset s node) := foldl _ _ fun _ _ _ => putRx _ _ _ _

/-- The requests of a stream are lost. -/
theorem doom (s : State) (p : RemoteReq → Bool) (code : Nat) : FabricKept s { s with fabric := { s.fabric with
    reqs := s.fabric.reqs.map fun r => if p r && r.doomed.isNone then { r with doomed := some code } else r } } := by
  refine ⟨⟨_, _, _, _, _, _, _, rfl⟩, fun _ _ h => h, fun r hr => ⟨_, List.mem_map_of_mem hr, ?_⟩⟩
  split
  · exact ⟨rfl, fun _ => rfl⟩
  · exact ⟨rfl, id⟩

theorem loseStream {s : State} {node tc : Nat} (code entry : Nat) (h : (txAt s node tc).failed = none) :
    FabricKept s (loseStream s node tc code entry) := by
  unfold Machine.loseStream
  extract_lets _ s1 s2
  have h1 : FabricKept s s1 := putTx (.inl h)
  have h2 : FabricKept s1 s2 := by
    unfold s2
    split
    · exact peerReset s1 node
    · exact refl s1
  exact (h1.trans h2).trans ((doom s2 (fun r => r.node = node && r.tc = tc) code).trans (pumpAll _))

theorem postWrite {s : State} {fail : State → Nat → State} (part : Nat) (owner : RemoteOwner) (ord fa : Nat) (bs : List Byte)
    (hf : ∀ c, FabricKept s (fail s c)) : FabricKept s (postWrite s part owner ord fa bs fail) := by
  unfold Machine.postWrite
  extract_lets
  split
  · exact storeAt _ _ _
  · split
    · exact hf 4
    · split
      · exact hf _
      · exact foldl _ _ fun _ _ _ => (sendOn _ _ _ _ _).trans (addReq _ _ _ _ _ _)

theorem fabricEvent (s : State) (code port detail node tc part : Nat) :
    FabricKept s (fabricEvent s code port detail node tc part) := by
  unfold Machine.fabricEvent
  extract_lets f base len w body s1 node'
  split
  · exact of_reqs ⟨_, _, _, _, _, _, _, rfl⟩ (fun _ _ h => h) fun _ h => h
  · have h1 : FabricKept s s1 := of_reqs ⟨_, _, _, _, _, _, _, rfl⟩ (fun _ _ h => h) fun _ h => h
    refine h1.trans (postWrite 0 .none 2 _ _ fun c => ?_)
    split
    · next hc => exact loseStream 4 0 (Option.isNone_iff_eq_none.mp ((Bool.and_eq_true_iff.mp hc).2))
    · exact refl s1

theorem failStreamBy (s : State) (node tc code entry port : Nat) : FabricKept s (failStreamBy s node tc code entry port) := by
  unfold Machine.failStreamBy
  split
  · exact refl s
  · next h => exact (loseStream code entry (by simpa using h)).trans (fabricEvent ..)

theorem failStream (s : State) (node tc code : Nat) : FabricKept s (failStream s node tc code) := failStreamBy ..

theorem sendRequest (s : State) (owner : RemoteOwner) (part entry tc : Nat) (m : Msg) :
    FabricKept s (sendRequest s owner part entry tc m) := by
  unfold Machine.sendRequest
  extract_lets
  split
  · exact (failStreamBy ..).trans (addReq ..)
  · split
    · exact addReq ..
    · exact (sendOn ..).trans (addReq ..)

theorem failOver (s : State) (entry route : Nat) : FabricKept s (failOver s entry route) := by
  unfold Machine.failOver
  extract_lets s1
  refine FabricKept.trans (t := s1) (foldl _ _ fun s p _ => ?_) (pumpAll _)
  dsimp only
  split
  · exact putTx (.inr rfl)
  · exact refl s

end FabricKept

/-! What the frame says of the fields that it names. -/

section
variable {s t : State} (h : FabricKept s t)
include h

theorem FabricKept.dests : t.dests = s.dests := by
  obtain ⟨_, _, _, _, _, _, _, rfl⟩ := h.rest
  rfl

theorem FabricKept.boot : t.boot = s.boot := by
  obtain ⟨_, _, _, _, _, _, _, rfl⟩ := h.rest
  rfl

theorem FabricKept.flights : t.flights = s.flights := by
  obtain ⟨_, _, _, _, _, _, _, rfl⟩ := h.rest
  rfl

theorem FabricKept.vdevs : t.vdevs = s.vdevs := by
  obtain ⟨_, _, _, _, _, _, _, rfl⟩ := h.rest
  rfl

theorem FabricKept.packets : t.packets = s.packets := by
  obtain ⟨_, _, _, _, _, _, _, rfl⟩ := h.rest
  rfl

theorem FabricKept.destAt (i : Nat) : destAt t i = destAt s i := by
  unfold Machine.destAt
  rw [h.dests]

end

end Sys2Proof.Proofs
end

section
/-! PROOFS. Acks, links, routes and answers. -/

namespace Sys2Proof.Proofs

open Sys2Proof.Machine Sys2Proof.Safety Sys2Proof.Laws

/-! Acks: sending moves flits to the retry buffer and keeps their sequence numbers. -/

/-- The sequence numbers of the flits that a stream still holds: sent ones without an ack, then unsent ones. -/
def flitSeqs (x : TxStream) : List (BitVec 16) := x.unacked.map (fun u => u.flit.seq) ++ x.queue.map fun f => f.1.seq

/-- Every stream holds the flits that it held. -/
def SeqsKept (s t : State) : Prop := ∀ k, flitSeqs (txKey t k) = flitSeqs (txKey s k)

namespace SeqsKept

theorem refl (s : State) : SeqsKept s s := fun _ => rfl

theorem trans {s t u : State} (h : SeqsKept s t) (g : SeqsKept t u) : SeqsKept s u := fun k => (g k).trans (h k)

theorem putTx {s : State} {node tc : Nat} {x : TxStream} (h : flitSeqs x = flitSeqs (txAt s node tc)) :
    SeqsKept s (putTx s node tc x) := by
  intro k
  rw [txKey_putTx]
  split
  · next he => rw [h, he, txAt_eq_txKey]
  · rfl

theorem pumpMessages (s : State) (node tc n : Nat) : SeqsKept s (pumpMessages s node tc n) := by
  induction n generalizing s with
  | zero => exact refl s
  | succ n ih =>
    unfold Machine.pumpMessages
    extract_lets x m
    split
    · split <;> exact putTx rfl
    · split
      · exact putTx rfl
      · extract_lets
        split
        · refine trans ?_ (ih _)
          refine putTx ?_
          show (x.unacked ++ (x.queue.take m).map _).map _ ++ (x.queue.drop m).map _ = x.unacked.map _ ++ x.queue.map _
          rw [List.map_append, List.map_map, List.append_assoc]
          refine congrArg _ (Eq.trans ?_ (congrArg (List.map _) (List.take_append_drop m x.queue)))
          rw [List.map_append]
          rfl
        · exact putTx rfl

theorem pump (s : State) (node tc : Nat) : SeqsKept s (pump s node tc) := by
  unfold Machine.pump
  extract_lets
  split
  · exact refl s
  · exact pumpMessages s node tc _

theorem pumpAll (s : State) : SeqsKept s (pumpAll s) := by
  unfold Machine.pumpAll
  generalize s.fabric.tx = l
  induction l generalizing s with
  | nil => exact refl s
  | cons p l ih => exact (pump s _ _).trans (ih _)

end SeqsKept

/-- An ack covers a flit: it lies 1 to 4096 ahead of it (R388). -/
def ackCovers (ack seq : BitVec 16) : Bool := decide (0 < (ack - seq).toNat) && decide ((ack - seq).toNat ≤ 4096)

theorem ackCovers_false {ack seq : BitVec 16} : ackCovers ack seq = false ↔ (ack - seq).toNat = 0 ∨ 4096 < (ack - seq).toNat := by
  rw [ackCovers, Bool.and_eq_false_iff, decide_eq_false_iff_not, decide_eq_false_iff_not]
  omega

/-- An ack that the stream explains leaves none of the flits that it covers. -/
theorem ackStream_covers {s : State} {node tc : Nat} {ack : BitVec 16} (hf : (txAt s node tc).failed = none)
    (hs : ((txAt s node tc).sent - ack).toNat ≤ 8192) :
    ∀ q ∈ flitSeqs (txAt (ackStream s node tc ack) node tc), ackCovers ack q = false := by
  unfold ackStream
  extract_lets x covered
  rw [hf, if_neg (by decide), if_neg (Nat.not_lt.mpr hs)]
  split
  · intro q hq
    rw [txAt_eq_txKey, SeqsKept.pumpAll, txKey_putTx, if_pos rfl] at hq
    rcases List.mem_append.mp hq with hq | hq
    · obtain ⟨u, hu, rfl⟩ := List.mem_map.mp hq
      exact Bool.not_eq_true' _ ▸ (List.mem_filter.mp hu).2
    · obtain ⟨u, hu, rfl⟩ := List.mem_map.mp hq
      exact Bool.not_eq_true' _ ▸ (List.mem_filter.mp hu).2
  · next hany =>
    obtain ⟨h1, h2⟩ := Bool.or_eq_false_iff.mp (Bool.not_eq_true _ ▸ hany)
    intro q hq
    rcases List.mem_append.mp hq with hq | hq
    · obtain ⟨u, hu, rfl⟩ := List.mem_map.mp hq
      exact Bool.not_eq_true _ ▸ List.any_eq_false.mp h1 u hu
    · obtain ⟨u, hu, rfl⟩ := List.mem_map.mp hq
      exact Bool.not_eq_true _ ▸ List.any_eq_false.mp h2 u hu

/-! Routes. -/

/-- Mark one route failed. -/
def markRoute (s : State) (p : Nat × Nat) : State :=
  putDest s p.1 { destAt s p.1 with failed := (destAt s p.1).failed ||| BitVec.ofNat 3 (2 ^ p.2) }

/-- A mark sets its bit, and no mark clears one. -/
theorem markRoute_failed {s : State} {p : Nat × Nat} (hp : p.1 < 2 ^ 16) {i n : Nat} (hn : n < 3)
    (h : (destAt s i).failed.getLsbD n = true ∨ p = (i, n)) : (destAt (markRoute s p) i).failed.getLsbD n = true := by
  by_cases hi : p.1 = i
  · unfold markRoute
    rw [← hi, destAt_putDest_self _ _ _ hp]
    dsimp only
    rcases h with h | rfl
    · rw [BitVec.getLsbD_or, hi, h, Bool.true_or]
    · exact getLsbD_or_bit _ hn
  · rcases h with h | rfl
    · have hsame : destAt (markRoute s p) i = destAt s i := by
        unfold markRoute putDest destAt
        split
        · rfl
        · exact aget_aput_ne _ _ _ _ _ (Ne.symm hi)
      rw [hsame, h]
    · exact absurd rfl hi

theorem markRoutes_failed {l : List (Nat × Nat)} (hl : ∀ p ∈ l, p.1 < 2 ^ 16) {s : State} {i n : Nat} (hn : n < 3)
    (h : (destAt s i).failed.getLsbD n = true ∨ (i, n) ∈ l) : (destAt (l.foldl markRoute s) i).failed.getLsbD n = true := by
  induction l generalizing s with
  | nil => exact h.resolve_right List.not_mem_nil
  | cons p l ih =>
    refine ih (fun q hq => hl q (List.mem_cons_of_mem _ hq)) ?_
    rcases h with h | h
    · exact .inl (markRoute_failed (hl p List.mem_cons_self) hn (.inl h))
    · rcases List.mem_cons.mp h with h | h
      · exact .inl (markRoute_failed (hl p List.mem_cons_self) hn (.inr h.symm))
      · exact .inr h

/-- The routes of a list are failed after it, and the machine's boot state stays. -/
theorem failRoutes_failed (s : State) (code : Nat) (all : List (Nat × Nat)) :
    (∀ i n, i < 2 ^ 16 → n < 3 → (i, n) ∈ all → (destAt (failRoutes s code all) i).failed.getLsbD n = true) ∧
      (failRoutes s code all).boot = s.boot := by
  unfold failRoutes
  extract_lets rs s1 s2
  have h12 : FabricKept s1 s2 := .foldl _ _ fun _ _ _ => .fabricEvent ..
  have h3 : FabricKept s1 (rs.foldl (fun s p => failOver s p.1 p.2) s2) := h12.trans (.foldl _ _ fun _ _ _ => .failOver ..)
  constructor
  · intro i n hi hn hm
    rw [h3.destAt]
    refine markRoutes_failed (l := rs) (fun p hp => ?_) hn ?_
    · exact of_decide_eq_true (Bool.and_eq_true_iff.mp (List.mem_filter.mp hp).2).2
    · by_cases hf : (destAt s i).failed.getLsbD n = true
      · exact .inl hf
      · refine .inr (List.mem_filter.mpr ⟨hm, ?_⟩)
        rw [decide_eq_true hi, Bool.and_true]
        simpa using hf
  · rw [h3.boot]
    exact foldl_keeps State.boot markRoute (fun _ _ => rfl) rs s

/-- A present route of an entry that starts at a port is among the port's. -/
theorem mem_routesAt {s : State} {port i n : Nat} (hi : i < 2 ^ 16) (hn : n < 3)
    (hp : bitAt (destAt s i).record.toNat (64 + 64 * n) = true) (hr : routePort (destAt s i) n = port) :
    (i, n) ∈ routesAt s port := by
  have hd : destAt s i = aget DestEntry.zero s.dests i := if_neg (Nat.not_le.mpr hi)
  have hne : destAt s i ≠ DestEntry.zero := by
    intro hz
    rw [hz] at hp
    have : ∀ n < 3, bitAt DestEntry.zero.record.toNat (64 + 64 * n) = false := by decide
    exact Bool.false_ne_true ((this n hn).symm.trans hp)
  have hmem : (i, destAt s i) ∈ s.dests := mem_of_aget hd.symm hne
  refine List.mem_flatMap.mpr ⟨_, hmem, List.mem_map.mpr ⟨n, List.mem_filter.mpr ⟨?_, ?_⟩, rfl⟩⟩
  · have : ∀ n < 3, n ∈ ([0, 1, 2] : List Nat) := by decide
    exact this n hn
  · rw [hp, hr, beq_self_eq_true]
    rfl

/-! Streams that fail. -/

/-- A stream that is lost is failed with the code, and its requests are lost. -/
theorem loseStream_fails (s : State) (node tc code entry : Nat) :
    (txAt (loseStream s node tc code entry) node tc).failed = some code ∧
      ∀ r ∈ s.fabric.reqs, r.node = node → r.tc = tc →
        ∃ u ∈ (loseStream s node tc code entry).fabric.reqs, u.id = r.id ∧ u.doomed.isSome = true := by
  unfold loseStream
  extract_lets x s1 s2
  have h1 : (txKey s1 (4 * node + tc)).failed = some code := by
    unfold s1
    rw [txKey_putTx, if_pos rfl]
  have h2 : FabricKept s1 s2 ∧ s2.fabric.reqs = s.fabric.reqs := by
    unfold s2
    split
    · exact ⟨.peerReset s1 node, foldl_keeps (fun s : State => s.fabric.reqs)
        (fun s tc => putRx s node tc { rxAt s node tc with failed := true }) (fun _ _ => rfl) [0, 1, 2, 3] s1⟩
    · exact ⟨.refl s1, rfl⟩
  have h3 := FabricKept.doom s2 (fun r => r.node = node && r.tc = tc) code
  have h4 := FabricKept.pumpAll { s2 with fabric := { s2.fabric with reqs := s2.fabric.reqs.map fun r =>
    if (r.node = node && r.tc = tc) && r.doomed.isNone then { r with doomed := some code } else r } }
  refine ⟨((h2.1.trans h3).trans h4).failed _ _ h1, fun r hr hn ht => ?_⟩
  obtain ⟨u, hu, hid, hd⟩ := h4.reqs _ (List.mem_map_of_mem (h2.2 ▸ hr))
  refine ⟨u, hu, ?_, hd ?_⟩
  · rw [hid]
    split <;> rfl
  · rw [decide_eq_true hn, decide_eq_true ht, Bool.and_self, Bool.true_and]
    split
    · rfl
    · next h => exact Option.isSome_iff_ne_none.mpr (by simpa using h)

/-- A stream that fails is failed with the code, and its requests are lost. -/
theorem failStreamBy_fails {s : State} {node tc : Nat} (code entry port : Nat) (hf : (txAt s node tc).failed = none) :
    (txAt (failStreamBy s node tc code entry port) node tc).failed = some code ∧
      ∀ r ∈ s.fabric.reqs, r.node = node → r.tc = tc →
        ∃ u ∈ (failStreamBy s node tc code entry port).fabric.reqs, u.id = r.id ∧ u.doomed.isSome = true := by
  obtain ⟨hfail, hreqs⟩ := loseStream_fails s node tc code entry
  unfold failStreamBy
  rw [hf, if_neg (by decide)]
  have he := FabricKept.fabricEvent (loseStream s node tc code entry) 3 port code node tc (entry / 256)
  refine ⟨he.failed _ _ hfail, fun r hr hn ht => ?_⟩
  obtain ⟨u, hu, hid, hd⟩ := hreqs r hr hn ht
  obtain ⟨x, hx, hid', hd'⟩ := he.reqs u hu
  exact ⟨x, hx, hid'.trans hid, hd' hd⟩

/-! Answers. -/

/-- An answer reaches its request's owner, after the stream has failed where it is a Failure response. -/
theorem exec_remoteResponse {s : State} {id : Nat} {r : RemoteReq} {x : RemoteReply} {a : Answer}
    (hr : s.fabric.reqs.find? (fun r => r.id = id) = some r) (ha : answerOf s r x = some a) (u t : State)
    (hu : u = { s with fabric := { s.fabric with reqs := s.fabric.reqs.filter fun q => q.id != id } })
    (ht : t = if a = .failed 2 ∧ r.doomed = none then failStream u r.node r.tc 2 else u) :
    (r.owner = .none → exec (.remoteResponse id x) s = .next t) ∧
      ∀ i lane, r.owner = .flight i lane → exec (.remoteResponse id x) s = .next (answerFlight t i lane a) := by
  have hcond : ((a == .failed 2 && r.doomed.isNone) = true) ↔ (a = .failed 2 ∧ r.doomed = none) := by
    rw [Bool.and_eq_true, beq_iff_eq, Option.isNone_iff_eq_none]
  have hif : (if (a == .failed 2 && r.doomed.isNone) = true then failStream u r.node r.tc 2 else u) = t :=
    (if_congr hcond rfl rfl).trans ht.symm
  constructor
  · intro ho
    show execRemoteResponse id x s = _
    unfold execRemoteResponse
    rw [hr]
    dsimp only
    rw [ha, ← hu]
    dsimp only
    rw [hif, ho]
  · intro i lane ho
    show execRemoteResponse id x s = _
    unfold execRemoteResponse
    rw [hr]
    dsimp only
    rw [ha, ← hu]
    dsimp only
    rw [hif, ho]

/-- Settles O57: each event by what its branch does to streams, routes and requests. -/
theorem fabricEvents : Obligations.FabricEvents := by
  intro s
  refine ⟨?ack, ?down, ?up, ?ackTimeout, ?routeTimeout, ?answer⟩
  case ack =>
    intro node tc ack x htc hf hs
    have h := ackStream_covers hf hs
    refine ⟨_, congrArg Host.Outcome.next (if_pos htc), fun u hu => ackCovers_false.mp (h _ ?_),
      fun u hu => ackCovers_false.mp (h _ ?_)⟩
    · exact List.mem_append_left _ (List.mem_map_of_mem hu)
    · exact List.mem_append_right _ (List.mem_map_of_mem hu)
  case down =>
    intro port hp
    refine ⟨_, congrArg Host.Outcome.next (if_neg (Nat.not_le.mpr hp)), ?_⟩
    dsimp only
    obtain ⟨hfail, hboot⟩ := failRoutes_failed { s with boot := { s.boot with
      down := s.boot.down ||| BitVec.ofNat 18 (2 ^ port) } } 1 (routesAt s port)
    have hpump := FabricKept.pumpAll (failRoutes { s with boot := { s.boot with
      down := s.boot.down ||| BitVec.ofNat 18 (2 ^ port) } } 1 (routesAt s port))
    refine ⟨?_, fun i hi n hn hb hr => ?_⟩
    · refine Eq.trans (congrArg (fun b : Boot => b.down.getLsbD port) (hpump.boot.trans hboot)) ?_
      exact getLsbD_or_bit _ hp
    · refine Eq.trans (congrArg (fun d : DestEntry => d.failed.getLsbD n) (hpump.destAt i)) ?_
      exact hfail i n hi hn (mem_routesAt hi hn hb hr)
  case up =>
    intro port hp
    have hpump := FabricKept.pumpAll { s with boot := { s.boot with
      down := s.boot.down &&& ~~~(BitVec.ofNat 18 (2 ^ port)) } }
    refine ⟨_, congrArg Host.Outcome.next (if_neg (Nat.not_le.mpr hp)), ?_, hpump.dests⟩
    exact Eq.trans (congrArg (fun b : Boot => b.down.getLsbD port) hpump.boot) (getLsbD_and_not_bit _ hp)
  case ackTimeout =>
    intro node tc u hu ho he hr
    refine ⟨failRoutes s 2 [(u.entry, u.route)], ?_, (failRoutes_failed s 2 [(u.entry, u.route)]).1 _ _ he hr List.mem_cons_self⟩
    show execAckTimeout (u.entry / 256) node tc s = _
    unfold execAckTimeout
    rw [hu]
    dsimp only
    rw [ho, beq_self_eq_true, Bool.and_self, if_pos rfl]
  case routeTimeout =>
    intro node tc x ho hf htc
    refine ⟨_, congrArg Host.Outcome.next (if_pos ?_), failStreamBy_fails _ _ _ hf⟩
    rw [ho, Bool.true_and]
    exact beq_self_eq_true _
  case answer =>
    intro id r x a hr ha u t
    obtain ⟨hnone, hflight⟩ := exec_remoteResponse hr ha u t rfl rfl
    refine ⟨hnone, fun i lane f ho hf => (hflight i lane ho).trans ?_⟩
    have hfl : flightAt t i = some f := by
      have hk : t.flights = s.flights := by
        unfold t
        split
        · exact (FabricKept.failStream u r.node r.tc 2).flights
        · rfl
      unfold flightAt at hf ⊢
      rw [hk, hf]
    unfold answerFlight
    rw [hfl]
    dsimp only
    simp only [Bool.or_eq_true, decide_eq_true_eq, Bool.and_eq_true, beq_iff_eq]

end Sys2Proof.Proofs
end

section
/-! PROOFS. Packets: each type that starts, and what a watched word or a completed invalidation does. -/

namespace Sys2Proof.Proofs

open Sys2Proof.Machine Sys2Proof.Safety Sys2Proof.Laws

theorem exec_nopPacket {s : State} {id : Nat} {p : Packet} (h : Starts s id 0x00 p) :
    exec (.nopPacket id) s = .next (donePkt s p 0) := by
  show execNopPacket id s = _
  unfold execNopPacket
  rw [runPkt_starts h]

theorem exec_waitPacket {s : State} {id : Nat} {p : Packet} (h : Starts s id 0x02 p) :
    exec (.waitPacket id) s = .next (putPkt s { p with phase := .started }) := by
  show execWaitPacket id s = _
  unfold execWaitPacket
  rw [runPkt_starts h]

/-- A reserved type completes with status 6. -/
theorem exec_invalidPacket {s : State} {id n : Nat} {p : Packet} (h : Starts s id n p)
    (hn : n ∉ [0x00, 0x01, 0x02, 0x03, 0x10, 0x11, 0x12]) : exec (.invalidPacket id) s = .next (donePkt s p 6) := by
  obtain ⟨hp, ht, ho⟩ := h
  have hc : ([0x00, 0x01, 0x02, 0x03, 0x10, 0x11, 0x12] : List Nat).contains n = false := by
    rw [List.contains_eq_mem, decide_eq_false hn]
  show execInvalidPacket id s = _
  unfold execInvalidPacket
  rw [hp]
  dsimp only
  rw [ht, hc, ho]
  rfl

/-- Spending a token changes no record that a quire's size is read from. -/
theorem quireFits_ccSpend (s : State) (p : Packet) (t : Target) (h : BitVec 512) :
    quireFits (ccSpend s p t) p h = quireFits s p h := by
  unfold ccSpend
  rw [spendFor_eq]
  rfl

/-- A LAUNCH whose header is there starts, or is rejected. -/
theorem exec_launchPacket_read {s : State} {id : Nat} {p : Packet} {t : Target} (h : Starts s id 0x01 p)
    (hp : ccPlace s p 24 64 false = .at t) (hhere : isRemote t = false ∨ p.far ≠ []) (hd : BitVec 512)
    (hhd : hd = BitVec.ofNat 512 (if isRemote t = true then bytesVal p.far else seenVal s t 64)) (v : State)
    (hv : v = { ccSpend s p t with
      serial := (ccSpend s p t).serial + 1
      farCode := (ccSpend s p t).farCode.filter fun w => !(w.vdev = p.vdev && !isTrapUnit w.unit) }) :
    exec (.launchPacket id) s = .next
      (if (headerOk (pfld p 24 8) hd (pfld p 32 4) (pfld p 36 2) (pfld p 38 2) && quireFits s p hd) = true
        then putPkt (putLaunch v (ccSpend s p t).serial (some (newLaunch v p hd))) { p with phase := .started }
        else donePkt (ccSpend s p t) p 1) := by
  have hgo : (isRemote t && p.far.isEmpty) = false := by
    rcases hhere with h | h
    · rw [h, Bool.false_and]
    · rw [List.isEmpty_eq_false_iff.mpr h, Bool.and_false]
  show execLaunchPacket id s = _
  unfold execLaunchPacket
  rw [runPkt_starts h, hp]
  dsimp only
  rw [hgo, if_neg Bool.false_ne_true, ← hhd, ← hv, Nat.add_sub_cancel, quireFits_ccSpend]
  cases headerOk (pfld p 24 8) hd (pfld p 32 4) (pfld p 36 2) (pfld p 38 2) <;> cases quireFits s p hd <;> rfl

/-- A LAUNCH whose header lies on another module asks for it. -/
theorem exec_launchPacket_asks {s : State} {id : Nat} {p : Packet} {t : Target} (h : Starts s id 0x01 p)
    (hp : ccPlace s p 24 64 false = .at t) (hr : isRemote t = true) (hf : p.far = []) (ha : ccAwaits s id = false)
    (ho : ccOpen s p 0 t = true) :
    exec (.launchPacket id) s = .next (ccSend s p (remoteDest t) 0 (readMsg 0 t.loc 64 (isClear t))) := by
  show execLaunchPacket id s = _
  unfold execLaunchPacket
  rw [runPkt_starts h, hp]
  dsimp only
  rw [hr, hf, ha, ho]
  rfl

/-- A WAIT that has started reads its word here. -/
theorem exec_waitSatisfied {s : State} {id : Nat} {p : Packet} {t : Target} (hp : pktAt s id = some p)
    (ht : pktType p = 0x02) (hph : p.phase = .started) (hpk : p.park = none) (hl : Leads s p 24 4 false t) :
    exec (.waitSatisfied id) s =
      .next (if waitMet p (seenVal s t 4) = true then donePkt (ccSpend s p t) p 0 else s) := by
  obtain ⟨hplace, hhere, -⟩ := hl
  show execWaitSatisfied id s = _
  unfold execWaitSatisfied
  rw [hp]
  dsimp only
  rw [ht, hph, hpk, hplace]
  dsimp only
  rw [hhere]
  rfl

theorem waitMet_iff (p : Packet) (x : Nat) : waitMet p x = true ↔
    x = pfld p 32 4 ∨ (bitAt (pfld p 36 1) 0 = true ∧ serialLt 32 (pfld p 32 4) x = true) := by
  unfold waitMet
  rw [Bool.or_eq_true, beq_iff_eq, Bool.and_eq_true]

/-- A WRITE to ready memory of this package is made at once. -/
theorem exec_writePacket {s : State} {id : Nat} {p : Packet} {t : Target} (h : Starts s id 0x03 p)
    (hl : Leads s p 24 8 true t) :
    exec (.writePacket id) s = .next (donePkt (storeTo (ccSpend s p t) t (valBytes 8 (pfld p 32 8))) p 0) := by
  obtain ⟨hplace, hhere, hdup⟩ := hl
  have hopen : ccOpen s p 0 t = true := by
    unfold ccOpen
    rw [hhere, hdup]
    rfl
  have hstore : ccStore s p 0 t (valBytes 8 (pfld p 32 8)) = (storeTo (ccSpend s p t) t (valBytes 8 (pfld p 32 8)), false) := by
    unfold ccStore
    rw [hhere, if_neg Bool.false_ne_true, hdup]
  show execWritePacket id s = _
  unfold execWritePacket
  rw [runPkt_starts h, hplace]
  dsimp only
  rw [hopen, hstore]
  rfl

/-- Settles O53: each type by its rule. -/
theorem packetResults : Obligations.PacketResults := by
  intro s id p completes begins
  refine ⟨fun h => exec_nopPacket h, fun n h hn => exec_invalidPacket h hn, ?launch, fun h => exec_waitPacket h, ?satisfied,
    fun t h hl => exec_writePacket h hl, ?response, ?invalidate, ?complete⟩
  case launch =>
    intro t h hp hd ok u
    refine ⟨fun hr hf ha ho => exec_launchPacket_asks h hp hr hf ha ho, fun hhere => ?_⟩
    exact (exec_launchPacket_read h hp hhere hd rfl _ rfl).trans (apply_ite _ _ _ _)
  case satisfied =>
    intro t hp ht hph hpk hl x met
    have h := exec_waitSatisfied hp ht hph hpk hl
    refine ⟨fun hm => h.trans (congrArg _ (if_pos ((waitMet_iff p _).mpr hm))),
      fun hm => h.trans (congrArg _ (if_neg fun hw => hm ((waitMet_iff p _).mp hw)))⟩
  case response =>
    intro h
    show execPageResponsePacket id s = _
    unfold execPageResponsePacket
    rw [runPkt_starts h]
    unfold answerRequest
    simp only [Bool.or_eq_true, decide_eq_true_eq]
    rfl
  case invalidate =>
    intro h
    show ∃ t, execInvalidatePacket id s = _ ∧ _
    unfold execInvalidatePacket
    rw [runPkt_starts h]
    refine ⟨_, rfl, rfl, rfl, _, List.mem_append_right _ List.mem_cons_self, rfl, fun f hf hin => ?_, fun q hq hpart => ?_⟩
    · exact List.mem_append_left _ (List.mem_append_left _ (List.mem_map_of_mem (List.mem_filter.mpr ⟨hf, hin⟩)))
    · exact List.mem_append_left _ (List.mem_append_right _ (List.mem_map_of_mem (List.mem_filter.mpr ⟨hq,
          decide_eq_true hpart⟩)))
  case complete =>
    intro i hi hp hf hq
    show execInvalidationComplete id s = _
    unfold execInvalidationComplete
    rw [hi, hp]
    dsimp only
    rw [hf, hq]
    rfl

end Sys2Proof.Proofs
end

section
/-! PROOFS. Rings, doorbells, completions and coalescing. -/

namespace Sys2Proof.Proofs

open Sys2Proof.Machine Sys2Proof.Safety Sys2Proof.Laws

/-! Posted writes of the device. -/

theorem FabricKept.postFor (s : State) (owner : RemoteOwner) (part fa : Nat) (bs : List Byte) :
    FabricKept s (postFor s owner part fa bs) := by
  refine FabricKept.postWrite _ _ _ _ _ fun c => ?_
  unfold postFail
  split
  · exact .failStreamBy ..
  · exact .refl s

theorem FabricKept.post (s : State) (part fa : Nat) (bs : List Byte) : FabricKept s (post s part fa bs) := .postFor ..

theorem FabricKept.ringError (s : State) (owner : RemoteOwner) (v q code field : Nat) (seq : Word32) :
    FabricKept s (ringError s owner v q code field seq) := .postFor ..

/-! The check of a packet. -/

/-- A packet that is there is replaced by another of its number. -/
theorem pktAt_putPkt {s : State} {p q : Packet} (h : pktAt s q.id = some p) : pktAt (putPkt s q) q.id = some q := by
  unfold pktAt putPkt at *
  dsimp only
  generalize s.packets = l at *
  induction l with
  | nil => cases h
  | cons x l ih =>
    rw [List.map_cons]
    by_cases hx : x.id = q.id
    · rw [if_pos hx]
      exact List.find?_cons_of_pos (decide_eq_true rfl)
    · rw [if_neg hx, List.find?_cons_of_neg (by simpa using hx)]
      rw [List.find?_cons_of_neg (by simpa using hx)] at h
      exact ih h

/-- What a check leaves: the virtual devices, and the packets but for the phase and the park of its own. -/
theorem checkPkt_packets (s : State) (p : Packet) : (checkPkt s p).vdevs = s.vdevs ∧
    ∃ q, q.id = p.id ∧ q.seq = p.seq ∧ q.bytes = p.bytes ∧ (checkPkt s p).packets = (putPkt s q).packets := by
  unfold checkPkt
  split
  · exact ⟨rfl, { p with phase := .read, park := none }, rfl, rfl, rfl, rfl⟩
  · next off code _ =>
    have h := FabricKept.ringError s (.cc p.id) p.vdev p.ring code off p.seq
    refine ⟨h.vdevs, { p with
      phase := .done 2, park := none, caddrBad := p.caddrBad || off == 0
      record := postedAt (ringError s (.cc p.id) p.vdev p.ring code off p.seq) (errAddr (ringError s (.cc p.id) p.vdev p.ring code
        off p.seq) p.vdev p.ring) }, rfl, rfl, rfl, ?_⟩
    unfold failCap putPkt
    dsimp only
    rw [h.packets]
  · next page write _ =>
    unfold parkPkt
    rw [addWalk_eq]
    exact ⟨rfl, { p with park := some ⟨page, write, false, none⟩ }, rfl, rfl, rfl, rfl⟩
  · next h => exact absurd (List.find?_some h) Bool.false_ne_true

/-! Rings. -/

/-- A ring as it is written. -/
theorem ringAt_putRing_self (s : State) (v n : Nat) (r : RingSt) : ringAt (putRing s v n r) v n = r := by
  have hd : vdevSt (putRing s v n r) v = { vdevSt s v with rings := aput RingSt.zero (vdevSt s v).rings n r } :=
    aget_aput_self _ _ _ _
  unfold ringAt
  rw [hd]
  exact aget_aput_self _ _ _ _

/-- The state in which a packet that has been copied is checked. -/
def copiedPkt (s : State) (v n : Nat) (r : RingSt) (p : Packet) : State :=
  post (putRing { s with serial := s.serial + 1, packets := s.packets ++ [p] } v n { r with head := r.head + 1 })
    (partOf v) (fld r.record 128 64) (valBytes 8 (r.head + 1).toNat)

/-- A packet that is copied is in its ring's order, with the ring's HEAD past it. -/
theorem checkPkt_copied (s : State) (v n : Nat) (r : RingSt) {p : Packet} (hp : p.id = s.serial)
    (hs : ∀ q ∈ s.packets, q.id < s.serial) : (ringAt (checkPkt (copiedPkt s v n r p) p) v n).head = r.head + 1 ∧
      ∃ q, pktAt (checkPkt (copiedPkt s v n r p) p) s.serial = some q ∧ q.seq = p.seq ∧ q.bytes = p.bytes := by
  obtain ⟨hv, q, hid, hseq, hbytes, hpk⟩ := checkPkt_packets (copiedPkt s v n r p) p
  have hpost : FabricKept (putRing { s with serial := s.serial + 1, packets := s.packets ++ [p] } v n { r with head :=
      r.head + 1 })
    (copiedPkt s v n r p) := .post ..
  have hring : ringAt (checkPkt (copiedPkt s v n r p) p) v n = { r with head := r.head + 1 } := by
    unfold ringAt vdevSt
    rw [hv, hpost.vdevs]
    exact ringAt_putRing_self _ v n _
  have hold : pktAt (copiedPkt s v n r p) q.id = some p := by
    unfold pktAt
    rw [hpost.packets, hid, hp]
    refine (List.find?_append ..).trans ?_
    have hnone : s.packets.find? (fun x => decide (x.id = s.serial)) = none :=
      List.find?_eq_none.mpr fun x hx => by simpa using Nat.ne_of_lt (hs x hx)
    rw [hnone, Option.none_or]
    exact List.find?_cons_of_pos (decide_eq_true hp)
  refine ⟨congrArg RingSt.head hring, q, ?_, hseq, hbytes⟩
  have h := pktAt_putPkt hold
  rw [hid, hp] at h
  unfold pktAt at h ⊢
  rw [hpk, h]

/-! Coalescing. -/

/-- Clearing a vector's pending completions clears them and leaves the other fields of its device. -/
theorem vdevSt_clearCoal (s : State) (v e : Nat) :
    vdevSt (clearCoal s v e) v = { vdevSt s v with coal := aput (0, 0) (vdevSt s v).coal e (0, 0) } :=
  aget_aput_self _ _ _ _

/-- A message that is sent, or noted where its vector is masked. -/
theorem sendMsi_eq (s : State) (v e : Nat) : sendMsi s v e =
    if fld (msixEntry s v e) 96 1 = 1 then putVdev (clearCoal s v e) v { vdevSt (clearCoal s v e) v with
      msixPend := (vdevSt (clearCoal s v e) v).msixPend ||| BitVec.ofNat 64 (2 ^ e) }
    else post (clearCoal s v e) (partOf v) (fld (msixEntry s v e) 0 64) (valBytes 4 (fld (msixEntry s v e) 64 32)) := by
  have hx : msixEntry (clearCoal s v e) v e = msixEntry s v e := by
    unfold msixEntry
    rw [vdevSt_clearCoal]
  unfold sendMsi
  dsimp only
  rw [hx]

/-- Sending or noting a message leaves no pending completion, and a masked vector pending. -/
theorem sendMsi_clears (s : State) (v e : Nat) : (aget (0, 0) (vdevSt (sendMsi s v e) v).coal e).1 = 0 ∧
    (fld (msixEntry s v e) 96 1 = 1 → e < 64 → (vdevSt (sendMsi s v e) v).msixPend.getLsbD e = true) := by
  have hclear : (aget (0, 0) (vdevSt (clearCoal s v e) v).coal e).1 = 0 := by
    rw [vdevSt_clearCoal, aget_aput_self]
  rw [sendMsi_eq]
  split
  · have hd : vdevSt (putVdev (clearCoal s v e) v { vdevSt (clearCoal s v e) v with
        msixPend := (vdevSt (clearCoal s v e) v).msixPend ||| BitVec.ofNat 64 (2 ^ e) }) v = { vdevSt (clearCoal s v e) v with
        msixPend := (vdevSt (clearCoal s v e) v).msixPend ||| BitVec.ofNat 64 (2 ^ e) } := aget_aput_self _ _ _ _
    rw [hd]
    exact ⟨hclear, fun _ he => getLsbD_or_bit _ he⟩
  · next hm =>
    refine ⟨?_, fun h => absurd h hm⟩
    unfold vdevSt
    rw [(FabricKept.post ..).vdevs]
    exact hclear

/-! Completion. -/

/-- A field that leads somewhere has passed its check. -/
theorem vaCheck_of_place {s : State} {p : Packet} {off align : Nat} {write : Bool} {t : Target}
    (h : ccPlace s p off align write = .at t) : vaCheck s p off align write = .ok := by
  unfold ccPlace at h
  split at h
  · cases h
  · cases h
  · assumption


/-- A completion whose signal lies in this package writes it and ends the packet. -/
theorem exec_packetCompletion_here {s : State} {id k : Nat} {p : Packet} {t : Target} (hp : pktAt s id = some p)
    (hk : pktStatus s p = some k) (hc : pktCaddr p ≠ 0) (hb : p.caddrBad = false) (hr : recordPending s p = false)
    (hl : Leads s p 0 8 true t) : exec (.packetCompletion id) s =
      .next (endPkt (storeTo (ccSpend s p t) t (valBytes 8 (k + p.seq.toNat * 2 ^ 32))) p) := by
  obtain ⟨hplace, hhere, hdup⟩ := hl
  have hopen : ccOpen s p 3 t = true := by
    unfold ccOpen
    rw [hhere, hdup]
    rfl
  have hstore : ccStore s p 3 t (valBytes 8 (k + p.seq.toNat * 2 ^ 32)) =
      (storeTo (ccSpend s p t) t (valBytes 8 (k + p.seq.toNat * 2 ^ 32)), false) := by
    unfold ccStore
    rw [hhere, if_neg Bool.false_ne_true, hdup]
  show execPacketCompletion id s = _
  unfold execPacketCompletion
  rw [hp]
  dsimp only
  rw [hk]
  dsimp only
  rw [hr, if_neg Bool.false_ne_true, decide_eq_false hc, hb, Bool.or_self, if_neg Bool.false_ne_true, vaCheck_of_place hplace]
  dsimp only
  rw [hplace]
  dsimp only
  rw [hopen, hstore]
  rfl

/-- One whose signal goes to another node sends it and waits for the answer. -/
theorem exec_packetCompletion_far {s : State} {id k : Nat} {p : Packet} {t : Target} (hp : pktAt s id = some p)
    (hk : pktStatus s p = some k) (hc : pktCaddr p ≠ 0) (hb : p.caddrBad = false) (hr : recordPending s p = false)
    (hplace : ccPlace s p 0 8 true = .at t) (hfar : isRemote t = true) (hopen : ccOpen s p 3 t = true) :
    exec (.packetCompletion id) s = .next (putPkt
      (ccSend s p (remoteDest t) 3 (writeMsg 2 t.loc (valBytes 8 (k + p.seq.toNat * 2 ^ 32)) (isClear t)))
      { p with phase := .signal }) := by
  have hstore : ccStore s p 3 t (valBytes 8 (k + p.seq.toNat * 2 ^ 32)) =
      (ccSend s p (remoteDest t) 3 (writeMsg 2 t.loc (valBytes 8 (k + p.seq.toNat * 2 ^ 32)) (isClear t)), true) := by
    unfold ccStore
    rw [hfar, if_pos rfl]
  show execPacketCompletion id s = _
  unfold execPacketCompletion
  rw [hp]
  dsimp only
  rw [hk]
  dsimp only
  rw [hr, if_neg Bool.false_ne_true, decide_eq_false hc, hb, Bool.or_self, if_neg Bool.false_ne_true, vaCheck_of_place hplace]
  dsimp only
  rw [hplace]
  dsimp only
  rw [hopen, hstore]
  rfl

/-- One without a signal just ends. -/
theorem exec_packetCompletion_silent {s : State} {id k : Nat} {p : Packet} (hp : pktAt s id = some p)
    (hk : pktStatus s p = some k) (hc : pktCaddr p = 0 ∨ p.caddrBad = true) (hr : recordPending s p = false) :
    exec (.packetCompletion id) s = .next (dropPkt (dropLaunch s p) id) := by
  have hb : (decide (pktCaddr p = 0) || p.caddrBad) = true := by
    rwa [Bool.or_eq_true, decide_eq_true_eq]
  show execPacketCompletion id s = _
  unfold execPacketCompletion
  rw [hp]
  dsimp only
  rw [hk]
  dsimp only
  rw [hr, if_neg Bool.false_ne_true, hb, if_pos rfl]

/-! Doorbells. -/

/-- A doorbell that is accepted sets TAIL, or stops a ring that it overruns. -/
theorem exec_doorbellTail {s : State} {v n : Nat} {val : BitVec 32} (hn : n < 4) (hv : v ≤ Config.adminVdev)
    (ha : serialLt 32 (ringAt s v n).tail.toNat val.toNat = true) : exec (.doorbellTail v n val) s = .next
      (if ringSlots (ringAt s v n) < (val - (ringAt s v n).head).toNat then
        ringError (putRing s v n { ringAt s v n with tail := val, en := false }) .none v n 6 0 (ringAt s v n).head
      else putRing s v n { ringAt s v n with tail := val }) := by
  show execDoorbellTail v n val s = _
  unfold execDoorbellTail accepts
  dsimp only
  rw [ha, decide_eq_true hn, decide_eq_true hv]
  rfl

/-- One that is not accepted changes nothing. -/
theorem exec_doorbellTail_stale {s : State} {v n : Nat} {val : BitVec 32}
    (ha : serialLt 32 (ringAt s v n).tail.toNat val.toNat = false) : exec (.doorbellTail v n val) s = .next s := by
  show execDoorbellTail v n val s = _
  unfold execDoorbellTail accepts
  dsimp only
  rw [ha, Bool.and_false, Bool.false_and]
  rfl

/-- Settles O55: each event by its rule. -/
theorem ringEvents : Obligations.RingEvents := by
  intro s v n r slots loc place p
  refine ⟨?read, ?doorbell, fun val h => exec_doorbellTail_stale h, ?prqcons, fun val => rfl, fun rec => rfl, ?completion,
      ?silent,
    ?coalescing⟩
  case read =>
    intro hready hen hslots hne htr hbase hlap
    have hmax : max 1 slots = slots := Nat.max_eq_right (Nat.one_le_iff_ne_zero.mpr hslots)
    have hgo : exec (.ringPacketRead v n) s = .next (checkPkt (copiedPkt s v n r p) p) := by
      have hl : readByte (seen s place 256) (loc + 255) = slotLap r := by
        rw [hlap]
        unfold slotLap ringSlots
        exact congrArg _ hmax.symm
      refine congrArg Host.Outcome.next (if_pos ?_)
      simp only [Bool.and_eq_true, bne_iff_ne, beq_iff_eq]
      exact ⟨⟨⟨⟨⟨⟨hready, hen⟩, hslots⟩, hne⟩, htr⟩, hbase⟩, hl⟩
    refine ⟨hgo, fun hids => ?_⟩
    obtain ⟨hhead, q, hq, hseq, hbytes⟩ := checkPkt_copied s v n r (p := p) rfl hids
    exact ⟨_, q, hgo, hhead, hq, hseq, hbytes⟩
  case doorbell =>
    intro val hn hv ha
    have h := exec_doorbellTail hn hv ha
    exact ⟨fun hle => h.trans (congrArg _ (if_neg (Nat.not_lt.mpr hle))), fun hlt => h.trans (congrArg _ (if_pos hlt))⟩
  case prqcons =>
    intro val hv
    show execPrqcons v val s = _
    unfold execPrqcons accepts
    dsimp only
    rw [decide_eq_true hv, Bool.and_true]
  case completion =>
    intro id p k t hp hk hc hb hr word
    exact ⟨exec_packetCompletion_here hp hk hc hb hr, exec_packetCompletion_far hp hk hc hb hr⟩
  case silent => exact fun id p k hp hk hc hr => exec_packetCompletion_silent hp hk hc hr
  case coalescing =>
    intro e hc ht x
    have hgo : exec (.coalescingTimeout v e) s = .next (sendMsi s v e) := by
      show execCoalescingTimeout v e s = _
      unfold execCoalescingTimeout
      dsimp only
      rw [bne_iff_ne.mpr hc, decide_eq_true ht]
      rfl
    obtain ⟨hclear, hpend⟩ := sendMsi_clears s v e
    refine ⟨fun hm => ?_, _, hgo, hclear, hpend⟩
    rw [hgo, sendMsi_eq, if_neg (by rw [hm]; decide)]

end Sys2Proof.Proofs
end

section
/-! PROOFS. Flits: what an arriving one does by its type and its place in its stream. -/

namespace Sys2Proof.Proofs

open Sys2Proof.Machine Sys2Proof.Safety Sys2Proof.Laws

/-- A received stream as it is written. -/
theorem rxAt_putRx_self (s : State) (node tc : Nat) (x : RxStream) : rxAt (putRx s node tc x) node tc = x :=
  aget_aput_self _ _ _ _

/-- Acking a stream leaves what it holds. -/
theorem rxAt_sendAck_held (s : State) (port node tc : Nat) : (rxAt (sendAck s port node tc) node tc).held =
    (rxAt s node tc).held := by
  unfold sendAck
  dsimp only
  rw [rxAt_putRx_self]

/-! Requests that a stream holds. -/

theorem serveHeld_zero (node tc : Nat) (s : State) : serveHeld node tc 0 s = s := rfl

/-- One request that is held is performed where its memory is ready and serves it. -/
theorem serveHeld_one {s : State} {node tc port due : Nat} {fs : List Flit} (hh : (rxAt s node tc).held = [⟨port, fs, due⟩]) :
    serveHeld node tc 1 s = if (placeReady s (placeOf s port node (msgOf fs)) &&
        placeServed s tc due (placeOf s port node (msgOf fs))) = true
    then takeRequest (putRx s node tc { rxAt s node tc with held := [] }) port node tc (msgOf fs) else s := by
  unfold serveHeld
  rw [hh]
  rfl

/-- A request of no reserved width is performed and answered. -/
theorem takeRequest_serves {m : Msg} (s : State) (port node tc : Nat) (h : m.width ≠ 3) : takeRequest s port node tc m =
    respond (serve s m (placeOf s port node m)).st port node tc m (serve s m (placeOf s port node m)).answer := if_neg h

/-! A flit by its place. -/

/-- What an accepted flit leaves before what its stream holds is performed. -/
def acceptedFlit (t : State) (port : Nat) (f : Flit) (parts : List Flit) (held : List Held) : State :=
  sendAck (putRx { t with serial := t.serial + 1 } f.snode.toNat f.tc.toNat
    { rxAt t f.snode.toNat f.tc.toNat with
      e := (rxAt t f.snode.toNat f.tc.toNat).e + 1, parts := parts, held := held }) port f.snode.toNat f.tc.toNat

theorem acceptedFlit_held (t : State) (port : Nat) (f : Flit) (parts : List Flit) (held : List Held) :
    (rxAt (acceptedFlit t port f parts held) f.snode.toNat f.tc.toNat).held = held := by
  unfold acceptedFlit
  rw [rxAt_sendAck_held, rxAt_putRx_self]

section
variable {s : State} {port : Nat} {f : Flit} (hp : port < 18) (hl : portLinked s port = true) (hu : flitForUs s f = true)
include hp hl hu

/-- An ack goes to its stream. -/
theorem exec_flitReceive_ack (ht : f.typ = 3) : exec (.flitReceive port f) s =
    .next (ackStream s f.snode.toNat f.tc.toNat f.ack) := by
  show execFlitReceive port f s = _
  unfold execFlitReceive
  rw [decide_eq_false (Nat.not_le.mpr hp), hl, hu, if_neg (by decide), if_pos ht]

/-- A request or a response is taken in its stream. -/
theorem exec_flitReceive_take (ht : f.typ = 1 ∨ f.typ = 2) : exec (.flitReceive port f) s = .next (takeFlit s port f) := by
  have h3 : f.typ ≠ 3 := by rcases ht with h | h <;> rw [h] <;> decide
  have h12 : (decide (f.typ = 1) || decide (f.typ = 2)) = true := by
    rwa [Bool.or_eq_true, decide_eq_true_eq, decide_eq_true_eq]
  show execFlitReceive port f s = _
  unfold execFlitReceive
  rw [decide_eq_false (Nat.not_le.mpr hp), hl, hu, if_neg (by decide), if_neg h3, h12, if_pos rfl]

end

section
variable {s t : State} {port : Nat} {f : Flit} (ht : t = ackStream s f.snode.toNat f.tc.toNat f.ack)
include ht

/-- A flit that does not come next is dropped: with an ack where it is a duplicate, and with a mark where no stream sends it. -/
theorem takeFlit_other {d : Nat} (hd : d = ((rxAt t f.snode.toNat f.tc.toNat).e - f.seq).toNat) (h0 : 0 < d) :
    takeFlit s port f = if d ≤ 4096 then sendAck t port f.snode.toNat f.tc.toNat
      else if d < 61440 then putRx t f.snode.toNat f.tc.toNat { rxAt t f.snode.toNat f.tc.toNat with failed := true } else t := by
  unfold takeFlit
  dsimp only
  rw [← ht, ← hd, if_neg h0.ne']

/-- The next flit is accepted. -/
theorem takeFlit_next (hx : (rxAt t f.snode.toNat f.tc.toNat).e = f.seq) {parts : List Flit} {held : List Held}
    (hparts : parts = if f.nflit.toNat ≤ f.fidx.toNat then [] else (rxAt t f.snode.toNat f.tc.toNat).parts ++ [f])
    (hheld : held = if f.nflit.toNat ≤ f.fidx.toNat ∧ f.typ = 1 then (rxAt t f.snode.toNat f.tc.toNat).held ++
      [⟨port, (rxAt t f.snode.toNat f.tc.toNat).parts ++ [f], Config.latestService t.serial⟩]
      else (rxAt t f.snode.toNat f.tc.toNat).held) :
    takeFlit s port f = serveHeld f.snode.toNat f.tc.toNat held.length (acceptedFlit t port f parts held) := by
  have h0 : ((rxAt t f.snode.toNat f.tc.toNat).e - f.seq).toNat = 0 := by rw [hx, BitVec.sub_self]; rfl
  have hheld' : held = if (decide (f.nflit.toNat ≤ f.fidx.toNat) && f.typ == 1) = true
      then (rxAt t f.snode.toNat f.tc.toNat).held ++
        [⟨port, (rxAt t f.snode.toNat f.tc.toNat).parts ++ [f], Config.latestService t.serial⟩]
      else (rxAt t f.snode.toNat f.tc.toNat).held := by
    rw [hheld]
    exact if_congr (by rw [Bool.and_eq_true, decide_eq_true_eq, beq_iff_eq]) rfl rfl
  have hparts' : parts = if decide (f.nflit.toNat ≤ f.fidx.toNat) = true then []
      else (rxAt t f.snode.toNat f.tc.toNat).parts ++ [f] := by
    rw [hparts]
    exact if_congr decide_eq_true_iff.symm rfl rfl
  unfold takeFlit acceptedFlit
  dsimp only
  rw [← ht, h0, if_pos rfl, ← hheld', ← hparts']

end

/-- Settles O56: each flit by its type and its place. -/
theorem flitResults : Obligations.FlitResults := by
  intro s port f hp hl hu n c t x got ahead
  have take := exec_flitReceive_take hp hl hu
  refine ⟨fun h => exec_flitReceive_ack hp hl hu h, fun h => ⟨?gap, ?duplicate, ?part⟩, ?response, ?request⟩
  case gap =>
    intro hd
    rw [take h, takeFlit_other rfl rfl (by omega : 0 < ahead), if_neg (Nat.not_le.mpr hd)]
  case duplicate =>
    intro h0 hd
    rw [take h, takeFlit_other rfl rfl h0, if_pos hd]
  case part =>
    intro hx hm
    have hn := Nat.not_le.mpr hm
    rw [take h, takeFlit_next rfl hx (parts := x.parts ++ [f]) (held := x.held) (if_neg hn).symm (if_neg fun h => hn h.1).symm]
    rfl
  case response =>
    intro h hx hm
    have h1 : ¬(f.nflit.toNat ≤ f.fidx.toNat ∧ f.typ = 1) := fun hh => absurd (h.symm.trans hh.2) (by decide)
    rw [take (.inr h), takeFlit_next rfl hx (parts := []) (held := x.held) (if_pos hm).symm (if_neg h1).symm]
    rfl
  case request =>
    intro h hx hm m due held g p
    have hall : exec (.flitReceive port f) s = .next (serveHeld n c held.length g) := by
      rw [take (.inl h), takeFlit_next rfl hx (parts := []) (held := held) (if_pos hm).symm (if_pos ⟨hm, h⟩).symm]
      rfl
    have hone : x.held = [] → serveHeld n c held.length g =
        if (placeReady g p && placeServed g c due p) = true
        then takeRequest (putRx g n c { rxAt g n c with held := [] }) port n c m else g := by
      intro hx0
      have hheld : held = [⟨port, x.parts ++ [f], due⟩] := by
        unfold held
        rw [hx0, List.nil_append]
      have hg : (rxAt g n c).held = [⟨port, x.parts ++ [f], due⟩] := (acceptedFlit_held t port f [] held).trans hheld
      have h1 : held.length = 1 := congrArg List.length hheld
      rw [h1]
      clear_value g
      exact serveHeld_one hg
    refine ⟨hall, fun hx0 hwait => ?_, fun hx0 hr hs hw => ?_⟩
    · rw [hall, hone hx0, if_neg ?_]
      rw [Bool.and_eq_true]
      rintro ⟨h1, h2⟩
      rcases hwait with h | h
      · exact Bool.false_ne_true (h.symm.trans h1)
      · exact Bool.false_ne_true (h.symm.trans h2)
    · rw [hall, hone hx0, hr, hs, Bool.and_self, if_pos rfl]
      exact congrArg _ (takeRequest_serves _ port n c hw)

end Sys2Proof.Proofs
end

section
/-! PROOFS. What an anvil does with a request: the grant, the pass, the loads and the output. -/

namespace Sys2Proof.Proofs

open Sys2Proof.Machine Sys2Proof.Safety Sys2Proof.Laws

/-! Writing one key twice. -/

theorem aerase_absent {α} {m : Assoc α} {k : Nat} (h : ∀ p ∈ m, p.1 ≠ k) : aerase m k = m := by
  induction m with
  | nil => rfl
  | cons p m ih => rw [aerase, if_neg (h p List.mem_cons_self), ih fun q hq => h q (List.mem_cons_of_mem _ hq)]

theorem aerase_ainsert {α} {m : Assoc α} {k : Nat} (x : α) (h : ∀ p ∈ m, p.1 ≠ k) : aerase (ainsert m k x) k = m := by
  induction m with
  | nil => rw [ainsert, aerase, if_pos rfl, aerase]
  | cons p m ih =>
    obtain ⟨j, y⟩ := p
    have hj : j ≠ k := h _ List.mem_cons_self
    rw [ainsert]
    split
    · rw [aerase, if_pos rfl, aerase_absent h]
    · rw [aerase, if_neg hj, ih fun q hq => h q (List.mem_cons_of_mem _ hq)]

theorem aerase_aput {α} [DecidableEq α] (d : α) (m : Assoc α) (k : Nat) (x : α) : aerase (aput d m k x) k = aerase m k := by
  unfold aput
  split
  · exact aerase_absent (not_mem_aerase m k)
  · exact aerase_ainsert x (not_mem_aerase m k)

theorem aput_aput {α} [DecidableEq α] (d : α) (m : Assoc α) (k : Nat) (x y : α) :
    aput d (aput d m k x) k y = aput d m k y := by
  show (if y = d then aerase (aput d m k x) k else ainsert (aerase (aput d m k x) k) k y) = aput d m k y
  rw [aerase_aput]
  rfl

/-- An anvil written twice is as it was written last. -/
theorem putAnvil_putAnvil (s : State) (n : Nat) (x y : Anvil) : putAnvil (putAnvil s n x) n y = putAnvil s n y := by
  unfold putAnvil
  dsimp only
  rw [aput_aput]

/-- Spending tokens leaves the anvils and what is granted of them. -/
theorem anvilAt_spendFor (s : State) (ctx : Nat) (ts : List Target) (n : Nat) : anvilAt (spendFor s ctx ts) n = anvilAt s n := by
  rw [spendFor_eq]
  rfl

theorem grantOf_spendFor (s : State) (c : Nat) (ts : List Target) (core ctx : Nat) :
    grantOf (spendFor s c ts) core ctx = grantOf s core ctx := by
  rw [spendFor_eq]
  rfl

/-! The grant. -/

/-- A first request that need not wait and is well formed is granted; a pass reads its bias. -/
theorem exec_anvilGrant {s : State} {n : Nat} {r : AReq}
    (hr : leastBy grantBefore ((anvilAt s n).resv.filter fun q => !q.granted) = some r)
    (hw : mustWait s (anvilAt s n) r = false) (hj : judgeReq s n r = none) : exec (.anvilGrant n) s = .next
      (if (decide (r.kind = 0) && (cmdOf r.cb).bias) = true
        then readBias (putAnvil s n (putReq (anvilAt s n) { r with granted := true })) n { r with granted := true } (cmdOf r.cb)
        else putAnvil s n (putReq (anvilAt s n) { r with granted := true })) := by
  show execAnvilGrant n s = _
  unfold execAnvilGrant
  dsimp only
  rw [hr]
  dsimp only
  rw [hw, if_neg Bool.false_ne_true, hj]

/-- A bias vector that is there is read. -/
theorem readBias_got {s : State} {n : Nat} {r : AReq} {c : Cmd} {bs : List (List Byte × Nat)}
    (h : fetchBlocks s n r 5 c.biasaddr 4 = .got bs) : readBias s n r c =
      putAnvil (spendFor s r.ctx (chkBlocks s r false c.biasaddr 4).1) n
        (putReq (anvilAt (spendFor s r.ctx (chkBlocks s r false c.biasaddr 4).1) n)
          { r with bias := bs.flatMap (·.1), inbox := [], park := none }) := by
  unfold readBias
  rw [h]

/-! The pass. -/

/-- A pass whose steps succeed commits, in checked mode where no comparison fails. -/
theorem exec_anvilPassCommit {s : State} {n : Nat} {r : AReq} {rows : List (List Nat)} (hr : reqAt s r.id = some (n, r))
    (hk : r.kind = 0) (hg : r.granted = true) (hc : r.committed = false) (he : r.ended = false)
    (hb : (cmdOf r.cb).bias = true → r.bias ≠ []) (hp : runPass s n r (cmdOf r.cb) = .ok rows)
    (hm : r.checked = true → anvilMismatch s n = none) :
    exec (.anvilPassCommit r.id) s = .next (commitPass s n r (cmdOf r.cb) rows) := by
  have hbias : ((cmdOf r.cb).bias && r.bias.isEmpty) = false := by
    cases hcb : (cmdOf r.cb).bias with
    | false => rfl
    | true => exact List.isEmpty_eq_false_iff.mpr (hb hcb)
  have hmiss : (if r.checked then anvilMismatch s n else none) = none := by
    split
    · next h => exact hm h
    · rfl
  show execAnvilPassCommit r.id s = _
  unfold execAnvilPassCommit
  rw [hr]
  dsimp only
  rw [decide_eq_false (not_not.mpr hk), hg, hc, he, hbias, hp]
  dsimp only
  rw [hmiss]
  rfl

/-- The tile of a command is one of eight. -/
theorem cmdOf_tile_lt (b : BitVec 512) : (cmdOf b).tile < 8 := by
  show fld b 288 3 < 8
  exact Nat.mod_lt _ (by decide)

/-- What a commit leaves in its anvil. -/
theorem commitPass_anvil (s : State) (n : Nat) (r : AReq) {c : Cmd} (rows : List (List Nat)) (hc : c.tile < 8) :
    (anvilAt (commitPass s n r c rows) n).tiles = putTile (anvilAt s n).tiles c.tile rows ∧
      (anvilAt (commitPass s n r c rows) n).invalid.getLsbD c.tile = false ∧
      c.tile ∉ (anvilAt (commitPass s n r c rows) n).badTile ∧
      (anvilAt (commitPass s n r c rows) n).wb = (anvilAt s n).wb ∧
      (anvilAt (commitPass s n r c rows) n).tabs = (anvilAt s n).tabs := by
  have self : ∀ x : Anvil, anvilAt (putAnvil s n x) n = x := fun x => aget_aput_self _ _ _ _
  unfold commitPass
  dsimp only
  rw [self]
  exact ⟨rfl, getLsbD_and_not_bit _ hc, by simp [putReq], rfl, rfl⟩

/-! Loads. -/

/-- A request that completes after its anvil was written leaves the anvil as written, without the request. -/
theorem completeReq_putAnvil (s : State) (n : Nat) (r : AReq) (x : Anvil) :
    completeReq (putAnvil s n x) n r = lowerTl (putAnvil s n { x with resv := x.resv.filter fun q => q.id != r.id }) r.owner 1 := by
  have self : anvilAt (putAnvil s n x) n = x := aget_aput_self _ _ _ _
  unfold completeReq
  rw [self, putAnvil_putAnvil]
  rfl

section
variable {s : State} {n : Nat} {r : AReq} (hr : reqAt s r.id = some (n, r)) (hg : r.granted = true) (hrem : r.remote = 0)
  (he : r.ended = false)
include hr hg hrem he

/-- An MXLDB whose blocks are there loads them and completes. -/
theorem exec_anvilRequestComplete_ldb {bs : List (List Byte × Nat)} (hk : r.kind = 1)
    (hf : fetchBlocks s n r 6 r.addr.toNat (bits r.r2.toNat 0 16) = .got bs) : exec (.anvilRequestComplete r.id) s = .next
      (completeReq (ldbDone (spendFor s r.ctx (chkBlocks s r false r.addr.toNat (bits r.r2.toNat 0 16)).1) n r bs) n r) := by
  show execAnvilRequestComplete r.id s = _
  unfold execAnvilRequestComplete
  rw [hr]
  dsimp only
  rw [hg, decide_eq_false (not_not.mpr hrem), he, hk]
  rw [hf]
  rfl

/-- An MXLDT whose blocks are there loads its table and completes. -/
theorem exec_anvilRequestComplete_ldt {bs : List (List Byte × Nat)} (hk : r.kind = 3)
    (hf : fetchBlocks s n r 7 r.addr.toNat 8 = .got bs) : exec (.anvilRequestComplete r.id) s = .next
      (completeReq (ldtDone (spendFor s r.ctx (chkBlocks s r false r.addr.toNat 8).1) n r (some (bs.flatMap (·.1)))) n r) := by
  show execAnvilRequestComplete r.id s = _
  unfold execAnvilRequestComplete
  rw [hr]
  dsimp only
  rw [hg, decide_eq_false (not_not.mpr hrem), he, hk]
  rw [hf]
  rfl

/-- A pass that has committed, or an MXST of a sound tile, finishes its output. -/
theorem exec_anvilRequestComplete_out
    (hk : r.kind = 0 ∧ r.committed = true ∨ r.kind = 2 ∧ (anvilAt s n).badTile.contains r.tile = false) (hd : r.done ≠ 1) :
    exec (.anvilRequestComplete r.id) s = .next (finishOut s n r) := by
  show execAnvilRequestComplete r.id s = _
  unfold execAnvilRequestComplete
  rw [hr]
  dsimp only
  rw [hg, decide_eq_false (not_not.mpr hrem), he]
  rcases hk with ⟨hk, hc⟩ | ⟨hk, hb⟩
  · rw [hk]
    rw [hc, if_neg hd]
    rfl
  · rw [hk]
    rw [hb, if_neg hd, if_neg Bool.false_ne_true, if_neg hd]
    rfl

end

/-! Output. -/

/-- Output blocks of this package's memory, each without a second copy, are stored in order, and nothing is awaited. -/
theorem writeOut_here (s : State) (n : Nat) (r : AReq) (outs : List (Target × List Byte × BitVec 16))
    (h : ∀ o ∈ outs, isRemote o.1 = false ∧ mayWrite s r.ctx o.1 = true ∧ o.1.dup = none) :
    writeOut s n r outs = (outs.foldl (fun x o => storeDesc x o.1.key o.1.loc o.2.1 o.2.2) s, 0) := by
  induction outs generalizing s with
  | nil => rfl
  | cons o outs ih =>
    obtain ⟨t, bs, d⟩ := o
    obtain ⟨hhere, hmay, hdup⟩ := h _ List.mem_cons_self
    have hmem := OnlyMemory.storeDesc s t.key t.loc bs d
    unfold writeOut
    dsimp only at hhere hmay hdup ⊢
    rw [hhere, if_neg Bool.false_ne_true, hmay, if_pos rfl, hdup]
    dsimp only
    rw [ih]
    · rfl
    · intro o ho
      obtain ⟨h1, h2, h3⟩ := h o (List.mem_cons_of_mem _ ho)
      exact ⟨h1, (hmem.mayWrite r.ctx o.1).trans h2, h3⟩

/-- A store leaves the anvils. -/
theorem OnlyMemory.anvilAt {s t : State} (h : OnlyMemory s t) (n : Nat) : anvilAt t n = anvilAt s n := by
  obtain ⟨m, k, d, p, rfl, -⟩ := h
  rfl

/-- Output that need not wait is written, and the request completes. -/
theorem finishOut_here {s : State} {n : Nat} {r : AReq} {outs : List (Target × List Byte × BitVec 16)}
    (hc : chkOut s r (reqOut s n r) = (outs, none))
    (h : ∀ o ∈ outs, isRemote o.1 = false ∧ outWaits s r o.1 = false ∧ mayWrite s r.ctx o.1 = true ∧ o.1.dup = none) :
    finishOut s n r = lowerTl (putAnvil (outs.foldl (fun x o => storeDesc x o.1.key o.1.loc o.2.1 o.2.2)
      (spendFor s r.ctx (outs.map (·.1)))) n { anvilAt s n with
        resv := (anvilAt s n).resv.filter fun q => q.id != r.id }) r.owner 1 := by
  have hwait : (outs.any fun o => outWaits s r o.1) = false :=
    List.any_eq_false.mpr fun o ho => Bool.not_eq_true _ ▸ (h o ho).2.1
  have hmay : ∀ t, mayWrite (spendFor s r.ctx (outs.map (·.1))) r.ctx t = mayWrite s r.ctx t := by
    intro t
    rw [spendFor_eq]
    rfl
  have hout := writeOut_here (spendFor s r.ctx (outs.map (·.1))) n r outs fun o ho => by
    obtain ⟨h1, -, h2, h3⟩ := h o ho
    exact ⟨h1, (hmay o.1).trans h2, h3⟩
  have hmem : OnlyMemory (spendFor s r.ctx (outs.map (·.1))) (outs.foldl (fun x o => storeDesc x o.1.key o.1.loc o.2.1 o.2.2)
      (spendFor s r.ctx (outs.map (·.1)))) := OnlyMemory.foldl (fun _ _ => .storeDesc ..) outs _
  unfold finishOut
  dsimp only
  rw [hc]
  dsimp only
  rw [hwait, if_neg Bool.false_ne_true, hout, if_pos rfl]
  unfold completeReq dropReq
  rw [hmem.anvilAt, anvilAt_spendFor]

/-- Settles O60: the grant, the pass, the two loads and the output, each by its rule. -/
theorem anvilEvents : Obligations.AnvilEvents := by
  intro s n r v g leaves
  refine ⟨?grant, ?pass, ?complete⟩
  case grant =>
    intro hr hw hj q t c
    have h := exec_anvilGrant hr hw hj
    refine ⟨fun hno => h.trans (congrArg _ (if_neg fun hb => ?_)), fun bs hk hb hf => h.trans (congrArg _ ?_)⟩
    · rw [Bool.and_eq_true, decide_eq_true_eq] at hb
      rcases hno with hno | hno
      · exact hno hb.1
      · exact Bool.false_ne_true (hno.symm.trans hb.2)
    · rw [if_pos (by rw [Bool.and_eq_true, decide_eq_true_eq]; exact ⟨hk, hb⟩)]
      exact readBias_got hf
  case pass =>
    intro rows hr hk hg hc he hb hp hm
    exact ⟨_, exec_anvilPassCommit hr hk hg hc he hb hp hm, rfl, commitPass_anvil s n r rows (cmdOf_tile_lt r.cb)⟩
  case complete =>
    intro hr hg hrem he
    refine ⟨fun bs hk hf => ?ldb, fun bs hk hf => ?ldt, fun outs hk hd hc h => ?out⟩
    case ldb =>
      refine (exec_anvilRequestComplete_ldb hr hg hrem he hk hf).trans (congrArg _ ?_)
      unfold ldbDone
      dsimp only
      rw [completeReq_putAnvil, anvilAt_spendFor, grantOf_spendFor]
    case ldt =>
      refine (exec_anvilRequestComplete_ldt hr hg hrem he hk hf).trans (congrArg _ ?_)
      unfold ldtDone
      dsimp only
      rw [completeReq_putAnvil, anvilAt_spendFor]
    case out =>
      exact (exec_anvilRequestComplete_out hr hg hrem he hk hd).trans (congrArg _ (finishOut_here hc h))

end Sys2Proof.Proofs
end

section
/-! PROOFS. Walks and page requests: what waits on a page and goes on. -/

namespace Sys2Proof.Proofs

open Sys2Proof.Machine Sys2Proof.Safety Sys2Proof.Laws

/-! A walk reads memory and records alone. -/

theorem walkFrom_walks (s : State) (ws : List Walk) (p va table : Nat) (l : List (Nat × Nat × Nat)) :
    walkFrom { s with walks := ws } p va table l = walkFrom s p va table l := by
  induction l generalizing table with
  | nil => rfl
  | cons x l ih =>
    obtain ⟨lo, n, level⟩ := x
    unfold walkFrom
    dsimp only
    rw [ih]
    rfl

/-! What leaves every access that waits for no page as it is. -/

/-- No leaf is dropped, and no slice comes to wait on a page. -/
structure Frees (s t : State) : Prop where
  tlb : t.tlb = s.tlb
  park : ∀ k, (sliceAt s k).park = none → (sliceAt t k).park = none

namespace Frees

theorem of_eq {s t : State} (hl : t.tlb = s.tlb) (hs : t.slices = s.slices) : Frees s t :=
  ⟨hl, fun k h => by unfold Machine.sliceAt at h ⊢; rwa [hs]⟩

theorem refl (s : State) : Frees s s := of_eq rfl rfl

theorem trans {s t u : State} (h : Frees s t) (g : Frees t u) : Frees s u :=
  ⟨g.tlb.trans h.tlb, fun k hk => g.park k (h.park k hk)⟩

theorem foldl {α} {f : State → α → State} (hf : ∀ s a, Frees s (f s a)) (l : List α) (s : State) : Frees s (l.foldl f s) := by
  induction l generalizing s with
  | nil => exact refl s
  | cons a l ih => exact (hf s a).trans (ih _)

theorem putSlice {s : State} {k : Nat} {sl : Slice} (h : (sliceAt s k).park = none → sl.park = none) :
    Frees s (putSlice s k sl) := by
  refine ⟨rfl, fun j hj => ?_⟩
  by_cases hk : j = k
  · subst hk
    rw [sliceAt_putSlice_self]
    exact h hj
  · rwa [sliceAt_putSlice_ne _ _ _ hk]

theorem of_fabric {s t : State} (h : FabricKept s t) : Frees s t := by
  obtain ⟨_, _, _, _, _, _, _, rfl⟩ := h.rest
  exact of_eq rfl rfl

theorem of_memory {s t : State} (h : OnlyMemory s t) : Frees s t := by
  obtain ⟨_, _, _, _, rfl, -⟩ := h
  exact of_eq rfl rfl

theorem spendFor (s : State) (ctx : Nat) (ts : List Target) : Frees s (spendFor s ctx ts) := by
  rw [spendFor_eq]
  exact of_eq rfl rfl

theorem addWalk (s : State) (vdev page : Nat) (write : Bool) (core die : Nat) : Frees s (addWalk s vdev page write core die) := by
  rw [addWalk_eq]
  exact of_eq rfl rfl

theorem sendRemote (s : State) (owner : RemoteOwner) (ctx dest tc : Nat) (m : Msg) :
    Frees s (sendRemote s owner ctx dest tc m) := of_fabric (.sendRequest ..)

theorem sendWrite (s : State) (owner : RemoteOwner) (ctx dest tc ord loc : Nat) (bs : List Byte) (clear : Bool) :
    Frees s (sendWrite s owner ctx dest tc ord loc bs clear) := foldl (fun _ _ => sendRemote ..) _ _

theorem storeTo (s : State) (t : Target) (bs : List Byte) : Frees s (storeTo s t bs) := of_memory (.storeTo ..)

/-! Records that end. -/

theorem holdTeam (s : State) (t : Nat) (team : Team) : Frees s (holdTeam s t team) :=
  foldl (fun _ _ => putSlice fun h => by rw [holdAt_eq]; exact h) _ _

theorem closeInvocation (s : State) (core : Nat) : Frees s (closeInvocation s core) := by
  unfold Machine.closeInvocation
  extract_lets s1
  have h1 : Frees s (putCore s1 core { coreAt s1 core with invoc := false, theld := 0 }) := of_eq rfl rfl
  exact h1.trans (putSlice fun _ => rfl)

theorem checkStop (s : State) (t : Nat) : Frees s (checkStop s t) := by
  unfold Machine.checkStop
  split
  · exact refl s
  · next team _ =>
    extract_lets core s1 c s2 c2 s3
    have h2 : Frees s1 s2 := by
      unfold s2
      split
      · exact closeInvocation ..
      · exact refl s1
    have h3 : Frees s s3 := ((holdTeam s t team).trans h2).trans (of_eq rfl rfl)
    split
    · exact h3.trans (of_eq rfl rfl)
    · exact h3

theorem recordDone (s : State) (core addr : Nat) (trap : Option PendRec) : Frees s (recordDone s core addr trap) := by
  unfold Machine.recordDone
  split
  · exact refl s
  · extract_lets c
    split
    · exact refl s
    · exact of_eq rfl rfl

theorem recordLost (s : State) (trap : Option PendRec) : Frees s (recordLost s trap) := by
  unfold Machine.recordLost
  split
  · exact refl s
  · exact checkStop ..

theorem freeCancels (s : State) (h : Nat) : Frees s (freeCancels s h) := by
  refine foldl (fun s x => ?_) _ _
  extract_lets sl
  split
  · exact putSlice fun h => h
  · exact refl s

theorem writeCounters (k : Nat) (t : Target) (s : State) : Frees s (writeCounters k t s) := by
  unfold Machine.writeCounters
  extract_lets good s1
  have h1 : Frees s s1 := of_memory (.storeDesc ..)
  split
  · exact h1.trans (of_memory (.storeDesc ..))
  · exact h1

theorem refreshHeader (s : State) (k : Nat) : Frees s (refreshHeader s k) := by
  unfold Machine.refreshHeader
  split
  · exact refl s
  · split
    · split
      · exact of_eq rfl rfl
      · exact writeCounters ..
    · exact refl s

theorem programEnded (s : State) (n : Nat) (p : Prog) (w : Nat) (err : Option Nat) : Frees s (programEnded s n p w err) := by
  unfold Machine.programEnded
  extract_lets late q q' s1 sl
  have h1 : Frees s s1 := by
    refine Frees.trans (t := putQueue s n p.vq q') (of_eq rfl rfl) ?_
    exact freeCancels ..
  split
  · exact h1
  · refine (h1.trans ?_).trans (refreshHeader _ _)
    exact putSlice fun h => h

theorem settleProg (s : State) (n x : Nat) : Frees s (settleProg s n x) := by
  unfold Machine.settleProg
  split
  · exact refl s
  · split
    · exact refl s
    · split
      · unfold endProg
        split
        · exact refl s
        · extract_lets
          refine Frees.trans ?_ (programEnded ..)
          exact of_eq rfl rfl
      · exact refl s

theorem settleFail (s : State) (n id : Nat) : Frees s (settleFail s n id) := by
  unfold Machine.settleFail
  split
  · exact refl s
  · split
    · exact refl s
    · split
      · exact of_eq rfl rfl
      · extract_lets v v' goes s1 s2
        have h1 : Frees s s1 := of_eq rfl rfl
        split
        · exact h1
        · have h2 : Frees s1 s2 := putSlice fun h => h
          exact (h1.trans h2).trans (putSlice fun h => h)

theorem settleUnit (s : State) (u : RecUnit) : Frees s (settleUnit s u) := by
  unfold Machine.settleUnit
  split
  · exact refl s
  · exact settleProg ..
  · exact settleFail ..

theorem recordEnd (s : State) (w : RecWait) (addr : Option Nat) : Frees s (recordEnd s w addr) := by
  unfold Machine.recordEnd
  extract_lets s1
  have h1 : Frees s s1 := of_eq rfl rfl
  refine Frees.trans ?_ (settleUnit _ _)
  refine h1.trans ?_
  split
  · exact recordDone ..
  · exact recordLost ..

/-! Records that go on. -/

theorem putRec (s : State) (w : RecWait) : Frees s (putRec s w) := of_eq rfl rfl

theorem parkRec (s : State) (w : RecWait) (page : Nat) : Frees s (parkRec s w page) := (putRec ..).trans (addWalk ..)

theorem countRec (s : State) (w : RecWait) (refused : Nat → Bool) (a : Nat) : Frees s (countRec s w refused a) := by
  unfold Machine.countRec
  split
  · exact recordEnd ..
  · exact parkRec ..
  · exact (sendRemote ..).trans (putRec ..)
  · split
    · exact putRec ..
    · extract_lets s1 bs s2
      have h2 : Frees s s2 := (spendFor ..).trans (storeTo ..)
      split
      · exact h2.trans (recordEnd ..)
      · exact (h2.trans (sendWrite ..)).trans (putRec ..)

theorem bodyRec (s : State) (w : RecWait) (refused : Nat → Bool) (i nent : Nat) : Frees s (bodyRec s w refused i nent) := by
  unfold Machine.bodyRec
  extract_lets a
  split
  · exact recordEnd ..
  · exact parkRec ..
  · exact (sendWrite ..).trans (putRec ..)
  · split
    · exact refl s
    · extract_lets s1
      have h1 : Frees s s1 := (spendFor ..).trans (storeTo ..)
      split
      · exact h1.trans (countRec ..)
      · exact (h1.trans (sendWrite ..)).trans (putRec ..)

theorem stepRec (s : State) (w : RecWait) (refused : Nat → Bool) : Frees s (stepRec s w refused) := by
  unfold Machine.stepRec
  extract_lets w' s1
  have h1 : Frees s s1 := putRec ..
  split
  · exact h1
  · refine h1.trans ?_
    split
    · split
      · exact recordEnd ..
      · exact parkRec ..
      · exact (sendRemote ..).trans (putRec ..)
      · split
        · exact refl s1
        · split
          · exact recordEnd ..
          · exact bodyRec ..
    · exact bodyRec ..
    · exact countRec ..
    · exact recordEnd ..

theorem retryRecords (s : State) (hit : RecWait → Bool) (refused : Bool) : Frees s (retryRecords s hit refused) :=
  foldl (fun _ _ => stepRec ..) _ _

/-! Packets. -/

theorem checkPkt (s : State) (p : Packet) : Frees s (checkPkt s p) := by
  unfold Machine.checkPkt
  split
  · exact of_eq rfl rfl
  · exact (of_fabric (.ringError ..)).trans (of_eq rfl rfl)
  · unfold parkPkt
    refine Frees.trans ?_ (addWalk ..)
    exact of_eq rfl rfl
  · exact refl s

theorem resumePkt (s : State) (id : Nat) : Frees s (resumePkt s id) := by
  unfold Machine.resumePkt
  split
  · exact refl s
  · split
    · exact checkPkt ..
    · exact of_eq rfl rfl

/-! Parks of other units. -/

theorem settleAnvils (s : State) (f : Nat → Park → Option Park) : Frees s (settleAnvils s f) :=
  foldl (f := fun (s : State) (v : Nat × Anvil) => putAnvil s v.1 { anvilAt s v.1 with resv := (anvilAt s v.1).resv.map (settleReq f) })
    (fun _ _ => of_eq rfl rfl) _ _

theorem settleScribes (s : State) (f : Nat → Park → Option Park) : Frees s (settleScribes s f) := by
  refine foldl (fun s b => foldl (fun s x => ?_) _ _) _ _
  split
  · exact refl s
  · split
    · exact refl s
    · exact of_eq rfl rfl

end Frees

/-! Slices that waited. -/

/-- What stands in a map in canonical form is what it gives. -/
theorem aget_of_mem {α} [DecidableEq α] {d x : α} {m : Assoc α} {k : Nat} (hw : awf d m = true) (h : (k, x) ∈ m) :
    aget d m k = x := by
  induction m with
  | nil => cases h
  | cons p m ih =>
    obtain ⟨j, y⟩ := p
    obtain ⟨-, hlt, hm⟩ := awf_cons.mp hw
    rcases List.mem_cons.mp h with h | h
    · cases h
      exact if_pos rfl
    · have hj : j ≠ k := Nat.ne_of_lt (hlt _ h)
      exact (if_neg hj).trans (ih hm h)

/-- Settling the park of one slice. -/
def settleSlice (f : Nat → Park → Option Park) (s : State) (x : Nat × Slice) : State :=
  match x.2.park with
  | none => s
  | some p => putSlice s x.1 { sliceAt s x.1 with park := f (vdevOf (keyCtx s x.1)) p }

theorem settleSlices_eq (s : State) (f : Nat → Park → Option Park) : settleSlices s f = s.slices.foldl (settleSlice f) s := rfl

/-- Settling changes no leaf and no key's context. -/
theorem settleSlice_keeps (f : Nat → Park → Option Park) (s : State) (x : Nat × Slice) :
    (settleSlice f s x).tlb = s.tlb ∧ ∀ k, keyCtx (settleSlice f s x) k = keyCtx s k := by
  unfold settleSlice
  split
  · exact ⟨rfl, fun _ => rfl⟩
  · exact ⟨rfl, fun _ => rfl⟩

/-- A park that settling ends is gone, once any entry of its slice is settled. -/
theorem foldl_settleSlice_park {f : Nat → Park → Option Park} {k v : Nat} {p : Park} (hf : f v p = none)
    (l : List (Nat × Slice)) (hl : ∀ x ∈ l, x.1 = k → x.2.park = some p) (s : State) (hv : vdevOf (keyCtx s k) = v)
    (h : (∃ x ∈ l, x.1 = k) ∨ (sliceAt s k).park = none) : (sliceAt (l.foldl (settleSlice f) s) k).park = none := by
  induction l generalizing s with
  | nil => exact h.resolve_left fun ⟨_, hx, _⟩ => List.not_mem_nil hx
  | cons x l ih =>
    have hk := (settleSlice_keeps f s x).2 k
    refine ih (fun y hy => hl y (List.mem_cons_of_mem _ hy)) _ (by rw [hk, hv]) ?_
    by_cases hx : x.1 = k
    · right
      unfold settleSlice
      rw [hl x List.mem_cons_self hx, hx]
      dsimp only
      rw [sliceAt_putSlice_self, hv, hf]
    · rcases h with ⟨y, hy, hyk⟩ | h
      · rcases List.mem_cons.mp hy with rfl | hy
        · exact absurd hyk hx
        · exact .inl ⟨y, hy, hyk⟩
      · right
        unfold settleSlice
        split
        · exact h
        · rwa [sliceAt_putSlice_ne _ _ _ (Ne.symm hx)]

theorem settleParks_tlb (s : State) (f : Nat → Park → Option Park) : (settleParks s f).tlb = s.tlb :=
  ((Frees.settleAnvils (settleSlices s f) f).trans (Frees.settleScribes (settleAnvils (settleSlices s f) f) f)).tlb.trans
    (foldl_keeps State.tlb (settleSlice f) (fun s x => (settleSlice_keeps f s x).1) s.slices s)

/-- A slice parked on what settling ends waits no longer. -/
theorem settleParks_park {s : State} {f : Nat → Park → Option Park} {k : Nat} {p : Park} (hw : awf Slice.zero s.slices = true)
    (hp : (sliceAt s k).park = some p) (hf : f (vdevOf (keyCtx s k)) p = none) :
    (sliceAt (settleParks s f) k).park = none := by
  have hmem : (k, sliceAt s k) ∈ s.slices := by
    refine mem_of_aget rfl fun hz => ?_
    rw [hz] at hp
    cases hp
  have hall : ∀ x ∈ s.slices, x.1 = k → x.2.park = some p := by
    rintro ⟨j, y⟩ hx rfl
    have hy : sliceAt s j = y := aget_of_mem hw hx
    rw [← hy, hp]
  have hrest := (Frees.settleAnvils (settleSlices s f) f).trans (Frees.settleScribes (settleAnvils (settleSlices s f) f) f)
  exact hrest.park k (foldl_settleSlice_park hf s.slices hall s rfl (.inl ⟨_, hmem, rfl⟩))

/-- What a leaf satisfies goes on, and the leaves stay. -/
theorem replay_frees (s : State) (vdev page : Nat) (writable : Bool) : (replay s vdev page writable).tlb = s.tlb ∧
    (writable = true → awf Slice.zero s.slices = true → ∀ k p, (sliceAt s k).park = some p → vdevOf (keyCtx s k) = vdev →
      p.page = page → p.refused = false → (sliceAt (replay s vdev page writable) k).park = none) := by
  unfold replay
  extract_lets free s1 s2
  have h12 : Frees s1 s2 := .retryRecords ..
  have hrest : Frees s1 ((parkedPkts s2 vdev page free).foldl resumePkt s2) := h12.trans (.foldl (fun _ _ => .resumePkt ..) _ _)
  refine ⟨hrest.tlb.trans (settleParks_tlb _ _), fun hwr hw k p hp hv hpage href => hrest.park k (settleParks_park hw hp ?_)⟩
  have hfree : free p = true := by
    unfold free
    rw [hpage, href, hwr, beq_self_eq_true]
    rfl
  rw [hv, hfree, Bool.and_true]
  exact if_pos (decide_eq_true rfl)

/-- A walk that may run is finished. -/
theorem exec_pageWalk {s : State} {id : Nat} {w : Walk} (hw : s.walks.find? (fun w => w.id = id) = some w)
    (ha : ((s.walks.takeWhile fun x => x.id != id).filter fun x => x.die = w.die).length < 4096)
    (hr : walkReady s w.vdev (w.page * 2 ^ 16) = true) : exec (.pageWalk id) s = .next (finishWalk s w) := by
  show execPageWalk id s = _
  unfold execPageWalk
  rw [hw]
  dsimp only
  rw [decide_eq_true ha, hr, Bool.and_self, if_pos rfl]

theorem walkAddr_walks (s : State) (ws : List Walk) (vdev va : Nat) : walkAddr { s with walks := ws } vdev va = walkAddr s vdev va :=
  walkFrom_walks s ws _ _ _ _

/-- A request whose record has room goes into the ring. -/
theorem exec_pageRequest {s : State} {id : Nat} {r : PageReq} (hr : s.pageReqs.find? (fun r => r.id = id) = some r)
    (hw : r.written = none) (hp : r.place = none) {v : VDev} (hv : v = vdevSt s r.vdev)
    (hf : ringFull v.prqW v.prqCons (prqLen s r.vdev) = false) {fa : Nat}
    (hfa : fa = prqBase s r.vdev + 32 * (v.prqW.toNat % prqLen s r.vdev)) {t : State}
    (ht : t = post (putVdev s r.vdev { v with prqW := v.prqW + 1 }) (partOf r.vdev) fa
      (prqRecord r (lapByte v.prqW.toNat (prqLen s r.vdev)))) : exec (.pageRequest id) s = .next { t with
        pageReqs := t.pageReqs.map fun x => if x.id = id then
          { x with place := postedAt t fa, written := if postedAt t fa = none then some t.clock.toNat else none } else x } := by
  have hheld : ∀ (o : Option Nat) (c : Nat), (if o.isSome = true then none else some c) = if o = none then some c else none := by
    intro o c
    cases o <;> rfl
  show execPageRequest id s = _
  unfold execPageRequest
  rw [hr]
  dsimp only
  rw [hw, hp, ← hv, hf, ← hfa, ← ht, hheld]
  rfl

/-- A request that has waited its time is refused. -/
theorem exec_pageRequestTimeout {s : State} {id t : Nat} {r : PageReq} (hr : s.pageReqs.find? (fun r => r.id = id) = some r)
    (hw : r.written = some t) (ho : prTimeout s r.vdev ≤ s.clock.toNat - t) :
    exec (.pageRequestTimeout id) s = .next (refusePage (dropPageReq s id) r) := by
  have hover : requestOverdue s r = true := by
    unfold requestOverdue
    rw [hw]
    exact decide_eq_true ho
  show execPageRequestTimeout id s = _
  unfold execPageRequestTimeout
  rw [hr]
  dsimp only
  rw [hover, if_pos rfl]

/-- Settles O48: a walk by what it finds, and a request by its ring and its time. -/
theorem pagingEvents : Obligations.PagingEvents := by
  intro s id
  refine ⟨?walk, ?request, fun r t hr hw ho => exec_pageRequestTimeout hr hw ho⟩
  case walk =>
    intro w hw ha hr s1
    have hgo := exec_pageWalk hw ha hr
    refine ⟨fun reason hn => hgo.trans (congrArg _ ?_), fun b e hl he => ?_⟩
    · unfold finishWalk
      dsimp only
      rw [walkAddr_walks, hn]
    · have hfin : finishWalk s w = replay (cacheLeaf s1 w.vdev (w.page * 2 ^ 16) b e) w.vdev w.page true := by
        unfold finishWalk
        dsimp only
        rw [walkAddr_walks, hl]
        dsimp only
        rw [he]
        rfl
      obtain ⟨htlb, hpark⟩ := replay_frees (cacheLeaf s1 w.vdev (w.page * 2 ^ 16) b e) w.vdev w.page true
      refine ⟨_, hgo.trans (congrArg _ hfin), ?_, fun hawf k p => hpark rfl hawf k p⟩
      rw [htlb]
      exact List.mem_cons_self
  case request =>
    intro r hr hw hp v hf fa t held
    exact exec_pageRequest hr hw hp rfl hf rfl rfl

end Sys2Proof.Proofs
end

section
/-! PROOFS. Ageing, refills, scratch pages and swaps. -/

namespace Sys2Proof.Proofs

open Sys2Proof.Machine Sys2Proof.Safety Sys2Proof.Laws

/-! A register that comes back. -/

theorem regVal_putInfo (acc acc' : Bool) (sl : Slice) (r : Nat) (x : RegInfo) (q l : Nat) :
    regVal acc' (putInfo acc sl r x) q l = regVal acc' sl q l := by cases acc <;> cases acc' <;> rfl

theorem regVal_setStream (acc acc' : Bool) (sl : Slice) (st : Stream) (q l : Nat) :
    regVal acc' (setStream acc sl st) q l = regVal acc' sl q l := by cases acc <;> cases acc' <;> rfl

theorem regInfo_setStream (acc acc' : Bool) (sl : Slice) (st : Stream) (r : Nat) :
    regInfo acc' (setStream acc sl st) r = regInfo acc' sl r := by cases acc <;> cases acc' <;> rfl

/-- A register made resident at the count of rounds of its stream, when the stream goes on to what else it wants. -/
def refilled (acc : Bool) (sl : Slice) (r : Nat) (want : List Nat) : Slice :=
  setStream acc (putInfo acc sl r { regInfo acc sl r with loc := .resident, touch := (streamOf acc sl).aged })
    { streamOf acc sl with want := want, stall := !want.isEmpty }

theorem regInfo_refilled (acc : Bool) (sl : Slice) (r : Nat) (want : List Nat) :
    regInfo acc (refilled acc sl r want) r = { regInfo acc sl r with loc := .resident, touch := (streamOf acc sl).aged } := by
  unfold refilled
  rw [regInfo_setStream, regInfo_putInfo_self]

theorem regAge_refilled (acc : Bool) (sl : Slice) (r : Nat) (want : List Nat) : regAge acc (refilled acc sl r want) r = 0 := by
  unfold regAge
  rw [regInfo_refilled]
  unfold refilled
  rw [streamOf_setStream]
  dsimp only
  rw [Nat.sub_self, Nat.min_zero]

theorem regVal_refilled (acc : Bool) (sl : Slice) (r : Nat) (want : List Nat) (q l : Nat) :
    regVal acc (refilled acc sl r want) q l = regVal acc sl q l := by
  unfold refilled
  rw [regVal_setStream, regVal_putInfo]

/-- A register that its stream wants and that may come back does, after others have made room. -/
theorem exec_registerRefill {s : State} {k r : Nat} {acc : Bool} {team : Team} (ht : teamAt s (k / 32) = some team)
    (hk : k < trapBase) (hr : r ∈ (streamOf acc (sliceAt s k)).want)
    (hh : (regInfo acc (sliceAt s k) r).loc = .scratch ∨ ((regInfo acc (sliceAt s k) r).loc = .hbm ∧
      homeReady s team (registerHome team (k % 32) acc r) (spillBytes acc) = true)) :
    ∃ x want, exec (.registerRefill k acc r) s = .next (putSlice s k (refilled acc x r want)) ∧
      ∀ q l, regVal acc x q l = regVal acc (sliceAt s k) q l := by
  have hspilled : (spilledOf acc (sliceAt s k) [r]).contains r = true := by
    rw [List.contains_eq_mem]
    refine decide_eq_true (List.mem_filter.mpr ⟨List.mem_cons_self, ?_⟩)
    rcases hh with h | ⟨h, -⟩ <;> rw [h] <;> rfl
  have hhome : ((regInfo acc (sliceAt s k) r).loc != .hbm ||
      homeReady s team (registerHome team (k % 32) acc r) (spillBytes acc)) = true := by
    rcases hh with h | ⟨-, h⟩
    · rw [h]
      rfl
    · rw [h, Bool.or_true]
  have hwant : (streamOf acc (sliceAt s k)).want.contains r = true := by
    rw [List.contains_eq_mem, decide_eq_true hr]
  show ∃ x want, execRegisterRefill k acc r s = _ ∧ _
  unfold execRegisterRefill
  dsimp only
  rw [ht]
  dsimp only
  rw [hwant, hspilled, decide_eq_true hk, hhome, Bool.and_self, Bool.and_self, Bool.and_self, if_pos rfl]
  generalize hx : trimBank _ _ _ _ _ _ _ = x
  have hst : streamOf acc x = streamOf acc (sliceAt s k) :=
    hx ▸ trimBank_keeps (streamOf acc) (fun sl r x => putInfo_streamOf acc acc sl r x) _ _ _ _ _ (sliceAt s k)
  refine ⟨x, (streamOf acc (sliceAt s k)).want.erase r, ?_, fun q l => ?_⟩
  · unfold refilled
    rw [putInfo_streamOf, hst]
  · exact hx ▸ trimBank_keeps (fun sl => regVal acc sl q l) (fun sl r x => regVal_putInfo acc acc sl r x q l) _ _ _ _ _
        (sliceAt s k)

/-! Scratch pages. -/

theorem giveBytes_out (x : Assoc Byte) (loc off n : Nat) (m : Memory) {a : Nat} (h : a < loc ∨ loc + n ≤ a) :
    readByte (giveBytes x loc off n m) a = readByte m a := by
  induction n generalizing loc off m with
  | zero => rfl
  | succ n ih =>
    unfold giveBytes
    rw [ih _ _ _ (by omega), readByte_writeByte_ne _ _ (by omega)]

theorem giveBytes_in (x : Assoc Byte) (loc off n : Nat) (m : Memory) {i : Nat} (h : i < n) :
    readByte (giveBytes x loc off n m) (loc + i) = aget 0 x (off + i) := by
  induction n generalizing loc off m i with
  | zero => omega
  | succ n ih =>
    unfold giveBytes
    cases i with
    | zero => rw [giveBytes_out _ _ _ _ _ (by omega), Nat.add_zero, Nat.add_zero, readByte_writeByte_self]
    | succ i =>
      have := ih (loc + 1) (off + 1) (writeByte m loc (aget 0 x off)) (i := i) (by omega)
      rw [show loc + (i + 1) = loc + 1 + i by omega, show off + (i + 1) = off + 1 + i by omega, this]

/-- A state whose slices differ in what is kept about their registers alone. -/
def OnlyInfo (s t : State) : Prop :=
  t.mem = s.mem ∧ ∀ k, { sliceAt t k with vInfo := (sliceAt s k).vInfo, arInfo := (sliceAt s k).arInfo } = sliceAt s k

namespace OnlyInfo

theorem refl (s : State) : OnlyInfo s s := ⟨rfl, fun _ => rfl⟩

theorem trans {s t u : State} (h : OnlyInfo s t) (g : OnlyInfo t u) : OnlyInfo s u := by
  refine ⟨g.1.trans h.1, fun k => ?_⟩
  have h := h.2 k
  have g := congrArg (fun x : Slice => { x with vInfo := (sliceAt s k).vInfo, arInfo := (sliceAt s k).arInfo }) (g.2 k)
  exact g.trans h

theorem foldl {α} {f : State → α → State} (hf : ∀ s a, OnlyInfo s (f s a)) (l : List α) (s : State) : OnlyInfo s
    (l.foldl f s) := by
  induction l generalizing s with
  | nil => exact refl s
  | cons a l ih => exact (hf s a).trans (ih _)

theorem putSlice (s : State) (k : Nat) (v a : Assoc RegInfo) :
    OnlyInfo s (putSlice s k { sliceAt s k with vInfo := v, arInfo := a }) := by
  refine ⟨rfl, fun j => ?_⟩
  by_cases hj : j = k
  · rw [hj, sliceAt_putSlice_self]
  · rw [sliceAt_putSlice_ne _ _ _ hj]

theorem spillOut (s : State) (core : Nat) : OnlyInfo s (spillOut s core) := by
  unfold Machine.spillOut
  split
  · exact refl s
  · extract_lets out
    exact foldl (fun _ _ => foldl (fun _ _ => putSlice ..) _ _) _ _

end OnlyInfo

/-- A page that is out and may come back does. -/
theorem exec_scratchPageReturn {s : State} {t page : Nat} {team : Team} (ht : teamAt s t = some team) (hp : page ∈ team.moved)
    (hk : pageTaken s t team page = false) (hph : team.phase ≠ .saved) (hh : homeReady s team (pageHome team page) 4096 = true) :
    exec (.scratchPageReturn t page) s = .next (spillOut (putTeam (pagesIn s (t / 16) team [page]).1 t
      (some { (pagesIn s (t / 16) team [page]).2 with moved := team.moved.erase page })) (t / 16)) := by
  have hc : team.moved.contains page = true := by rw [List.contains_eq_mem, decide_eq_true hp]
  show Host.Outcome.next (returnPage s t page) = _
  unfold returnPage
  rw [ht]
  dsimp only
  rw [hc, hk, bne_iff_ne.mpr hph, hh]
  rfl

/-- The memory after one page has come back. -/
theorem pagesIn_mem (s : State) (core : Nat) (team : Team) (page : Nat) : (pagesIn s core team [page]).1.mem =
    giveBytes team.spill (sramAddr core (team.base + 4096 * page)) (4096 * page) 4096 s.mem := by
  have hlo : sramAddr core team.base + 4096 * page = sramAddr core (team.base + 4096 * page) := Nat.add_assoc _ _ _
  unfold pagesIn
  dsimp only
  rw [List.foldl_cons, List.foldl_nil, hlo]

theorem sliceAt_pagesIn (s : State) (core : Nat) (team : Team) (pages : List Nat) (t : Nat) (x : Option Team) (k : Nat) :
    sliceAt (putTeam (pagesIn s core team pages).1 t x) k = sliceAt s k := rfl

/-- Settles O49: each event by its rule. -/
theorem registerEvents : Obligations.RegisterEvents := by
  intro s t team ht htop
  refine ⟨fun j hj acc => ?registers, ?page, fun j hj => ?swap⟩
  case registers =>
    intro k st
    have hk : k / 32 = t := by omega
    have hj32 : k % 32 = j := by omega
    refine ⟨fun ha => congrArg Host.Outcome.next (if_pos (decide_eq_true ha)), fun r hr hh => ?_⟩
    obtain ⟨x, want, hgo, hval⟩ := exec_registerRefill (hk.symm ▸ ht) (by omega : k < trapBase) hr (hj32.symm ▸ hh)
    refine ⟨_, hgo, ?_, ?_, fun q l => ?_, rfl⟩
    · rw [sliceAt_putSlice_self, regInfo_refilled]
    · rw [sliceAt_putSlice_self, regAge_refilled]
    · rw [sliceAt_putSlice_self, regVal_refilled, hval]
  case page =>
    intro page hp hk hph hh lo
    have hinfo := OnlyInfo.spillOut (putTeam (pagesIn s (t / 16) team [page]).1 t
      (some { (pagesIn s (t / 16) team [page]).2 with moved := team.moved.erase page })) (t / 16)
    have hmem := (hinfo.1.trans (putTeam_mem ..)).trans (pagesIn_mem s (t / 16) team page)
    refine ⟨_, exec_scratchPageReturn ht hp hk hph hh, fun i hi => ?_, fun a ha => ?_, fun k => ?_⟩
    · exact (congrArg (readByte · _) hmem).trans (giveBytes_in _ _ _ _ _ hi)
    · exact (congrArg (readByte · _) hmem).trans (giveBytes_out _ _ _ _ _ ha)
    · have hk := hinfo.2 k
      rw [sliceAt_pagesIn] at hk
      exact hk
  case swap =>
    intro k sl
    have hk : k / 32 = t := by omega
    have hj32 : k % 32 = j := by omega
    have hlt : k < trapBase := by omega
    refine ⟨fun hsw hst hage hheld hlong hroom => ?_, fun hsw hst hent hres hhome => ?_⟩
    · have hcand : swapCandidate s t team j = true := by
        unfold swapCandidate
        dsimp only
        rw [hsw, hst, decide_eq_true hage, hheld]
        rfl
      show execRegisterSwapOut k s = _
      unfold execRegisterSwapOut
      dsimp only
      rw [hk, ht]
      dsimp only
      rw [hj32, hcand, hlong, decide_eq_true hroom, decide_eq_true hlt]
      rfl
    · show execRegisterSwapIn k s = _
      unfold execRegisterSwapIn
      dsimp only
      rw [hk, ht]
      dsimp only
      rw [hj32, hsw, hst, decide_eq_true hent, decide_eq_true (show residentSlices s (k / 512) < Config.sliceSlots from hres),
          hhome]
      rfl

end Sys2Proof.Proofs
end

section
/-! PROOFS. Remaps, expansions and folds. -/

namespace Sys2Proof.Proofs

open Sys2Proof.Machine Sys2Proof.Safety Sys2Proof.Laws

/-! Remaps. -/

/-- Units chosen already stay chosen. -/
theorem mem_fitUnits (s : State) (t : Nat) (team : Team) (p : Nat) {m : Nat × Nat} (us : List Nat) :
    ∀ ms, m ∈ ms → m ∈ fitUnits s t team p ms us := by
  induction us with
  | nil => exact fun _ h => h
  | cons u us ih =>
    intro ms h
    unfold fitUnits
    dsimp only
    split
    · exact ih _ (List.mem_append_left _ h)
    · exact h

/-! Levels. -/

section
variable {γ : Type} (g : State → γ) (hslice : ∀ s k x, g (putSlice s k x) = g s)
include hslice

theorem reachLevel_keeps (toHbm : Bool) (t : Nat) (s : State) (j : Nat) : g (reachLevel toHbm t s j) = g s := by
  unfold reachLevel
  split
  · rfl
  · exact hslice ..

/-- A change of level is of a team and of its slices. -/
theorem setLevel_keeps (hteam : ∀ s t x, g (putTeam s t x) = g s) (toHbm : Bool) (s : State) (t l : Nat) :
    g (setLevel toHbm s t l) = g s := by
  unfold setLevel
  split
  · rfl
  · refine (foldl_keeps g _ (fun s j => ?_) _ _).trans (hteam ..)
    split
    · exact hslice ..
    · exact reachLevel_keeps g hslice ..

end

theorem setLevel_mem (toHbm : Bool) (s : State) (t l : Nat) : (setLevel toHbm s t l).mem = s.mem :=
  setLevel_keeps _ (fun _ _ _ => rfl) (fun _ _ _ => rfl) toHbm s t l

/-- The team of a change of level. -/
theorem teamAt_setLevel_self {s : State} {t : Nat} {team : Team} (ht : teamAt s t = some team) (toHbm : Bool) (l : Nat) :
    ∃ y, teamAt (setLevel toHbm s t l) t = some y ∧ y.level = l := by
  unfold setLevel
  rw [ht]
  dsimp only
  refine ⟨_, (foldl_keeps (teamAt · t) _ (fun s j => ?_) _ _).trans (teamAt_putTeam_self ..), rfl⟩
  split
  · rfl
  · exact reachLevel_keeps (teamAt · t) (fun _ _ _ => rfl) ..

theorem teamAt_setLevel_ne (s : State) {t j : Nat} (h : j ≠ t) (toHbm : Bool) (l : Nat) :
    teamAt (setLevel toHbm s t l) j = teamAt s j := by
  unfold setLevel
  split
  · rfl
  · refine (foldl_keeps (teamAt · j) _ (fun s i => ?_) _ _).trans (teamAt_putTeam_ne _ _ _ h)
    split
    · rfl
    · exact reachLevel_keeps (teamAt · j) (fun _ _ _ => rfl) ..

/-! Expansions. -/

/-- A move after which memory is as it was and every team has a level that is no higher. -/
def OnlyExpands (s t : State) : Prop :=
  t.mem = s.mem ∧ ∀ k team, teamAt s k = some team → ∃ y, teamAt t k = some y ∧ y.level ≤ team.level

namespace OnlyExpands

theorem refl (s : State) : OnlyExpands s s := ⟨rfl, fun _ team h => ⟨team, h, Nat.le_refl _⟩⟩

theorem trans {s t u : State} (h : OnlyExpands s t) (g : OnlyExpands t u) : OnlyExpands s u := by
  refine ⟨g.1.trans h.1, fun k team hk => ?_⟩
  obtain ⟨y, hy, hle⟩ := h.2 k team hk
  obtain ⟨z, hz, hle'⟩ := g.2 k y hy
  exact ⟨z, hz, Nat.le_trans hle' hle⟩

theorem foldl {α} {f : State → α → State} (hf : ∀ s a, OnlyExpands s (f s a)) (l : List α) (s : State) :
    OnlyExpands s (l.foldl f s) := by
  induction l generalizing s with
  | nil => exact refl s
  | cons a l ih => exact (hf s a).trans (ih _)

theorem setLevel {s : State} {t l : Nat} {team : Team} (ht : teamAt s t = some team) (hl : l < team.level) (toHbm : Bool) :
    OnlyExpands s (setLevel toHbm s t l) := by
  refine ⟨setLevel_mem .., fun k x hk => ?_⟩
  by_cases h : k = t
  · obtain ⟨y, hy, hyl⟩ := teamAt_setLevel_self ht toHbm l
    have hx : x = team := Option.some.inj (hk.symm.trans (h ▸ ht))
    exact ⟨y, h ▸ hy, by rw [hyl, hx]; exact Nat.le_of_lt hl⟩
  · exact ⟨x, (teamAt_setLevel_ne s h toHbm l).trans hk, Nat.le_refl _⟩

theorem expandCore (s : State) (core : Nat) : OnlyExpands s (expandCore s core) := by
  unfold Machine.expandCore
  refine foldl (fun s p => ?_) _ _
  split
  · next team ht =>
    split
    · next h => exact setLevel ht h false
    · exact refl s
  · exact refl s

end OnlyExpands

/-! Folds. -/

/-- A write to each of some keys: what a key among them then holds, where all that the list says of it is the same. -/
theorem aget_foldl_aput_pair {α} [DecidableEq α] {d x : α} (g : α → α) {j : Nat} (l : List (Nat × α)) (m : Assoc α)
    (hu : ∀ y, (j, y) ∈ l → y = x) (h : (j, x) ∈ l ∨ aget d m j = g x) :
    aget d (l.foldl (fun m p => aput d m p.1 (g p.2)) m) j = g x := by
  induction l generalizing m with
  | nil => exact h.resolve_left (List.not_mem_nil)
  | cons p l ih =>
    obtain ⟨k, y⟩ := p
    refine ih _ (fun z hz => hu z (List.mem_cons_of_mem _ hz)) ?_
    by_cases hk : j = k
    · subst hk
      rw [hu y List.mem_cons_self]
      exact .inr (aget_aput_self ..)
    · rw [aget_aput_ne _ _ _ _ _ hk]
      exact h.imp_left fun h => (List.mem_cons.mp h).resolve_left fun h => hk (congrArg Prod.fst h)

/-- A fold withdraws its slices from a context that is not the beneficiary. -/
theorem foldPlaces_pset {places : Assoc CtxPlace} {q : FoldReq} {p c : Nat} (hw : awf CtxPlace.zero places = true)
    (hc : (aget CtxPlace.zero places p).ctx = some c) (hq : q.ben ≠ some p) :
    (aget CtxPlace.zero (foldPlaces places q).1 p).pset = withdraw (aget CtxPlace.zero places p).pset q.smask := by
  have hmem : (p, aget CtxPlace.zero places p) ∈ places :=
    mem_of_aget rfl fun h => by rw [h] at hc; cases hc
  have hother : (p, aget CtxPlace.zero places p) ∈ places.filter fun p => p.2.ctx.isSome && some p.1 != q.ben :=
    List.mem_filter.mpr ⟨hmem, by dsimp only; rw [hc, bne_iff_ne.mpr hq.symm]; rfl⟩
  have hget := aget_foldl_aput_pair (d := CtxPlace.zero) (fun x => { x with pset := withdraw x.pset q.smask }) _ places
    (fun y hy => (aget_of_mem hw (List.mem_filter.mp hy).1).symm) (.inl hother)
  unfold foldPlaces
  extract_lets others kept taken m freed
  split
  · next b hb =>
    have hne : p ≠ b := fun h => hq (h ▸ hb)
    extract_lets x
    exact congrArg CtxPlace.pset ((aget_aput_ne _ _ _ _ _ hne).trans hget)
  · exact congrArg CtxPlace.pset hget

section
variable {γ : Type} (g : State → γ) (hslice : ∀ s k x, g (putSlice s k x) = g s) (hteam : ∀ s t x, g (putTeam s t x) = g s)
include hslice hteam

theorem lowerToSlices_keeps (toHbm : Bool) (s : State) (t : Nat) : g (lowerToSlices toHbm s t) = g s := by
  unfold lowerToSlices
  split
  · rfl
  · extract_lets l
    split
    · rfl
    · exact setLevel_keeps g hslice hteam ..

theorem lowerForEntries_keeps (toHbm : Bool) (need t f : Nat) (s : State) : g (lowerForEntries toHbm need t f s) = g s := by
  induction f generalizing s with
  | zero => rfl
  | succ f ih =>
    unfold lowerForEntries
    split
    · rfl
    · split
      · rw [ih, setLevel_keeps g hslice hteam]
      · rfl

variable (hspill : ∀ s core team off n, g (spillAt s core team off n) = g s)
include hspill

omit hslice in
theorem movePage_keeps (s : State) (t page : Nat) : g (movePage s t page) = g s := by
  unfold movePage
  split
  · rfl
  · rw [hspill, hteam]

omit hslice in
theorem freePagesOf_keeps (need t : Nat) (ps : List Nat) (s : State) : g (freePagesOf need t ps s) = g s := by
  induction ps generalizing s with
  | nil => rfl
  | cons p ps ih =>
    unfold freePagesOf
    split
    · rfl
    · split
      · rfl
      · rw [ih]
        split
        · exact movePage_keeps g hteam hspill ..
        · rfl

/-- After its context places are written, a fold is of teams, of their slices and of writes to their save areas. -/
theorem foldCore_keeps (s : State) (core : Nat) (q : FoldReq) (below : Nat) :
    g (foldCore s core q below).1 =
      g (putCore s core { coreAt s core with places := (foldPlaces (coreAt s core).places q).1 }) := by
  unfold foldCore
  extract_lets c r ben s1 vs toHbm s2 s3 s4
  exact (foldl_keeps g _ (fun s t => freePagesOf_keeps g hteam hspill q.pages t (pagesOf s t) s) vs s3).trans
    ((foldl_keeps g _ (fun s t => lowerForEntries_keeps g hslice hteam toHbm (32 * q.gran) t 4 s) vs s2).trans
      (foldl_keeps g _ (lowerToSlices_keeps g hslice hteam toHbm) vs s1))

end

/-- What the rest of a fold leaves of the context places. -/
theorem coreAt_foldCore (s : State) (core : Nat) (q : FoldReq) (below : Nat) :
    coreAt (foldCore s core q below).1 core = { coreAt s core with places := (foldPlaces (coreAt s core).places q).1 } := by
  have hcores := foldCore_keeps State.cores (fun _ _ _ => rfl) (fun _ _ _ => rfl) (fun _ _ _ _ _ => rfl) s core q below
  exact (congrArg (aget _ · core) hcores).trans (coreAt_putCore_self ..)

/-- A fold for a launch that nothing keeps from going on does nothing, and neither do the steps after it. -/
theorem climb_free {s : State} {cluster lid : Nat} {l : Launch} (h : blocked s cluster lid l = false) :
    climb s cluster lid l = s := by
  have hfold (cs : List Nat) (below : Nat) :
      cs.foldl (fun s c => if blocked s cluster lid l then (foldCore s c (needOf l) below).1 else s) s = s := by
    induction cs with
    | nil => rfl
    | cons c cs ih => rw [List.foldl_cons, h, if_neg Bool.false_ne_true, ih]
  unfold climb foldFor
  extract_lets below x
  have hx : x = s := hfold (clusterCores cluster) below
  rw [hx, h, if_neg Bool.false_ne_true]

/-- A request that is no mistake, with a launch that cannot go on and without. -/
theorem exec_foldRequest {s : State} {core : Nat} {req : BitVec 64} (h : foldReqBad s core req.toNat = false) :
    exec (.foldRequest core req) s = .next (
      match blockedWaiter s (clusterOf core) ((foldReqOf req.toNat).ben.bind fun b => (aget CtxPlace.zero
          (coreAt s core).places b).ctx) with
      | none => s
      | some (lid, l) => climb (foldCore s core (foldReqOf req.toNat) (ctxPrio s (clusterOf core) l.ctx)).1
          (clusterOf core) lid l) :=
  congrArg Host.Outcome.next (if_neg (ne_true_of_eq_false h))

/-- Settles O50: each event by its rule. -/
theorem foldEvents : Obligations.FoldEvents := by
  intro s
  refine ⟨fun t team ht => ?remap, fun core => ⟨_, rfl, (OnlyExpands.expandCore s core).1, (OnlyExpands.expandCore s core).2⟩,
    fun core req hreq => ?fold⟩
  case remap =>
    have hgo : ∃ rr, remapTeam s t = putTeam s t (some { team with
        mapped := fitUnits s t team (physSlices s t team) (team.mapped.filter (unitKeeps s t team))
          ((unitOrder s t team).filter fun u =>
            !(team.mapped.filter (unitKeeps s t team)).any (fun m => m.1 = u) && unitAble s t team u)
        rr := rr }) := by
      unfold remapTeam
      rw [ht]
      exact ⟨_, rfl⟩
    obtain ⟨rr, hgo⟩ := hgo
    refine ⟨_, _, congrArg Host.Outcome.next hgo, teamAt_putTeam_self .., fun m hm hk => ?_, rfl, rfl⟩
    exact mem_fitUnits _ _ _ _ _ _ (List.mem_filter.mpr ⟨hm, hk⟩)
  case fold =>
    extract_lets q ctx
    refine ⟨fun below hw => ?places, fun hnone => ?idle, fun lid l hsome => ?enough⟩
    case places =>
      intro x p c hc hq was
      rw [coreAt_foldCore]
      exact foldPlaces_pset hw hc hq
    case idle =>
      rw [exec_foldRequest hreq, hnone]
    case enough =>
      intro x hfree
      rw [exec_foldRequest hreq, hsome]
      exact congrArg Host.Outcome.next (climb_free hfree)

end Sys2Proof.Proofs
end

section
/-! PROOFS. The preemption ladder. -/

namespace Sys2Proof.Proofs

open Sys2Proof.Machine Sys2Proof.Safety Sys2Proof.Laws

/-! Evictions. -/

/-- No team at one place runs after it has been stopped. -/
theorem stopTeam_stops (s : State) (t : Nat) {team : Team} (h : teamAt (stopTeam s t) t = some team) : team.phase ≠ .running := by
  unfold stopTeam at h
  split at h
  · next hn => rw [hn] at h; cases h
  · next x hx =>
    split at h
    · rw [teamAt_putTeam_self] at h
      cases h
      exact nofun
    · next hph =>
      rw [hx] at h
      cases h
      exact hph

theorem teamAt_stopTeam_ne (s : State) {t j : Nat} (h : j ≠ t) : teamAt (stopTeam s t) j = teamAt s j := by
  unfold stopTeam
  split
  · rfl
  · split
    · exact teamAt_putTeam_ne _ _ _ h
    · rfl

/-- Teams that have been stopped one after another do not run. -/
theorem stopTeams_stop {m : Nat} (ms : List Nat) (s : State)
    (h : m ∈ ms ∨ ∀ team, teamAt s m = some team → team.phase ≠ .running) :
    ∀ team, teamAt (ms.foldl stopTeam s) m = some team → team.phase ≠ .running := by
  induction ms generalizing s with
  | nil => exact h.resolve_left List.not_mem_nil
  | cons t ms ih =>
    refine ih _ ?_
    by_cases hm : m = t
    · exact .inr fun _ => hm ▸ stopTeam_stops s t
    · rw [teamAt_stopTeam_ne s hm]
      exact h.imp_left fun h => (List.mem_cons.mp h).resolve_left hm

theorem exec_forcedEviction {s : State} {q t : Nat} {x : Quire} (hx : quireAt s q = some x) (hp : x.phase = .soft t)
    (ht : t1Cycles (quireRecord s x) ≤ s.clock.toNat - t)
    (hr : x.members.any (fun m => (teamAt s m).any fun team => team.phase == .running) = true) :
    exec (.forcedEviction q) s = .next (x.members.foldl stopTeam (putQuire s q (some { x with phase := .forced t }))) := by
  show execForcedEviction q s = _
  unfold execForcedEviction
  rw [hx]
  dsimp only
  rw [hp]
  dsimp only
  rw [decide_eq_true ht, hr, Bool.and_self, if_pos rfl]

theorem exec_drainBoundExpiry {s : State} {q t : Nat} {x : Quire} (hx : quireAt s q = some x)
    (he : (evictStart x.phase).isSome = true) (hd : x.drainAt = some t) (hs : allStopped s x = true)
    (ht : 2 * Config.cyclesPerUs ≤ s.clock.toNat - t) :
    exec (.drainBoundExpiry q) s = .next (putQuire s q (some { x with drained := true })) := by
  obtain ⟨b, hb⟩ := Option.isSome_iff_exists.mp he
  show execDrainBoundExpiry q s = _
  unfold execDrainBoundExpiry
  rw [hx]
  dsimp only
  rw [hb, hd]
  dsimp only
  rw [hs, decide_eq_true ht, Bool.and_self, if_pos rfl]

/-! A save and a resume. -/

/-- A write to a quire that is there: what is there afterwards. -/
theorem quireAt_match_putQuire (s : State) (q : Nat) (f : Quire → Quire) {z : Quire}
    (hz : quireAt (match quireAt s q with
      | some y => putQuire s q (some (f y))
      | none => s) q = some z) : ∃ y, z = f y := by
  split at hz
  · next y hy =>
    rw [quireAt_putQuire_self] at hz
    exact ⟨y, (Option.some.inj hz).symm⟩
  · next hn =>
    rw [hn] at hz
    cases hz

/-- A quire that may be saved: its traffic takes its turn, or its teams leave. -/
theorem exec_quireSave {s : State} {q : Nat} {x : Quire} (hx : quireAt s q = some x) (he : (evictStart x.phase).isSome = true)
    (hs : allStopped s x = true) (hb : x.members.any (teamBusy s) = false)
    (hd : x.drained = true ∨ x.members.any (scratchBusy s) = false) (hm : x.members.findSome? (saveMiss true s) = none)
    (hf : freeSaved s ≠ none) :
    (deadlineTurn s q true = false → exec (.quireSave q) s = .next (joinDeadline s q true (saveCtrls s x))) ∧
    (deadlineTurn s q true = true → ∃ u : State, exec (.quireSave q) s = .next (match quireAt u q with
      | some y => putQuire u q (some { y with phase := .saved })
      | none => u)) := by
  have hready : ((evictStart x.phase).isNone || !allStopped s x || x.members.any (teamBusy s)
      || (!x.drained && x.members.any (scratchBusy s))) = false := by
    rw [Option.isNone_eq_false_iff.mpr he, hs, hb]
    rcases hd with h | h
    · rw [h]
      rfl
    · rw [h, Bool.and_false]
      rfl
  refine ⟨fun ht => ?_, fun ht => ?_⟩
  · show execQuireSave q s = _
    unfold execQuireSave
    rw [hx]
    dsimp only
    rw [hready, if_neg Bool.false_ne_true, hm]
    dsimp only
    rw [if_neg hf, ht, Bool.not_false, if_pos rfl]
  · show ∃ u, execQuireSave q s = _
    unfold execQuireSave
    rw [hx]
    dsimp only
    rw [hready, if_neg Bool.false_ne_true, hm]
    dsimp only
    rw [if_neg hf, ht, Bool.not_true, if_neg Bool.false_ne_true]
    exact ⟨_, rfl⟩

/-- A saved quire that may return: its traffic takes its turn, or its teams come back. -/
theorem exec_quireResume {s : State} {q : Nat} {x : Quire} (hx : quireAt s q = some x) (hp : x.phase = .saved)
    (hc : clusterUsable s (partOf (vdevOf (quireCtx s x))) x.cluster = true)
    (hh : x.members.any (fun t => headerState s t == some false) = false) (hm : x.members.findSome? (saveMiss false s) = none)
    (hr : (resumeAll x.members s).isSome = true) :
    (deadlineTurn s q false = false → exec (.quireResume q) s = .next (joinDeadline s q false (saveCtrls s x))) ∧
    (deadlineTurn s q false = true → ∃ u v : State, exec (.quireResume q) s = .next v ∧
      v.quires = (match quireAt u q with
        | some y => putQuire u q (some { y with phase := .running, drained := false, drainAt := none })
        | none => u).quires) := by
  obtain ⟨s', hs'⟩ := Option.isSome_iff_exists.mp hr
  have hgo : ¬ ((decide (x.phase ≠ .saved) || !clusterUsable s (partOf (vdevOf (quireCtx s x))) x.cluster) = true) := by
    rw [hc, hp]
    exact nofun
  refine ⟨fun ht => ?_, fun ht => ?_⟩
  · show execQuireResume q s = _
    unfold execQuireResume
    rw [hx]
    dsimp only
    rw [if_neg hgo, hh, if_neg Bool.false_ne_true, hm]
    dsimp only
    rw [hs']
    dsimp only
    rw [ht, Bool.not_false, if_pos rfl]
  · show ∃ u v, execQuireResume q s = _ ∧ _
    unfold execQuireResume
    rw [hx]
    dsimp only
    rw [if_neg hgo, hh, if_neg Bool.false_ne_true, hm]
    dsimp only
    rw [hs']
    dsimp only
    rw [ht, Bool.not_true, if_neg Bool.false_ne_true]
    refine ⟨leaveDeadline s' (· == q), _, rfl, ?_⟩
    split <;> rfl

/-! A kill. -/

/-- A kill ends its launch. -/
theorem launchAt_killLaunch {s : State} {lid : Nat} {l : Launch} (h : launchAt s lid = some l) :
    launchAt (killLaunch s lid) lid = some { l with
      next := gridSize l, live := 0, status := if l.status = 3 then 3 else 4, ended := true } := by
  unfold killLaunch
  rw [h]
  exact launchAt_putLaunch_self ..

theorem exec_killAndReset {s : State} {lid : Nat} {l : Launch} (h : launchAt s lid = some l) (he : l.ended = false)
    (hd : l.status = 3 ∨ killDue s lid = true) : exec (.killAndReset lid) s = .next (killLaunch s lid) := by
  have hdue : (decide (l.status = 3) || killDue s lid) = true := by
    rw [Bool.or_eq_true]
    exact hd.imp_left decide_eq_true
  show execKillAndReset lid s = _
  unfold execKillAndReset
  rw [h]
  dsimp only
  rw [he, hdue, Bool.not_false, Bool.and_self, if_pos rfl]

/-! The end of a time slice. -/

/-- A fold takes no time. -/
theorem foldFor_clock (s : State) (cluster lid : Nat) (l : Launch) (below : Nat) :
    (foldFor s cluster lid l below).clock = s.clock := by
  refine foldl_keeps State.clock _ (fun s c => ?_) _ _
  split
  · exact foldCore_keeps State.clock (fun _ _ _ => rfl) (fun _ _ _ => rfl) (fun _ _ _ _ _ => rfl) ..
  · rfl

theorem stopIfParked_keeps {γ : Type} (g : State → γ) (hteam : ∀ s t x, g (putTeam s t x) = g s) (s : State) (t : Nat) :
    g (stopIfParked s t) = g s := by
  unfold stopIfParked
  split
  · rfl
  · split
    · exact hteam ..
    · rfl

/-- One quire's part of a soft eviction. -/
def evictQuire (ctx cluster q : Nat) (s : State) : State :=
  match quireAt s q with
  | none => s
  | some x =>
    if x.cluster = cluster && x.phase == .running && (launchAt s x.launch).any fun l => l.ctx = ctx then
      x.members.foldl stopIfParked (putQuire s q (some { x with phase := .soft s.clock.toNat, drained := false }))
    else s

theorem startEviction_eq (s : State) (ctx cluster : Nat) :
    startEviction s ctx cluster = s.quires.foldl (fun s q => evictQuire ctx cluster q.1 s) s := rfl

/-- Whether no quire of a context on a cluster runs, of those with an identifier. -/
def NoneRuns (ctx cluster i : Nat) (s : State) : Prop :=
  ∀ u v, quireAt s i = some u → u.cluster = cluster → launchAt s u.launch = some v → v.ctx = ctx → u.phase ≠ .running

theorem evictQuire_launches (ctx cluster q : Nat) (s : State) : (evictQuire ctx cluster q s).launches = s.launches := by
  unfold evictQuire
  split
  · rfl
  · split
    · exact foldl_keeps State.launches _ (stopIfParked_keeps State.launches fun _ _ _ => rfl) _ _
    · rfl

theorem evictQuire_quireAt_ne (ctx cluster : Nat) {q i : Nat} (h : i ≠ q) (s : State) :
    quireAt (evictQuire ctx cluster q s) i = quireAt s i := by
  unfold evictQuire
  split
  · rfl
  · split
    · exact (foldl_keeps (quireAt · i) _ (stopIfParked_keeps (quireAt · i) fun _ _ _ => rfl) _ _).trans
          (quireAt_putQuire_ne _ _ _ h)
    · rfl

theorem noneRuns_evictQuire_self (ctx cluster q : Nat) (s : State) : NoneRuns ctx cluster q (evictQuire ctx cluster q s) := by
  intro u v hu hc hv hctx
  have hl : launchAt (evictQuire ctx cluster q s) u.launch = launchAt s u.launch :=
    congrArg (aget none · u.launch) (evictQuire_launches ctx cluster q s)
  rw [hl] at hv
  unfold evictQuire at hu
  split at hu
  · next hn => rw [hn] at hu; cases hu
  · next x hx =>
    split at hu
    · have hput := (foldl_keeps (quireAt · q) _ (stopIfParked_keeps (quireAt · q) fun _ _ _ => rfl) _ _).symm.trans hu
      rw [quireAt_putQuire_self] at hput
      cases hput
      exact nofun
    · next hno =>
      rw [hx] at hu
      cases hu
      intro hph
      refine hno ?_
      rw [hv, hph, decide_eq_true hc]
      exact decide_eq_true hctx

theorem noneRuns_evictQuire {ctx cluster i : Nat} {s : State} (h : NoneRuns ctx cluster i s) (q : Nat) :
    NoneRuns ctx cluster i (evictQuire ctx cluster q s) := by
  by_cases hi : i = q
  · exact hi ▸ noneRuns_evictQuire_self ctx cluster i s
  · intro u v hu hc hv
    rw [evictQuire_quireAt_ne _ _ hi] at hu
    exact h u v hu hc ((congrArg (aget none · u.launch) (evictQuire_launches ctx cluster q s)).symm.trans hv)

/-- After a soft eviction of a context from a cluster none of its quires runs there. -/
theorem noneRuns_startEviction (s : State) (ctx cluster i : Nat) : NoneRuns ctx cluster i (startEviction s ctx cluster) := by
  have hgo (l : List (Nat × Option Quire)) (t : State) (h : i ∈ l.map (·.1) ∨ NoneRuns ctx cluster i t) :
      NoneRuns ctx cluster i (l.foldl (fun s q => evictQuire ctx cluster q.1 s) t) := by
    induction l generalizing t with
    | nil => exact h.resolve_left List.not_mem_nil
    | cons p l ih =>
      refine ih _ ?_
      by_cases hp : i = p.1
      · exact .inr (hp ▸ noneRuns_evictQuire_self ctx cluster i t)
      · exact h.imp (fun h => (List.mem_cons.mp h).resolve_left hp) (noneRuns_evictQuire · _)
  rw [startEviction_eq]
  refine hgo _ _ ?_
  cases hq : quireAt s i with
  | none => exact .inr fun u v hu => absurd (hq.symm.trans hu) nofun
  | some x => exact .inl (List.mem_map.mpr ⟨_, mem_of_aget hq nofun, rfl⟩)

theorem startEviction_launches (s : State) (ctx cluster : Nat) : (startEviction s ctx cluster).launches = s.launches :=
  foldl_keeps State.launches (fun s (q : Nat × Option Quire) => evictQuire ctx cluster q.1 s)
    (fun s q => evictQuire_launches ctx cluster q.1 s) _ _

/-- A time slice that ends with launches waiting: a fold for each of them, the next slice, and an eviction where one of them still
cannot go on. -/
theorem exec_quantumExpiry {s : State} {ctx cluster lid : Nat} {l : Launch} (h : quantumLaunch s ctx cluster = some (lid, l))
    (hw : quantumWaiters s ctx cluster ≠ []) : ∃ u : State, exec (.quantumExpiry ctx cluster) s = .next (
      if (quantumWaiters s ctx cluster).any fun w =>
        blocked (putLaunch u lid (some { l with quantum := aput 0 l.quantum cluster s.clock.toNat })) cluster w.1 w.2
      then startEviction (putLaunch u lid (some { l with quantum := aput 0 l.quantum cluster s.clock.toNat })) ctx cluster
      else putLaunch u lid (some { l with quantum := aput 0 l.quantum cluster s.clock.toNat })) := by
  have hclock := foldl_keeps State.clock (fun s (w : Nat × Launch) => foldFor s cluster w.1 w.2 (ctxPrio s cluster w.2.ctx))
    (fun s w => foldFor_clock s cluster w.1 w.2 (ctxPrio s cluster w.2.ctx)) (quantumWaiters s ctx cluster) s
  have hne : (quantumWaiters s ctx cluster).isEmpty = false := List.isEmpty_eq_false_iff.mpr hw
  show ∃ u, execQuantumExpiry ctx cluster s = _
  unfold execQuantumExpiry
  rw [h]
  dsimp only
  rw [hne, if_neg Bool.false_ne_true, hclock]
  exact ⟨_, rfl⟩

/-- Settles O52: each step of the ladder by its rule. -/
theorem ladderEvents : Obligations.LadderEvents := by
  intro s q x hx
  refine ⟨fun t hp ht hr => ?forced, fun t he hd hs ht => exec_drainBoundExpiry hx he hd hs ht,
    fun he hs hb hd hm hf => ?save, fun hp hc hh hm hr => ?resume, fun l hl he hd => ?kill,
    fun ctx cluster lid l h hw => ?quantum, fun cs => rfl⟩
  case forced =>
    exact ⟨_, exec_forcedEviction hx hp ht hr, fun m hm => stopTeams_stop _ _ (.inl hm)⟩
  case save =>
    obtain ⟨hjoin, hgo⟩ := exec_quireSave hx he hs hb hd hm hf
    refine ⟨hjoin, fun ht => ?_⟩
    obtain ⟨u, hu⟩ := hgo ht
    refine ⟨_, hu, fun z hz => ?_⟩
    obtain ⟨y, rfl⟩ := quireAt_match_putQuire u q (fun y => { y with phase := .saved }) hz
    rfl
  case resume =>
    obtain ⟨hjoin, hgo⟩ := exec_quireResume hx hp hc hh hm hr
    refine ⟨hjoin, fun ht => ?_⟩
    obtain ⟨u, v, hv, hquires⟩ := hgo ht
    refine ⟨v, hv, fun z hz => ?_⟩
    obtain ⟨y, rfl⟩ := quireAt_match_putQuire u q (fun y => { y with phase := .running, drained := false, drainAt := none })
      ((congrArg (aget none · q) hquires).symm.trans hz)
    exact ⟨rfl, rfl⟩
  case kill =>
    exact ⟨_, _, exec_killAndReset hl he hd, launchAt_killLaunch hl, rfl, rfl⟩
  case quantum =>
    obtain ⟨u, hu⟩ := exec_quantumExpiry h hw
    split at hu
    · refine ⟨_, _, hu, (congrArg (aget none · lid) (startEviction_launches ..)).trans (launchAt_putLaunch_self ..),
        aget_aput_self .., .inr fun i => noneRuns_startEviction _ ctx cluster i⟩
    · next hfree =>
      refine ⟨_, _, hu, launchAt_putLaunch_self .., aget_aput_self .., .inl fun w hw => ?_⟩
      exact Bool.eq_false_iff.mpr fun hb => hfree (List.any_eq_true.mpr ⟨w, hw, hb⟩)

end Sys2Proof.Proofs
end

section
/-! PROOFS. Memory stays in canonical form: the state, issues and teams. -/

namespace Sys2Proof.Proofs

open Sys2Proof.Machine Sys2Proof.Safety Sys2Proof.Laws

/-- Only memory and the descriptors count. -/
theorem kept_of_eq {s t : State} (h : MemoryKept s) (hm : t.mem = s.mem) (hd : t.desc = s.desc) : MemoryKept t := by
  unfold MemoryKept
  rw [hm, hd]
  exact h

theorem foldl_kept {α} {f : State → α → State} (hf : ∀ s a, MemoryKept s → MemoryKept (f s a)) {l : List α} {s : State}
    (h : MemoryKept s) : MemoryKept (l.foldl f s) := by
  induction l generalizing s with
  | nil => exact h
  | cons a l ih => exact ih (hf s a h)

theorem wf_foldl {α} {f : Memory → α → Memory} (hf : ∀ m a, Memory.wf m = true → Memory.wf (f m a) = true) {l : List α}
    {m : Memory} (h : Memory.wf m = true) : Memory.wf (l.foldl f m) = true := by
  induction l generalizing m with
  | nil => exact h
  | cons a l ih => exact ih (hf m a h)

/-- An outcome whose next state, where it has one, has its memory in canonical form. -/
def Keeps : Host.Outcome State Fault Refusal → Prop
  | .next t => MemoryKept t
  | _ => True

theorem Keeps.next {t : State} (h : MemoryKept t) : Keeps (.next t) := h

theorem Keeps.fault {r : Fault} : Keeps (.fault r) := trivial

theorem andThen_kept {o : Host.Outcome State Fault Refusal} {g : State → State} (ho : Keeps o)
    (hg : ∀ s, MemoryKept s → MemoryKept (g s)) : Keeps (andThen o g) := by
  unfold andThen
  split
  · exact hg _ ho
  · exact ho

theorem kept_fst {α} {x : State × α} {t : State} {a : α} (hx : x = (t, a)) (h : MemoryKept x.1) : MemoryKept t := by
  rw [hx] at h
  exact h

theorem Keeps.kept {o : Host.Outcome State Fault Refusal} {t : State} (ho : o = .next t) (h : Keeps o) : MemoryKept t := by
  rw [ho] at h
  exact h

theorem kept_ite {c : Prop} [Decidable c] {s t : State} (hs : MemoryKept s) (ht : MemoryKept t) :
    MemoryKept (if c then s else t) := by
  split
  · exact hs
  · exact ht

theorem keeps_ite {c : Prop} [Decidable c] {o p : Host.Outcome State Fault Refusal} (ho : Keeps o) (hp : Keeps p) :
    Keeps (if c then o else p) := by
  split
  · exact ho
  · exact hp

/-! What reads and checks hand over may hold a state. -/

/-- The state in which a record has been written, where it has, has its memory in canonical form. -/
def RecKept : RecOut → Prop
  | .written t _ => MemoryKept t
  | _ => True

/-- The state in which an anvil's read waits, where it does, has its memory in canonical form. -/
def FetchKept : Fetch → Prop
  | .wait t => MemoryKept t
  | _ => True

/-- The state in which a program's read stops, where it does, has its memory in canonical form. -/
def StopKept : SFetch → Prop
  | .stop t => MemoryKept t
  | .got _ => True

/-- The state in which a generator has taken its record, or has stopped, has its memory in canonical form. -/
def BindKept : Bind → Prop
  | .got _ t => MemoryKept t
  | .stop t => MemoryKept t

/-- The state in which a packet stops at one of its fields, where it does, has its memory in canonical form. -/
def PlaceKept : CcPlace → Prop
  | .stop t => MemoryKept t
  | .at _ => True

theorem RecKept.written {x : RecOut} {t : State} {a : Nat} (hx : x = .written t a) (h : RecKept x) : MemoryKept t := by
  rw [hx] at h
  exact h

theorem FetchKept.wait {x : Fetch} {t : State} (hx : x = .wait t) (h : FetchKept x) : MemoryKept t := by
  rw [hx] at h
  exact h

theorem StopKept.stop {x : SFetch} {t : State} (hx : x = .stop t) (h : StopKept x) : MemoryKept t := by
  rw [hx] at h
  exact h

theorem BindKept.got {x : Bind} {t : State} {r : BitVec 1536} (hx : x = .got r t) (h : BindKept x) : MemoryKept t := by
  rw [hx] at h
  exact h

theorem BindKept.stop {x : Bind} {t : State} (hx : x = .stop t) (h : BindKept x) : MemoryKept t := by
  rw [hx] at h
  exact h

theorem PlaceKept.stop {x : CcPlace} {t : State} (hx : x = .stop t) (h : PlaceKept x) : MemoryKept t := by
  rw [hx] at h
  exact h

/-! Walks and writes of memory. -/

theorem joinWalk_kept {s vdev page writer core die} (hs : MemoryKept s) : MemoryKept (joinWalk s vdev page writer core die) :=
  kept_ite (kept_of_eq hs rfl rfl) (kept_of_eq hs rfl rfl)

theorem addWalk_kept {s vdev page write core die} (hs : MemoryKept s) : MemoryKept (addWalk s vdev page write core die) :=
  joinWalk_kept hs

theorem seekPage_kept {s vdev page write core die} (hs : MemoryKept s) : MemoryKept (seekPage s vdev page write core die) :=
  kept_ite hs (addWalk_kept hs)

theorem storeTo_kept {s t bs} (hs : MemoryKept s) : MemoryKept (storeTo s t bs) := store_kept _ _ _ hs

/-! Writes of the state, records, units and faults. -/

theorem putSlice_kept {s k sl} (hs : MemoryKept s) : MemoryKept (putSlice s k sl) := kept_of_eq hs rfl rfl

theorem putCore_kept {s c x} (hs : MemoryKept s) : MemoryKept (putCore s c x) := kept_of_eq hs rfl rfl

theorem putTeam_kept {s t x} (hs : MemoryKept s) : MemoryKept (putTeam s t x) := kept_of_eq hs rfl rfl

theorem putAnvil_kept {s n x} (hs : MemoryKept s) : MemoryKept (putAnvil s n x) := kept_of_eq hs rfl rfl

theorem putLaunch_kept {s l x} (hs : MemoryKept s) : MemoryKept (putLaunch s l x) := kept_of_eq hs rfl rfl

theorem putQuire_kept {s q x} (hs : MemoryKept s) : MemoryKept (putQuire s q x) := kept_of_eq hs rfl rfl

theorem putVdev_kept {s v x} (hs : MemoryKept s) : MemoryKept (putVdev s v x) := kept_of_eq hs rfl rfl

theorem spendToken_kept {v s loc} (hs : MemoryKept s) : MemoryKept (spendToken v s loc) := kept_ite hs (kept_of_eq hs rfl rfl)

theorem spendFor_kept {s ctx ts} (hs : MemoryKept s) : MemoryKept (spendFor s ctx ts) :=
  kept_ite hs (foldl_kept (fun _ _ => spendToken_kept) hs)

theorem spendEach_kept {s ctx ts} (hs : MemoryKept s) : MemoryKept (spendEach s ctx ts) :=
  foldl_kept (fun _ _ => spendToken_kept) hs

theorem reown_kept {s k k'} (hs : MemoryKept s) : MemoryKept (reown s k k') := kept_of_eq hs rfl rfl

theorem closeInvocation_kept {s core} (hs : MemoryKept s) : MemoryKept (closeInvocation s core) :=
  putSlice_kept (putCore_kept (reown_kept hs))

theorem waitRecord_kept {s ctx core bytes trap unit page} (hs : MemoryKept s) :
    MemoryKept (waitRecord s ctx core bytes trap unit page) := by
  unfold waitRecord
  dsimp only
  split
  · exact addWalk_kept (kept_of_eq hs rfl rfl)
  · exact kept_of_eq hs rfl rfl

theorem holdTeam_kept {s t team} (hs : MemoryKept s) : MemoryKept (holdTeam s t team) :=
  foldl_kept (fun _ _ => putSlice_kept) hs

theorem checkStop_kept {s t} (hs : MemoryKept s) : MemoryKept (checkStop s t) := by
  unfold checkStop
  split
  · exact hs
  · dsimp only
    split
    · exact putLaunch_kept (putCore_kept (kept_ite (closeInvocation_kept (holdTeam_kept hs)) (holdTeam_kept hs)))
    · exact putCore_kept (kept_ite (closeInvocation_kept (holdTeam_kept hs)) (holdTeam_kept hs))

theorem tryRecord_kept {s ctx core refused bytes} (hs : MemoryKept s) : RecKept (tryRecord s ctx core refused bytes) := by
  cases hx : tryRecord s ctx core refused bytes with
  | written t a =>
    obtain ⟨head, place, -, rfl, -⟩ := tryRecord_written_iff.mp hx
    exact storeTo_kept (storeTo_kept (spendFor_kept hs))
  | waiting | far | discarded => trivial

theorem machineCheck_kept {s k acc f} (hs : MemoryKept s) : MemoryKept (machineCheck s k acc f) := by
  unfold machineCheck
  dsimp only
  split
  · exact hs
  · split
    · next hx => exact RecKept.written hx (tryRecord_kept (checkStop_kept hs))
    · exact waitRecord_kept (checkStop_kept hs)
    · exact waitRecord_kept (checkStop_kept hs)
    · exact checkStop_kept hs

theorem recordDone_kept {s core addr y} (hs : MemoryKept s) : MemoryKept (recordDone s core addr y) := by
  unfold recordDone
  split
  · exact hs
  · exact kept_ite hs (putCore_kept hs)

theorem recordLost_kept {s y} (hs : MemoryKept s) : MemoryKept (recordLost s y) := by
  unfold recordLost
  split
  · exact hs
  · exact checkStop_kept hs

theorem submitRecord_kept {s ctx core bytes trap unit} (hs : MemoryKept s) :
    MemoryKept (submitRecord s ctx core bytes trap unit) := by
  unfold submitRecord
  split
  · next hx => exact recordDone_kept (RecKept.written hx (tryRecord_kept hs))
  · exact waitRecord_kept hs
  · exact waitRecord_kept hs
  · exact recordLost_kept hs

theorem setUnits_kept {s t u js} (hs : MemoryKept s) : MemoryKept (setUnits s t u js) :=
  foldl_kept (fun _ _ => putSlice_kept) hs

theorem leaveUnit_kept {s k} (hs : MemoryKept s) : MemoryKept (leaveUnit s k) := by
  unfold leaveUnit
  dsimp only
  split
  · exact hs
  · refine kept_ite ?_ ?_
    · refine putSlice_kept ?_
      split
      · exact hs
      · exact setUnits_kept hs
    · refine putTeam_kept (putSlice_kept ?_)
      split
      · exact hs
      · exact setUnits_kept hs

theorem exitUnit_kept {s k} (hs : MemoryKept s) : MemoryKept (exitUnit s k) := by
  unfold exitUnit
  dsimp only
  split
  · exact kept_ite (putTeam_kept (leaveUnit_kept hs)) (leaveUnit_kept hs)
  · exact leaveUnit_kept hs

theorem partUnit_kept {s t u js} (hs : MemoryKept s) : MemoryKept (partUnit s t u js) := by
  unfold partUnit
  split
  · exact hs
  · exact kept_ite hs (putTeam_kept (foldl_kept (fun _ _ => putSlice_kept) hs))

theorem countUnit_kept {s t u} (hs : MemoryKept s) : MemoryKept (countUnit s t u) := by
  unfold countUnit
  split
  · exact hs
  · exact kept_ite (putTeam_kept hs) hs

theorem doubleFault_kept {s core} (hs : MemoryKept s) : MemoryKept (doubleFault s core) := machineCheck_kept hs

theorem takeFault_kept {s k acc f} (hs : MemoryKept s) : MemoryKept (takeFault s k acc f) := by
  unfold takeFault
  refine kept_ite (doubleFault_kept hs) ?_
  dsimp only
  split
  · exact hs
  · refine submitRecord_kept (kept_ite ?_ ?_)
    · exact putCore_kept (putSlice_kept (leaveUnit_kept hs))
    · exact putSlice_kept (leaveUnit_kept hs)

theorem forgetWait_kept {s k} (hs : MemoryKept s) : MemoryKept (forgetWait s k) := kept_of_eq hs rfl rfl

theorem rewind_kept {s k} (hs : MemoryKept s) : MemoryKept (rewind s k) := by
  unfold rewind
  dsimp only
  split
  · exact hs
  · exact putSlice_kept (forgetWait_kept (kept_of_eq hs rfl rfl))

theorem finishRollback_kept {s k} (hs : MemoryKept s) : MemoryKept (finishRollback s k) :=
  kept_ite (leaveUnit_kept (putSlice_kept (forgetWait_kept hs))) hs

theorem startRollback_kept {s k strikes} (hs : MemoryKept s) : MemoryKept (startRollback s k strikes) :=
  finishRollback_kept (putSlice_kept hs)

theorem consumeError_kept {s k acc f} (hs : MemoryKept s) : MemoryKept (consumeError s k acc f) := by
  unfold consumeError
  dsimp only
  refine kept_ite hs ?_
  refine kept_ite (doubleFault_kept hs) ?_
  refine kept_ite ?_ ?_
  · exact machineCheck_kept hs
  · exact kept_ite (putSlice_kept hs) (kept_ite (startRollback_kept hs) (takeFault_kept hs))

theorem raisePopped_kept {s k f} (hs : MemoryKept s) : MemoryKept (raisePopped s k f) :=
  kept_ite (consumeError_kept hs) (takeFault_kept (rewind_kept hs))

theorem raiseHeld_kept {s k} (hs : MemoryKept s) : MemoryKept (raiseHeld s k) := by
  unfold raiseHeld
  split
  · exact hs
  · exact takeFault_kept (rewind_kept hs)

theorem openInvocation_kept {s core} (hs : MemoryKept s) : MemoryKept (openInvocation s core) := by
  unfold openInvocation
  extract_lets c
  refine kept_ite hs ?_
  split
  · exact hs
  · split
    · exact hs
    · extract_lets tvec s1 s2
      have h1 : MemoryKept s1 := putCore_kept hs
      have h2 : MemoryKept s2 := putSlice_kept (kept_of_eq h1 rfl rfl)
      exact kept_ite (doubleFault_kept h2) h2

theorem resumeSlice_kept {s core j} (hs : MemoryKept s) : MemoryKept (resumeSlice s core j) := by
  unfold resumeSlice
  dsimp only
  refine foldl_kept (fun _ _ => consumeError_kept) ?_
  refine kept_ite ?_ ?_
  · exact closeInvocation_kept (kept_ite (putSlice_kept hs) hs)
  · exact putCore_kept (kept_ite (putSlice_kept hs) hs)

/-! Issues. -/

theorem addFlight_kept {s fl} (hs : MemoryKept s) : MemoryKept (addFlight s fl) := kept_of_eq hs rfl rfl

theorem parkSlice_kept {s k page write} (hs : MemoryKept s) : MemoryKept (parkSlice s k page write) :=
  addWalk_kept (putSlice_kept hs)

theorem actOn_kept {acc s k y} (hs : MemoryKept s) : MemoryKept (actOn acc s k y) := by
  unfold actOn
  split
  · exact hs
  · exact hs
  · exact takeFault_kept hs
  · exact raisePopped_kept hs
  · exact consumeError_kept hs
  · exact raiseHeld_kept hs
  · exact hs
  · exact hs
  · exact parkSlice_kept hs
  · exact takeFault_kept (putSlice_kept hs)
  · exact startRollback_kept (leaveUnit_kept hs)
  · exact machineCheck_kept hs

theorem writeDone_kept {s sw k y} (hs : MemoryKept s) : MemoryKept (writeDone s sw k y) := by
  unfold writeDone
  split
  · exact putSlice_kept hs
  · exact addFlight_kept (putSlice_kept hs)
  · exact hs

theorem putPin_kept {s t p} (hs : MemoryKept s) : MemoryKept (putPin s t p) := by
  unfold putPin
  split
  · exact putTeam_kept hs
  · exact hs

theorem commitIssue_kept {s t u vs} (hs : MemoryKept s) : MemoryKept (commitIssue s t u vs) := by
  unfold commitIssue
  refine kept_ite ?_ ?_
  · refine foldl_kept (fun _ _ h1 => ?_) hs
    split
    · exact putSlice_kept h1
    · exact putSlice_kept h1
    · exact h1
  · dsimp only
    split
    · exact foldl_kept (fun _ _ => actOn_kept) (putPin_kept (foldl_kept (fun _ _ => writeDone_kept) (countUnit_kept hs)))
    · exact partUnit_kept (foldl_kept (fun _ _ => actOn_kept) (putPin_kept (foldl_kept (fun _ _ => writeDone_kept)
        (countUnit_kept hs))))

theorem commitOne_kept {s k v} (hs : MemoryKept s) : MemoryKept (commitOne s k v) := by
  unfold commitOne
  split
  · exact putSlice_kept hs
  · exact putSlice_kept hs
  · exact putPin_kept (putSlice_kept hs)
  · exact addFlight_kept (putSlice_kept hs)
  · exact actOn_kept hs

theorem issueLane_kept {s r compare f} (hs : MemoryKept s) : Keeps (issueLane s r compare f) := by
  unfold issueLane
  split
  · split
    · exact Keeps.fault
    · exact keeps_ite Keeps.fault (Keeps.next (commitIssue_kept hs))
  · split
    · exact Keeps.fault
    · exact Keeps.next (commitOne_kept hs)
  · split
    · exact Keeps.fault
    · exact Keeps.next (commitOne_kept hs)
  · exact Keeps.fault

theorem runAlu_kept {m op d a b s} (hs : MemoryKept s) : Keeps (runAlu m op d a b s) := issueLane_kept hs

/-! Special registers. -/

theorem putWdlimit_kept {s core ctx x} (hs : MemoryKept s) : MemoryKept (putWdlimit s core ctx x) := by
  unfold putWdlimit
  split
  · exact hs
  · exact putCore_kept hs

theorem trapPin_kept {before s core a} (hs : MemoryKept s) : MemoryKept (trapPin before s core a) := putPin_kept hs

theorem execMtsr_kept {a r s} (hs : MemoryKept s) : Keeps (execMtsr a r s) := by
  unfold execMtsr
  split
  · next ho =>
    have h1 := Keeps.kept ho (issueLane_kept hs)
    dsimp only
    refine keeps_ite ?_ (keeps_ite (Keeps.next (trapPin_kept h1)) (Keeps.next h1))
    split
    · exact Keeps.next (putWdlimit_kept h1)
    · exact Keeps.next h1
  · exact issueLane_kept hs

/-! Teams, barriers and merging. -/

theorem leaveCore_kept {s core ctx} (hs : MemoryKept s) : MemoryKept (leaveCore s core ctx) := by
  unfold leaveCore
  refine kept_ite hs ?_
  split
  · exact hs
  · exact kept_ite (putCore_kept hs) (putAnvil_kept (putCore_kept hs))

theorem dropSlices_kept {s t team} (hs : MemoryKept s) : MemoryKept (dropSlices s t team) :=
  foldl_kept (fun _ _ => putSlice_kept) hs

theorem closeLaunch_kept {s id} (hs : MemoryKept s) : MemoryKept (closeLaunch s id) := by
  unfold closeLaunch
  split
  · exact hs
  · exact kept_ite (putLaunch_kept hs) hs

theorem leaveQuire_kept {s q t} (hs : MemoryKept s) : MemoryKept (leaveQuire s q t) := by
  unfold leaveQuire
  split
  · exact hs
  · exact putQuire_kept hs

theorem endTeam_kept {s t} (hs : MemoryKept s) : MemoryKept (endTeam s t) := by
  unfold endTeam
  split
  · exact hs
  · dsimp only
    refine closeLaunch_kept (leaveCore_kept (leaveQuire_kept ?_))
    split
    · exact putLaunch_kept (putTeam_kept (dropSlices_kept hs))
    · exact putTeam_kept (dropSlices_kept hs)

theorem checkTeam_kept {s t} (hs : MemoryKept s) : MemoryKept (checkTeam s t) := by
  unfold checkTeam
  split
  · exact kept_ite (endTeam_kept hs) hs
  · exact hs

theorem yieldTeam_kept {s t} (hs : MemoryKept s) : MemoryKept (yieldTeam s t) := by
  unfold yieldTeam
  split
  · exact hs
  · exact putTeam_kept hs

theorem spendUnit_kept {s t u} (hs : MemoryKept s) : MemoryKept (spendUnit s t u) := by
  unfold spendUnit
  split
  · exact hs
  · exact putTeam_kept hs

theorem spendUnits_kept {s t js} (hs : MemoryKept s) : MemoryKept (spendUnits s t js) :=
  foldl_kept (fun _ _ => spendUnit_kept) hs

theorem releaseWait_kept {s t team acc slot n} (hs : MemoryKept s) : MemoryKept (releaseWait s t team acc slot n) :=
  foldl_kept (fun _ _ h1 => kept_ite (putSlice_kept h1) h1) hs

theorem tryBar_kept {s t acc n} (hs : MemoryKept s) : MemoryKept (tryBar s t acc n) := by
  unfold tryBar
  split
  · exact hs
  · exact kept_ite (releaseWait_kept hs) hs

theorem tryQbar_kept {s q acc n} (hs : MemoryKept s) : MemoryKept (tryQbar s q acc n) := by
  unfold tryQbar
  split
  · exact hs
  · refine kept_ite ?_ hs
    refine foldl_kept (fun _ _ h1 => ?_) hs
    split
    · exact releaseWait_kept h1
    · exact h1

theorem tryBars_kept {s t acc} (hs : MemoryKept s) : MemoryKept (tryBars s t acc) := by
  unfold tryBars
  refine foldl_kept (fun _ _ h1 => ?_) hs
  dsimp only
  split
  · exact tryQbar_kept (tryBar_kept h1)
  · exact tryBar_kept h1

theorem retryBars_kept {s t} (hs : MemoryKept s) : MemoryKept (retryBars s t) := by
  unfold retryBars
  split
  · exact hs
  · exact foldl_kept (fun _ _ h1 => kept_ite (tryBars_kept h1) h1) hs

theorem joinGroup_kept {s t g} (hs : MemoryKept s) : MemoryKept (joinGroup s t g) := by
  unfold joinGroup
  dsimp only
  refine partUnit_kept (foldl_kept (fun _ _ => putSlice_kept) ?_)
  split
  · exact putTeam_kept hs
  · exact hs

theorem tryMerge_kept {s t stroke} (hs : MemoryKept s) : MemoryKept (tryMerge s t stroke) := by
  unfold tryMerge
  split
  · exact hs
  · exact kept_ite (foldl_kept (fun _ _ => joinGroup_kept) hs) hs

theorem afterExit_kept {s k acc} (hs : MemoryKept s) : MemoryKept (afterExit s k acc) := by
  unfold afterExit
  dsimp only
  refine checkTeam_kept (kept_ite ?_ ?_)
  · exact tryBars_kept (kept_ite hs (exitUnit_kept hs))
  · exact tryMerge_kept (tryBars_kept (kept_ite hs (exitUnit_kept hs)))

theorem execMerge_kept {i s} (hs : MemoryKept s) : Keeps (execMerge i s) := by
  unfold execMerge
  refine andThen_kept (issueLane_kept hs) (fun _ h1 => ?_)
  split
  · exact tryMerge_kept h1
  · exact h1

theorem execYield_kept {s} (hs : MemoryKept s) : Keeps (execYield s) := by
  unfold execYield
  refine andThen_kept (issueLane_kept hs) (fun _ h1 => ?_)
  split
  · exact yieldTeam_kept (spendUnits_kept h1)
  · exact yieldTeam_kept (kept_ite (spendUnit_kept h1) h1)
  · exact h1

theorem execBar_kept {n s} (hs : MemoryKept s) : Keeps (execBar n s) := by
  unfold execBar
  refine andThen_kept (issueLane_kept hs) (fun _ h1 => ?_)
  split
  · exact tryBar_kept h1
  · exact h1

theorem execQbar_kept {n s} (hs : MemoryKept s) : Keeps (execQbar n s) := by
  unfold execQbar
  refine andThen_kept (issueLane_kept hs) (fun _ h1 => ?_)
  split
  · split
    · exact tryQbar_kept h1
    · exact h1
  · exact h1

theorem execExit_kept {s} (hs : MemoryKept s) : Keeps (execExit s) := by
  unfold execExit
  refine andThen_kept (issueLane_kept hs) (fun _ h1 => ?_)
  split
  · exact foldl_kept (fun _ _ h2 => kept_ite (afterExit_kept h2) h2) h1
  · exact kept_ite (afterExit_kept h1) h1
  · exact h1

/-! Accesses and arrivals. -/

theorem arriveAt_kept {s loc count} (hs : MemoryKept s) : MemoryKept (arriveAt s loc count) :=
  kept_ite (store_kept _ _ _ (store_kept _ _ _ hs)) (store_kept _ _ _ hs)

theorem arriveAtIssue_kept {k s} (hs : MemoryKept s) : MemoryKept (arriveAtIssue k s) := by
  unfold arriveAtIssue
  split
  · dsimp only
    split
    · exact arriveAt_kept (kept_of_eq hs rfl rfl)
    · exact kept_of_eq hs rfl rfl
  · exact hs

theorem failWatch_kept {s k f} (hs : MemoryKept s) : MemoryKept (failWatch s k f) := by
  unfold failWatch
  dsimp only
  refine kept_ite ?_ ?_
  · exact consumeError_kept (forgetWait_kept (putSlice_kept hs))
  · exact commitOne_kept (forgetWait_kept (putSlice_kept hs))

theorem execWaitaddr_kept {d b _sc o w s} (hs : MemoryKept s) : Keeps (execWaitaddr d b _sc o w s) := by
  unfold execWaitaddr
  refine andThen_kept (issueLane_kept hs) (fun _ h1 => ?_)
  split
  · exact kept_ite (yieldTeam_kept (spendFor_kept h1)) h1
  · exact h1

theorem afterSleep_kept {s s'} (hs : MemoryKept s') : MemoryKept (afterSleep s s') := by
  unfold afterSleep
  split
  · exact kept_ite (yieldTeam_kept hs) hs
  · exact hs

end Sys2Proof.Proofs
end

section
/-! PROOFS. Memory stays in canonical form: residency, the fabric and what accesses perform. -/

namespace Sys2Proof.Proofs

open Sys2Proof.Machine Sys2Proof.Safety Sys2Proof.Laws

/-! Residency and folds. -/

theorem reachLevel_kept {toHbm t s j} (hs : MemoryKept s) : MemoryKept (reachLevel toHbm t s j) := by
  unfold reachLevel
  split
  · exact hs
  · exact putSlice_kept hs

theorem setLevel_kept {toHbm s t level} (hs : MemoryKept s) : MemoryKept (setLevel toHbm s t level) := by
  unfold setLevel
  split
  · exact hs
  · exact foldl_kept (fun _ _ h1 => kept_ite (putSlice_kept h1) (reachLevel_kept h1)) (putTeam_kept hs)

theorem remapTeam_kept {s t} (hs : MemoryKept s) : MemoryKept (remapTeam s t) := by
  unfold remapTeam
  split
  · exact hs
  · exact putTeam_kept hs

theorem fitMapped_kept {s t team} (hs : MemoryKept s) : MemoryKept (fitMapped s t team) := kept_ite hs (putTeam_kept hs)

theorem execUnitRemap_kept {t s} (hs : MemoryKept s) : Keeps (execUnitRemap t s) := Keeps.next (remapTeam_kept hs)

theorem execRegisterAgeing_kept {k acc s} (hs : MemoryKept s) : Keeps (execRegisterAgeing k acc s) :=
  Keeps.next (kept_ite (putSlice_kept hs) hs)

theorem execRegisterRefill_kept {k acc r s} (hs : MemoryKept s) : Keeps (execRegisterRefill k acc r s) := by
  unfold execRegisterRefill
  dsimp only
  refine Keeps.next ?_
  split
  · exact hs
  · exact kept_ite (putSlice_kept hs) hs

theorem giveBytes_wf {x loc off n m} (h : Memory.wf m = true) : Memory.wf (giveBytes x loc off n m) = true := by
  induction n generalizing loc off m with
  | zero => exact h
  | succ n ih => exact ih (wf_writeByte _ _ h)

theorem pagesIn_kept {s core team pages} (hs : MemoryKept s) : MemoryKept (pagesIn s core team pages).1 := by
  unfold pagesIn
  refine ⟨?_, hs.2⟩
  exact wf_foldl (fun _ _ => giveBytes_wf) hs.1

theorem spillAt_kept {s core team off n} (hs : MemoryKept s) : MemoryKept (spillAt s core team off n) := kept_of_eq hs rfl rfl

theorem movePage_kept {s t page} (hs : MemoryKept s) : MemoryKept (movePage s t page) := by
  unfold movePage
  split
  · exact hs
  · exact spillAt_kept (putTeam_kept hs)

theorem clearDescs_kept {s vdev va n} (hs : MemoryKept s) : MemoryKept (clearDescs s vdev va n) := by
  unfold clearDescs
  refine foldl_kept (fun t _ ht => ?_) hs
  split
  · exact ht
  · exact kept_ite ht ⟨ht.1, awf_filter _ ht.2⟩

theorem flushSpill_kept {s x} (hs : MemoryKept s) : MemoryKept (flushSpill s x) :=
  kept_ite (clearDescs_kept hs) (kept_of_eq hs rfl rfl)

theorem flushSpills_kept {s} (hs : MemoryKept s) : MemoryKept (flushSpills s) :=
  foldl_kept (fun _ _ => flushSpill_kept) (kept_of_eq hs rfl rfl)

theorem spillOut_kept {s core} (hs : MemoryKept s) : MemoryKept (spillOut s core) := by
  unfold spillOut
  refine kept_ite ?_ ?_
  · exact hs
  · exact foldl_kept (fun _ _ h1 => foldl_kept (fun _ _ => putSlice_kept) h1) hs

theorem fitScratch_kept {before core n s} (hs : MemoryKept s) : MemoryKept (fitScratch before core n s) := by
  induction n generalizing s with
  | zero => exact hs
  | succ n ih =>
    unfold fitScratch
    refine kept_ite hs ?_
    dsimp only
    split
    · exact hs
    · exact ih (putSlice_kept hs)

theorem returnPage_kept {s t page} (hs : MemoryKept s) : MemoryKept (returnPage s t page) := by
  unfold returnPage
  split
  · exact hs
  · exact kept_ite (spillOut_kept (putTeam_kept (pagesIn_kept hs))) hs

theorem execScratchPageReturn_kept {t page s} (hs : MemoryKept s) : Keeps (execScratchPageReturn t page s) :=
  Keeps.next (returnPage_kept hs)

theorem execRegisterSwapOut_kept {k s} (hs : MemoryKept s) : Keeps (execRegisterSwapOut k s) := by
  unfold execRegisterSwapOut
  dsimp only
  refine Keeps.next ?_
  split
  · exact hs
  · exact kept_ite (spillAt_kept (putSlice_kept hs)) hs

theorem execRegisterSwapIn_kept {k s} (hs : MemoryKept s) : Keeps (execRegisterSwapIn k s) := by
  unfold execRegisterSwapIn
  dsimp only
  refine Keeps.next ?_
  split
  · exact hs
  · exact kept_ite (putSlice_kept hs) hs

theorem seekHomes_kept {s} (hs : MemoryKept s) : MemoryKept (seekHomes s) := foldl_kept (fun _ _ => seekPage_kept) hs

theorem lowerToSlices_kept {toHbm s t} (hs : MemoryKept s) : MemoryKept (lowerToSlices toHbm s t) := by
  unfold lowerToSlices
  split
  · exact hs
  · exact kept_ite hs (setLevel_kept hs)

theorem lowerForEntries_kept {toHbm need t f s} (hs : MemoryKept s) : MemoryKept (lowerForEntries toHbm need t f s) := by
  induction f generalizing s with
  | zero => exact hs
  | succ f ih =>
    unfold lowerForEntries
    split
    · exact hs
    · exact kept_ite (ih (setLevel_kept hs)) hs

theorem freePagesOf_kept {need t ps s} (hs : MemoryKept s) : MemoryKept (freePagesOf need t ps s) := by
  induction ps generalizing s with
  | nil => exact hs
  | cons p ps ih =>
    unfold freePagesOf
    split
    · exact hs
    · exact kept_ite hs (ih (kept_ite (movePage_kept hs) hs))

theorem foldCore_kept {s core q below} (hs : MemoryKept s) : MemoryKept (foldCore s core q below).1 :=
  foldl_kept (fun _ _ => freePagesOf_kept) (foldl_kept (fun _ _ => lowerForEntries_kept) (foldl_kept
    (fun _ _ => lowerToSlices_kept) (putCore_kept hs)))

theorem expandCore_kept {s core} (hs : MemoryKept s) : MemoryKept (expandCore s core) := by
  unfold expandCore
  dsimp only
  refine foldl_kept (fun _ _ h1 => ?_) hs
  split
  · exact kept_ite (setLevel_kept h1) h1
  · exact h1

/-! Headers of saved teams. -/

theorem writeCounters_kept {k t s} (hs : MemoryKept s) : MemoryKept (writeCounters k t s) :=
  kept_ite (store_kept _ _ _ (store_kept _ _ _ hs)) (store_kept _ _ _ hs)

theorem refreshHeader_kept {s k} (hs : MemoryKept s) : MemoryKept (refreshHeader s k) := by
  unfold refreshHeader
  split
  · exact hs
  · refine kept_ite ?_ hs
    split
    · exact putTeam_kept hs
    · exact writeCounters_kept hs

theorem refreshDue_kept {s t} (hs : MemoryKept s) : MemoryKept (refreshDue s t) := by
  unfold refreshDue
  split
  · exact hs
  · refine kept_ite ?_ hs
    split
    · exact foldl_kept (fun _ _ => writeCounters_kept) (putTeam_kept hs)
    · exact hs

/-! Privileged instructions. -/

theorem runPrivileged_kept {srcs dst s bad f} (hf : ∀ core vals t, MemoryKept t → MemoryKept (f core vals t).1)
    (hs : MemoryKept s) : Keeps (runPrivileged srcs dst s bad f) := by
  unfold runPrivileged
  split
  · split
    · exact Keeps.fault
    · dsimp only
      split
      · exact Keeps.next (commitOne_kept hs)
      · refine keeps_ite (Keeps.next (commitOne_kept hs)) (keeps_ite (Keeps.next (putSlice_kept hs)) ?_)
        split
        · exact Keeps.next (takeFault_kept hs)
        · split
          · next hx => exact Keeps.next (kept_fst hx (hf _ _ _ hs))
          · next hx =>
            have h1 := kept_fst hx (hf _ _ _ hs)
            exact keeps_ite (Keeps.next (putSlice_kept h1)) (Keeps.next h1)
  · exact issueLane_kept hs

theorem writeHeld_kept {s core sel x} (hs : MemoryKept s) : MemoryKept (writeHeld s core sel x) := by
  unfold writeHeld
  dsimp only
  refine kept_ite ?_ ?_
  · exact putPin_kept (kept_ite (forgetWait_kept hs) hs)
  · exact putSlice_kept (kept_ite (forgetWait_kept hs) hs)

theorem execWrsl_kept {r x s} (hs : MemoryKept s) : Keeps (execWrsl r x s) := by
  unfold execWrsl
  refine runPrivileged_kept (fun _ _ _ h1 => ?_) hs
  split
  · exact writeHeld_kept h1
  · exact h1

theorem execFoldctl_kept {d r s} (hs : MemoryKept s) : Keeps (execFoldctl d r s) := by
  unfold execFoldctl
  refine runPrivileged_kept (fun _ _ _ h1 => ?_) hs
  dsimp only
  split
  · exact putSlice_kept (foldCore_kept h1)
  · exact foldCore_kept h1

theorem finishFold_kept {s core} (hs : MemoryKept s) : MemoryKept (finishFold s core) := by
  unfold finishFold
  dsimp only
  split
  · exact kept_ite hs (putSlice_kept hs)
  · exact hs

/-! Streams of the fabric. -/

theorem putDest_kept {s i x} (hs : MemoryKept s) : MemoryKept (putDest s i x) := kept_of_eq hs rfl rfl

theorem putTx_kept {s node tc x} (hs : MemoryKept s) : MemoryKept (putTx s node tc x) := kept_of_eq hs rfl rfl

theorem putRx_kept {s node tc x} (hs : MemoryKept s) : MemoryKept (putRx s node tc x) := kept_of_eq hs rfl rfl

theorem pumpMessages_kept {s node tc n} (hs : MemoryKept s) : MemoryKept (pumpMessages s node tc n) := by
  induction n generalizing s with
  | zero => exact hs
  | succ n ih =>
    unfold pumpMessages
    dsimp only
    split
    · exact kept_ite (putTx_kept hs) (putTx_kept hs)
    · split
      · exact putTx_kept hs
      · exact kept_ite (ih (putTx_kept hs)) (putTx_kept hs)

theorem pump_kept {s node tc} (hs : MemoryKept s) : MemoryKept (pump s node tc) := kept_ite hs (pumpMessages_kept hs)

theorem pumpAll_kept {s} (hs : MemoryKept s) : MemoryKept (pumpAll s) := foldl_kept (fun _ _ => pump_kept) hs

theorem sendOn_kept {s entry node tc m} (hs : MemoryKept s) : MemoryKept (sendOn s entry node tc m) := pump_kept (putTx_kept hs)

theorem storeAt_kept {s loc bs} (hs : MemoryKept s) : MemoryKept (storeAt s loc bs) :=
  kept_ite hs (kept_ite (kept_of_eq hs rfl rfl) (store_kept _ _ _ hs))

theorem flushPosted_kept {s} (hs : MemoryKept s) : MemoryKept (flushPosted s) :=
  foldl_kept (fun _ _ => storeAt_kept) (kept_of_eq hs rfl rfl)

theorem addReq_kept {s owner part node tc doomed} (hs : MemoryKept s) : MemoryKept (addReq s owner part node tc doomed) :=
  kept_of_eq hs rfl rfl

theorem peerReset_kept {s node} (hs : MemoryKept s) : MemoryKept (peerReset s node) :=
  foldl_kept (fun _ _ => putRx_kept) hs

theorem loseStream_kept {s node tc code entry} (hs : MemoryKept s) : MemoryKept (loseStream s node tc code entry) := by
  unfold loseStream
  dsimp only
  refine pumpAll_kept (kept_of_eq ?_ rfl rfl)
  exact kept_ite (peerReset_kept (putTx_kept hs)) (putTx_kept hs)

theorem postWrite_kept {s part owner ord fa bs fail} (hf : ∀ t c, MemoryKept t → MemoryKept (fail t c)) (hs : MemoryKept s) :
    MemoryKept (postWrite s part owner ord fa bs fail) := by
  unfold postWrite
  refine kept_ite (storeAt_kept hs) ?_
  split
  · exact hf _ _ hs
  · split
    · exact hf _ _ hs
    · exact foldl_kept (fun _ _ h1 => addReq_kept (sendOn_kept h1)) hs

theorem fabricEvent_kept {s code port detail node tc part} (hs : MemoryKept s) :
    MemoryKept (fabricEvent s code port detail node tc part) := by
  unfold fabricEvent
  dsimp only
  refine kept_ite ?_ ?_
  · exact kept_of_eq hs rfl rfl
  · exact postWrite_kept (fun _ _ h1 => kept_ite (loseStream_kept h1) h1) (kept_of_eq hs rfl rfl)

theorem failStreamBy_kept {s node tc code entry port} (hs : MemoryKept s) :
    MemoryKept (failStreamBy s node tc code entry port) :=
  kept_ite hs (fabricEvent_kept (loseStream_kept hs))

theorem failStream_kept {s node tc code} (hs : MemoryKept s) : MemoryKept (failStream s node tc code) := failStreamBy_kept hs

theorem sendRequest_kept {s owner part entry tc m} (hs : MemoryKept s) : MemoryKept (sendRequest s owner part entry tc m) := by
  unfold sendRequest
  dsimp only
  refine kept_ite (addReq_kept (failStreamBy_kept hs)) ?_
  split
  · exact addReq_kept hs
  · exact addReq_kept (sendOn_kept hs)

theorem failOver_kept {s entry route} (hs : MemoryKept s) : MemoryKept (failOver s entry route) :=
  pumpAll_kept (foldl_kept (fun _ _ h1 => kept_ite (putTx_kept h1) h1) hs)

theorem failRoutes_kept {s0 code all} (hs : MemoryKept s0) : MemoryKept (failRoutes s0 code all) :=
  foldl_kept (fun _ _ => failOver_kept) (foldl_kept (fun _ _ => fabricEvent_kept) (foldl_kept (fun _ _ => putDest_kept) hs))

theorem execAckTimeout_kept {part node tc s} (hs : MemoryKept s) : Keeps (execAckTimeout part node tc s) := by
  unfold execAckTimeout
  refine Keeps.next ?_
  split
  · exact hs
  · exact kept_ite (failRoutes_kept hs) hs

theorem execRouteWaitTimeout_kept {part node tc s} (hs : MemoryKept s) : Keeps (execRouteWaitTimeout part node tc s) :=
  Keeps.next (kept_ite (failStreamBy_kept hs) hs)

theorem restartStreams_kept {s ks} (hs : MemoryKept s) : MemoryKept (restartStreams s ks) :=
  foldl_kept (fun _ _ => putRx_kept) hs

theorem rerouteStream_kept {s entry node tc} (hs : MemoryKept s) : MemoryKept (rerouteStream s entry node tc) := by
  unfold rerouteStream
  dsimp only
  refine kept_ite hs ?_
  split
  · exact failStreamBy_kept hs
  · exact putTx_kept hs

theorem entryWritten_kept {s entry} (hs : MemoryKept s) : MemoryKept (entryWritten s entry) :=
  pumpAll_kept (foldl_kept (fun _ _ h1 => kept_ite (putRx_kept h1) h1) (foldl_kept (fun _ _ => rerouteStream_kept)
    (foldl_kept (fun _ _ h1 => kept_ite (putTx_kept h1) h1) hs)))

theorem ackStream_kept {s node tc ack} (hs : MemoryKept s) : MemoryKept (ackStream s node tc ack) := by
  unfold ackStream
  dsimp only
  refine kept_ite ?_ ?_
  · exact hs
  · exact kept_ite (failStream_kept hs) (kept_ite (pumpAll_kept (putTx_kept hs)) hs)

theorem sendRemote_kept {s owner ctx dest tc m} (hs : MemoryKept s) : MemoryKept (sendRemote s owner ctx dest tc m) :=
  sendRequest_kept hs

theorem sendWrite_kept {s owner ctx dest tc ord loc bs clear} (hs : MemoryKept s) :
    MemoryKept (sendWrite s owner ctx dest tc ord loc bs clear) :=
  foldl_kept (fun _ _ => sendRemote_kept) hs

/-! Accesses that are performed. -/

theorem putFlight_kept {s f} (hs : MemoryKept s) : MemoryKept (putFlight s f) := kept_of_eq hs rfl rfl

theorem dropFlight_kept {s id} (hs : MemoryKept s) : MemoryKept (dropFlight s id) := kept_of_eq hs rfl rfl

theorem sendReads_kept {s f} (hs : MemoryKept s) : MemoryKept (sendReads s f) :=
  foldl_kept (fun _ _ h1 => kept_ite (sendRemote_kept h1) h1) hs

theorem finishLoad_kept {s f} (hs : MemoryKept s) : MemoryKept (finishLoad s f) :=
  finishRollback_kept (putSlice_kept (dropFlight_kept (spendFor_kept hs)))

theorem execLoadFill_kept {id s} (hs : MemoryKept s) : Keeps (execLoadFill id s) := by
  unfold execLoadFill
  refine Keeps.next ?_
  split
  · exact hs
  · exact kept_ite (kept_ite (putFlight_kept (sendReads_kept hs)) (finishLoad_kept hs)) hs

theorem laneStore_kept {s ctx t bs} (hs : MemoryKept s) : MemoryKept (laneStore s ctx t bs) := kept_ite (storeTo_kept hs) hs

theorem sendDup_kept {s f ctx lane t bs} (hs : MemoryKept s) : MemoryKept (sendDup s f ctx lane t bs) := by
  unfold sendDup
  split
  · exact hs
  · exact sendRemote_kept hs

theorem performLane_kept {f ctx s a} (hs : MemoryKept s) : MemoryKept (performLane f ctx s a).1 := by
  unfold performLane
  dsimp only
  split
  · split
    · exact sendRemote_kept hs
    · exact sendDup_kept (laneStore_kept hs)
  · split
    · exact sendRemote_kept hs
    · exact setDesc_kept _ _ hs
  · split
    · exact sendRemote_kept hs
    · split
      · exact hs
      · exact sendDup_kept (laneStore_kept hs)
  · split
    · exact hs
    · exact kept_ite (arriveAt_kept hs) hs
  · exact hs

theorem performLanes_kept {f ctx l s} (hs : MemoryKept s) : MemoryKept (performLanes f ctx l s).1 := by
  induction l generalizing s with
  | nil => exact hs
  | cons a l ih => exact ih (performLane_kept hs)

theorem finishWrite_kept {s f} (hs : MemoryKept s) : MemoryKept (finishWrite s f) := by
  unfold finishWrite
  extract_lets bad k sl spend s1
  have hspend (t c ts) (ht : MemoryKept t) : MemoryKept (spend t c ts) := by
    unfold spend
    cases f.kind with
    | atomic => exact spendEach_kept ht
    | _ => exact spendFor_kept ht
  have h1 : MemoryKept s1 := hspend _ _ _ (dropFlight_kept hs)
  split
  · exact finishRollback_kept (putSlice_kept h1)
  · exact kept_ite (finishRollback_kept (putSlice_kept h1)) (consumeError_kept (finishRollback_kept (putSlice_kept h1)))
  · exact kept_ite (finishRollback_kept (putSlice_kept h1)) (consumeError_kept (finishRollback_kept (putSlice_kept h1)))

theorem execStorePerformed_kept {id s} (hs : MemoryKept s) : Keeps (execStorePerformed id s) := by
  unfold execStorePerformed
  refine Keeps.next ?_
  split
  · exact hs
  · refine kept_ite ?_ hs
    refine kept_ite (finishWrite_kept hs) ?_
    dsimp only
    refine kept_ite ?_ ?_
    · exact putFlight_kept (performLanes_kept hs)
    · exact finishWrite_kept (performLanes_kept hs)

theorem writeCopies_kept {s f ctx} (hs : MemoryKept s) : MemoryKept (writeCopies s f ctx) :=
  foldl_kept (fun _ _ h1 => kept_ite h1 (kept_ite (sendRemote_kept h1) (sendDup_kept (laneStore_kept h1)))) hs

theorem finishCopy_kept {s f stat arv} (hs : MemoryKept s) : MemoryKept (finishCopy s f stat arv) := by
  unfold finishCopy
  dsimp only
  split
  · refine kept_ite ?_ ?_
    · exact arriveAt_kept (putSlice_kept (dropFlight_kept (spendFor_kept hs)))
    · exact putSlice_kept (dropFlight_kept (spendFor_kept hs))
  · exact putSlice_kept (dropFlight_kept (spendFor_kept hs))

theorem execAcpComplete_kept {id s} (hs : MemoryKept s) : Keeps (execAcpComplete id s) := by
  unfold execAcpComplete
  refine Keeps.next ?_
  split
  · exact hs
  · split
    · refine kept_ite ?_ hs
      dsimp only
      refine kept_ite (sendReads_kept hs) ?_
      refine kept_ite hs ?_
      refine kept_ite ?_ (finishCopy_kept hs)
      refine kept_ite ?_ ?_
      · exact putFlight_kept (writeCopies_kept hs)
      · exact finishCopy_kept (putFlight_kept (writeCopies_kept hs))
    · exact hs

theorem execWaitaddrWake_kept {k s} (hs : MemoryKept s) : Keeps (execWaitaddrWake k s) := by
  unfold execWaitaddrWake
  dsimp only
  refine Keeps.next ?_
  split
  · refine kept_ite hs ?_
    split
    · exact parkSlice_kept hs
    · exact hs
    · exact failWatch_kept hs
    · refine kept_ite (kept_ite (putSlice_kept hs) (sendRemote_kept (putSlice_kept hs))) ?_
      refine kept_ite (putSlice_kept hs) ?_
      split
      · exact putSlice_kept hs
      · exact failWatch_kept (spendFor_kept (putSlice_kept hs))
      · exact yieldTeam_kept (putSlice_kept (spendFor_kept (putSlice_kept hs)))
  · exact hs

theorem execSleepuntilWake_kept {k s} (hs : MemoryKept s) : Keeps (execSleepuntilWake k s) := by
  unfold execSleepuntilWake
  dsimp only
  refine Keeps.next ?_
  split
  · refine kept_ite hs ?_
    split
    · exact yieldTeam_kept (putSlice_kept hs)
    · split
      · refine kept_ite hs ?_
        refine kept_ite ?_ ?_
        · exact consumeError_kept hs
        · exact kept_ite (yieldTeam_kept (putSlice_kept hs)) (takeFault_kept hs)
      · exact commitOne_kept hs
      · exact hs
  · exact hs

end Sys2Proof.Proofs
end

section
/-! PROOFS. Memory stays in canonical form: anvils and scribes. -/

namespace Sys2Proof.Proofs

open Sys2Proof.Machine Sys2Proof.Safety Sys2Proof.Laws

/-! Anvils. -/

theorem enterReq_kept {s s' mk} (hs : MemoryKept s') : MemoryKept (enterReq s s' mk) := by
  unfold enterReq
  dsimp only
  split
  · exact hs
  · exact kept_ite (kept_of_eq hs rfl rfl) hs

theorem lowerTl_kept {s k n} (hs : MemoryKept s) : MemoryKept (lowerTl s k n) := putSlice_kept hs

theorem settleFail_kept {s n id} (hs : MemoryKept s) : MemoryKept (settleFail s n id) := by
  unfold settleFail
  split
  · exact hs
  · refine kept_ite hs ?_
    refine kept_ite ?_ ?_
    · exact putAnvil_kept hs
    · exact kept_ite (putAnvil_kept hs) (putSlice_kept (lowerTl_kept (putAnvil_kept hs)))

theorem failReq_kept {s n r f} (hs : MemoryKept s) : MemoryKept (failReq s n r f) :=
  settleFail_kept (putAnvil_kept (submitRecord_kept hs))

theorem failCheck_kept {s n r row} (hs : MemoryKept s) : MemoryKept (failCheck s n r row) := by
  unfold failCheck
  dsimp only
  refine kept_ite (machineCheck_kept (failReq_kept hs)) ?_
  split
  · exact kept_ite (failReq_kept hs) (putLaunch_kept (failReq_kept hs))
  · exact failReq_kept hs

theorem completeReq_kept {s n r} (hs : MemoryKept s) : MemoryKept (completeReq s n r) := lowerTl_kept (putAnvil_kept hs)

theorem parkReq_kept {s n r page write} (hs : MemoryKept s) : MemoryKept (parkReq s n r page write) :=
  addWalk_kept (putAnvil_kept hs)

theorem askBlocks_kept {s n r ts i} (hs : MemoryKept s) : MemoryKept (askBlocks s n r ts i).1 := by
  induction ts generalizing s i with
  | nil => exact hs
  | cons t ts ih =>
    unfold askBlocks
    split
    · exact ih (sendRemote_kept (sendRemote_kept hs))
    · exact ih hs

theorem meetError_kept {s n r f last} (hl : ∀ t, MemoryKept t → MemoryKept (last t)) (hs : MemoryKept s) :
    MemoryKept (meetError s n r f last) :=
  kept_ite (putAnvil_kept hs) (failReq_kept (hl _ hs))

theorem fetchBlocks_kept {s n r unit addr count} (hs : MemoryKept s) : FetchKept (fetchBlocks s n r unit addr count) := by
  unfold fetchBlocks
  dsimp only
  split
  · exact hs
  · split
    · split
      · exact hs
      · exact putAnvil_kept (askBlocks_kept hs)
    · split
      · exact hs
      · trivial
      · trivial
      · trivial
      · trivial
      · exact hs

theorem readBias_kept {s n r c} (hs : MemoryKept s) : MemoryKept (readBias s n r c) := by
  unfold readBias
  split
  · exact putAnvil_kept (spendFor_kept hs)
  · exact kept_ite (meetError_kept (fun _ h => h) hs) (failReq_kept hs)
  · exact parkReq_kept hs
  · next hx => exact FetchKept.wait hx (fetchBlocks_kept hs)

theorem execAnvilGrant_kept {n s} (hs : MemoryKept s) : Keeps (execAnvilGrant n s) := by
  unfold execAnvilGrant
  dsimp only
  refine Keeps.next ?_
  split
  · exact hs
  · refine kept_ite hs ?_
    split
    · exact failReq_kept hs
    · exact kept_ite (readBias_kept (putAnvil_kept hs)) (putAnvil_kept hs)

theorem commitPass_kept {s n r c rows} (hs : MemoryKept s) : MemoryKept (commitPass s n r c rows) := putAnvil_kept hs

theorem execAnvilPassCommit_kept {id s} (hs : MemoryKept s) : Keeps (execAnvilPassCommit id s) := by
  unfold execAnvilPassCommit
  refine Keeps.next ?_
  split
  · exact hs
  · dsimp only
    refine kept_ite hs ?_
    refine kept_ite (readBias_kept hs) ?_
    split
    · exact hs
    · exact kept_ite (meetError_kept (fun _ h1 => h1) hs) (failReq_kept hs)
    · split
      · exact kept_ite (putAnvil_kept hs) (failCheck_kept hs)
      · exact commitPass_kept hs

theorem sendOut_kept {s n r dest t bs d} (hs : MemoryKept s) : MemoryKept (sendOut s n r dest t bs d).1 := by
  unfold sendOut
  dsimp only
  split
  · exact sendRemote_kept hs
  · exact sendRemote_kept (sendRemote_kept hs)

theorem writeOut_kept {s n r l} (hs : MemoryKept s) : MemoryKept (writeOut s n r l).1 := by
  induction l generalizing s with
  | nil => exact hs
  | cons o l ih =>
    obtain ⟨t, bs, d⟩ := o
    unfold writeOut
    dsimp only
    refine ih ?_
    have hw : MemoryKept (if mayWrite s r.ctx t then storeDesc s t.key t.loc bs d else s) := kept_ite
      (storeDesc_kept _ _ _ _ hs) hs
    split
    · exact sendOut_kept hs
    · split
      · exact sendOut_kept hw
      · exact hw

theorem finishOut_kept {s n r} (hs : MemoryKept s) : MemoryKept (finishOut s n r) := by
  unfold finishOut
  dsimp only
  split
  · exact failReq_kept hs
  · exact parkReq_kept hs
  · exact hs
  · refine kept_ite hs ?_
    refine kept_ite ?_ ?_
    · exact completeReq_kept (writeOut_kept (spendFor_kept hs))
    · exact putAnvil_kept (writeOut_kept (spendFor_kept hs))

theorem ldbDone_kept {s n r bs} (hs : MemoryKept s) : MemoryKept (ldbDone s n r bs) := putAnvil_kept hs

theorem ldtDone_kept {s n r bs} (hs : MemoryKept s) : MemoryKept (ldtDone s n r bs) := putAnvil_kept hs

theorem execAnvilRequestComplete_kept {id s} (hs : MemoryKept s) : Keeps (execAnvilRequestComplete id s) := by
  unfold execAnvilRequestComplete
  refine Keeps.next ?_
  split
  · exact hs
  · refine kept_ite hs ?_
    split
    · exact kept_ite hs (kept_ite (completeReq_kept hs) (finishOut_kept hs))
    · split
      · exact completeReq_kept (ldbDone_kept (spendFor_kept hs))
      · exact kept_ite (meetError_kept (fun _ => ldbDone_kept) hs) (failReq_kept (ldbDone_kept hs))
      · exact parkReq_kept hs
      · next hx => exact FetchKept.wait hx (fetchBlocks_kept hs)
    · exact kept_ite (completeReq_kept hs) (kept_ite (meetError_kept (fun _ h => h) hs) (finishOut_kept hs))
    · split
      · exact completeReq_kept (ldtDone_kept (spendFor_kept hs))
      · exact kept_ite (meetError_kept (fun _ => ldtDone_kept) hs) (failReq_kept (ldtDone_kept hs))
      · exact parkReq_kept hs
      · next hx => exact FetchKept.wait hx (fetchBlocks_kept hs)

/-! Queues of scribes. -/

theorem putScribe_kept {s n x} (hs : MemoryKept s) : MemoryKept (putScribe s n x) := kept_of_eq hs rfl rfl

theorem putProg_kept {s n x p} (hs : MemoryKept s) : MemoryKept (putProg s n x p) := putScribe_kept hs

theorem putQueue_kept {s n vq q} (hs : MemoryKept s) : MemoryKept (putQueue s n vq q) := putScribe_kept hs

theorem askWord_kept {s u ctx va t} (hs : MemoryKept s) : MemoryKept (askWord s u ctx va t) :=
  kept_ite hs (sendRemote_kept (kept_of_eq hs rfl rfl))

theorem freeCancels_kept {s h} (hs : MemoryKept s) : MemoryKept (freeCancels s h) :=
  foldl_kept (fun _ _ h1 => kept_ite (putSlice_kept h1) h1) hs

theorem programEnded_kept {s n p w err} (hs : MemoryKept s) : MemoryKept (programEnded s n p w err) := by
  unfold programEnded
  dsimp only
  refine kept_ite ?_ ?_
  · exact freeCancels_kept (putQueue_kept hs)
  · exact refreshHeader_kept (putSlice_kept (freeCancels_kept (putQueue_kept hs)))

theorem quietProg_kept {s n x p} (hs : MemoryKept s) : MemoryKept (quietProg s n x p).1 := kept_of_eq hs rfl rfl

theorem endProg_kept {s n x w err} (hs : MemoryKept s) : MemoryKept (endProg s n x w err) := by
  unfold endProg
  split
  · exact hs
  · exact programEnded_kept (putProg_kept (kept_of_eq hs rfl rfl))

theorem settleProg_kept {s n x} (hs : MemoryKept s) : MemoryKept (settleProg s n x) := by
  unfold settleProg
  split
  · exact hs
  · split
    · exact hs
    · exact kept_ite (endProg_kept hs) hs

theorem dropQueued_kept {s n vq seq} (hs : MemoryKept s) : MemoryKept (dropQueued s n vq seq) := by
  unfold dropQueued
  dsimp only
  split
  · exact hs
  · exact programEnded_kept (putQueue_kept hs)

theorem enqueue_kept {s n p} (hs : MemoryKept s) : MemoryKept (enqueue s n p) := putQueue_kept hs

theorem enterProg_kept {s s' prog args sel res} (hs : MemoryKept s') : MemoryKept (enterProg s s' prog args sel res) := by
  unfold enterProg
  dsimp only
  split
  · exact hs
  · exact kept_ite (enqueue_kept hs) hs

theorem askAnew_kept {s} (hs : MemoryKept s) : MemoryKept (askAnew s) := by
  unfold askAnew
  refine foldl_kept (fun _ _ h1 => ?_) hs
  refine foldl_kept (fun _ _ h2 => ?_) h1
  split
  · exact kept_ite (putProg_kept (quietProg_kept h2)) h2
  · exact h2

theorem flushRecords_kept {s ctx core a} (hs : MemoryKept s) : MemoryKept (flushRecords s ctx core a) := by
  unfold flushRecords
  dsimp only
  refine kept_of_eq ?_ rfl rfl
  exact askAnew_kept hs

theorem dropMiss_kept {s vdev page} (hs : MemoryKept s) : MemoryKept (dropMiss s vdev page) :=
  kept_ite hs (kept_of_eq hs rfl rfl)

theorem stopProg_kept {s n x p} (hs : MemoryKept s) : MemoryKept (stopProg s n x p) := by
  unfold stopProg
  dsimp only
  refine kept_ite ?_ ?_
  · exact endProg_kept (putProg_kept (quietProg_kept hs))
  · exact putProg_kept (quietProg_kept hs)

theorem cancelRunning_kept {s n x} (hs : MemoryKept s) : MemoryKept (cancelRunning s n x) := by
  unfold cancelRunning
  split
  · exact hs
  · refine kept_ite hs ?_
    refine kept_ite (putProg_kept hs) ?_
    dsimp only
    split
    · exact dropMiss_kept (stopProg_kept hs)
    · exact stopProg_kept hs

theorem cancelHandle_kept {s h} (hs : MemoryKept s) : MemoryKept (cancelHandle s h) := by
  unfold cancelHandle
  dsimp only
  split
  · exact dropQueued_kept hs
  · exact cancelRunning_kept hs

theorem execSccancel_kept {h s} (hs : MemoryKept s) : Keeps (execSccancel h s) := by
  unfold execSccancel
  refine andThen_kept (issueLane_kept hs) (fun _ h1 => ?_)
  split
  · exact cancelHandle_kept h1
  · exact h1

/-! Scribe programs. -/

theorem faultProg_kept {s n x p f} (hs : MemoryKept s) : MemoryKept (faultProg s n x p f) :=
  settleProg_kept (putProg_kept (quietProg_kept (submitRecord_kept hs)))

theorem rollbackProg_kept {s n x p unit faddr} (hs : MemoryKept s) : MemoryKept (rollbackProg s n x p unit faddr) :=
  kept_ite (faultProg_kept hs) (putProg_kept (quietProg_kept hs))

theorem parkProg_kept {s n x p page write} (hs : MemoryKept s) : MemoryKept (parkProg s n x p page write) :=
  kept_ite (stopProg_kept hs) (addWalk_kept (putProg_kept hs))

theorem askFor_kept {s n x p tc as seen} (hs : MemoryKept s) : MemoryKept (askFor s n x p tc as seen).1 := by
  induction as generalizing s seen with
  | nil => exact hs
  | cons a as ih =>
    unfold askFor
    split
    · exact ih hs
    · exact ih (sendRemote_kept hs)

theorem sendBlocks_kept {s n x p dest tc ord t bs d} (hs : MemoryKept s) :
    MemoryKept (sendBlocks s n x p dest tc ord t bs d).1 := by
  unfold sendBlocks
  dsimp only
  split
  · exact sendWrite_kept hs
  · exact foldl_kept (fun _ _ => sendRemote_kept) (sendWrite_kept hs)

theorem swrite_kept {s n x p tc ord t bs d} (hs : MemoryKept s) : MemoryKept (swrite s n x p tc ord t bs d).1 := by
  unfold swrite
  split
  · exact sendBlocks_kept hs
  · dsimp only
    split
    · exact sendBlocks_kept (kept_ite (storeDesc_kept _ _ _ _ hs) hs)
    · exact kept_ite (storeDesc_kept _ _ _ _ hs) hs

theorem swriteParts_kept {s n x p tc ord bs d qs} (hs : MemoryKept s) : MemoryKept (swriteParts s n x p tc ord bs d qs).1 := by
  induction qs generalizing s bs with
  | nil => exact hs
  | cons q qs ih => exact ih (swrite_kept hs)

theorem runScribe_kept {s f} (hf : ∀ n x p, MemoryKept (f n x p)) : Keeps (runScribe s f) := by
  unfold runScribe
  split
  · split
    · exact Keeps.next (hf ..)
    · exact Keeps.fault
  · exact Keeps.fault

theorem fetchWith_kept {bad s n x p unit tc rs} (hs : MemoryKept s) : StopKept (fetchWith bad s n x p unit tc rs) := by
  unfold fetchWith
  dsimp only
  split
  · exact faultProg_kept hs
  · exact parkProg_kept hs
  · exact hs
  · split
    · exact hs
    · split
      · exact rollbackProg_kept hs
      · split
        · trivial
        · split
          · exact hs
          · exact putProg_kept (askFor_kept hs)

theorem fetchSpans_kept {s n x p unit tc rs} (hs : MemoryKept s) : StopKept (fetchSpans s n x p unit tc rs) := fetchWith_kept hs

theorem fetchPast_kept {s n x p gs from_ count all} (hs : MemoryKept s) : StopKept (fetchPast s n x p gs from_ count all) := by
  unfold fetchPast
  split
  · next hx => exact StopKept.stop hx (fetchSpans_kept hs)
  · dsimp only
    split
    · trivial
    · exact fetchSpans_kept hs

theorem stepProg_kept {s n x p p'} (hs : MemoryKept s) : MemoryKept (stepProg s n x p p') :=
  kept_ite (faultProg_kept hs) (putProg_kept hs)

theorem runK_kept {s d f} (hs : MemoryKept s) : Keeps (runK s d f) := runScribe_kept (fun _ _ _ => stepProg_kept hs)

theorem execKld_kept {d a e s} (hs : MemoryKept s) : Keeps (execKld d a e s) := by
  unfold execKld
  refine runScribe_kept fun _ _ _ => ?_
  split
  · next hx => exact StopKept.stop hx (fetchSpans_kept hs)
  · exact stepProg_kept (spendFor_kept hs)

theorem execKst_kept {a b e s} (hs : MemoryKept s) : Keeps (execKst a b e s) := by
  unfold execKst
  refine runScribe_kept fun _ _ _ => ?_
  split
  · next hx => exact StopKept.stop hx (fetchSpans_kept hs)
  · exact kept_ite (faultProg_kept hs) (putProg_kept (spendFor_kept (swriteParts_kept hs)))

theorem branchTo_kept {s n x p target} (hs : MemoryKept s) : MemoryKept (branchTo s n x p target) :=
  kept_ite (putProg_kept hs) (faultProg_kept hs)

theorem cacheRec_kept {s n ctx a place r} (hs : MemoryKept s) : MemoryKept (cacheRec s n ctx a place r) := kept_of_eq hs rfl rfl

theorem bindRec_kept {s n x p a} (hs : MemoryKept s) : BindKept (bindRec s n x p a) := by
  unfold bindRec
  dsimp only
  split
  · exact hs
  · split
    · next hx => exact StopKept.stop hx (fetchSpans_kept hs)
    · exact cacheRec_kept (spendFor_kept hs)

theorem execGset_kept {g a s} (hs : MemoryKept s) : Keeps (execGset g a s) := by
  unfold execGset
  refine runScribe_kept fun _ _ _ => ?_
  split
  · next hx => exact BindKept.stop hx (bindRec_kept hs)
  · next hx =>
    have h1 := BindKept.got hx (bindRec_kept hs)
    split
    · exact faultProg_kept h1
    · exact stepProg_kept h1

theorem execGstep_kept {d g k s} (hs : MemoryKept s) : Keeps (execGstep d g k s) := by
  unfold execGstep
  refine runScribe_kept (fun _ _ _ => ?_)
  split
  · exact faultProg_kept hs
  · exact kept_ite (faultProg_kept hs) (stepProg_kept hs)

theorem execGaddr_kept {d g s} (hs : MemoryKept s) : Keeps (execGaddr d g s) := by
  unfold execGaddr
  refine runScribe_kept (fun _ _ _ => ?_)
  split
  · exact faultProg_kept hs
  · exact kept_ite (faultProg_kept hs) (stepProg_kept hs)

theorem beginData_kept {s n x p i total} (hs : MemoryKept s) : MemoryKept (beginData s n x p i total) := putProg_kept hs

theorem beginRows_kept {s n x p g i rows} (hs : MemoryKept s) : MemoryKept (beginRows s n x p g i rows) := by
  unfold beginRows
  split
  · exact faultProg_kept hs
  · split
    · exact faultProg_kept hs
    · exact beginData_kept hs

theorem execConvert_kept {gd gs c s} (hs : MemoryKept s) : Keeps (execConvert gd gs c s) := by
  unfold execConvert
  refine runScribe_kept (fun _ _ _ => ?_)
  dsimp only
  split
  · refine kept_ite (faultProg_kept hs) ?_
    refine kept_ite (faultProg_kept hs) ?_
    refine kept_ite ?_ ?_
    · exact faultProg_kept hs
    · exact kept_ite (faultProg_kept hs) (kept_ite (faultProg_kept hs) (beginData_kept hs))
  · exact faultProg_kept hs

theorem nextLine_kept {s n x p o sent} (hs : MemoryKept s) : MemoryKept (nextLine s n x p o sent) := by
  unfold nextLine
  dsimp only
  refine kept_ite ?_ ?_
  · exact stopProg_kept hs
  · exact kept_ite (putProg_kept hs) (kept_ite (faultProg_kept hs) (putProg_kept hs))

theorem lineOp_kept {s n x p o d a} (hs : MemoryKept s) : MemoryKept (lineOp s n x p o d a) := by
  unfold lineOp
  dsimp only
  split
  · next hx => exact StopKept.stop hx (fetchSpans_kept hs)
  · exact nextLine_kept (spendFor_kept (swriteParts_kept hs))

theorem reduceOp_kept {s n x p o d a op} (hs : MemoryKept s) : MemoryKept (reduceOp s n x p o d a op) := by
  unfold reduceOp
  dsimp only
  split
  · next hx => exact StopKept.stop hx (fetchSpans_kept hs)
  · exact kept_ite (nextLine_kept (spendFor_kept (sendRemote_kept hs)))
      (kept_ite (rollbackProg_kept hs) (nextLine_kept (spendFor_kept (swrite_kept hs))))

theorem askNibble_kept {s n x part entry loc clear va pos v expect d} (hs : MemoryKept s) :
    MemoryKept (askNibble s n x part entry loc clear va pos v expect d) :=
  sendRequest_kept hs

theorem writeNibble_kept {s n x p t hi v d} (hs : MemoryKept s) : MemoryKept (writeNibble s n x p t hi v d).1 := by
  unfold writeNibble
  split
  · exact askNibble_kept hs
  · exact swrite_kept hs

theorem writePieces_kept {s n x p d l} (hs : MemoryKept s) : MemoryKept (writePieces s n x p d l).1 := by
  induction l generalizing s with
  | nil => exact hs
  | cons y l ih =>
    unfold writePieces
    dsimp only
    refine ih ?_
    split
    · exact swrite_kept hs
    · exact writeNibble_kept hs

theorem writeElems_kept {s n x p nib d es} (hs : MemoryKept s) : MemoryKept (writeElems s n x p nib d es).1 :=
  writePieces_kept hs

theorem gatherOp_kept {s n x p o d a g} (hs : MemoryKept s) : MemoryKept (gatherOp s n x p o d a g) := by
  unfold gatherOp
  dsimp only
  split
  · next hx => exact StopKept.stop hx (fetchSpans_kept hs)
  · split
    · exact faultProg_kept hs
    · split
      · next hx => exact StopKept.stop hx (fetchSpans_kept hs)
      · exact nextLine_kept (spendFor_kept (swriteParts_kept hs))

theorem scatterOp_kept {s n x p o a b g} (hs : MemoryKept s) : MemoryKept (scatterOp s n x p o a b g) := by
  unfold scatterOp
  dsimp only
  split
  · next hx => exact StopKept.stop hx (fetchSpans_kept hs)
  · split
    · exact faultProg_kept hs
    · split
      · next hx => exact StopKept.stop hx (fetchSpans_kept hs)
      · exact nextLine_kept (spendFor_kept (writeElems_kept hs))

theorem convertOp_kept {s n x p o gd gs scale} (hs : MemoryKept s) : MemoryKept (convertOp s n x p o gd gs scale) := by
  unfold convertOp
  dsimp only
  refine kept_ite (faultProg_kept hs) ?_
  split
  · exact faultProg_kept hs
  · split
    · next hx => exact StopKept.stop hx (fetchPast_kept hs)
    · refine kept_ite (faultProg_kept hs) ?_
      split
      · exact faultProg_kept hs
      · exact faultProg_kept hs
      · split
        · exact hs
        · exact nextLine_kept (spendFor_kept (writeElems_kept hs))

theorem execLineOperation_kept {n x s} (hs : MemoryKept s) : Keeps (execLineOperation n x s) := by
  unfold execLineOperation
  refine Keeps.next ?_
  split
  · exact hs
  · split
    · exact hs
    · refine kept_ite hs ?_
      split
      · exact lineOp_kept hs
      · exact reduceOp_kept hs
      · split
        · exact gatherOp_kept hs
        · exact hs
      · split
        · exact scatterOp_kept hs
        · exact hs
      · split
        · exact convertOp_kept hs
        · exact hs
      · exact hs

theorem execScribeArrive_kept {a b s} (hs : MemoryKept s) : Keeps (execScribeArrive a b s) := by
  unfold execScribeArrive
  refine runScribe_kept fun _ _ _ => ?_
  split
  · next hx => exact StopKept.stop hx (fetchSpans_kept hs)
  · exact kept_ite hs (kept_ite (rollbackProg_kept hs) (kept_ite (faultProg_kept hs) (putProg_kept (arriveAt_kept hs))))

theorem waitbRead_kept {s n x p a ph} (hs : MemoryKept s) : MemoryKept (waitbRead s n x p a ph) := by
  unfold waitbRead
  split
  · next hx => exact StopKept.stop hx (fetchWith_kept hs)
  · exact kept_ite (stepProg_kept hs) (putProg_kept hs)

theorem execWaitbWake_kept {n x s} (hs : MemoryKept s) : Keeps (execWaitbWake n x s) := by
  unfold execWaitbWake
  refine Keeps.next ?_
  split
  · exact hs
  · split
    · exact kept_ite hs (waitbRead_kept hs)
    · exact hs

theorem execSignal_kept {a b sc s} (hs : MemoryKept s) : Keeps (execSignal a b sc s) := by
  unfold execSignal
  refine runScribe_kept fun _ _ _ => ?_
  split
  · next hx => exact StopKept.stop hx (fetchSpans_kept hs)
  · exact kept_ite hs (kept_ite (faultProg_kept hs) (putProg_kept (spendFor_kept (swriteParts_kept hs))))

theorem execScribeProgramEnd_kept {n x s} (hs : MemoryKept s) : Keeps (execScribeProgramEnd n x s) := by
  unfold execScribeProgramEnd
  refine Keeps.next ?_
  split
  · exact hs
  · refine kept_ite hs ?_
    refine kept_ite ?_ ?_
    · exact settleProg_kept hs
    · exact kept_ite (endProg_kept hs) (kept_ite (endProg_kept hs) hs)

theorem rebind_kept {n x p l s gs} (hs : MemoryKept s) : MemoryKept (rebind n x p l s gs).1 := by
  induction l generalizing s gs with
  | nil => exact hs
  | cons g l ih =>
    unfold rebind
    split
    · next hx => exact BindKept.stop hx (bindRec_kept hs)
    · next hx =>
      have h1 := BindKept.got hx (bindRec_kept hs)
      split
      · exact faultProg_kept h1
      · exact ih h1

theorem resumeProg_kept {s n x p} (hs : MemoryKept s) : MemoryKept (resumeProg s n x p) := by
  unfold resumeProg
  split
  · next hx => exact StopKept.stop hx (fetchSpans_kept hs)
  · dsimp only
    refine kept_ite (faultProg_kept hs) ?_
    split
    · next hx => exact kept_fst hx (rebind_kept hs)
    · next hx => exact putProg_kept (spendFor_kept (kept_fst hx (rebind_kept hs)))

theorem startHead_kept {s n} (hs : MemoryKept s) : MemoryKept (startHead s n) := by
  unfold startHead
  split
  · split
    · exact hs
    · exact putProg_kept (putQueue_kept hs)
  · exact hs

theorem execScribeProgramStart_kept {n s} (hs : MemoryKept s) : Keeps (execScribeProgramStart n s) :=
  Keeps.next (startHead_kept (foldl_kept (fun _ _ => resumeProg_kept) hs))

end Sys2Proof.Proofs
end

section
/-! PROOFS. Memory stays in canonical form: translation, traps, dispatch and the ladder. -/

namespace Sys2Proof.Proofs

open Sys2Proof.Machine Sys2Proof.Safety Sys2Proof.Laws

/-! Packets and rings. -/

theorem putPkt_kept {s p} (hs : MemoryKept s) : MemoryKept (putPkt s p) := kept_of_eq hs rfl rfl

theorem dropPkt_kept {s id} (hs : MemoryKept s) : MemoryKept (dropPkt s id) := kept_of_eq hs rfl rfl

theorem putRing_kept {s v q r} (hs : MemoryKept s) : MemoryKept (putRing s v q r) := putVdev_kept hs

theorem postFail_kept {fa part s code} (hs : MemoryKept s) : MemoryKept (postFail fa part s code) :=
  kept_ite (failStreamBy_kept hs) hs

theorem postFor_kept {s owner part fa bs} (hs : MemoryKept s) : MemoryKept (postFor s owner part fa bs) :=
  postWrite_kept (fun _ _ => postFail_kept) hs

theorem post_kept {s part fa bs} (hs : MemoryKept s) : MemoryKept (post s part fa bs) := postFor_kept hs

theorem ringError_kept {s owner v q code field seq} (hs : MemoryKept s) : MemoryKept (ringError s owner v q code field seq) :=
  postFor_kept hs

theorem failCap_kept {s p code field} (hs : MemoryKept s) : MemoryKept (failCap s p code field) :=
  putPkt_kept (ringError_kept hs)

theorem parkPkt_kept {s p page write} (hs : MemoryKept s) : MemoryKept (parkPkt s p page write) := addWalk_kept (putPkt_kept hs)

theorem checkPkt_kept {s p} (hs : MemoryKept s) : MemoryKept (checkPkt s p) := by
  unfold checkPkt
  split
  · exact putPkt_kept hs
  · exact failCap_kept hs
  · exact parkPkt_kept hs
  · exact hs

theorem resumePkt_kept {s id} (hs : MemoryKept s) : MemoryKept (resumePkt s id) := by
  unfold resumePkt
  split
  · exact hs
  · exact kept_ite (checkPkt_kept hs) (putPkt_kept hs)

theorem refusePkt_kept {s id page} (hs : MemoryKept s) : MemoryKept (refusePkt s id page) := by
  unfold refusePkt
  split
  · exact hs
  · exact resumePkt_kept (putPkt_kept hs)

/-! Parked units, records and page requests. -/

theorem settleSlices_kept {s f} (hs : MemoryKept s) : MemoryKept (settleSlices s f) := by
  unfold settleSlices
  refine foldl_kept (fun _ _ h1 => ?_) hs
  split
  · exact h1
  · exact putSlice_kept h1

theorem settleAnvils_kept {s f} (hs : MemoryKept s) : MemoryKept (settleAnvils s f) :=
  foldl_kept (fun _ _ => putAnvil_kept) hs

theorem settleScribes_kept {s f} (hs : MemoryKept s) : MemoryKept (settleScribes s f) := by
  unfold settleScribes
  refine foldl_kept (fun _ _ h1 => ?_) hs
  refine foldl_kept (fun _ _ h2 => ?_) h1
  split
  · exact h2
  · split
    · exact h2
    · exact putProg_kept h2

theorem settleParks_kept {s f} (hs : MemoryKept s) : MemoryKept (settleParks s f) :=
  settleScribes_kept (settleAnvils_kept (settleSlices_kept hs))

theorem settlePkts_kept {s f} (hs : MemoryKept s) : MemoryKept (settlePkts s f) := kept_of_eq hs rfl rfl

theorem settleRecs_kept {s f} (hs : MemoryKept s) : MemoryKept (settleRecs s f) := kept_of_eq hs rfl rfl

theorem dropRecWait_kept {s id} (hs : MemoryKept s) : MemoryKept (dropRecWait s id) := kept_of_eq hs rfl rfl

theorem putRec_kept {s w} (hs : MemoryKept s) : MemoryKept (putRec s w) := kept_of_eq hs rfl rfl

theorem settleUnit_kept {s y} (hs : MemoryKept s) : MemoryKept (settleUnit s y) := by
  unfold settleUnit
  split
  · exact hs
  · exact settleProg_kept hs
  · exact settleFail_kept hs

theorem recordEnd_kept {s w addr} (hs : MemoryKept s) : MemoryKept (recordEnd s w addr) := by
  unfold recordEnd
  dsimp only
  refine settleUnit_kept ?_
  split
  · exact recordDone_kept (dropRecWait_kept hs)
  · exact recordLost_kept (dropRecWait_kept hs)

theorem parkRec_kept {s w page} (hs : MemoryKept s) : MemoryKept (parkRec s w page) := addWalk_kept (putRec_kept hs)

theorem countRec_kept {s w refused a} (hs : MemoryKept s) : MemoryKept (countRec s w refused a) := by
  unfold countRec
  split
  · exact recordEnd_kept hs
  · exact parkRec_kept hs
  · exact putRec_kept (sendRemote_kept hs)
  · refine kept_ite (putRec_kept hs) ?_
    dsimp only
    split
    · exact recordEnd_kept (storeTo_kept (spendFor_kept hs))
    · exact putRec_kept (sendWrite_kept (storeTo_kept (spendFor_kept hs)))

theorem bodyRec_kept {s w refused i nent} (hs : MemoryKept s) : MemoryKept (bodyRec s w refused i nent) := by
  unfold bodyRec
  dsimp only
  split
  · exact recordEnd_kept hs
  · exact parkRec_kept hs
  · exact putRec_kept (sendWrite_kept hs)
  · refine kept_ite hs ?_
    split
    · exact countRec_kept (storeTo_kept (spendFor_kept hs))
    · exact putRec_kept (sendWrite_kept (storeTo_kept (spendFor_kept hs)))

theorem stepRec_kept {s w0 refused} (hs : MemoryKept s) : MemoryKept (stepRec s w0 refused) := by
  unfold stepRec
  dsimp only
  refine kept_ite (putRec_kept hs) ?_
  split
  · split
    · exact recordEnd_kept (putRec_kept hs)
    · exact parkRec_kept (putRec_kept hs)
    · exact putRec_kept (sendRemote_kept (putRec_kept hs))
    · refine kept_ite ?_ ?_
      · exact putRec_kept hs
      · exact kept_ite (recordEnd_kept (putRec_kept hs)) (bodyRec_kept (putRec_kept hs))
  · exact bodyRec_kept (putRec_kept hs)
  · exact countRec_kept (putRec_kept hs)
  · exact recordEnd_kept (putRec_kept hs)

theorem retryRecord_kept {s w refused} (hs : MemoryKept s) : MemoryKept (retryRecord s w refused) := stepRec_kept hs

theorem retryRecords_kept {s hit refused} (hs : MemoryKept s) : MemoryKept (retryRecords s hit refused) :=
  foldl_kept (fun _ _ => retryRecord_kept) hs

theorem stepRecords_kept {s} (hs : MemoryKept s) : MemoryKept (stepRecords s) := by
  unfold stepRecords
  refine foldl_kept (fun _ _ h1 => ?_) hs
  split
  · exact stepRec_kept h1
  · exact h1

theorem bindParks_kept {s vdev page reason id} (hs : MemoryKept s) : MemoryKept (bindParks s vdev page reason id) :=
  settleRecs_kept (settlePkts_kept (settleParks_kept hs))

theorem requestPage_kept {s w reason} (hs : MemoryKept s) : MemoryKept (requestPage s w reason) := by
  unfold requestPage
  split
  · exact bindParks_kept (kept_of_eq hs rfl rfl)
  · exact bindParks_kept (kept_of_eq hs rfl rfl)

theorem replay_kept {s vdev page writable} (hs : MemoryKept s) : MemoryKept (replay s vdev page writable) :=
  foldl_kept (fun _ _ => resumePkt_kept) (retryRecords_kept (settleParks_kept hs))

theorem refusePage_kept {s r} (hs : MemoryKept s) : MemoryKept (refusePage s r) :=
  foldl_kept (fun _ _ => refusePkt_kept) (retryRecords_kept (settleParks_kept (kept_of_eq hs rfl rfl)))

theorem cacheLeaf_kept {s vdev va b e} (hs : MemoryKept s) : MemoryKept (cacheLeaf s vdev va b e) := kept_of_eq hs rfl rfl

theorem finishWalk_kept {s w} (hs : MemoryKept s) : MemoryKept (finishWalk s w) := by
  unfold finishWalk
  dsimp only
  split
  · exact requestPage_kept (kept_of_eq hs rfl rfl)
  · refine kept_ite ?_ ?_
    · exact requestPage_kept (replay_kept (cacheLeaf_kept (kept_of_eq hs rfl rfl)))
    · exact replay_kept (cacheLeaf_kept (kept_of_eq hs rfl rfl))

theorem execPageWalk_kept {id s} (hs : MemoryKept s) : Keeps (execPageWalk id s) := by
  unfold execPageWalk
  refine Keeps.next ?_
  split
  · exact hs
  · exact kept_ite (finishWalk_kept hs) hs

theorem execPageRequest_kept {id s} (hs : MemoryKept s) : Keeps (execPageRequest id s) := by
  unfold execPageRequest
  refine Keeps.next ?_
  split
  · exact hs
  · dsimp only
    refine kept_ite hs ?_
    refine kept_of_eq ?_ rfl rfl
    exact post_kept (putVdev_kept hs)

theorem dateRequests_kept {s} (hs : MemoryKept s) : MemoryKept (dateRequests s) := kept_of_eq hs rfl rfl

theorem dropPageReq_kept {s id} (hs : MemoryKept s) : MemoryKept (dropPageReq s id) := kept_of_eq hs rfl rfl

theorem execPageRequestTimeout_kept {id s} (hs : MemoryKept s) : Keeps (execPageRequestTimeout id s) := by
  unfold execPageRequestTimeout
  refine Keeps.next ?_
  split
  · exact hs
  · exact kept_ite (refusePage_kept (dropPageReq_kept hs)) hs

theorem answerRequest_kept {s v reqid gen status} (hs : MemoryKept s) : MemoryKept (answerRequest s v reqid gen status) := by
  unfold answerRequest
  dsimp only
  refine kept_ite (putVdev_kept hs) ?_
  split
  · exact hs
  · refine kept_ite ?_ ?_
    · exact refusePage_kept (dropPageReq_kept hs)
    · exact joinWalk_kept (dropPageReq_kept hs)

theorem execUncorrectableError_kept {e s} (hs : MemoryKept s) : Keeps (execUncorrectableError e s) := by
  unfold execUncorrectableError
  refine Keeps.next ?_
  split
  · exact kept_of_eq hs rfl rfl
  · exact kept_ite (putSlice_kept hs) hs
  · exact kept_ite (putSlice_kept hs) hs
  · exact kept_ite (putAnvil_kept hs) hs
  · exact kept_ite (putAnvil_kept hs) hs
  · exact kept_ite (putAnvil_kept hs) hs

/-! Traps. -/

theorem execTrapInvocation_kept {core s} (hs : MemoryKept s) : Keeps (execTrapInvocation core s) :=
  Keeps.next (openInvocation_kept hs)

theorem execStreamDeadlock_kept {k s} (hs : MemoryKept s) : Keeps (execStreamDeadlock k s) :=
  Keeps.next (kept_ite (takeFault_kept hs) hs)

theorem raiseMismatch_kept {s t team acc} (hs : MemoryKept s) : MemoryKept (raiseMismatch s t team acc) :=
  kept_ite (foldl_kept (fun _ _ h1 => kept_ite h1 (takeFault_kept h1)) hs) hs

theorem execBarMismatch_kept {t s} (hs : MemoryKept s) : Keeps (execBarMismatch t s) := by
  unfold execBarMismatch
  refine Keeps.next ?_
  split
  · exact hs
  · exact raiseMismatch_kept (raiseMismatch_kept hs)

theorem holdSlice_kept {s k} (hs : MemoryKept s) : MemoryKept (holdSlice s k) := putSlice_kept (leaveUnit_kept hs)

theorem execWatchdog_kept {t s} (hs : MemoryKept s) : Keeps (execWatchdog t s) := by
  unfold execWatchdog
  refine Keeps.next ?_
  split
  · exact hs
  · refine kept_ite ?_ hs
    dsimp only
    refine submitRecord_kept ?_
    split
    · exact putTeam_kept (foldl_kept (fun _ _ => holdSlice_kept) hs)
    · exact foldl_kept (fun _ _ => holdSlice_kept) hs

/-! Placement. -/

theorem enterCtx_kept {s core ctx} (hs : MemoryKept s) : MemoryKept (enterCtx s core ctx) := by
  unfold enterCtx
  refine kept_ite hs ?_
  split
  · exact hs
  · exact putCore_kept (kept_ite hs (putAnvil_kept hs))

theorem startSlices_kept {s t team l} (hs : MemoryKept s) : MemoryKept (startSlices s t team l) :=
  foldl_kept (fun _ _ => putSlice_kept) hs

theorem placeOn_kept {s lid l q size rank core x} (hs : MemoryKept s) (hx : placeOn s lid l q size rank core = some x) :
    MemoryKept x.1 := by
  unfold placeOn at hx
  split at hx
  · cases hx
  · extract_lets t s1 team s2 s3 s4 at hx
    have h3 : MemoryKept s3 := spillOut_kept (putTeam_kept (enterCtx_kept hs))
    have h4 : MemoryKept s4 := startSlices_kept (kept_of_eq h3 rfl rfl)
    cases hx
    exact h4

theorem placeAll_kept {lid q size cluster n rank s l x} (hs : MemoryKept s)
    (hx : placeAll lid q size cluster n rank s l = some x) : MemoryKept x.1 := by
  induction n generalizing rank s l x with
  | zero =>
    cases hx
    exact hs
  | succ n ih =>
    unfold placeAll at hx
    dsimp only at hx
    split at hx
    · cases hx
    · next t _ _ hp =>
      obtain ⟨c, -, hc⟩ := List.exists_of_findSome?_eq_some hp
      have ht : MemoryKept t := placeOn_kept hs hc
      split at hx
      · cases hx
      · next u _ _ hr =>
        have hu : MemoryKept u := ih ht hr
        cases hx
        exact hu

theorem askImage_kept {s lid l va t} (hs : MemoryKept s) : MemoryKept (askImage s lid l va t) :=
  kept_ite hs (sendRemote_kept hs)

theorem wf_eraseRange {m : Memory} {lo n : Nat} (h : Memory.wf m = true) : Memory.wf (eraseRange m lo n) = true := by
  unfold Memory.wf eraseRange
  exact awf_filter _ h

theorem fillAllotment_kept {s t dir img} (hs : MemoryKept s) : MemoryKept (fillAllotment s t dir img) := by
  have hm (lo n off img) : Memory.wf (writeList (writeList (eraseRange s.mem lo n) lo dir) off img) = true :=
    wf_writeList _ _ (wf_writeList _ _ (wf_eraseRange hs.1))
  unfold fillAllotment
  split
  · exact hs
  · refine kept_ite hs ⟨?_, hs.2⟩
    apply hm

theorem placeQuire_kept {s lid l cluster size} (hs : MemoryKept s) : MemoryKept (placeQuire s lid l cluster size) := by
  unfold placeQuire
  split
  · exact seekPage_kept hs
  · exact hs
  · exact askImage_kept hs
  · extract_lets s1 q fresh
    have h1 : MemoryKept s1 := spendFor_kept hs
    have h2 : MemoryKept { s1 with serial := s1.serial + 1 } := kept_of_eq h1 rfl rfl
    split
    · exact h1
    · next t _ _ hx =>
      exact putLaunch_kept (putQuire_kept (foldl_kept (fun _ _ h => remapTeam_kept (fillAllotment_kept h))
        (placeAll_kept h2 hx)))

theorem failImage_kept {s lid} (hs : MemoryKept s) : MemoryKept (failImage s lid) := by
  unfold failImage
  split
  · exact hs
  · exact kept_ite hs (putLaunch_kept hs)

theorem execTeamPlacement_kept {lid s} (hs : MemoryKept s) : Keeps (execTeamPlacement lid s) := by
  unfold execTeamPlacement
  refine Keeps.next ?_
  split
  · exact hs
  · refine kept_ite ?_ hs
    split
    · exact placeQuire_kept hs
    · exact hs

theorem stopIfParked_kept {s t} (hs : MemoryKept s) : MemoryKept (stopIfParked s t) := by
  unfold stopIfParked
  split
  · exact hs
  · exact kept_ite (putTeam_kept hs) hs

theorem startEviction_kept {s ctx cluster} (hs : MemoryKept s) : MemoryKept (startEviction s ctx cluster) := by
  unfold startEviction
  refine foldl_kept (fun _ _ h1 => ?_) hs
  split
  · exact h1
  · exact kept_ite (foldl_kept (fun _ _ => stopIfParked_kept) (putQuire_kept h1)) h1

/-! The ladder. -/

theorem stopTeam_kept {s t} (hs : MemoryKept s) : MemoryKept (stopTeam s t) := by
  unfold stopTeam
  split
  · exact hs
  · exact kept_ite (putTeam_kept hs) hs

theorem execForcedEviction_kept {q s} (hs : MemoryKept s) : Keeps (execForcedEviction q s) := by
  unfold execForcedEviction
  refine Keeps.next ?_
  split
  · exact hs
  · split
    · exact kept_ite (foldl_kept (fun _ _ => stopTeam_kept) (putQuire_kept hs)) hs
    · exact hs

theorem execDrainBoundExpiry_kept {q s} (hs : MemoryKept s) : Keeps (execDrainBoundExpiry q s) := by
  unfold execDrainBoundExpiry
  refine Keeps.next ?_
  split
  · exact hs
  · split
    · exact kept_ite (putQuire_kept hs) hs
    · exact hs

theorem noteDrains_kept {s} (hs : MemoryKept s) : MemoryKept (noteDrains s) := by
  unfold noteDrains
  refine foldl_kept (fun _ _ h1 => ?_) hs
  split
  · exact kept_ite (putQuire_kept h1) h1
  · exact h1

theorem rekey_kept {s t t'} (hs : MemoryKept s) : MemoryKept (rekey s t t') := by
  unfold rekey
  split
  · exact hs
  · extract_lets s1 s2 c s3 s4
    have h1 : MemoryKept s1 := foldl_kept (fun _ _ h => reown_kept (putSlice_kept (putSlice_kept h))) hs
    have h3 : MemoryKept s3 := putCore_kept (putTeam_kept (putTeam_kept h1))
    have h4 : MemoryKept s4 := kept_of_eq h3 rfl rfl
    split
    · exact putQuire_kept h4
    · exact h4

theorem abandon_kept {s t} (hs : MemoryKept s) : MemoryKept (abandon s t) :=
  kept_ite (putCore_kept (closeInvocation_kept hs)) hs

theorem parkReqs_kept {s t} (hs : MemoryKept s) : MemoryKept (parkReqs s t) := kept_of_eq hs rfl rfl

theorem saveAt_kept {forced s t team place t'} (hs : MemoryKept s) : MemoryKept (saveTeam.saveAt forced s t team place t') := by
  unfold saveTeam.saveAt
  exact leaveCore_kept (rekey_kept (foldl_kept (fun _ _ => putSlice_kept)
    (putTeam_kept (parkReqs_kept (abandon_kept (clearDescs_kept (storeTo_kept hs)))))))

theorem saveTeam_kept {forced s t} (hs : MemoryKept s) : MemoryKept (saveTeam forced s t) := by
  unfold saveTeam
  split
  · exact hs
  · split
    · exact saveAt_kept hs
    · exact hs

theorem joinDeadline_kept {s q save ctrls} (hs : MemoryKept s) : MemoryKept (joinDeadline s q save ctrls) :=
  kept_ite hs (kept_of_eq hs rfl rfl)

theorem leaveDeadline_kept {s gone} (hs : MemoryKept s) : MemoryKept (leaveDeadline s gone) := kept_of_eq hs rfl rfl

theorem execQuireSave_kept {q s} (hs : MemoryKept s) : Keeps (execQuireSave q s) := by
  unfold execQuireSave
  refine Keeps.next ?_
  split
  · exact hs
  · refine kept_ite hs ?_
    split
    · exact seekPage_kept hs
    · refine kept_ite hs ?_
      refine kept_ite (joinDeadline_kept hs) ?_
      dsimp only
      split
      · exact putQuire_kept (foldl_kept (fun _ _ => saveTeam_kept) (leaveDeadline_kept hs))
      · exact foldl_kept (fun _ _ => saveTeam_kept) (leaveDeadline_kept hs)

theorem cancelLaunch_kept {s lid} (hs : MemoryKept s) : MemoryKept (cancelLaunch s lid) := by
  unfold cancelLaunch
  refine foldl_kept (fun _ _ h1 => ?_) hs
  dsimp only
  refine foldl_kept (fun _ _ h2 => foldl_kept (fun _ _ => dropQueued_kept) h2) ?_
  refine foldl_kept (fun _ _ h2 => ?_) h1
  split
  · exact h2
  · exact kept_ite (cancelRunning_kept (putProg_kept h2)) h2

theorem dropLaunchWork_kept {s lid} (hs : MemoryKept s) : MemoryKept (dropLaunchWork s lid) := kept_of_eq hs rfl rfl

theorem clearTiles_kept {s ctx} (hs : MemoryKept s) : MemoryKept (clearTiles s ctx) := kept_of_eq hs rfl rfl

theorem killTeam_kept {s t} (hs : MemoryKept s) : MemoryKept (killTeam s t) := by
  unfold killTeam
  split
  · exact hs
  · extract_lets s1 c s2 s3 s4
    have h2 : MemoryKept s2 := putCore_kept (kept_ite (closeInvocation_kept hs) hs)
    have h3 : MemoryKept s3 := kept_of_eq h2 rfl rfl
    exact leaveCore_kept (leaveQuire_kept (putTeam_kept (dropSlices_kept h3)))

theorem killLaunch_kept {s lid} (hs : MemoryKept s) : MemoryKept (killLaunch s lid) := by
  unfold killLaunch
  split
  · exact hs
  · exact putLaunch_kept (dropLaunchWork_kept (foldl_kept (fun _ _ => killTeam_kept) (clearTiles_kept (cancelLaunch_kept
      (leaveDeadline_kept hs)))))

theorem refuseHomes_kept {s} (hs : MemoryKept s) : MemoryKept (refuseHomes s) :=
  kept_ite hs (foldl_kept (fun _ _ h1 => kept_ite (killLaunch_kept h1) h1) hs)

theorem refuseImages_kept {s} (hs : MemoryKept s) : MemoryKept (refuseImages s) := by
  unfold refuseImages
  refine kept_ite hs ?_
  refine foldl_kept (fun _ _ h1 => ?_) hs
  split
  · exact kept_ite (failImage_kept h1) h1
  · exact h1

theorem killChecked_kept {s} (hs : MemoryKept s) : MemoryKept (killChecked s) :=
  foldl_kept (fun _ _ h1 => kept_ite (killLaunch_kept h1) h1) hs

theorem execKillAndReset_kept {lid s} (hs : MemoryKept s) : Keeps (execKillAndReset lid s) := by
  unfold execKillAndReset
  refine Keeps.next ?_
  split
  · exact hs
  · exact kept_ite (killLaunch_kept hs) hs

theorem unparkReqs_kept {s} (hs : MemoryKept s) : MemoryKept (unparkReqs s) := kept_of_eq hs rfl rfl

theorem resumeTeam_kept {s t x} (hs : MemoryKept s) (hx : resumeTeam s t = some x) : MemoryKept x := by
  unfold resumeTeam at hx
  split at hx
  · cases hx
    exact hs
  · split at hx
    · cases hx
    · extract_lets t' s1 pages now y team s2 s3 s4 s5 s6 at hx
      have h2 : MemoryKept s2 := putTeam_kept (pagesIn_kept (enterCtx_kept hs))
      have h3 : MemoryKept s3 := kept_of_eq h2 rfl rfl
      have h5 : MemoryKept s5 := foldl_kept (fun _ _ => putSlice_kept) (spillOut_kept (unparkReqs_kept (rekey_kept h3)))
      have h6 : MemoryKept s6 := kept_ite h5 (setLevel_kept h5)
      cases hx
      exact remapTeam_kept h6

theorem resumeAll_kept {ts s x} (hs : MemoryKept s) (hx : resumeAll ts s = some x) : MemoryKept x := by
  induction ts generalizing s with
  | nil =>
    cases hx
    exact hs
  | cons t ts ih =>
    unfold resumeAll at hx
    split at hx
    · cases hx
    · next ht => exact ih (resumeTeam_kept hs ht) hx

theorem withdrawDeadlines_kept {s} (hs : MemoryKept s) : MemoryKept (withdrawDeadlines s) := kept_ite hs (kept_of_eq hs rfl rfl)

theorem execQuireResume_kept {q s} (hs : MemoryKept s) : Keeps (execQuireResume q s) := by
  unfold execQuireResume
  refine Keeps.next ?_
  split
  · exact hs
  · refine kept_ite hs (kept_ite (killLaunch_kept hs) ?_)
    split
    · exact seekPage_kept hs
    · split
      · exact hs
      · next hx =>
        refine kept_ite (joinDeadline_kept hs) ?_
        extract_lets s1 s2
        have h1 : MemoryKept s1 := leaveDeadline_kept (resumeAll_kept hs hx)
        have h2 : MemoryKept s2 := by
          unfold s2
          split
          · exact putQuire_kept h1
          · exact h1
        split
        · exact putLaunch_kept h2
        · exact h2

theorem foldFor_kept {s cluster lid l below} (hs : MemoryKept s) : MemoryKept (foldFor s cluster lid l below) :=
  foldl_kept (fun _ _ h1 => kept_ite (foldCore_kept h1) h1) hs

theorem climb_kept {s cluster lid l} (hs : MemoryKept s) : MemoryKept (climb s cluster lid l) := by
  unfold climb
  dsimp only
  refine kept_ite ?_ (foldFor_kept hs)
  split
  · exact startEviction_kept (foldFor_kept hs)
  · exact foldFor_kept hs

theorem execFoldRequest_kept {core req s} (hs : MemoryKept s) : Keeps (execFoldRequest core req s) := by
  unfold execFoldRequest
  dsimp only
  refine Keeps.next (kept_ite hs ?_)
  split
  · exact hs
  · exact climb_kept (foldCore_kept hs)

theorem autoClimb_kept {cluster s} (hs : MemoryKept s) : Keeps (autoClimb cluster s) := by
  unfold autoClimb
  refine Keeps.next ?_
  split
  · exact hs
  · exact climb_kept hs

theorem execQuantumExpiry_kept {ctx cluster s} (hs : MemoryKept s) : Keeps (execQuantumExpiry ctx cluster s) := by
  unfold execQuantumExpiry
  refine Keeps.next ?_
  split
  · exact hs
  · dsimp only
    refine kept_ite hs ?_
    refine kept_ite ?_ ?_
    · exact startEviction_kept (putLaunch_kept (foldl_kept (fun _ _ => foldFor_kept) hs))
    · exact putLaunch_kept (foldl_kept (fun _ _ => foldFor_kept) hs)

end Sys2Proof.Proofs
end

section
/-! PROOFS. Memory stays in canonical form: the command complex, bring-up and requests of other modules. -/

namespace Sys2Proof.Proofs

open Sys2Proof.Machine Sys2Proof.Safety Sys2Proof.Laws

/-! Packets and their work. -/

theorem execDoorbellTail_kept {v ring val s} (hs : MemoryKept s) : Keeps (execDoorbellTail v ring val s) :=
  Keeps.next (kept_ite (kept_ite (ringError_kept (putRing_kept hs)) (putRing_kept hs)) hs)

theorem execPrqcons_kept {v val s} (hs : MemoryKept s) : Keeps (execPrqcons v val s) :=
  Keeps.next (kept_ite (putVdev_kept hs) hs)

theorem execEvcons_kept {val s} (hs : MemoryKept s) : Keeps (execEvcons val s) :=
  Keeps.next (kept_ite (kept_of_eq hs rfl rfl) hs)

theorem execAdminRingRecord_kept {rec s} (hs : MemoryKept s) : Keeps (execAdminRingRecord rec s) := Keeps.next (putRing_kept hs)

theorem execRingPacketRead_kept {v ring s} (hs : MemoryKept s) : Keeps (execRingPacketRead v ring s) :=
  Keeps.next (kept_ite (checkPkt_kept (post_kept (putRing_kept (kept_of_eq hs rfl rfl)))) hs)

theorem donePkt_kept {s p status} (hs : MemoryKept s) : MemoryKept (donePkt s p status) := putPkt_kept hs

theorem runPkt_kept {s id typ f} (hf : ∀ t p, MemoryKept t → MemoryKept (f t p)) (hs : MemoryKept s) :
    Keeps (runPkt s id typ f) := by
  unfold runPkt
  refine Keeps.next ?_
  split
  · exact kept_ite (hf _ _ hs) hs
  · exact hs

theorem execNopPacket_kept {id s} (hs : MemoryKept s) : Keeps (execNopPacket id s) :=
  runPkt_kept (fun _ _ => donePkt_kept) hs

theorem execInvalidPacket_kept {id s} (hs : MemoryKept s) : Keeps (execInvalidPacket id s) := by
  unfold execInvalidPacket
  refine Keeps.next ?_
  split
  · exact kept_ite hs (donePkt_kept hs)
  · exact hs

theorem ccSpend_kept {s p t} (hs : MemoryKept s) : MemoryKept (ccSpend s p t) := spendFor_kept hs

theorem ccSend_kept {s p dest tc m} (hs : MemoryKept s) : MemoryKept (ccSend s p dest tc m) := sendRequest_kept hs

theorem ccStore_kept {s p tc t bs} (hs : MemoryKept s) : MemoryKept (ccStore s p tc t bs).1 := by
  unfold ccStore
  split
  · exact ccSend_kept hs
  · dsimp only
    split
    · exact ccSend_kept (storeTo_kept (ccSpend_kept hs))
    · exact storeTo_kept (ccSpend_kept hs)

theorem ccPlace_kept {s p off align write} (hs : MemoryKept s) : PlaceKept (ccPlace s p off align write) := by
  unfold ccPlace
  split
  · exact failCap_kept hs
  · exact parkPkt_kept hs
  · dsimp only
    split
    · exact hs
    · split
      · trivial
      · exact hs

theorem execWaitPacket_kept {id s} (hs : MemoryKept s) : Keeps (execWaitPacket id s) :=
  runPkt_kept (fun _ _ => putPkt_kept) hs

theorem execWaitSatisfied_kept {id s} (hs : MemoryKept s) : Keeps (execWaitSatisfied id s) := by
  unfold execWaitSatisfied
  refine Keeps.next ?_
  split
  · exact hs
  · refine kept_ite ?_ hs
    split
    · next hx => exact PlaceKept.stop hx (ccPlace_kept hs)
    · exact kept_ite (kept_ite hs (ccSend_kept hs)) (kept_ite (donePkt_kept (ccSpend_kept hs)) hs)

theorem execWritePacket_kept {id s} (hs : MemoryKept s) : Keeps (execWritePacket id s) := by
  unfold execWritePacket
  refine runPkt_kept (fun _ _ h1 => ?_) hs
  split
  · next hx => exact PlaceKept.stop hx (ccPlace_kept h1)
  · exact kept_ite h1 (kept_ite (putPkt_kept (ccStore_kept h1)) (donePkt_kept (ccStore_kept h1)))

theorem execPageResponsePacket_kept {id s} (hs : MemoryKept s) : Keeps (execPageResponsePacket id s) :=
  runPkt_kept (fun _ _ h1 => answerRequest_kept (donePkt_kept h1)) hs

theorem execInvalidatePacket_kept {id s} (hs : MemoryKept s) : Keeps (execInvalidatePacket id s) :=
  runPkt_kept (fun _ _ h1 => putPkt_kept (kept_of_eq h1 rfl rfl)) hs

theorem execInvalidationComplete_kept {id s} (hs : MemoryKept s) : Keeps (execInvalidationComplete id s) := by
  unfold execInvalidationComplete
  refine Keeps.next ?_
  split
  · exact kept_ite hs (donePkt_kept (kept_of_eq hs rfl rfl))
  · exact hs

theorem runCfg_kept {s id kind f} (hf : ∀ t p v, MemoryKept t → MemoryKept (f t p v)) (hs : MemoryKept s) :
    Keeps (runCfg s id kind f) :=
  runPkt_kept (fun _ _ h1 => kept_ite (donePkt_kept h1) (kept_ite (hf _ _ _ h1) h1)) hs

theorem execContextRecordConfig_kept {id s} (hs : MemoryKept s) : Keeps (execContextRecordConfig id s) :=
  runCfg_kept (fun _ _ _ h1 => kept_ite (donePkt_kept h1) (donePkt_kept (putVdev_kept h1))) hs

theorem execVdevRecordConfig_kept {id s} (hs : MemoryKept s) : Keeps (execVdevRecordConfig id s) := by
  unfold execVdevRecordConfig
  refine runCfg_kept (fun _ _ _ h1 => ?_) hs
  extract_lets d s1
  have hs1 : MemoryKept s1 := putVdev_kept h1
  exact donePkt_kept (kept_of_eq hs1 rfl rfl)

theorem execRingRecordConfig_kept {id s} (hs : MemoryKept s) : Keeps (execRingRecordConfig id s) :=
  runCfg_kept (fun _ _ _ h1 => donePkt_kept (putRing_kept h1)) hs

theorem failFetches_kept {s ids} (hs : MemoryKept s) : MemoryKept (failFetches s ids) :=
  foldl_kept (fun _ _ h1 => kept_ite (doubleFault_kept h1) h1) hs

theorem resetVdev_kept {s v} (hs : MemoryKept s) : MemoryKept (resetVdev s v) := by
  unfold resetVdev
  extract_lets reqs s1 d s2 s3 s4
  have h2 : MemoryKept s2 := putVdev_kept (failFetches_kept hs)
  have h3 : MemoryKept s3 := kept_of_eq h2 rfl rfl
  have h4 : MemoryKept s4 := foldl_kept (fun _ _ => killLaunch_kept) h3
  exact foldl_kept (fun _ _ h => refusePage_kept (dropPageReq_kept h)) h4

theorem dropPartition_kept {s part} (hs : MemoryKept s) : MemoryKept (dropPartition s part) :=
  kept_ite hs (foldl_kept (fun _ _ h1 => kept_ite (killLaunch_kept h1) h1) hs)

theorem execPartitionRecordConfig_kept {id s} (hs : MemoryKept s) : Keeps (execPartitionRecordConfig id s) := by
  unfold execPartitionRecordConfig
  refine runCfg_kept (fun _ _ _ h1 => ?_) hs
  dsimp only
  refine kept_ite ?_ ?_
  · exact donePkt_kept h1
  · exact donePkt_kept (dropPartition_kept (foldl_kept (fun _ _ => resetVdev_kept) (kept_of_eq h1 rfl rfl)))

theorem execDestinationEntryConfig_kept {id s} (hs : MemoryKept s) : Keeps (execDestinationEntryConfig id s) :=
  runCfg_kept (fun _ _ _ h1 => kept_ite (donePkt_kept h1) (donePkt_kept (entryWritten_kept (putDest_kept h1)))) hs

theorem execFabricRecordConfig_kept {id s} (hs : MemoryKept s) : Keeps (execFabricRecordConfig id s) :=
  runCfg_kept (fun _ _ _ h1 => kept_ite (donePkt_kept h1) (donePkt_kept (kept_of_eq h1 rfl rfl))) hs

theorem clearCoal_kept {s v e} (hs : MemoryKept s) : MemoryKept (clearCoal s v e) := putVdev_kept hs

theorem sendMsi_kept {s v e} (hs : MemoryKept s) : MemoryKept (sendMsi s v e) :=
  kept_ite (putVdev_kept (clearCoal_kept hs)) (post_kept (clearCoal_kept hs))

theorem writeMsix_kept {s v e x} (hs : MemoryKept s) : MemoryKept (writeMsix s v e x) :=
  kept_ite (sendMsi_kept (putVdev_kept (putVdev_kept hs))) (putVdev_kept hs)

theorem execMsixEntriesConfig_kept {id s} (hs : MemoryKept s) : Keeps (execMsixEntriesConfig id s) :=
  runCfg_kept (fun _ _ _ h1 => donePkt_kept (foldl_kept (fun _ _ => writeMsix_kept) h1)) hs

theorem raiseIrq_kept {s v e} (hs : MemoryKept s) : MemoryKept (raiseIrq s v e) := kept_ite (sendMsi_kept hs) (putVdev_kept hs)

theorem execCoalescingTimeout_kept {v e s} (hs : MemoryKept s) : Keeps (execCoalescingTimeout v e s) :=
  Keeps.next (kept_ite (sendMsi_kept hs) hs)

theorem dropLaunch_kept {s p} (hs : MemoryKept s) : MemoryKept (dropLaunch s p) :=
  foldl_kept (fun _ _ h1 => kept_ite (putLaunch_kept h1) h1) hs

theorem endPkt_kept {s p} (hs : MemoryKept s) : MemoryKept (endPkt s p) := by
  unfold endPkt
  dsimp only
  refine kept_ite ?_ ?_
  · exact raiseIrq_kept (dropPkt_kept (dropLaunch_kept hs))
  · exact dropPkt_kept (dropLaunch_kept hs)

theorem execPacketCompletion_kept {id s} (hs : MemoryKept s) : Keeps (execPacketCompletion id s) := by
  unfold execPacketCompletion
  refine Keeps.next ?_
  split
  · exact hs
  · split
    · exact hs
    · refine kept_ite hs (kept_ite (dropPkt_kept (dropLaunch_kept hs)) ?_)
      split
      · exact dropPkt_kept (dropLaunch_kept hs)
      · exact kept_ite hs (parkPkt_kept hs)
      · split
        · next hx => exact PlaceKept.stop hx (ccPlace_kept hs)
        · exact kept_ite hs (kept_ite (putPkt_kept (ccStore_kept hs)) (endPkt_kept (ccStore_kept hs)))

theorem execLaunchPacket_kept {id s} (hs : MemoryKept s) : Keeps (execLaunchPacket id s) := by
  unfold execLaunchPacket
  refine runPkt_kept (fun _ _ h1 => ?_) hs
  split
  · next hx => exact PlaceKept.stop hx (ccPlace_kept h1)
  · refine kept_ite (kept_ite h1 (ccSend_kept h1)) ?_
    extract_lets h s1 old s2
    have hs1 : MemoryKept s1 := ccSpend_kept h1
    exact kept_ite (donePkt_kept hs1) (putPkt_kept (putLaunch_kept (kept_of_eq hs1 rfl rfl)))

theorem execTokenRefill_kept {s} (hs : MemoryKept s) : Keeps (execTokenRefill s) :=
  Keeps.next (kept_ite (kept_of_eq hs rfl rfl) hs)

/-! Starts and service. -/

theorem coldState_kept {plan s} (_ : MemoryKept s) : MemoryKept (coldState plan s) := ⟨rfl, rfl⟩

theorem warmState_kept {plan s} (hs : MemoryKept s) : MemoryKept (warmState plan s) := ⟨awf_filter _ hs.1, hs.2⟩

theorem execPowerLoss_kept {torn s} (_ : MemoryKept s) : Keeps (execPowerLoss torn s) := ⟨rfl, rfl⟩

theorem setReady_kept {s bit} (hs : MemoryKept s) : MemoryKept (setReady s bit) := kept_of_eq hs rfl rfl

theorem execUnitReady_kept {bit s} (hs : MemoryKept s) : Keeps (execUnitReady bit s) := by
  unfold execUnitReady
  refine Keeps.next (kept_ite ?_ hs)
  extract_lets again old s1
  have h1 : MemoryKept s1 := setReady_kept hs
  exact kept_ite (kept_ite (kept_of_eq h1 rfl rfl) h1) (kept_ite (pumpAll_kept h1) h1)

theorem execRetrain_kept {val s} (hs : MemoryKept s) : Keeps (execRetrain val s) := Keeps.next (kept_of_eq hs rfl rfl)

theorem execRetrainingStart_kept {stack s} (hs : MemoryKept s) : Keeps (execRetrainingStart stack s) :=
  Keeps.next (kept_ite (kept_of_eq hs rfl rfl) hs)

theorem execRetrainingEnd_kept {stack s} (hs : MemoryKept s) : Keeps (execRetrainingEnd stack s) :=
  Keeps.next (kept_ite (kept_of_eq hs rfl rfl) hs)

theorem execMarginResolve_kept {plan s} (hs : MemoryKept s) : Keeps (execMarginResolve plan s) :=
  Keeps.next (kept_ite (kept_of_eq hs rfl rfl) hs)

theorem writeReset_kept {s x} (hs : MemoryKept s) : MemoryKept (writeReset s x) :=
  kept_ite (coldState_kept hs) (kept_ite (warmState_kept hs) hs)

theorem nextOr_kept {s o} (hs : MemoryKept s) (ho : Keeps o) : MemoryKept (nextOr s o) := by
  unfold nextOr
  split
  · exact ho
  · exact hs

theorem windowWrite_kept {s off n val} (hs : MemoryKept s) : MemoryKept (windowWrite s off n val) := by
  unfold windowWrite
  refine kept_ite (writeReset_kept hs) ?_
  refine kept_ite (nextOr_kept hs (execRetrain_kept hs)) ?_
  refine kept_ite (nextOr_kept hs (execEvcons_kept hs)) ?_
  refine kept_ite ?_ ?_
  · exact nextOr_kept hs (execAdminRingRecord_kept hs)
  · exact kept_ite (nextOr_kept hs (execDoorbellTail_kept hs)) hs

theorem execRegisterWrite_kept {w s} (hs : MemoryKept s) : Keeps (execRegisterWrite w s) := by
  unfold execRegisterWrite
  refine Keeps.next ?_
  split
  · exact kept_of_eq hs rfl rfl
  · exact kept_of_eq hs rfl rfl
  · exact windowWrite_kept hs

/-! Flits, requests and answers. -/

theorem storeMasked_kept {s key loc mask bs} (hs : MemoryKept s) : MemoryKept (storeMasked s key loc mask bs) := by
  unfold storeMasked
  refine kept_ite hs ?_
  dsimp only
  refine kept_of_eq ?_ rfl rfl
  exact storeDesc_kept _ _ _ _ hs

theorem doorbellWrite_kept {s v off x} (hs : MemoryKept s) : MemoryKept (doorbellWrite s v off x) := by
  unfold doorbellWrite
  refine kept_ite ?_ ?_
  · exact nextOr_kept hs (execDoorbellTail_kept hs)
  · exact kept_ite (nextOr_kept hs (execPrqcons_kept hs)) hs

theorem windowWrites_kept {s off m} (hs : MemoryKept s) : MemoryKept (windowWrites s off m) := by
  unfold windowWrites
  refine kept_ite ?_ ?_
  · exact windowWrite_kept hs
  · exact kept_ite (windowWrite_kept hs) (foldl_kept (fun _ _ => windowWrite_kept) hs)

theorem respond_kept {s port snode tc m answer} (hs : MemoryKept s) : MemoryKept (respond s port snode tc m answer) :=
  kept_ite hs (sendOn_kept (kept_ite (putRx_kept hs) hs))

theorem serveMemory_kept {s m t} (hs : MemoryKept s) : MemoryKept (serveMemory s m t).st := by
  unfold serveMemory
  dsimp only
  split
  · split <;> exact hs
  · split
    · split
      · exact storeMasked_kept hs
      · exact storeTo_kept hs
    · split
      · exact hs
      · split
        · exact setDesc_kept _ _ hs
        · split
          · split
            · exact hs
            · exact storeTo_kept hs
          · split
            · split
              · exact hs
              · exact storeMasked_kept hs
            · exact hs

theorem serve_kept {s m p} (hs : MemoryKept s) : MemoryKept (serve s m p).st := by
  unfold serve
  split
  · exact serveMemory_kept hs
  · split
    · exact hs
    · split
      · exact foldl_kept (fun _ _ => doorbellWrite_kept) hs
      · exact hs
  · split
    · exact hs
    · split
      · exact windowWrites_kept hs
      · exact hs
  · exact hs

theorem takeRequest_kept {s port snode tc m} (hs : MemoryKept s) : MemoryKept (takeRequest s port snode tc m) :=
  kept_ite (respond_kept hs) (respond_kept (serve_kept hs))

theorem sendAck_kept {s port node tc} (hs : MemoryKept s) : MemoryKept (sendAck s port node tc) := putRx_kept hs

theorem serveHeld_kept {node tc n s} (hs : MemoryKept s) : MemoryKept (serveHeld node tc n s) := by
  induction n generalizing s with
  | zero => exact hs
  | succ n ih =>
    unfold serveHeld
    split
    · exact hs
    · exact kept_ite (ih (takeRequest_kept (putRx_kept hs))) hs

theorem serveAllHeld_kept {s} (hs : MemoryKept s) : MemoryKept (serveAllHeld s) :=
  foldl_kept (fun _ _ h1 => kept_ite h1 (serveHeld_kept h1)) hs

theorem takeFlit_kept {s port f} (hs : MemoryKept s) : MemoryKept (takeFlit s port f) := by
  unfold takeFlit
  dsimp only
  refine kept_ite ?_ ?_
  · refine serveHeld_kept (sendAck_kept (putRx_kept (kept_of_eq ?_ rfl rfl)))
    exact ackStream_kept hs
  · refine kept_ite ?_ ?_
    · exact sendAck_kept (ackStream_kept hs)
    · exact kept_ite (putRx_kept (ackStream_kept hs)) (ackStream_kept hs)

theorem answerFlight_kept {s id lane x} (hs : MemoryKept s) : MemoryKept (answerFlight s id lane x) := by
  unfold answerFlight
  split
  · exact hs
  · exact putFlight_kept hs

theorem answerDup_kept {s id lane y} (hs : MemoryKept s) : MemoryKept (answerDup s id lane y) := by
  unfold answerDup
  split
  · split
    · exact hs
    · exact putFlight_kept hs
  · exact hs

theorem answerWait_kept {s k x} (hs : MemoryKept s) : MemoryKept (answerWait s k x) := by
  unfold answerWait
  dsimp only
  split
  · refine kept_ite hs ?_
    split
    · exact failWatch_kept hs
    · exact kept_ite hs (yieldTeam_kept (putSlice_kept hs))
    · exact hs
  · exact hs

theorem answerScribe_kept {s n x tag va a} (hs : MemoryKept s) : MemoryKept (answerScribe s n x tag va a) := by
  unfold answerScribe
  split
  · exact hs
  · dsimp only
    split
    · exact kept_ite (settleProg_kept (putProg_kept hs)) (faultProg_kept (putProg_kept hs))
    · exact kept_ite (settleProg_kept (putProg_kept hs)) (putProg_kept hs)
    · exact settleProg_kept (putProg_kept hs)

theorem onBehalf_kept {s0 s launch} (hs : MemoryKept s) : MemoryKept (onBehalf s0 s launch) := kept_of_eq hs rfl rfl

theorem answerNibble_kept {s launch n x entry loc clear va pos v expect d y} (hs : MemoryKept s) :
    MemoryKept (answerNibble s launch n x entry loc clear va pos v expect d y) := by
  unfold answerNibble
  split
  · exact answerScribe_kept hs
  · exact answerScribe_kept hs
  · dsimp only
    refine kept_ite ?_ ?_
    · exact onBehalf_kept (askNibble_kept hs)
    · exact kept_ite (answerScribe_kept hs) (onBehalf_kept (sendRequest_kept hs))

theorem noteUsers_kept {s0 id s} (hs : MemoryKept s) : MemoryKept (noteUsers s0 id s) := kept_of_eq hs rfl rfl

theorem answerCode_kept {s u va a} (hs : MemoryKept s) : MemoryKept (answerCode s u va a) := by
  unfold answerCode
  dsimp only
  split
  · exact kept_of_eq hs rfl rfl
  · exact hs
  · refine kept_ite hs ?_
    split
    · exact kept_of_eq hs rfl rfl
    · exact consumeError_kept (kept_of_eq hs rfl rfl)
    · exact consumeError_kept (kept_of_eq hs rfl rfl)
    · exact doubleFault_kept (kept_of_eq hs rfl rfl)
    · split
      · exact kept_ite (kept_of_eq hs rfl rfl) (faultProg_kept (kept_of_eq hs rfl rfl))
      · exact kept_of_eq hs rfl rfl

theorem answerRecord_kept {s id a} (hs : MemoryKept s) : MemoryKept (answerRecord s id a) := by
  unfold answerRecord
  split
  · exact hs
  · split
    · exact recordEnd_kept hs
    · exact putRec_kept hs
    · exact kept_ite (recordEnd_kept hs) (putRec_kept hs)

theorem answerAnvil_kept {s n id tag va a} (hs : MemoryKept s) : MemoryKept (answerAnvil s n id tag va a) := by
  unfold answerAnvil
  split
  · exact hs
  · dsimp only
    refine kept_ite (settleFail_kept (putAnvil_kept hs)) ?_
    split
    · exact failReq_kept (putAnvil_kept hs)
    · exact putAnvil_kept hs
    · exact putAnvil_kept hs

theorem answerPacket_kept {s id a} (hs : MemoryKept s) : MemoryKept (answerPacket s id a) := by
  unfold answerPacket
  split
  · exact hs
  · refine kept_ite ?_ ?_
    · split
      · exact dropPkt_kept (dropLaunch_kept hs)
      · exact endPkt_kept hs
    · refine kept_ite ?_ ?_
      · split
        · exact donePkt_kept hs
        · exact hs
        · exact putPkt_kept hs
      · refine kept_ite hs ?_
        split
        · exact donePkt_kept hs
        · exact donePkt_kept hs
        · exact kept_ite (donePkt_kept hs) hs

theorem answerImage_kept {s lid block a} (hs : MemoryKept s) : MemoryKept (answerImage s lid block a) := by
  unfold answerImage
  split
  · exact hs
  · refine kept_ite hs ?_
    split
    · exact putLaunch_kept hs
    · exact hs
    · exact failImage_kept hs

theorem execRemoteResponse_kept {id x s} (hs : MemoryKept s) : Keeps (execRemoteResponse id x s) := by
  unfold execRemoteResponse
  refine Keeps.next ?_
  split
  · exact hs
  · split
    · exact hs
    · dsimp only
      split
      · exact answerFlight_kept (kept_ite (failStream_kept (kept_of_eq hs rfl rfl)) (kept_of_eq hs rfl rfl))
      · exact answerDup_kept (kept_ite (failStream_kept (kept_of_eq hs rfl rfl)) (kept_of_eq hs rfl rfl))
      · exact answerWait_kept (kept_ite (failStream_kept (kept_of_eq hs rfl rfl)) (kept_of_eq hs rfl rfl))
      · exact answerScribe_kept (kept_ite (failStream_kept (kept_of_eq hs rfl rfl)) (kept_of_eq hs rfl rfl))
      · exact answerAnvil_kept (kept_ite (failStream_kept (kept_of_eq hs rfl rfl)) (kept_of_eq hs rfl rfl))
      · exact answerPacket_kept (kept_ite (failStream_kept (kept_of_eq hs rfl rfl)) (kept_of_eq hs rfl rfl))
      · exact noteUsers_kept (answerNibble_kept (kept_ite (failStream_kept (kept_of_eq hs rfl rfl)) (kept_of_eq hs rfl rfl)))
      · exact answerImage_kept (kept_ite (failStream_kept (kept_of_eq hs rfl rfl)) (kept_of_eq hs rfl rfl))
      · exact answerRecord_kept (kept_ite (failStream_kept (kept_of_eq hs rfl rfl)) (kept_of_eq hs rfl rfl))
      · exact answerCode_kept (kept_ite (failStream_kept (kept_of_eq hs rfl rfl)) (kept_of_eq hs rfl rfl))
      · exact kept_ite (failStream_kept (kept_of_eq hs rfl rfl)) (kept_of_eq hs rfl rfl)

end Sys2Proof.Proofs
end

section
/-! PROOFS. Memory stays in canonical form: settling, the dispatch and one move. -/

namespace Sys2Proof.Proofs

open Sys2Proof.Machine Sys2Proof.Safety Sys2Proof.Laws

/-! Issues, and what follows a move. -/

theorem countWatchdogs_kept {s c dt taken} (hs : MemoryKept s) : MemoryKept (countWatchdogs s c dt taken) := by
  unfold countWatchdogs
  refine foldl_kept (fun _ _ h1 => ?_) hs
  split
  · exact h1
  · exact kept_ite (putTeam_kept h1) h1

theorem advance_kept {s m rest} (hs : MemoryKept s) : MemoryKept (advance s m rest) := by
  unfold advance
  dsimp only
  refine kept_of_eq ?_ rfl rfl
  exact restartStreams_kept hs

theorem missFetch_kept {s u page} (hs : MemoryKept s) : MemoryKept (missFetch s u page) := by
  unfold missFetch
  split
  · exact parkSlice_kept hs
  · exact seekPage_kept hs

theorem farFetch_kept {s u va t} (hs : MemoryKept s) : MemoryKept (farFetch s u va t) := askWord_kept hs

theorem unusedOperand_kept {r s} (hs : MemoryKept s) : Keeps (unusedOperand r s) := issueLane_kept hs

theorem scribeOutside_kept {s} (hs : MemoryKept s) : Keeps (scribeOutside s) := runScribe_kept (fun _ _ _ => faultProg_kept hs)

theorem chargePass_kept {s core ctx acc times} (hs : MemoryKept s) : MemoryKept (chargePass s core ctx acc times) := by
  unfold chargePass
  split
  · exact hs
  · exact putCore_kept hs

theorem joinPorts_kept {s} (hs : MemoryKept s) : MemoryKept (joinPorts s) :=
  foldl_kept (fun _ _ h1 => kept_ite (putCore_kept h1) h1) hs

theorem raceOlds_kept {s w} (hs : MemoryKept s) : MemoryKept (raceOlds s w) := kept_of_eq hs rfl rfl

theorem startMove_kept {s m rest} (hs : MemoryKept s) : MemoryKept (startMove s m rest) :=
  raceOlds_kept (joinPorts_kept (advance_kept hs))

theorem beginMove_kept {s m rest} (hs : MemoryKept s) : MemoryKept (beginMove s m rest) :=
  countWatchdogs_kept (startMove_kept hs)

theorem takePort_kept {before cost s y} (hs : MemoryKept s) : MemoryKept (takePort before cost s y) := by
  unfold takePort
  split
  · exact putCore_kept hs
  · exact putCore_kept hs
  · exact putCore_kept hs
  · exact hs

theorem countAccess_kept {before s k} (hs : MemoryKept s) : MemoryKept (countAccess before s k) :=
  kept_ite (countUnit_kept hs) hs

theorem chargeIssue_kept {before s y} (hs : MemoryKept s) : MemoryKept (chargeIssue before s y) := by
  unfold chargeIssue
  split
  · exact chargePass_kept hs
  · exact chargePass_kept hs
  · exact hs

theorem payFetch_kept {before s u} (hs : MemoryKept s) : MemoryKept (payFetch before s u) := by
  unfold payFetch
  split
  · exact spendFor_kept hs
  · exact hs

theorem endMove_kept {s} (hs : MemoryKept s) : MemoryKept (endMove s) := kept_of_eq hs rfl rfl

theorem onUnit_kept {f s u} (hf : ∀ t, MemoryKept t → Keeps (f t)) (hs : MemoryKept s) : Keeps (onUnit f s u) := by
  have ho := hf { s with issuer := u, tlb := unitParts s u ++ s.tlb } (kept_of_eq hs rfl rfl)
  unfold onUnit
  split
  · next hx => exact Keeps.next (kept_of_eq (Keeps.kept hx ho) rfl rfl)
  · exact ho

theorem keepParts_kept {before s u} (hs : MemoryKept s) : MemoryKept (keepParts before s u) := by
  unfold keepParts
  split
  · exact hs
  · dsimp only
    refine kept_ite (kept_ite hs (putSlice_kept hs)) ?_
    split
    · exact hs
    · exact putSlice_kept hs

theorem seekHeader_kept {s u p} (hs : MemoryKept s) : MemoryKept (seekHeader s u p) := by
  unfold seekHeader
  dsimp only
  refine kept_ite hs ?_
  split
  · exact farFetch_kept hs
  · exact hs

theorem seekCode_kept {s u} (hs : MemoryKept s) : MemoryKept (seekCode s u) := by
  unfold seekCode
  split
  · exact seekPage_kept hs
  · exact farFetch_kept hs
  · exact seekHeader_kept hs
  · exact hs

theorem probeUnit_kept {exec t js acc u s} (hs : MemoryKept s) : MemoryKept (probeUnit exec t js acc u s) :=
  foldl_kept (fun _ _ h1 => kept_ite h1 (putSlice_kept h1)) (seekCode_kept hs)

theorem probeTeam_kept {exec s t} (hs : MemoryKept s) : MemoryKept (probeTeam exec s t) := by
  unfold probeTeam
  split
  · exact hs
  · refine kept_ite ?_ ?_
    · exact hs
    · exact foldl_kept (fun _ _ h1 => kept_ite (probeUnit_kept h1) h1) (foldl_kept (fun _ _ h1 => kept_ite h1
        (probeUnit_kept h1)) hs)

theorem probeTrap_kept {exec s core} (hs : MemoryKept s) : MemoryKept (probeTrap exec s core) := by
  unfold probeTrap
  dsimp only
  refine kept_ite ?_ hs
  split
  · exact farFetch_kept hs
  · exact putSlice_kept hs
  · exact probeUnit_kept hs

theorem settleSlice_kept {before t s j} (hs : MemoryKept s) : MemoryKept (Machine.settleSlice before t s j) := by
  unfold Machine.settleSlice
  extract_lets k s1 sl
  have h1 : MemoryKept s1 := by
    unfold s1
    split
    · exact kept_ite hs (reachLevel_kept hs)
    · exact hs
  split
  · exact kept_ite h1 (putSlice_kept h1)
  · exact h1

theorem stampSlice_kept {before t s j} (hs : MemoryKept s) : MemoryKept (stampSlice before t s j) :=
  kept_ite (putSlice_kept hs) hs

theorem stampTeam_kept {before s t} (hs : MemoryKept s) : MemoryKept (stampTeam before s t) := by
  unfold stampTeam
  split
  · exact kept_ite hs (foldl_kept (fun _ _ => stampSlice_kept) hs)
  · exact hs

theorem spillRegs_kept {before t team s j} (hs : MemoryKept s) : MemoryKept (spillRegs before t team s j) :=
  foldl_kept (fun _ _ => spillAt_kept) (foldl_kept (fun _ _ => spillAt_kept) hs)

theorem spillTeam_kept {before s t} (hs : MemoryKept s) : MemoryKept (spillTeam before s t) := by
  unfold spillTeam
  split
  · exact kept_ite (foldl_kept (fun _ _ => spillRegs_kept) hs) hs
  · exact hs

theorem expandFreed_kept {before after} (hs : MemoryKept after) : MemoryKept (expandFreed before after) :=
  foldl_kept (fun _ _ h1 => kept_ite (expandCore_kept h1) h1) hs

theorem settleTeam_kept {before s t} (hs : MemoryKept s) : MemoryKept (settleTeam before s t) := by
  unfold settleTeam
  split
  · exact hs
  · exact kept_ite hs (foldl_kept (fun _ _ => settleSlice_kept) (fitMapped_kept hs))

theorem settleSpills_kept {before s} (hs : MemoryKept s) : MemoryKept (settleSpills before s) :=
  foldl_kept (fun _ _ => finishFold_kept) (flushSpills_kept (foldl_kept (fun _ _ h1 => kept_ite (spillTeam_kept h1) h1)
    (foldl_kept (fun _ _ => fitScratch_kept) hs)))

theorem keepOlds_kept {picks before s} (hs : MemoryKept s) : MemoryKept (keepOlds picks before s) := kept_of_eq hs rfl rfl

theorem remapRunning_kept {s t} (hs : MemoryKept s) : MemoryKept (remapRunning s t) := kept_ite (remapTeam_kept hs) hs

theorem failFetch_kept {s u} (hs : MemoryKept s) : MemoryKept (failFetch s u) := by
  unfold failFetch
  dsimp only
  split
  · next hx => exact Keeps.kept hx (onUnit_kept (fun _ => issueLane_kept) hs)
  · exact hs

theorem refuseTeam_kept {s t} (hs : MemoryKept s) : MemoryKept (refuseTeam s t) := by
  unfold refuseTeam
  split
  · exact hs
  · refine kept_ite ?_ ?_
    · exact hs
    · exact foldl_kept (fun _ _ h1 => kept_ite (failFetch_kept h1) h1) (foldl_kept (fun _ _ h1 => kept_ite
        (failFetch_kept h1) h1) hs)

theorem refuseProgs_kept {s} (hs : MemoryKept s) : MemoryKept (refuseProgs s) := by
  unfold refuseProgs
  refine foldl_kept (fun _ _ h1 => ?_) hs
  refine foldl_kept (fun _ _ h2 => ?_) h1
  split
  · exact h2
  · exact kept_ite (faultProg_kept h2) h2

theorem refuseTrap_kept {s core} (hs : MemoryKept s) : MemoryKept (refuseTrap s core) := kept_ite (failFetch_kept hs) hs

theorem refuseWaits_kept {s} (hs : MemoryKept s) : MemoryKept (refuseWaits s) := by
  unfold refuseWaits
  refine kept_ite hs ?_
  dsimp only
  refine kept_of_eq ?_ rfl rfl
  exact refuseProgs_kept (foldl_kept (fun _ _ => refuseTrap_kept) (foldl_kept (fun _ _ => refuseTeam_kept) (refuseImages_kept
    (refuseHomes_kept hs))))

theorem notePressing_kept {s} (hs : MemoryKept s) : MemoryKept (notePressing s) :=
  kept_ite (kept_of_eq hs rfl rfl) (kept_of_eq hs rfl rfl)

theorem dropGone_kept {s} (hs : MemoryKept s) : MemoryKept (dropGone s) := kept_ite (kept_of_eq hs rfl rfl) hs

theorem settleMove_kept {exec before s} (hs : MemoryKept s) : MemoryKept (settleMove exec before s) := by
  unfold settleMove
  extract_lets w s1 s2 s3 s4 s5 s6 s7 s8
  have hw : MemoryKept w := keepOlds_kept hs
  have h1 : MemoryKept s1 :=
    keepOlds_kept (unparkReqs_kept (stepRecords_kept (serveAllHeld_kept (dateRequests_kept (flushPosted_kept hw)))))
  have h2 : MemoryKept s2 := withdrawDeadlines_kept (expandFreed_kept (killChecked_kept (refuseWaits_kept h1)))
  have h3 : MemoryKept s3 := foldl_kept (fun _ _ h => refreshDue_kept (retryBars_kept h)) h2
  have h4 : MemoryKept s4 := foldl_kept (fun _ _ => settleTeam_kept) h3
  have h5 : MemoryKept s5 := seekHomes_kept (settleSpills_kept h4)
  have h6 : MemoryKept s6 := foldl_kept (fun _ _ => probeTeam_kept) h5
  have h7 : MemoryKept s7 := foldl_kept (fun _ _ => stampTeam_kept) h6
  have h8 : MemoryKept s8 := foldl_kept (fun _ _ => remapRunning_kept) h7
  exact endMove_kept (notePressing_kept (dropGone_kept (noteDrains_kept (foldl_kept (fun _ _ => probeTrap_kept) h8))))

theorem afterEvent_kept {exec before s} (hs : MemoryKept s) : MemoryKept (afterEvent exec before s) := settleMove_kept hs

theorem afterIssue_kept {exec before u cost s} (hs : MemoryKept s) : MemoryKept (afterIssue exec before u cost s) := by
  unfold afterIssue
  dsimp only
  refine settleMove_kept (kept_ite ?_ ?_)
  · refine keepParts_kept ?_
    split
    · exact countAccess_kept hs
    · exact hs
  · refine payFetch_kept (chargeIssue_kept (takePort_kept (keepParts_kept ?_)))
    split
    · exact countAccess_kept hs
    · exact hs

/-! Every instruction and event. -/

theorem exec_kept {i s} (hs : MemoryKept s) : Keeps (exec i s) := by
  unfold exec
  cases i with
  | iadd | isub | iminS | imaxS | imul | imulhS | imulhU | imad | iminU | imaxU | iabsdU | iavgU | band | bor | bxor |
    bandn | shl | shrU | shrS | shrrS | rotl | bfeU | bfeS | bfi | prmb | mulwU | mulwS | iadd64 | mov | bnot | ineg | iabs |
    popc | clz | ctz | brev | sext8 | sext16 | zext8 | zext16 | bswap | icmpEq | icmpNe | icmpLtS | icmpLeS | icmpLtU |
    icmpLeU | test | testz | sel | dot2Sat | dot2Wrap | add2Sat | sub2Sat | mul2Lo | max2S | min2S | pack2 | dot4SSat |
    dot4USat | add4USat | sub4USat | shfl | slidehDn | slidehUp | slidewDn | ballot | redadd | redminS | redmaxS | fadd |
    fsub | fmul | ffma | fmin | fmax | fminn | fmaxn | fcmpEq | fcmpLt | fcmpLe | fcmpUnord | dadd | dsub | dmul | dfma |
    badd2 | bmul2 | bfma2 | bmax2 | hadd2 | hmul2 | hfma2 | hmax2 | fdot2Bf | fdot2H | fdot4E4 | fdot4E5 | frcp | frsq |
    fsqrt | fexp2 | flog2 | fsinpi | fcospi | ftanh | fabs | fneg | ffloor | fceil | ftrunc | frint | fclass | dsqrt | drcp |
    f2iS | f2iU | i2fS | i2fU | f2d | d2f | f2bf | bf2f | f2h | h2f | f2e4 | f2e5 | e42f | e52f | f2e2 | e22f | i2dS | i2dU |
    packbf | packh | ins8E4 | ins4E2 | fscale | fsignc | isatS16 => exact runAlu_kept hs
  | movi | movhi | addi | muli | mfsr | ifP | elseP | endif | ld | ldBc | pref | st | stNt | aadd | aand | aor | axor |
    aminS | amaxS | aminU | amaxU | axchg | acas | afaddF32 | afaddBf2 | ldx | lddesc | stdesc | fence | xfence | braAny |
    braAll | call | jmp | ret | brx | arrive | waitcnt | region | trapOp | scpoll | hintImm | hintGuard | hintMod |
    hintSched | fetchRange | illegalOp => exact issueLane_kept hs
  | mtsr => exact execMtsr_kept hs
  | acpG2s | acpS2g | acpS2s => exact andThen_kept (issueLane_kept hs) (fun _ => arriveAtIssue_kept)
  | waitaddr => exact execWaitaddr_kept hs
  | merge => exact execMerge_kept hs
  | yield => exact execYield_kept hs
  | bar => exact execBar_kept hs
  | qbar => exact execQbar_kept hs
  | sleepuntil | sleepuntilBar => exact andThen_kept (issueLane_kept hs) (fun _ => afterSleep_kept)
  | exit => exact execExit_kept hs
  | mxloop | mxldb | mxst | mxldt => exact andThen_kept (issueLane_kept hs) (fun _ => enterReq_kept)
  | scstart => exact andThen_kept (issueLane_kept hs) (fun _ => enterProg_kept)
  | rflush => exact andThen_kept (issueLane_kept hs) (fun _ h1 => kept_ite (flushRecords_kept h1) h1)
  | sccancel => exact execSccancel_kept hs
  | eret => exact runPrivileged_kept (fun _ _ _ => resumeSlice_kept) hs
  | rdsl => exact runPrivileged_kept (fun _ _ _ h1 => h1) hs
  | wrsl => exact execWrsl_kept hs
  | foldctl => exact execFoldctl_kept hs
  | kmovi | kmovhi | kadd | ksub | kmul | kshl | kshr | kand | kor | kaddi | kcmp => exact runK_kept hs
  | kld => exact execKld_kept hs
  | kst => exact execKst_kept hs
  | kbr => exact runScribe_kept (fun _ _ _ => branchTo_kept hs)
  | kbrc => exact runScribe_kept (fun _ _ _ => kept_ite (branchTo_kept hs) (stepProg_kept hs))
  | kloop => exact runScribe_kept (fun _ _ _ => kept_ite (branchTo_kept hs) (kept_ite (faultProg_kept hs) (stepProg_kept hs)))
  | kendloop => exact runScribe_kept (fun _ _ _ => kept_ite (faultProg_kept hs) (kept_ite (stepProg_kept hs)
    (branchTo_kept hs)))
  | gset => exact execGset_kept hs
  | gstep => exact execGstep_kept hs
  | gaddr => exact execGaddr_kept hs
  | line | reduce => exact runScribe_kept (fun _ _ _ => beginData_kept hs)
  | gather | scatter => exact runScribe_kept (fun _ _ _ => beginRows_kept hs)
  | convert => exact execConvert_kept hs
  | scribeArrive => exact execScribeArrive_kept hs
  | waitb => exact runScribe_kept (fun _ _ _ => waitbRead_kept hs)
  | sfence => exact runScribe_kept (fun _ _ _ => kept_ite hs (stepProg_kept hs))
  | signal => exact execSignal_kept hs
  | scribeRegion => exact runScribe_kept (fun _ _ _ => kept_ite hs (kept_ite (faultProg_kept hs) (putProg_kept hs)))
  | scribeEnd => exact runScribe_kept (fun _ _ _ => putProg_kept hs)
  | scribeProgramEnd => exact execScribeProgramEnd_kept hs
  | scribeProgramStart => exact execScribeProgramStart_kept hs
  | lineOperation => exact execLineOperation_kept hs
  | scribeLong | scribeIllegal => exact runScribe_kept (fun _ _ _ => faultProg_kept hs)
  | waitbWake => exact execWaitbWake_kept hs
  | anvilGrant => exact execAnvilGrant_kept hs
  | anvilPassCommit => exact execAnvilPassCommit_kept hs
  | anvilRequestComplete => exact execAnvilRequestComplete_kept hs
  | loadFill => exact execLoadFill_kept hs
  | storePerformed => exact execStorePerformed_kept hs
  | acpComplete => exact execAcpComplete_kept hs
  | waitaddrWake => exact execWaitaddrWake_kept hs
  | sleepuntilWake => exact execSleepuntilWake_kept hs
  | trapInvocation => exact execTrapInvocation_kept hs
  | streamDeadlock => exact execStreamDeadlock_kept hs
  | barMismatch => exact execBarMismatch_kept hs
  | watchdog => exact execWatchdog_kept hs
  | pageWalk => exact execPageWalk_kept hs
  | pageRequest => exact execPageRequest_kept hs
  | pageRequestTimeout => exact execPageRequestTimeout_kept hs
  | registerRefill => exact execRegisterRefill_kept hs
  | scratchPageReturn => exact execScratchPageReturn_kept hs
  | registerSwapOut => exact execRegisterSwapOut_kept hs
  | registerSwapIn => exact execRegisterSwapIn_kept hs
  | registerAgeing => exact execRegisterAgeing_kept hs
  | unitRemap => exact execUnitRemap_kept hs
  | residencyExpansion => exact Keeps.next (expandCore_kept hs)
  | foldRequest => exact execFoldRequest_kept hs
  | teamPlacement => exact execTeamPlacement_kept hs
  | quantumExpiry => exact execQuantumExpiry_kept hs
  | forcedEviction => exact execForcedEviction_kept hs
  | quireSave => exact execQuireSave_kept hs
  | quireResume => exact execQuireResume_kept hs
  | killAndReset => exact execKillAndReset_kept hs
  | nopPacket => exact execNopPacket_kept hs
  | launchPacket => exact execLaunchPacket_kept hs
  | waitPacket => exact execWaitPacket_kept hs
  | waitSatisfied => exact execWaitSatisfied_kept hs
  | writePacket => exact execWritePacket_kept hs
  | contextRecordConfig => exact execContextRecordConfig_kept hs
  | vdevRecordConfig => exact execVdevRecordConfig_kept hs
  | ringRecordConfig => exact execRingRecordConfig_kept hs
  | partitionRecordConfig => exact execPartitionRecordConfig_kept hs
  | destinationEntryConfig => exact execDestinationEntryConfig_kept hs
  | fabricRecordConfig => exact execFabricRecordConfig_kept hs
  | msixEntriesConfig => exact execMsixEntriesConfig_kept hs
  | pageResponsePacket => exact execPageResponsePacket_kept hs
  | invalidatePacket => exact execInvalidatePacket_kept hs
  | invalidationComplete => exact execInvalidationComplete_kept hs
  | invalidPacket => exact execInvalidPacket_kept hs
  | ringPacketRead => exact execRingPacketRead_kept hs
  | packetCompletion => exact execPacketCompletion_kept hs
  | coalescingTimeout => exact execCoalescingTimeout_kept hs
  | doorbellTail => exact execDoorbellTail_kept hs
  | prqcons => exact execPrqcons_kept hs
  | evcons => exact execEvcons_kept hs
  | adminRingRecord => exact execAdminRingRecord_kept hs
  | registerWrite => exact execRegisterWrite_kept hs
  | tokenRefill => exact execTokenRefill_kept hs
  | flitReceive => exact Keeps.next (kept_ite hs (kept_ite (ackStream_kept hs) (kept_ite (takeFlit_kept hs) hs)))
  | ackReceive => exact Keeps.next (kept_ite (ackStream_kept hs) hs)
  | remoteResponse => exact execRemoteResponse_kept hs
  | linkDown => exact Keeps.next (kept_ite hs (pumpAll_kept (failRoutes_kept (kept_of_eq hs rfl rfl))))
  | ackTimeout => exact execAckTimeout_kept hs
  | routeWaitTimeout => exact execRouteWaitTimeout_kept hs
  | powerOn | coldStart => exact Keeps.next (coldState_kept hs)
  | warmStart => exact Keeps.next (warmState_kept hs)
  | unitReady => exact execUnitReady_kept hs
  | retrain => exact execRetrain_kept hs
  | retrainingStart => exact execRetrainingStart_kept hs
  | retrainingEnd => exact execRetrainingEnd_kept hs
  | marginResolve => exact execMarginResolve_kept hs
  | uncorrectableError => exact execUncorrectableError_kept hs
  | powerLoss => exact execPowerLoss_kept hs
  | linkUp => exact Keeps.next (kept_ite hs (pumpAll_kept (kept_of_eq hs rfl rfl)))
  | powerLimit => exact Keeps.next (kept_of_eq hs rfl rfl)
  | drainBoundExpiry => exact execDrainBoundExpiry_kept hs

/-! The events that may take place by themselves. -/

/-- A list of happenings that keep memory in canonical form. -/
def AllKeep (l : List Happening) : Prop := ∀ f ∈ l, ∀ s, MemoryKept s → Keeps (f s)

namespace AllKeep

theorem nil : AllKeep [] := nofun

theorem cons {f : Happening} {l : List Happening} (hf : ∀ s, MemoryKept s → Keeps (f s)) (h : AllKeep l) :
    AllKeep (f :: l) := by
  intro g hg
  rcases List.mem_cons.mp hg with rfl | hg
  · exact hf
  · exact h g hg

theorem single {f : Happening} (hf : ∀ s, MemoryKept s → Keeps (f s)) : AllKeep [f] := cons hf nil

theorem append {l m : List Happening} (hl : AllKeep l) (hm : AllKeep m) : AllKeep (l ++ m) := by
  intro g hg
  rcases List.mem_append.mp hg with hg | hg
  · exact hl g hg
  · exact hm g hg

theorem map {α} {l : List α} {f : α → Happening} (hf : ∀ a s, MemoryKept s → Keeps (f a s)) : AllKeep (l.map f) := by
  intro g hg
  obtain ⟨a, -, rfl⟩ := List.mem_map.mp hg
  exact hf a

theorem flatMap {α} {l : List α} {f : α → List Happening} (hf : ∀ a, AllKeep (f a)) : AllKeep (l.flatMap f) := by
  intro g hg
  obtain ⟨a, -, hg⟩ := List.mem_flatMap.mp hg
  exact hf a g hg

theorem filterMap {α} {l : List α} {f : α → Option Happening} (hf : ∀ a, AllKeep (f a).toList) : AllKeep (l.filterMap f) := by
  intro g hg
  obtain ⟨a, -, ha⟩ := List.mem_filterMap.mp hg
  exact hf a g (Option.mem_toList.mpr ha)

theorem ite {α} {c : Prop} [Decidable c] {a b : α} {g : α → List Happening} (ha : AllKeep (g a)) (hb : AllKeep (g b)) :
    AllKeep (g (if c then a else b)) := by
  split
  · exact ha
  · exact hb

theorem autoAccess {s : State} : AllKeep (autoAccess s) := by
  refine append (append (append ?_ ?_) ?_) ?_
  · exact filterMap fun r => ite (g := Option.toList) (single fun _ => execRemoteResponse_kept) nil
  · exact flatMap fun f => cons (fun _ => execLoadFill_kept) (cons (fun _ => execStorePerformed_kept)
      (single fun _ => execAcpComplete_kept))
  · refine filterMap fun x => ?_
    split
    · exact single fun _ => execWaitaddrWake_kept
    · exact single fun _ => execSleepuntilWake_kept
    · exact nil
  · exact flatMap fun x => cons (fun _ => execAckTimeout_kept) (single fun _ => execRouteWaitTimeout_kept)

theorem autoCores {s : State} : AllKeep (autoCores s) := by
  refine append (append (append ?_ ?_) ?_) ?_
  · exact filterMap fun c => ite (g := Option.toList) nil (single fun _ => execTrapInvocation_kept)
  · exact flatMap fun t => cons (fun _ => execWatchdog_kept) (single fun _ => execBarMismatch_kept)
  · exact flatMap fun x => append (append
      (cons (fun _ => execStreamDeadlock_kept) (cons (fun _ => execRegisterAgeing_kept)
        (cons (fun _ => execRegisterAgeing_kept) (single fun _ => execRegisterSwapIn_kept))))
      (map fun _ _ => execRegisterRefill_kept)) (map fun _ _ => execRegisterRefill_kept)
  · refine flatMap fun t => ?_
    split
    · exact ite (g := id) nil (map fun _ _ => execScratchPageReturn_kept)
    · exact nil

theorem autoUnits {s : State} : AllKeep (autoUnits s) := by
  refine append (append (append ?_ ?_) ?_) ?_
  · exact map fun _ _ => execPageWalk_kept
  · exact flatMap fun r => cons (fun _ => execPageRequest_kept) (single fun _ => execPageRequestTimeout_kept)
  · exact flatMap fun v => append (flatMap fun r => cons (fun _ => execAnvilPassCommit_kept)
      (single fun _ => execAnvilRequestComplete_kept)) (single fun _ => execAnvilGrant_kept)
  · exact flatMap fun b => append (flatMap fun x => cons (fun _ => execLineOperation_kept) (cons (fun _ => execWaitbWake_kept)
      (single fun _ => execScribeProgramEnd_kept))) (single fun _ => execScribeProgramStart_kept)

theorem autoPacket {id : Nat} : AllKeep (autoPacket id) :=
  cons (fun _ => execNopPacket_kept) <| cons (fun _ => execLaunchPacket_kept) <| cons (fun _ => execWaitPacket_kept) <|
  cons (fun _ => execWaitSatisfied_kept) <| cons (fun _ => execWritePacket_kept) <|
  cons (fun _ => execContextRecordConfig_kept) <| cons (fun _ => execVdevRecordConfig_kept) <|
  cons (fun _ => execRingRecordConfig_kept) <| cons (fun _ => execPartitionRecordConfig_kept) <|
  cons (fun _ => execDestinationEntryConfig_kept) <| cons (fun _ => execFabricRecordConfig_kept) <|
  cons (fun _ => execMsixEntriesConfig_kept) <| cons (fun _ => execPageResponsePacket_kept) <|
  cons (fun _ => execInvalidatePacket_kept) <| cons (fun _ => execInvalidationComplete_kept) <|
  cons (fun _ => execInvalidPacket_kept) <| single fun _ => execPacketCompletion_kept

theorem autoComplex {s : State} : AllKeep (autoComplex s) := by
  refine append (append (append (append (append (append ?_ ?_) ?_) ?_) ?_) ?_) (single fun _ => execTokenRefill_kept)
  · exact flatMap fun _ => autoPacket
  · exact flatMap fun v => append (map fun _ _ => execRingPacketRead_kept) (map fun _ _ => execCoalescingTimeout_kept)
  · exact flatMap fun q => cons (fun _ => execForcedEviction_kept) (cons (fun _ => execDrainBoundExpiry_kept)
      (cons (fun _ => execQuireSave_kept) (single fun _ => execQuireResume_kept)))
  · exact flatMap fun l => cons (fun _ => execKillAndReset_kept) (single fun _ => execTeamPlacement_kept)
  · refine flatMap fun l => ?_
    split
    · exact map fun _ _ => execQuantumExpiry_kept
    · exact nil
  · exact map fun _ _ => autoClimb_kept

theorem autoBoot {s : State} : AllKeep (autoBoot s) :=
  append (append (append
    (filterMap fun _ => ite (g := Option.toList) (single fun _ => execRetrainingStart_kept) nil)
    (filterMap fun _ => ite (g := Option.toList) (single fun _ => execRetrainingEnd_kept) nil))
    (single fun _ => execMarginResolve_kept))
    (filterMap fun _ => ite (g := Option.toList) nil (single fun _ => execUnitReady_kept))

theorem autoEvents {s : State} : AllKeep (autoEvents s) :=
  append (append (append (append autoAccess autoCores) autoUnits) autoComplex) autoBoot

theorem autoRemaps {s : State} : AllKeep (autoRemaps s) := map fun _ _ => execUnitRemap_kept

end AllKeep

/-! What moves by itself. -/

theorem firstEvent_kept {s t : State} {l : List Happening} (hl : AllKeep l) (hs : MemoryKept s)
    (h : firstEvent s l = some t) : MemoryKept t := by
  induction l with
  | nil => cases h
  | cons f l ih =>
    have hrest : AllKeep l := fun g hg => hl g (List.mem_cons_of_mem _ hg)
    unfold firstEvent at h
    split at h
    · next hf =>
      split at h
      · exact ih hrest h
      · exact Option.some.inj h ▸ Keeps.kept hf (hl f List.mem_cons_self s hs)
    · exact ih hrest h

/-! One move. -/

/-! Issues, and what follows a move. -/

theorem mapNext_kept {f : State → State} {o : Host.Outcome State Fault Refusal} (hf : ∀ s, MemoryKept s → MemoryKept (f s))
    (ho : Keeps o) : Keeps (mapNext f o) := by
  cases o with
  | next s => exact hf s ho
  | fault r => trivial
  | refused r => trivial

/-! What moves by itself. -/

theorem runIssue_kept {s : State} {u : Issuer} (hs : MemoryKept s) : Keeps (runIssue exec s u) := by
  unfold runIssue
  refine keeps_ite Keeps.fault (keeps_ite (endMove_kept hs) ?_)
  split
  · exact mapNext_kept (fun _ => afterIssue_kept) (onUnit_kept (fun _ => exec_kept) hs)
  · exact mapNext_kept (fun _ => afterIssue_kept) (onUnit_kept (fun _ => unusedOperand_kept) hs)
  · exact mapNext_kept (fun _ => afterIssue_kept) (onUnit_kept (fun _ => scribeOutside_kept) hs)
  · exact endMove_kept (missFetch_kept hs)
  · exact endMove_kept (farFetch_kept hs)
  · exact endMove_kept hs

theorem runTurn_kept {s : State} {t : Turn} (hs : MemoryKept s) : Keeps (runTurn exec s t) := by
  cases t with
  | event i => exact mapNext_kept (fun _ => afterEvent_kept) (exec_kept hs)
  | issue u => exact runIssue_kept hs

theorem runAuto_kept {s : State} (hs : MemoryKept s) : Keeps (runAuto exec s) := by
  unfold runAuto
  extract_lets s0 u issue s1
  have h0 : MemoryKept s0 := startMove_kept hs
  have h1 : MemoryKept s1 := countWatchdogs_kept h0
  have hissue : Keeps (issue ()) := runIssue_kept (countWatchdogs_kept h0)
  refine keeps_ite hissue ?_
  split
  · next ht => exact afterEvent_kept (firstEvent_kept AllKeep.autoEvents h1 ht)
  · split
    · next ht => exact afterEvent_kept (firstEvent_kept AllKeep.autoRemaps h1 ht)
    · exact hissue

theorem runMove_kept {s : State} (hs : MemoryKept s) : Keeps (runMove exec s) := by
  unfold runMove
  split
  · exact keeps_ite (runTurn_kept (beginMove_kept hs)) (Keeps.next (kept_of_eq hs rfl rfl))
  · exact keeps_ite (runAuto_kept hs) hs

/-- Settles O6: memory in canonical form is kept by every function of the state that a move is made of. -/
theorem stepKeepsMemory : Obligations.StepKeepsMemory := fun _ _ hs h => Keeps.kept h (runMove_kept hs)

end Sys2Proof.Proofs
end
